-- ==== Sys2Proof/Word.lean ====
section
/-!
DEFINITION. The words of the device and the finite map in which sparse state is held. Memory bytes, registers and fields
are bit vectors because the manual treats them as bits (R10); indices, counts and addresses used as keys are natural numbers.
-/
namespace Sys2Proof

/-- A byte of memory (R10). -/
abbrev Byte := BitVec 8
/-- A 32-bit register word, or an FP32 or INT32 code. -/
abbrev Word := BitVec 32
/-- A 64-bit word. -/
abbrev Dword := BitVec 64
/-- A sparse table: pairs of a key and a value, keys strictly rising. A key that is not listed stands for a value that the
reader of the table names. -/
abbrev NMap (α : Type) := List (Nat × α)

end Sys2Proof
end

