-- ==== Sys2Proof/Syntax.lean ====
section
/-!
DEFINITION. The commands: one constructor for each row of spec/opcode_table.json, with the operands that name the part of
the device concerned and what the outside world supplies (a written value, a received flit, a sensor reading, the outcome of
a link training or of an ECC check). A core is named by its virtual core number (R25), a region by R429, a fabric port 0 to
11, an HBM controller 0 to 11, a CXL port 0 or 1, a context or an HDMA channel 0 to 3.
-/
namespace Sys2Proof

/-- The engine that issues a transfer: a core's stream engine (R194) or an HDMA channel (R451). -/
inductive Engine where
  | core (v : Nat)
  | hdma (c : Nat)
deriving DecidableEq, Repr

/-- What an ECC check of a read found (R299 to R301): nothing, a single-bit error, or an uncorrectable error. -/
inductive Ecc where
  | clean
  | single
  | uncorrectable
deriving DecidableEq, Repr

/-- The SPDM transport on which a request arrives, each with its own connection state (R491). -/
inductive SpdmPort where
  | pcie
  | smbus
deriving DecidableEq, Repr

/-- An instruction loaded through JTAG (R498). -/
inductive JtagInstr where
  | bypass
  | idcode
  | trace
  | extest
  | sample
  | clamp
  | highz
  | debug
  | prefect
deriving DecidableEq, Repr

/-- Whose read met a poisoned response (R309): another access of a core, a transfer in flight, a request of another device, given by
its header, or none of these. -/
inductive Reader where
  | core (v : Nat)
  | xfer (e : Engine) (slot : Nat)
  | request (hdr : BitVec 256)
  | none
deriving DecidableEq, Repr

/-- How the host ends an access of the device to its memory (R446, R450): with success, with Unsupported Request or Completer Abort, not
within the completion timeout, or with a poisoned completion. -/
inductive HostReply where
  | ok
  | refused
  | timeout
  | poisoned
deriving DecidableEq, Repr

/-- The kinds of clock crossing and their latencies L in receiving beats (the table after R425). -/
inductive CrossKind where
  | meshHop
  | meshBridge
  | memLane
  | hbmEdge
  | xdie
  | ringCore
  | ringDie
  | ringBridge
deriving DecidableEq, Repr

/-- What calibration measures of a crossing (R424): the regions on its two sides (236 for an X-die, which has no pacer), its kind, and
the forward and round-trip delays in ps. -/
structure Crossing where
  a : Nat
  b : Nat
  kind : CrossKind
  fwd : Nat
  trip : Nat
deriving DecidableEq, Repr

/-- How a codeword came through the FEC of R329: intact, corrected, or beyond correction. -/
inductive Fec where
  | clean
  | corrected
  | lost
deriving DecidableEq, Repr

/-- A codeword message as received (R334). -/
structure Codeword where
  fec : Fec := .clean
  word : BitVec 5140
deriving DecidableEq, Repr

/-- The rate at which a CXL link trained, or that it did not (R307 step 1). -/
inductive CxlRate where
  | down
  | gt64
  | gt32
deriving DecidableEq, Repr

/-- The commands of the device, in the order of spec/opcode_table.json. An operand with a default has it in the plain case: the host
answers, no error is reported, the far end is in the channel mode of the port. -/
inductive Instr where
  -- the Proctor
  | prcStart (v : Nat)
  | haltReq (v : Nat)
  | stopped (v : Nat)
  | resume (v : Nat)
  | clrStall (v : Nat)
  | fetchBlock (v : Nat) (ecc : Ecc)
  | halt (v : Nat)
  | halted (v : Nat)
  | loop (v : Nat)
  | endloop (v : Nat)
  | seta (v : Nat)
  | adda (v : Nat)
  | setl (v : Nat)
  | cmp (v : Nat)
  | tag (v : Nat)
  | taskDrain (v : Nat)
  | bellRing (v : Nat)
  | bellWait (v : Nat)
  | strmGo (v : Nat)
  | strmWait (v : Nat)
  | strmFence (v : Nat)
  -- the arrays
  | mmaF (v : Nat)
  | mmaT (v : Nat)
  | mmaO (v : Nat)
  | wload (v : Nat)
  | wswap (v : Nat)
  | gbDrain (v : Nat)
  | gbClear (v : Nat)
  -- the vector engines
  | vop (v : Nat)
  | vred (v : Nat)
  | vnorm (v : Nat)
  | vnormB (v : Nat)
  | vsmax (v : Nat)
  | vsmaxB (v : Nat)
  | vcast (v : Nat)
  | vupd (v : Nat)
  | vcountNf (v : Nat)
  | taskPost (v : Nat)
  -- what follows from issue
  | faulted (v : Nat)
  | brk (v : Nat)
  | commandComplete (v : Nat) (id : Nat)
  | ringHeader (ring : Nat) (member : Nat)
  -- the stream engine
  | listReadComplete (v : Nat)
  | copy (e : Engine) (list : Nat)
  | fill (e : Engine) (list : Nat)
  | reduceAdd (e : Engine) (list : Nat)
  | reduceMin (e : Engine) (list : Nat)
  | reduceMax (e : Engine) (list : Nat)
  | topk (e : Engine) (list : Nat)
  | sign (e : Engine) (list : Nat)
  | expandTopk (e : Engine) (list : Nat)
  | expandSign (e : Engine) (list : Nat)
  | bellTransfer (v : Nat) (list : Nat)
  | transferComplete (e : Engine) (slot : Nat)
  -- Bells
  | bellArrivalSent (v : Nat) (bell : Nat)
  | bellArrival (port : Nat) (flit : BitVec 256)
  | bellRelease (port : Nat) (flit : BitVec 256)
  | bellGenerationComplete (bell : Nat)
  | taskTake (v : Nat) (engine : Nat)
  -- the Timetable
  | ttLoad
  | timetableActive
  -- HBM and board memory
  | hbmAccess (core : Option Nat) (addr : Nat) (len : Nat) (wr : Option (List Byte)) (ecc : Ecc)
  | refresh (ctl : Nat)
  | temperatureReport (ctl : Nat) (celsius : BitVec 8)
  | scrub (ctl : Nat) (found : Option (Nat × Ecc))
  | hbmTraining (ctl : Nat) (ok : Bool)
  | cxlEnumerate (port : Nat) (rate : CxlRate) (lanes : Nat) (memCapable : Bool) (hdmCount : Nat)
  | memoryActive (port : Nat) (capacity : Nat)
  | memoryActiveTimeout (port : Nat)
  | poisonedResponse (by_ : Reader) (addr : Nat)
  | eventRecordPoll (port : Nat) (records : List (List Byte))
  | linkRetry (port : Nat)
  | cxlLinkDown (port : Nat)
  | tierAccess (core : Option Nat) (addr : Nat) (len : Nat) (wr : Option (List Byte)) (plc : BitVec 3) (ecc : Ecc)
  | pageFill (port : Nat) (page : Nat)
  | writeBack (port : Nat) (page : Nat) (ecc : Ecc)
  | flush (port : Nat)
  | flushDone (port : Nat)
  | logswap (port : Nat)
  | logswapDone (port : Nat)
  -- the fabric
  | portTraining (port : Nat) (full : Bool) (lanes : BitVec 4) (rev : Bool) (far : BitVec 2 := 2)
      (call : Bool := false)
  | fullRateFallback (port : Nat) (far : BitVec 2 := 2)
  | linkFlit (port : Nat) (flit : BitVec 256)
  | retrainDone (port : Nat) (ok : Bool)
  | ackDue (port : Nat)
  | hello (port : Nat) (flit : BitVec 256)
  | heartbeat (port : Nat) (flit : BitVec 256)
  | heartbeatSend
  | heartbeatMiss (port : Nat)
  | rcgo
  | rcAssign (port : Nat) (flit : BitVec 256)
  | rcReport (port : Nat) (flit : BitVec 256)
  | rcReportTimeout (dev : Nat)
  | rcRefuse (port : Nat) (flit : BitVec 256)
  | rcTopo (port : Nat) (flit : BitVec 256)
  | rcDone (port : Nat) (flit : BitVec 256)
  | linkDown (port : Nat) (flit : BitVec 256)
  | absent (port : Nat) (flit : BitVec 256)
  | resetReq (port : Nat) (flit : BitVec 256)
  | fabWrite (port : Nat) (start : Option (BitVec 10)) (words : List Codeword)
  | fabReadRequest (port : Nat) (start : Option (BitVec 10)) (words : List Codeword)
  | fabReadResponse (port : Nat) (start : Option (BitVec 10)) (words : List Codeword)
  | fabStatusResponse (port : Nat) (start : Option (BitVec 10)) (words : List Codeword)
  | fabReduceAdd (port : Nat) (start : Option (BitVec 10)) (words : List Codeword)
  | fabReduceMin (port : Nat) (start : Option (BitVec 10)) (words : List Codeword)
  | fabReduceMax (port : Nat) (start : Option (BitVec 10)) (words : List Codeword)
  | fabTopkRecords (port : Nat) (start : Option (BitVec 10)) (words : List Codeword)
  | fabSignRecords (port : Nat) (start : Option (BitVec 10)) (words : List Codeword)
  | fabTimeout (v : Nat) (slot : Nat)
  | agree
  -- the Copybook
  | checkpointDue
  | cadenceRecompute
  | now
  | roundStart (ready : Bool := true)
  | drainComplete (ok : Bool)
  | commit
  | abort
  | arm (on : Bool)
  | copySeqWrite (hi : Bool) (value : Word)
  -- Detention
  | dcore (value : Word)
  | ddev
  | workStopTimeout
  -- clocks and pacing
  | slowClockEdge
  | pacerStableTimeout (region : Nat)
  | paceEpoch
  | railsSettled
  | railSettleTimeout
  | marginStretch (region : Nat) (level : BitVec 2)
  | criticalLevel (region : Nat)
  | powerWindow (watts : Nat)
  | powerStretch (watts : Nat)
  | clrcnt
  -- the host interface
  | doorbell (k off : Nat) (len : Nat := 4) (wr : Option (List Byte) := none)
  | descriptorTake (k : Nat) (reply : HostReply := .ok)
  | jobEnd (k : Nat) (reply : HostReply := .ok)
  | stop (k : Nat) (reply : HostReply := .ok)
  | stopTimeout (k : Nat)
  | en (k : Nat) (value : Word) (reply : HostReply := .ok)
  | coresWrite (k : Nat) (n : Nat) (value : Word)
  | flr (reply : HostReply := .ok)
  | windowAccess (off : Nat) (len : Nat) (wr : Option (List Byte)) (poisoned : Bool := false)
  | hdmaGo (c : Nat) (value : Word)
  | d3hot (enter : Bool)
  | msixUnmask (vec : Nat)
  | perst (asserted : Bool)
  -- boot and security
  | deliver
  | bundleBlock (data : List Byte)
  | hostReadError
  | activation (fails : List Nat) (wrong : List (Nat × Nat × Byte) := [])
  | offer (port : Nat) (flit : BitVec 256)
  | offerRepeat
  | pull (port : Nat) (flit : BitVec 256)
  | data (port : Nat) (flit : BitVec 256)
  | done (port : Nat) (flit : BitVec 256)
  | chainTimeout
  | status
  | selftest (pass : Bool)
  | entropyTestFail
  | nonce
  | enrol
  | revoke
  | unlock
  | zeroise
  | prefectReservedCommand
  | getVersion (t : SpdmPort) (req : List Byte)
  | getCapabilities (t : SpdmPort) (req : List Byte)
  | negotiateAlgorithms (t : SpdmPort) (req : List Byte)
  | getDigests (t : SpdmPort) (req : List Byte)
  | getCertificate (t : SpdmPort) (req : List Byte)
  | challenge (t : SpdmPort) (req : List Byte)
  | getMeasurements (t : SpdmPort) (req : List Byte)
  | spdmUnsupportedRequest (t : SpdmPort) (req : List Byte)
  -- power and reset
  | powerOn
  | vauxLoss (vbakOk : Bool)
  | vinGood
  | powerFail (mv : BitVec 16)
  | powerFailClear
  | vinLoss
  | vinOvervoltage (mv : BitVec 32)
  | overvoltageClear
  | railFault
  | thermalTrip (celsius : BitVec 8)
  | thermalHoldEnd
  | thermalWarning (sensor : BitVec 8) (celsius : BitVec 8)
  | watchdogExpiry
  | resetIn (asserted : Bool)
  | swrst (value : Word)
  | rstClrcnt
  | releaseStep (strapMv : List Nat) (testsPass : Bool) (crossings : List Crossing := [])
  | trimLoadDone (fromFlash : Bool)
  | blockResetGo (value : Word)
  | blockIdle
  | blockResetTimeout
  | holdup (mw : Nat) (v1mv : Nat)
  | sagEnd (v2mv : Nat) (ns : Nat)
  | settingsWrite (vinMv : BitVec 16 := 48000)
  | holdupRecheck (vinMv : BitVec 16 := 48000)
  | flashWriteTimeout
  | powerState
  | info
  | logRead
  | topoRead
  | paceReq
  | settingsRead
  | watchdog
  | registrarReservedCommand
  | registerWrite (off : Nat) (size : Nat) (value : Option Dword)
  | syncTimeout (write : Bool)
  | beat (region : Nat)
  | reservedFlitType (port : Nat) (flit : BitVec 256)
  | slotReuse (v : Nat) (slot : Nat)
  | hostCompletionTimeout (e : Engine) (slot : Nat) (reply : HostReply := .timeout)
  | holdupMeasurementExpiry
  | sagVinLow
  | fabricRefclkStop (south : Bool)
  | jtagInstruction (instr : JtagInstr)
deriving DecidableEq, Repr

end Sys2Proof
end

