-- ==== Sys2Proof/Machine/State.lean ====
section
/-!
DEFINITION. The state of one TH4 module as plain data, with its reset value. Every structure cites the rules that give its
fields. Registers are bit vectors of the manual's widths; counts that the manual leaves unbounded and identities that are the
model's own bookkeeping are natural numbers. A field marked MODEL is the model's own and no register of the manual.
-/
namespace Sys2Proof.Machine

/-- The number formats of R51. -/
inductive Fmt where
  | fp32 | bf16 | fp16 | e4m3 | e5m2 | e3m2 | e2m3 | e2m1 | int8 | int4 | int32 | e8m0
deriving DecidableEq, Repr

/-- The array modes of R97 to R99. -/
inductive MmaMode where
  | f | t | o
deriving DecidableEq, Repr

/-! ### The core: arrays (R93 to R96) -/

/-- One weight element with the scale code of its block (R94). -/
structure WElem where
  code : BitVec 16 := 0
  scale : Byte := 0x7F
deriving DecidableEq, Repr

/-- The shape of a pending outer-product tile (R122, R123): the extents, the split and the pack factor of its MMA.O. -/
structure PendTile where
  k : Nat
  n : Nat
  split : BitVec 2
  pack : Nat
deriving DecidableEq, Repr

/-- A declared region (R175): 64-byte granules `lo` to `hi` of the core's window, and whether it is read and written. -/
structure Region where
  lo : Nat
  hi : Nat
  rd : Bool
  wr : Bool
deriving DecidableEq, Repr

/-- A FUSE command that has issued and is not yet paired (R181): its id, its word, its result format and its regions. -/
structure Unpaired where
  id : Nat
  word : BitVec 128
  result : Fmt
  regions : List Region
deriving DecidableEq, Repr

/-- One matrix array (R94). Element j of cell (r, c) has key (64 r + c) 4 + j in every table; an element that is not listed
is +0 with scale code 0x7F, an accumulator that is not listed is +0.0 (R96). `t...` fields are the Proctor's issue-order
tracking of R180. -/
structure ArrayState where
  live : NMap WElem := []
  shadow : NMap WElem := []
  liveFmt : Fmt := .bf16
  shadowFmt : Fmt := .bf16
  acc : NMap Word := []
  latch : NMap Word := []
  pend : Option PendTile := none
  tLive : Fmt := .bf16
  tShadow : Fmt := .bf16
  tPend : Option PendTile := none
  /-- The FUSE commands issued and not yet paired, in issue order (R181). -/
  unpaired : List Unpaired := []
  /-- Result rows of executed FUSE commands, by command id, oldest first (R243). -/
  fused : List (Nat × List (List Word)) := []
  feedStall : Word := 0
  ringStall : Word := 0
  resStall : Word := 0
  gbpStall : Word := 0
deriving DecidableEq, Repr

/-! ### The core: Proctor (R144 to R193) -/

/-- PRC_STATUS.STATE (R193). -/
inductive PState where
  | idle | running | halted | brk | faulted | stopped | detained
deriving DecidableEq, Repr

/-- Why issue has stopped while issued commands complete (R167, R186, R190, R193). -/
inductive StopWhy where
  | issuing
  | halt (code : BitVec 16)
  | haltReq
  | brk (comparator : Nat)
  | fault (cause : Byte) (opc : Byte) (que : BitVec 3) (tag : Byte) (detail : Byte) (fn : Byte)
deriving DecidableEq, Repr

/-- An address register (R168). -/
structure AReg where
  base : BitVec 48 := 0
  stride : BitVec 24 := 0
deriving DecidableEq, Repr

/-- A comparator (R189): mode, tag and value. -/
structure Comparator where
  mode : BitVec 2 := 0
  ctag : Byte := 0
  cval : BitVec 48 := 0
deriving DecidableEq, Repr

/-- One entry of the loop stack (R171 to R173): the address of the first word of the body, the address of its ENDLOOP, and
the passes left, the one that runs included. -/
structure LoopEntry where
  start : Nat
  stop : Nat
  left : Nat
deriving DecidableEq, Repr

/-- The unit that holds an issued command until it completes. -/
inductive CUnit where
  | array (a : Nat)
  | vec
  | strm
  | bell
  | pool (slot : Nat)
  | none
deriving DecidableEq, Repr

/-- The operands of an issued command as resolved at issue (R157): window offsets by role, the relocation base of STRM.GO
(R204) and the bytes of a parameter record (R160). -/
structure Opnds where
  x : Nat := 0
  xs : Nat := 0
  x2 : Nat := 0
  x2s : Nat := 0
  y : Nat := 0
  ys : Nat := 0
  y2 : Nat := 0
  y2s : Nat := 0
  d : Nat := 0
  d2 : Nat := 0
  ds : Nat := 0
  c : Nat := 0
  cs : Nat := 0
  base : BitVec 48 := 0
  recd : List Byte := []
deriving DecidableEq, Repr

/-- A command that has issued and not yet completed (R162, R176). `id` is its issue-counter value; `undo` lists the bytes it
has written with the values they had before (MODEL, for the old-or-new rules of R276, R401 and R521). -/
structure Issued where
  id : Nat
  word : BitVec 128
  unit : CUnit
  regions : List Region := []
  ops : Opnds := {}
  /-- The formats tracked for its array at issue (R113): live format before the command. -/
  liveFmt : Fmt := .bf16
  /-- The paired MMA's id of a fused consumer (R181). -/
  pair : Option Nat := none
  /-- The ring step count of a ring command (R131). -/
  step : BitVec 16 := 0
  /-- The drain shape of a GB.DRAIN, tracked at issue (R180). -/
  shape : Option PendTile := none
  executed : Bool := false
  /-- A task that an engine has taken: the core and the engine (R245). -/
  taker : Option (Nat × Nat) := none
  /-- A task that its executing core has lost (R271). -/
  lost : Bool := false
  undo : List Host.Cell := []
deriving DecidableEq, Repr

/-! ### The core: stream engine (R194 to R240) -/

/-- A list that STRM.GO started (R194 to R198), or an HDMA list (R451). -/
structure BList where
  id : Nat
  /-- Local address of its first entry. -/
  base : Nat
  count : Nat
  evt : Nat := 0
  pri : BitVec 2 := 0
  reloc : BitVec 48 := 0
  /-- Index of the next entry to start. -/
  next : Nat := 0
  /-- Entries read into the list buffer so far, and those of them not yet started (R195). -/
  nread : Nat := 0
  buf : List (BitVec 256) := []
  /-- MODEL: bytes that commands have overwritten and that a transfer still to start may read, with their earlier values (R163). -/
  stale : List Host.Cell := []
deriving DecidableEq, Repr

/-- A message sent to another device whose response has not arrived (R349 to R352). -/
structure Outstanding where
  dev : BitVec 16
  rtag : BitVec 48
  len : Nat
  /-- Where a read response's data goes, as local addresses of this device; empty for other requests. -/
  dest : List Nat := []
  read : Bool := false
deriving DecidableEq, Repr

/-- An element update (R210): its address, 5 add, 6 min or 7 max, and the source element with its format. -/
structure Update where
  addr : Nat
  op : Nat
  fmt : Fmt
  code : Nat
deriving DecidableEq, Repr

/-- A transfer in flight (R196). `writes` are the local byte ranges (address, length) it writes; `undo` the bytes it has
written with their earlier values, `seen` the local ranges it has read with what it read there, and `adds` the element updates it
has made (MODEL, for R163, R212 and R219). -/
structure Xfer where
  slot : Nat
  list : Nat
  entry : Nat
  entryAddr : Nat
  kind : BitVec 4
  status : BitVec 4 := 0
  writes : List (Nat × Nat) := []
  undo : List Host.Cell := []
  waiting : List Outstanding := []
  /-- A BELL transfer whose arrival is held (R232). -/
  bellHeld : Bool := false
  /-- Host memory is read, or written and its closing read outstanding (R450). -/
  hostWait : Bool := false
  /-- The transfer has started and waits for scoreboard entries of commands issued before its STRM.GO (R217). -/
  guard : Bool := false
  seen : List (Nat × List Byte) := []
  adds : List Update := []
  /-- The data of a remote read destined to another format or device, gathered as it arrives. -/
  gathered : NMap Byte := []
  entryBits : BitVec 256 := 0
  extBits : BitVec 256 := 0
deriving DecidableEq, Repr

/-- The stream engine's registers and work of one core (R239, R240). Stall counters are keyed by their offset in R240. -/
structure StreamState where
  lists : List BList := []
  xfers : List Xfer := []
  /-- Slots of transfers that completed by timeout, not yet reusable (R352). -/
  heldSlots : List Nat := []
  errCnt : Word := 0
  errCode : BitVec 4 := 0
  errKind : BitVec 4 := 0
  errEntry : BitVec 16 := 0
  errAddr : BitVec 48 := 0
  stalls : NMap Word := []
  /-- Grants at the start of transfers, modulo 16 (R226). -/
  grants : Nat := 0
  /-- MODEL: bytes that completed lists have written and that no STRM.WAIT has covered yet, by event counter, with their earlier
  values (R163). -/
  stale : List (Nat × List Host.Cell) := []
deriving DecidableEq, Repr

/-- The vector registers of R274, and the task each engine has in hand (R245). -/
structure VectorState where
  detail : Byte := 0
  fn : Byte := 0
  posted : Word := 0
  loc : Word := 0
  away : Word := 0
  stolen : Word := 0
  busy0 : Word := 0
  busy1 : Word := 0
  fwait : Word := 0
  hand : NMap (Nat × Nat) := []
deriving DecidableEq, Repr

/-- One core (R144). Scratchpad and Gradebook bytes lie in the memory of the device. -/
structure Core where
  state : PState := .idle
  stop : StopWhy := .issuing
  /-- MODEL: the command at PRC_PC was held by a comparator and RESUME lets it pass once (R190). -/
  passBreak : Bool := false
  brkCmp : BitVec 3 := 0
  cause : Byte := 0
  haltCode : BitVec 16 := 0
  start : BitVec 48 := 0
  pc : BitVec 48 := 0
  issue : BitVec 48 := 0
  faultOpc : Byte := 0
  faultQue : BitVec 3 := 0
  faultTag : Byte := 0
  areg : NMap AReg := []
  lreg : NMap Word := []
  ereg : NMap Word := []
  cmpr : NMap Comparator := []
  loops : List LoopEntry := []
  /-- MODEL: the core's own scratchpad as it stood at START, when PRC_START lies there: the old command words of R150. -/
  code : List Host.Cell := []
  /-- 2 KiB command blocks in the fetch buffer: address and bytes (R149). -/
  fetchBuf : NMap (List Byte) := []
  cmds : List Issued := []
  sbStall : Word := 0
  qfStall : Word := 0
  slotStall : Word := 0
  swaitStall : Word := 0
  bwaitStall : Word := 0
  tdrainStall : Word := 0
  haltStall : Word := 0
  fetchStall : Word := 0
  arrays : NMap ArrayState := []
  /-- Ring commands issued, by array, since the Timetable became active, modulo 65,536 (R131); kept by a block reset. -/
  ringSteps : NMap (BitVec 16) := []
  strm : StreamState := {}
  vec : VectorState := {}
  /-- The last HALT_REQ came from the host, from R402 or from STOP (R447, R448). -/
  hostStop : Bool := false
deriving DecidableEq, Repr

/-! ### Bells (R228 to R238) -/

/-- One arrival of the current generation: its source, its OP and its value. -/
structure Arrival where
  /-- Virtual core of a member, 1000 + port for a child port, 2000 for this device's Registrar or Copybook. -/
  src : Nat
  op : BitVec 3
  value : Dword
deriving DecidableEq, Repr

/-- An arrival that R232 holds, with the BELL.RING command or BELL transfer it belongs to. -/
structure HeldArrival where
  core : Nat
  /-- The command id of BELL.RING, or none for a BELL transfer. -/
  cmd : Option Nat
  /-- The slot of the BELL transfer. -/
  slot : Option Nat
  op : BitVec 3
  value : Dword
deriving DecidableEq, Repr

/-- The state of one Bell number (R232 to R235). -/
structure BellState where
  /-- Generations completed (released) at this device, counted from activation or tree recomputation. -/
  done : Nat := 0
  arrivals : List Arrival := []
  /-- The device has sent its combined arrival for the current generation to its parent port (R234). -/
  sentUp : Bool := false
  held : List HeldArrival := []
  /-- Arrivals sent by each member (R232). -/
  sent : NMap Nat := []
  /-- BELL.WAITs issued by each member (R233). -/
  waits : NMap Nat := []
  /-- The results of the last completed generations: generation and value. -/
  results : List (Nat × Dword) := []
  /-- The start times in µs of the last completions (R398). -/
  times : List Nat := []
deriving DecidableEq, Repr

/-! ### The Timetable (R35 to R41) -/

/-- One Bell of the BELL section (R228). `tree` holds device ID, parent port and child mask. -/
structure BellDef where
  num : Nat
  fabric : Bool
  ring : BitVec 256
  wait : BitVec 256
  tree : List (Nat × Nat × BitVec 12)
deriving DecidableEq, Repr

/-- The TIER section (R311). -/
structure TierCfg where
  large : Bool := false
  keepWays : Nat := 0
  size0 : Nat := 0
  size1 : Nat := 0
  cbase0 : Nat := 0
  cbase1 : Nat := 0
  lbase0 : Nat := 0
  lbase1 : Nat := 0
deriving DecidableEq, Repr

/-- The ROUTE section (R366). -/
structure RouteCfg where
  torus : Bool
  switch : BitVec 12
  topo : Dword
  plan : List Byte
  x : Nat
  y : Nat
  z : Nat
  entries : NMap Word
deriving DecidableEq, Repr

/-- A protected range (R383). -/
structure CopyRange where
  base : Nat
  pages : Nat
  shadow : Nat
deriving DecidableEq, Repr

/-- The COPY section (R383). -/
structure CopyCfg where
  partner : Nat
  destBoard : Bool
  stepBell : Nat
  hostFor : Nat
  slotBase : Nat
  slotSize : Nat
  work : Nat
  hostBase : Nat
  hostSize : Nat
  elapsed0 : Nat
  mtbf0 : Nat
  fail0 : Nat
  fixed : Nat
  ranges : List CopyRange
deriving DecidableEq, Repr

/-- A Timetable that passed its checks. -/
structure Timetable where
  /-- SHA-256 of the image with its trailer (R41, R492); it is PLAN when there is no ROUTE section (R375). -/
  digest : BitVec 256
  devices : Nat
  rings : List (List (Nat × Nat)) := []
  bells : List BellDef := []
  steal : NMap (List Nat) := []
  seed : Dword := 0
  tier : TierCfg := {}
  route : Option RouteCfg := none
  copy : Option CopyCfg := none
deriving DecidableEq, Repr

/-- A ring step that the head has injected and other members have still to take (R131): the header and every row of the ring
operand with its stored elements and scales (R130). -/
structure RingFlow where
  ring : Nat
  step : BitVec 16
  mode : MmaMode
  m : Nat
  fmt : Fmt
  /-- The pairing of R80, numbered by its row. -/
  pairing : Nat
  /-- The head's position in the ring. -/
  head : Nat
  rows : List (List WElem)
  /-- Positions that have taken the header. -/
  taken : List Nat := []
deriving DecidableEq, Repr

/-- TTL_STATUS.STATE (R41). -/
inductive TtlState where
  | none | loading | active | failed
deriving DecidableEq, Repr

/-- The Timetable loader (R38 to R42). `loading` is an image that passed its checks and is being applied. -/
structure TtlBlock where
  state : TtlState := .none
  err : Byte := 0
  active : Option Timetable := none
  loading : Option Timetable := none
  /-- Rings that broke since the Timetable became active (R138). -/
  brokenRings : List Nat := []
  ringFlow : List RingFlow := []
deriving DecidableEq, Repr

/-! ### HBM and board memory (R294 to R328) -/

/-- HBM_STATUS.STATE (R327). -/
inductive HbmState where
  | off | training | ready | failed
deriving DecidableEq, Repr

/-- The registers of one HBM controller (R327). -/
structure HbmCtl where
  state : HbmState := .off
  refHot : Bool := false
  throt : Bool := false
  temp : Byte := 0
  ceCnt : Word := 0
  ueCnt : Word := 0
  ueAddr : BitVec 48 := 0
  scrubEn : Bool := true
  scrubPeriod : Byte := 0x18
  /-- The EN and PERIOD in force for the running scrub period (R327). -/
  scrubEnNow : Bool := true
  scrubPeriodNow : Byte := 0x18
  /-- The stack is in self-refresh and holds its contents (R509, R524). -/
  selfRefresh : Bool := false
  /-- Refresh rounds done (MODEL: one REFRESH command is one round of R297). -/
  refreshes : Nat := 0
deriving DecidableEq, Repr

/-- CXL_STATUS.LINK (R328). -/
inductive CxlLink where
  | down | training | up64 | up32
deriving DecidableEq, Repr

/-- One cached 64 KiB board page (R316, R317): its set and way, its page number, and whether it is dirty and a keep page. -/
structure CacheLine where
  set : Nat
  way : Nat
  page : Nat
  dirty : Bool := false
  keep : Bool := false
  /-- The access count of its last use, for the least-recently-used choice (R317). -/
  used : Nat := 0
deriving DecidableEq, Repr

/-- An access that waits for a page fill (R317, R318). -/
structure TierWait where
  core : Option Nat
  addr : Nat
  len : Nat
  wr : Option (List Byte)
  plc : BitVec 3
deriving DecidableEq, Repr

/-- One CXL port with its tier manager (R305 to R328). -/
structure CxlPort where
  link : CxlLink := .down
  lanes : BitVec 5 := 0
  active : Bool := false
  cap : BitVec 14 := 0
  perst : Bool := true
  /-- The DVSEC was accepted and the Registrar waits for Memory_Active (R307 step 3). -/
  waitActive : Bool := false
  hdmBase : Nat := 0
  hdmSize : Nat := 0
  memEnable : Bool := false
  large : Bool := false
  flushing : Bool := false
  /-- Pages that the running flush has still to write back (R321). -/
  flushPages : List Nat := []
  logBusy : Bool := false
  logBank : Bool := false
  /-- The active Timetable gives the port a dirty log at LBASE (R312). -/
  hasLog : Bool := false
  hit : Word := 0
  miss : Word := 0
  wb : Word := 0
  ueCnt : Word := 0
  retry : Word := 0
  lines : List CacheLine := []
  uses : Nat := 0
  /-- Pages being filled, with the accesses that wait (R318). -/
  filling : NMap (List TierWait) := []
deriving DecidableEq, Repr

/-! ### The fabric (R329 to R382) -/

/-- FAB_PSTAT.STATE (R382). -/
inductive PortState where
  | down | training | up | boot
deriving DecidableEq, Repr

/-- One flit or message that waits, or that is held for replay (R344): its first sequence number; the port on which it arrived
and the lane on which it came, for a message that takes another route (R370); the flits inserted into it, each behind a number of its
slots (R347); and how many of its flits are acknowledged. -/
structure TxFlit where
  seq : BitVec 10
  hdr : BitVec 256
  data : List (BitVec 2048) := []
  arr : Nat := 12
  lane : Nat := 0
  ins : List (Nat × BitVec 256) := []
  acked : Nat := 0
deriving DecidableEq, Repr

/-- One slot of a codeword message: its tag and its 32 bytes (R334). -/
structure Slot where
  begins : Bool
  body : BitVec 256
deriving DecidableEq, Repr

/-- A bulk message of which a port has accepted the header and some data flits (R337). -/
structure RxMessage where
  hdr : BitVec 256
  data : List (BitVec 2048) := []
deriving DecidableEq, Repr

/-- One fabric port (R331 to R346, R369, R382). -/
structure FabPort where
  en : Bool := true
  chan : BitVec 2 := 0b10
  txinv : BitVec 4 := 0
  state : PortState := .down
  lanes : BitVec 3 := 0
  rev : Bool := false
  nport : BitVec 4 := 0
  nid : BitVec 16 := 0xFFFF
  nserial : Dword := 0
  helloSeen : Bool := false
  replayCnt : Word := 0
  fecc : Word := 0
  fecu : Word := 0
  miss : Word := 0
  missRun : Nat := 0
  hbSeen : Bool := false
  /-- Taken down by Attendance: stays down until the next Roll Call (R369). -/
  heldDown : Bool := false
  /-- Roll Call waits for this port's retraining before it numbers (R369). -/
  rcWait : Bool := false
  txSeq : BitVec 10 := 0
  rxSeq : BitVec 10 := 0
  replay : List TxFlit := []
  /-- The newest held message is still being sent, and this many of its slots have left (R347). -/
  sending : Option Nat := none
  /-- The number of the next flit that arrives, implied by the order of arrival (R343); none after a flit that could not be read. -/
  rxNext : Option (BitVec 10) := some 0
  /-- The bulk message being received, the data flit being received with its number, and Bell flits inserted into it (R337, R347). -/
  rxMsg : Option RxMessage := none
  rxFlit : Option (Option (BitVec 10) × List (BitVec 256)) := none
  rxHeld : List (BitVec 256) := []
  /-- Replays without an advancing acknowledgement (R345). -/
  replays : Nat := 0
  retraining : Bool := false
  /-- The receiver discards until the expected number arrives (R344). -/
  discarding : Bool := false
  /-- Accepted flits not yet acknowledged (R344). -/
  unacked : Nat := 0
  /-- Transmit credits by channel: Bell, control, request lanes 0 and 1, response lanes 0 and 1 (R342, R346). -/
  credits : List Nat := [64, 128, 512, 512, 512, 512]
  /-- Slots freed in the receive buffers since the last return, in the same order (R342). -/
  freed : List Nat := [0, 0, 0, 0, 0, 0]
  /-- Flits and messages waiting for credits, oldest first (R346, R347). -/
  txq : List TxFlit := []
  /-- Bulk message starts with both channels waiting (R347), and grants on the request and response channels (R226). -/
  starts : Nat := 0
  reqGrants : Nat := 0
  rspGrants : Nat := 0
  /-- A forwarding child of the Roll Call tree (R357). -/
  child : Bool := false
  /-- OFFER has been answered with DONE, so offering on this port has ended (R467, R471). -/
  doneRx : Bool := false
deriving DecidableEq, Repr

/-- FAB_STATUS.RC (R382). -/
inductive RcState where
  | none | running | numbered | complete | failed
deriving DecidableEq, Repr

/-- FAB_STATUS.AG (R382). -/
inductive AgState where
  | none | waiting | agreed | elsewhere | here
deriving DecidableEq, Repr

/-- One reported port of one device, at the root (R358): state, neighbour serial, neighbour port. -/
structure RcPort where
  state : BitVec 2
  nserial : Dword
  nport : BitVec 4
deriving DecidableEq, Repr

/-- One device as the root numbers it (R358). -/
structure RcDev where
  serial : Dword
  id : Nat
  level : Nat
  parent : Nat
  route : List (BitVec 4)
  /-- Reports by port. -/
  ports : NMap RcPort := []
  attempts : Nat := 1
deriving DecidableEq, Repr

/-- The fabric (R329 to R382). `devs` and `level` are the root's numbering in progress; `record` the topology record. -/
structure Fabric where
  id : BitVec 16 := 0xFFFF
  root : Bool := false
  rc : RcState := .none
  ag : AgState := .none
  rcErr : BitVec 4 := 0
  count : BitVec 15 := 0
  topo : Dword := 0
  fp : Dword := 0
  epoch : Byte := 0
  tree : Byte := 0
  timeout : BitVec 16 := 0x0028
  late : Word := 0
  drop : Word := 0
  ports : NMap FabPort := []
  /-- Roll Call parent port; 12 for none. -/
  parent : Nat := 12
  devs : List RcDev := []
  level : Nat := 0
  record : List Byte := []
  /-- Record bytes received so far, by 20-byte piece (R359). -/
  pieces : NMap (BitVec 160) := []
  torus : Bool := false
  /-- The device has taken an ID of an epoch whose RC_DONE has not arrived (R361). -/
  awaitDone : Bool := false
  absentSet : List Nat := []
  /-- ABSENT messages already forwarded: device and epoch (R357). -/
  seenAbsent : List (Nat × Nat) := []
  /-- Links that LINK_DOWN has reported to the root: device and port (R370). -/
  downLinks : List (Nat × Nat) := []
  /-- Agreement: values at Bells 1,017 and 1,018 (R376). -/
  agMin : Option Dword := none
  agMax : Option Dword := none
  /-- Agreement rounds that software has started and that wait for the running one (R378). -/
  agQueue : Nat := 0
deriving DecidableEq, Repr

/-! ### Copybook and Detention (R383 to R405) -/

/-- COPY_STATUS.LAST (R405). -/
inductive CopyLast where
  | none | committed | drainFailed | restarted | aborted
deriving DecidableEq, Repr

/-- COPY_STATUS.STATE (R405). -/
inductive CopyState where
  | noSection | idle | opened | frozen
deriving DecidableEq, Repr

/-- The Copybook (R383 to R399, R404). `cur` and `snap` list the protected granules (home address / 256) whose CUR or SNAP
frame is the shadow frame (R386, R387). -/
structure Copybook where
  arm : Bool := false
  state : CopyState := .noSection
  hold : Bool := false
  /-- The first step-Bell generation whose arrivals are held while HOLD is 1: c + 1 of R393 step 2. -/
  holdFrom : Nat := 0
  last : CopyLast := .none
  seq : Dword := 0
  t : Word := 0
  /-- The square of T in µs² (R397), before the register rounds it. -/
  tSq : Nat := 0
  c : Word := 0
  m : Word := 0
  fail : Word := 0
  cur : List Nat := []
  snap : List Nat := []
  /-- The freeze generation G, once Bell 1,020 has released (R393). -/
  freezeGen : Option Nat := none
  /-- The round is due and waits for the running one to end (R396). -/
  due : Bool := false
  /-- The frames have been dropped by a fold (R389). -/
  folded : Bool := false
  /-- Drain writes sent so far, and those without an answer: the number in SLOT and the address (R393, R396). -/
  sent : Nat := 0
  waits : List (Nat × Nat) := []
  /-- Every drain write succeeded so far (R393). -/
  drainOk : Bool := true
  arrived1021 : Bool := false
  /-- Pages of 64 KiB whose bits in M0 and M1 are clear: pairs of range index and page (R390). -/
  map0 : List (Nat × Nat) := []
  map1 : List (Nat × Nat) := []
  /-- µs times: activation, last commit, freeze (R397, R398). -/
  activeAt : Nat := 0
  lastCommit : Nat := 0
  freezeAt : Nat := 0
  lost : Nat := 0
  costs : List Nat := []
  /-- Completion times of the step Bell's last generations at the freeze (R398). -/
  stepTimes : List Nat := []
  commits : Nat := 0
deriving DecidableEq, Repr

/-- Detention (R400 to R405). -/
structure Detention where
  device : Bool := false
  cause : BitVec 4 := 0
  core : Byte := 0
  vcore : Byte := 0
  /-- Work is being stopped by R402 and the 10 ms have not passed. -/
  stopping : Bool := false
deriving DecidableEq, Repr

/-! ### Pacing (R406 to R429) -/

/-- PCR_STATUS.STATE (R429). -/
inductive PacerState where
  | inReset | trimming | stable | failed
deriving DecidableEq, Repr

/-- The pacer of one region (R406 to R416, R429). -/
structure Pacer where
  state : PacerState := .inReset
  level : BitVec 2 := 0
  delay : BitVec 10 := 0
  beats : Word := 0
  str1 : Word := 0
  str2 : Word := 0
  strp : Word := 0
  /-- Consecutive slow-clock edges within 0.5 % (R408). -/
  inBand : Nat := 0
  /-- Consecutive critical beats (R416). -/
  critRun : Nat := 0
  released : Bool := false
  /-- The standby register: the delay code of the announced pace (R419 step 3). -/
  standby : BitVec 10 := 0
deriving DecidableEq, Repr

/-- The phases of a pace epoch (R419). -/
inductive EpochPhase where
  | idle
  | rails (n : Byte)
  | announced (n : Byte)
  | switched (n : Byte)
deriving DecidableEq, Repr

/-- The pace controller (R410 to R428, R547). -/
structure Pacing where
  tgt : Byte := 0x28
  cur : Byte := 0x28
  ceil : Byte := 0xA0
  epoch : Byte := 0
  busy : Bool := false
  pstr : Bool := false
  therm : Byte := 0x28
  limit : BitVec 12 := 0xC80
  fast : BitVec 12 := 0xDC0
  phase : EpochPhase := .idle
  /-- No upward epoch until PACE_TGT is written (R420). -/
  upBlocked : Bool := false
  /-- Consecutive low windows that ended since the last epoch (R427) and towards the rise of CEIL (R426). -/
  lowRun : Nat := 0
  ceilRun : Nat := 0
  /-- The window that runs began before the last epoch ended, so R427 does not count it. -/
  skipWindow : Bool := false
  /-- The regions that take part in the running epoch (R418). -/
  members : List Nat := []
  /-- A downward epoch has completed since the power stretch was asserted (R428). -/
  pstrDown : Bool := false
  /-- The core voltage in force is the one of this code (R419). -/
  volt : Byte := 0x28
  /-- Means of the last windows, newest first, for R487. -/
  means : List Nat := []
  /-- The token counts that calibration set, by the regions on the two sides (R424). -/
  tokens : List ((Nat × Nat) × Nat) := []
  pacers : NMap Pacer := []
deriving DecidableEq, Repr

/-! ### The host interface (R430 to R454) -/

/-- An active job (R443 to R445). -/
structure Job where
  jobid : Word
  vec : Byte
  seq : BitVec 16
  cores : BitVec 256
  /-- STOP or FLR was written (R447). -/
  stopReq : Bool := false
  /-- R402 stopped the job (R447). -/
  detained : Bool := false
deriving DecidableEq, Repr

/-- One address fence (R437). -/
structure FenceReg where
  base : BitVec 48 := 0
  size : Word := 0
deriving DecidableEq, Repr

/-- One context (R436 to R448, R454). `slots` holds the bytes of the 16 descriptor slots. -/
structure Ctx where
  en : Bool := false
  fence : Bool := false
  remote : Bool := false
  head : BitVec 16 := 0
  tail : BitVec 16 := 0
  cpl : Dword := 0
  cores : BitVec 256 := 0
  fences : NMap FenceReg := []
  slots : NMap Byte := []
  job : Option Job := none
deriving DecidableEq, Repr

/-- One HDMA channel (R451, R454). -/
structure Hdma where
  list : BitVec 48 := 0
  count : BitVec 16 := 0
  ctx : BitVec 4 := 0xF
  pri : BitVec 2 := 0b10
  busy : Bool := false
  last : BitVec 4 := 0
  errCnt : Word := 0
  strm : StreamState := {}
deriving DecidableEq, Repr

/-- The capabilities of the function (R430). -/
inductive PcieCap where
  | pciExpress | powerManagement | msix | aer | deviceSerial | dataLinkFeature | phy16 | phy32 | phy64 | laneMargining | flr
deriving DecidableEq, Repr

/-- The configuration space of the one physical function (R430): the IDs that a cold reset sets from the fuses and the module flash
(R488), the capabilities, and the limits. -/
structure ConfigSpace where
  vendor : BitVec 16 := 0x1F7A
  device : BitVec 16 := 0x0411
  revision : Byte := 0
  classCode : BitVec 24 := 0x120000
  subVendor : BitVec 16 := 0x1F7A
  subId : BitVec 16 := 0x0411
  serial : Dword := 0
  caps : List PcieCap := [.pciExpress, .powerManagement, .msix, .aer, .deviceSerial, .dataLinkFeature, .phy16, .phy32, .phy64,
    .laneMargining, .flr]
  maxPayload : Nat := 512
  maxRead : Nat := 4096
  outstanding : Nat := 1024
  timeoutMs : Nat := 50
deriving DecidableEq, Repr

/-- The host interface (R430 to R454). -/
structure HostIf where
  cfg : ConfigSpace := {}
  rate : BitVec 3 := 0
  width : BitVec 5 := 0
  syll : Bool := false
  winHi : BitVec 12 := 0
  refused : Word := 0
  ctxs : NMap Ctx := []
  hdma : NMap Hdma := []
  msixEn : Bool := false
  /-- The function mask of MSI-X, which masks every vector (R452). -/
  msixAll : Bool := false
  msixMask : BitVec 16 := 0xFFFF
  msixPend : BitVec 16 := 0
  /-- Address and data words of the MSI-X table, by word index (R452). -/
  msixTable : NMap Word := []
  d3hot : Bool := false
  busMaster : Bool := false
deriving DecidableEq, Repr

/-! ### Boot and security (R455 to R499) -/

/-- The boot state of R456. -/
inductive BootState where
  | selfTest | waiting | receiving | activating | active | recWaiting | recReceiving | error
deriving DecidableEq, Repr

/-- The boot source of R482. -/
inductive BootSource where
  | host | chain | recovery
deriving DecidableEq, Repr

/-- One key slot (R476): the hash of the modulus, and the USED and REVOKED fuses. -/
structure KeySlot where
  hash : BitVec 256 := 0
  used : Bool := false
  revoked : Bool := false
deriving DecidableEq, Repr

/-- One component of a verified manifest (R459). -/
structure Component where
  type : Nat
  first : Nat
  blocks : Nat
  length : Nat
  version : Word
  hash : BitVec 256
deriving DecidableEq, Repr

/-- A manifest (R458) that passed checks 2 to 6 of R463, with its measurement digest Mdig (R462). -/
structure Manifest where
  mdig : BitVec 256
  nblk : Nat
  svn : Nat
  vkey : Nat
  revoke : BitVec 4
  comps : List Component
deriving DecidableEq, Repr

/-- A bundle being received or held (R463 to R471). `port` is 12 for the host. -/
structure Bundle where
  port : Nat
  addr : Dword := 0
  nblk : Nat
  pfx : BitVec 128 := 0
  manifest : Option Manifest := none
  /-- Data parts of complete blocks, by block number. -/
  blocks : NMap (List Byte) := []
  /-- Chunks of blocks that are not yet complete, by block and chunk (R468). -/
  chunks : NMap (NMap (BitVec 128)) := []
  /-- First block not yet requested (R468). -/
  asked : Nat := 0
  verified : Bool := false
deriving DecidableEq, Repr

/-- The fuses and the key store (R476, R474). Fused values of this part. -/
structure Fuses where
  grade : BitVec 4 := 1
  step : BitVec 4 := 1
  dark0 : BitVec 3 := 3
  dark1 : BitVec 3 := 3
  dark2 : BitVec 3 := 3
  dark3 : BitVec 3 := 3
  half : Bool := false
  blank : Bool := false
  keyKill : Bool := false
  svnMin : Nat := 0
  owner : NMap KeySlot := []
  vendor : NMap KeySlot := []
  /-- The identity key: modulus and secret exponent (R479). -/
  idMod : Nat := 0
  idExp : Nat := 0
deriving DecidableEq, Repr

/-- The SPDM connection state of one transport (R491). -/
structure SpdmConn where
  version : Bool := false
  caps : Bool := false
  algs : Bool := false
  /-- The messages of the version, capability and algorithm exchange. -/
  vca : List Byte := []
  /-- The digest and certificate messages since, which a CHALLENGE signature also covers. -/
  transcript : List Byte := []
  /-- The measurement messages that the next signed response covers. -/
  measTranscript : List Byte := []
deriving DecidableEq, Repr

/-- A mailbox (R548, R549). -/
inductive MbState where
  | idle | busy | ready
deriving DecidableEq, Repr

/-- One mailbox block (R548): state, response count, and the 4 KiB buffer as bytes by offset. -/
structure Mailbox where
  state : MbState := .idle
  count : Byte := 0
  buf : NMap Byte := []
deriving DecidableEq, Repr

/-- The state of the CTR_DRBG (R494): key, counter block, and the requests served since it was seeded plus one; 0 when it is not
seeded. -/
structure Drbg where
  key : BitVec 256 := 0
  v : BitVec 128 := 0
  count : Nat := 0
deriving DecidableEq, Repr

/-- The Prefect (R455 to R499). -/
structure Prefect where
  boot : BootState := .selfTest
  source : BootSource := .host
  bundleErr : Byte := 0
  recCause : Byte := 0
  rejected : List (BitVec 128) := []
  bundle : Option Bundle := none
  /-- OFFERs of this slow-clock period that wait for its edge: port, NBLK and PREFIX (R468). -/
  offers : List (Nat × Nat × BitVec 128) := []
  /-- The destination memories, by component type (R472). -/
  dest : NMap (List Byte) := []
  active : Option Manifest := none
  nonce : Option (BitVec 256) := none
  /-- The CTR_DRBG and the entropy input that seeded it, all zero when it holds no state (R494, R496). -/
  drbg : Drbg := {}
  entropy : BitVec 384 := 0
  scopes : BitVec 4 := 0
  mb : Mailbox := {}
  spdmPcie : SpdmConn := {}
  spdmSmb : SpdmConn := {}
  /-- Chain delivery: the sending port went down and no other has taken its place (R469). -/
  chainLost : Bool := false
  /-- DONE 0x1 received before the Registrar was active, to be logged: port and cause (R470). -/
  doneLog : List (Nat × Byte) := []
deriving DecidableEq, Repr

/-- A settings write in progress (R486, R487): the body, the first byte of the copy that it replaces, and whether its body is programmed
and the commit page is the page that waits for hold-up energy. -/
structure FlashWrite where
  body : List Byte
  base : Nat
  commit : Bool := false
deriving DecidableEq, Repr

/-- The hold-up sag of R504: power in mW and module-side voltage in mV at its start. -/
structure Sag where
  mw : Nat
  v1 : Nat
deriving DecidableEq, Repr

/-- One event-log entry (R530). -/
structure LogEntry where
  time : Dword
  seq : Word
  code : BitVec 16
  sev : Byte
  src : BitVec 16
  arg : BitVec 16
  data : List Byte
deriving DecidableEq, Repr

/-- The Registrar (R507, R529, R548 to R551). `log` is newest first and holds at most 4,096 entries. -/
structure Registrar where
  /-- The policy firmware runs (R472, R507). -/
  fw : Bool := false
  /-- The boot ROM or the firmware runs: the Registrar has been released (R512 step 4). -/
  running : Bool := false
  mb : Mailbox := {}
  log : List LogEntry := []
  logSeq : Word := 0
  wdPeriod : Word := 0
  write : Option FlashWrite := none
  sag : Option Sag := none
deriving DecidableEq, Repr

/-! ### Power and reset (R500 to R528, R546) -/

/-- Reset kinds (R508). -/
inductive ResetKind where
  | none | block | warm | cold
deriving DecidableEq, Repr

/-- PWR_STATUS.STATE (R524). -/
inductive PwrState where
  | on | park | sleep | standby
deriving DecidableEq, Repr

/-- A block reset in progress (R519): the block, its requester (R570), and the µs at which it was asked to go idle. -/
structure BlockReset where
  block : Byte
  requester : Byte
  since : Nat
deriving DecidableEq, Repr

/-- The reset controller, the power subsystem and the backup domain (R500 to R528, R546). -/
structure ResetPower where
  swKind : Bool := false
  keepHbm : Bool := false
  done : Bool := false
  trimV : Bool := false
  trimDef : Bool := false
  strap : BitVec 4 := 0
  blk : Byte := 0
  honoured : Bool := false
  blkTo : BitVec 16 := 0x0064
  lastCause : BitVec 4 := 0
  lastKind : ResetKind := .none
  lastEarly : Bool := false
  lastBlock : Byte := 0
  lastSrc : BitVec 16 := 0xFFFF
  /-- MODEL: the µs at which the last cold or warm reset took effect, for sources that assert together (R522). -/
  resetAt : Option Nat := none
  /-- The settings body that the last cold reset took from the flash (R331, R488). -/
  settings : List Byte := []
  cnt : NMap (BitVec 16) := []
  pwr : PwrState := .on
  vinGood : Bool := false
  pfail : Bool := false
  thold : Bool := false
  huValid : Bool := false
  vinMv : BitVec 16 := 0
  vinW : BitVec 16 := 0
  capUf : BitVec 16 := 0
  ehMj : BitVec 16 := 0
  dieTemp : Byte := 0
  auxTemp : Byte := 0
  /-- The next step of R512 to take (1 to 10, 11 once done), and the turn within steps 7 to 9. -/
  step : Nat := 1
  turn : Nat := 0
  /-- The strap has been measured and the fuses sensed since the last cold reset. -/
  strapDone : Bool := false
  vauxOk : Bool := true
  perstLow : Bool := true
  resetInLow : Bool := false
  /-- The input switch is open (R505, R506). -/
  switchOpen : Bool := false
  /-- VIN overvoltage: the switch waits for VIN within range for 10 ms (R506). -/
  overvolt : Bool := false
  blockReset : Option BlockReset := none
  /-- Block resets that the Registrar has still to start (R402, R448). -/
  blockQueue : List Byte := []
deriving DecidableEq, Repr

/-! ### Global registers (R545, R539) -/

/-- The global block (R545) and the parity state of R538 and R539: BAR0 offsets of words whose hidden parity bit disagrees
with the stored bits, and of words in configuration-parity fault. -/
structure Glb where
  serial : Dword := 0
  scratch : Word := 0
  timeUs : Dword := 0
  pfAddr : BitVec 24 := 0
  pfCnt : Word := 0
  badAcc : Word := 0
  syncTo : Word := 0
  parityWrong : List Nat := []
  faulted : List Nat := []
deriving DecidableEq, Repr

/-- What the device sends to the outside: an MSI-X message, a codeword message on a fabric port, a Completer Abort, the data of a
window read, an Unsupported Request, an SPDM response, the JTAG instruction that acts, a read of host memory. -/
inductive Out where
  | msix (vec : Nat)
  | codeword (port : Nat) (word : BitVec 5140)
  | completerAbort (addr : Nat)
  | readData (addr : Nat) (data : List Byte)
  | unsupported (addr : Nat)
  | spdm (t : SpdmPort) (resp : List Byte)
  | jtag (ir : JtagInstr)
  | hostRead (addr : Nat) (len : Nat)
deriving DecidableEq, Repr

/-- The whole module but for the shadow copies and the queue of waiting commands. `mem` is the byte memory of R43 in
canonical form; `badWords` lists the 64-bit words (address / 8) that hold an uncorrectable error (R302). -/
structure Dev where
  mem : List Host.Cell := []
  badWords : List Nat := []
  cores : NMap Core := []
  bells : NMap BellState := []
  ttl : TtlBlock := {}
  hbm : NMap HbmCtl := []
  cxl : NMap CxlPort := []
  fab : Fabric := {}
  copy : Copybook := {}
  det : Detention := {}
  pace : Pacing := {}
  host : HostIf := {}
  fuses : Fuses := {}
  /-- The module flash (R485): programmed bytes by address; an unlisted byte is erased and reads 0xFF. -/
  flash : NMap Byte := []
  prefect : Prefect := {}
  reg : Registrar := {}
  rp : ResetPower := {}
  glb : Glb := {}
  /-- Writes to compute-die registers that take effect at the next slow-clock edge (R535), oldest first. -/
  edgeWrites : List (Nat × Word) := []
  /-- MODEL: the counter to which the free values of Config are applied; no register. -/
  freeCtr : Nat := 0
  /-- MODEL: what the device has sent, newest first; no register. -/
  out : List Out := []
deriving DecidableEq, Repr

/-- The state: the device, the shadow copies of R535 (the device as it stood at the last slow-clock edge) and the queue of
commands that wait, first in, first out. -/
structure State where
  dev : Dev
  shadow : Dev
  pending : List Instr := []
deriving DecidableEq, Repr

/-- Reasons a step can fault. No meaning of this model faults: every command takes a next state. -/
inductive Fault where
  /-- Raised by no command of this model. Safe: it would stop the machine where the hardware goes on. -/
  | none
deriving DecidableEq, Repr

/-- Reasons a command is refused. -/
inductive Refusal where
  /-- Raised by an arm of exec whose command has no meaning yet. Safe: the machine stops. -/
  | notModelled (mnemonic : String)
deriving DecidableEq, Repr

/-- The device right after VAUX has risen through 3.0 V: the power-on cold reset (cause 0x1) has taken effect and step 1 of
R512 runs. Every field has its Cold value; fields without one have the values that notes/assumptions names. -/
def Dev.reset : Dev :=
  { rp := { lastCause := 0x1, lastKind := .cold, cnt := [(1, 1)] } }

/-- The machine right after reset, with an empty queue. -/
def State.reset : State := { dev := Dev.reset, shadow := Dev.reset }

end Sys2Proof.Machine
end

