-- ==== Sys2Proof/Machine/Num.lean ====
section
/-!
DEFINITION. The number formats and the arithmetic of R51 to R92. A number is held exactly, as a sign, a magnitude and a
power of two, or as an infinity or a NaN; arithmetic is exact and every rounding is one call of `numRound`. A quotient or a
square root that no such number holds is kept to far more bits than any format has, with its last bit odd, so that the one
rounding that follows gives the correct result.
-/
namespace Sys2Proof.Machine

/-- A number of R52 and R54: NaN, an infinity, or (-1)^neg m 2^e. -/
inductive Num where
  | nan
  | inf (neg : Bool)
  | fin (neg : Bool) (m : Nat) (e : Int)
deriving DecidableEq, Repr

/-- The rounding modes of R58. -/
inductive Rnd where
  | rne | rtz | rdn | rup | rto
deriving DecidableEq, Repr

/-- The mode that an RND field names; a reserved value names none. -/
def rndOf : Nat → Option Rnd
  | 0 => some .rne
  | 1 => some .rtz
  | 2 => some .rdn
  | 3 => some .rup
  | 4 => some .rto
  | _ => none

/-- The format that a code of R51 names. -/
def fmtOf : Nat → Option Fmt
  | 0 => some .fp32 | 1 => some .bf16 | 2 => some .fp16 | 3 => some .e4m3 | 4 => some .e5m2 | 5 => some .e3m2
  | 6 => some .e2m3 | 7 => some .e2m1 | 8 => some .int8 | 9 => some .int4 | 10 => some .int32 | 11 => some .e8m0
  | _ => none

/-- The code of a format (R51). -/
def fmtCode : Fmt → Nat
  | .fp32 => 0 | .bf16 => 1 | .fp16 => 2 | .e4m3 => 3 | .e5m2 => 4 | .e3m2 => 5
  | .e2m3 => 6 | .e2m1 => 7 | .int8 => 8 | .int4 => 9 | .int32 => 10 | .e8m0 => 11

/-- The width of an element in bits (R51). -/
def fmtBits : Fmt → Nat
  | .fp32 => 32 | .bf16 => 16 | .fp16 => 16 | .e4m3 => 8 | .e5m2 => 8 | .e3m2 => 6
  | .e2m3 => 6 | .e2m1 => 4 | .int8 => 8 | .int4 => 4 | .int32 => 32 | .e8m0 => 8

/-- The narrow formats: those that carry block scales (R51). -/
def fmtNarrow : Fmt → Bool
  | .e4m3 | .e5m2 | .e3m2 | .e2m3 | .e2m1 | .int8 | .int4 => true
  | _ => false

/-- The wide floats. -/
def fmtWideFloat : Fmt → Bool
  | .fp32 | .bf16 | .fp16 => true
  | _ => false

/-- The floats of R247: the wide floats and every narrow format. -/
def fmtFloat (f : Fmt) : Bool := fmtWideFloat f || fmtNarrow f

/-- The narrow floats. -/
def fmtNarrowFloat : Fmt → Bool
  | .e4m3 | .e5m2 | .e3m2 | .e2m3 | .e2m1 => true
  | _ => false

/-- The two narrow integer formats and INT32. -/
def fmtInt : Fmt → Bool
  | .int8 | .int4 | .int32 => true
  | _ => false

/-- The mantissa width of a float format (R52). -/
def fmtMant : Fmt → Nat
  | .fp32 => 23 | .bf16 => 7 | .fp16 => 10 | .e4m3 => 3 | .e5m2 => 2 | .e3m2 => 2 | .e2m3 => 3 | .e2m1 => 1
  | _ => 0

/-- The exponent width of a float format (R52). -/
def fmtExp (f : Fmt) : Nat := fmtBits f - 1 - fmtMant f

/-- The bias (R52). -/
def fmtBias : Fmt → Nat
  | .fp32 => 127 | .bf16 => 127 | .fp16 => 15 | .e4m3 => 7 | .e5m2 => 15 | .e3m2 => 3 | .e2m3 => 1 | .e2m1 => 1
  | _ => 0

/-- The exponent of the smallest subnormal (R54). -/
def fmtEmin (f : Fmt) : Int := 1 - (fmtBias f : Int) - (fmtMant f : Int)

/-- The code of the largest finite value, or the largest integer that a writer produces (R54, R68). -/
def fmtMax : Fmt → Nat
  | .fp32 => 0x7F7FFFFF | .bf16 => 0x7F7F | .fp16 => 0x7BFF | .e4m3 => 0x7E | .e5m2 => 0x7B | .e3m2 => 0x1F
  | .e2m3 => 0x1F | .e2m1 => 7 | .int8 => 127 | .int4 => 7 | .int32 => 0x7FFFFFFF | .e8m0 => 0xFE

/-- The code of +infinity, where the format has one (R54). -/
def fmtInf : Fmt → Option Nat
  | .fp32 => some 0x7F800000 | .bf16 => some 0x7F80 | .fp16 => some 0x7C00 | .e5m2 => some 0x7C
  | _ => none

/-- The canonical NaN, where the format has one (R54). -/
def fmtNan : Fmt → Option Nat
  | .fp32 => some 0x7FC00000 | .bf16 => some 0x7FC0 | .fp16 => some 0x7E00 | .e4m3 => some 0x7F | .e5m2 => some 0x7E
  | .e8m0 => some 0xFF
  | _ => none

/-- Positive zero. -/
def numZero : Num := .fin false 0 0

/-- An integer as a number. -/
def numInt (i : Int) : Num := .fin (i < 0) i.natAbs 0

/-- The value of an element's own bits (R52, R54, R61), without its block scale. -/
def numDecode (f : Fmt) (code : Nat) : Num :=
  let c := code % 2 ^ fmtBits f
  match f with
  | .int8 => numInt (sext 8 c)
  | .int4 => numInt (sext 4 c)
  | .int32 => numInt (sext 32 c)
  | .e8m0 => if c = 0xFF then .nan else .fin false 1 ((c : Int) - 127)
  | _ =>
    let mw := fmtMant f
    let neg := bit c (fmtBits f - 1)
    let mag := c % 2 ^ (fmtBits f - 1)
    let ex := mag / 2 ^ mw
    let mm := mag % 2 ^ mw
    if mag > fmtMax f then (if fmtInf f = some mag then .inf neg else .nan)
    else if ex = 0 then .fin neg mm (fmtEmin f)
    else .fin neg (mm + 2 ^ mw) (fmtEmin f + (ex : Int) - 1)

/-- The sign of a number; NaN counts as positive (R55). -/
def numNeg? : Num → Bool
  | .nan => false
  | .inf n => n
  | .fin n _ _ => n

/-- The number is a NaN. -/
def numIsNan : Num → Bool
  | .nan => true
  | _ => false

/-- The number is an infinity. -/
def numIsInf : Num → Bool
  | .inf _ => true
  | _ => false

/-- The number is finite. -/
def numIsFin : Num → Bool
  | .fin _ _ _ => true
  | _ => false

/-- The number is a zero of either sign. -/
def numIsZero : Num → Bool
  | .fin _ 0 _ => true
  | _ => false

/-- The number with its sign changed. -/
def numNegate : Num → Num
  | .nan => .nan
  | .inf n => .inf (!n)
  | .fin n m e => .fin (!n) m e

/-- The magnitude. -/
def numAbs : Num → Num
  | .nan => .nan
  | .inf _ => .inf false
  | .fin _ m e => .fin false m e

/-- The number times 2^k. -/
def numScale (x : Num) (k : Int) : Num :=
  match x with
  | .fin n m e => .fin n m (e + k)
  | y => y

/-- The signed integers of two finite magnitudes on one grid: m1 2^e1 and m2 2^e2 as multiples of 2^(min e1 e2). -/
def alignInt (n1 : Bool) (m1 : Nat) (e1 : Int) (n2 : Bool) (m2 : Nat) (e2 : Int) : Int × Int × Int :=
  let e := min e1 e2
  let a : Int := (m1 * 2 ^ (e1 - e).toNat : Nat)
  let b : Int := (m2 * 2 ^ (e2 - e).toNat : Nat)
  (if n1 then -a else a, if n2 then -b else b, e)

/-- A comparison of finite numbers and infinities by value; NaN compares as equal to everything. -/
def numCmp (x y : Num) : Ordering :=
  match x, y with
  | .nan, _ => .eq
  | _, .nan => .eq
  | .inf a, .inf b => if a = b then .eq else if a then .lt else .gt
  | .inf a, .fin _ _ _ => if a then .lt else .gt
  | .fin _ _ _, .inf b => if b then .gt else .lt
  | .fin n1 m1 e1, .fin n2 m2 e2 =>
    let (a, b, _) := alignInt n1 m1 e1 n2 m2 e2
    compare a b

/-- The exact sum. An exact zero from operands of opposite signs is +0, or -0 under RDN (R70). -/
def numAdd (rdn : Bool) (x y : Num) : Num :=
  match x, y with
  | .nan, _ => .nan
  | _, .nan => .nan
  | .inf a, .inf b => if a = b then .inf a else .nan
  | .inf a, .fin _ _ _ => .inf a
  | .fin _ _ _, .inf b => .inf b
  | .fin n1 m1 e1, .fin n2 m2 e2 =>
    let (a, b, e) := alignInt n1 m1 e1 n2 m2 e2
    let s := a + b
    if s = 0 then .fin (if n1 = n2 then n1 else rdn) 0 e else .fin (s < 0) s.natAbs e

/-- The exact product. -/
def numMul (x y : Num) : Num :=
  match x, y with
  | .nan, _ => .nan
  | _, .nan => .nan
  | .inf a, .inf b => .inf (a != b)
  | .inf a, .fin n m _ => if m = 0 then .nan else .inf (a != n)
  | .fin n m _, .inf b => if m = 0 then .nan else .inf (n != b)
  | .fin n1 m1 e1, .fin n2 m2 e2 => .fin (n1 != n2) (m1 * m2) (e1 + e2)

/-- The last bit set when something was discarded. -/
def odd (q : Nat) (inexact : Bool) : Nat := if inexact && q % 2 == 0 then q + 1 else q

/-- The number of bits to which quotients and roots are kept. -/
def divBits : Nat := 256

/-- The quotient, exact or with at least `divBits` bits and an odd last bit. -/
def numDiv (x y : Num) : Num :=
  match x, y with
  | .nan, _ => .nan
  | _, .nan => .nan
  | .inf _, .inf _ => .nan
  | .inf a, .fin n _ _ => .inf (a != n)
  | .fin n _ _, .inf b => .fin (n != b) 0 0
  | .fin n1 m1 e1, .fin n2 m2 e2 =>
    if m2 = 0 then (if m1 = 0 then .nan else .inf (n1 != n2))
    else if m1 = 0 then .fin (n1 != n2) 0 0
    else
      let k := divBits + bitLen m2
      let t := m1 * 2 ^ k
      .fin (n1 != n2) (odd (t / m2) (t % m2 != 0)) (e1 - e2 - (k : Int))

/-- A positive magnitude with an even exponent and at least 2 `divBits` bits. -/
def evenWide (m : Nat) (e : Int) : Nat × Int :=
  let k := 2 * divBits + (e % 2).toNat
  (m * 2 ^ k, e - (k : Int))

/-- The square root (R84, R251). -/
def numSqrt : Num → Num
  | .nan => .nan
  | .inf n => if n then .nan else .inf false
  | .fin n 0 e => .fin n 0 e
  | .fin true _ _ => .nan
  | .fin false m e =>
    let (mm, ee) := evenWide m e
    let r := isqrt mm
    .fin false (odd r (r * r != mm)) (ee / 2)

/-- The reciprocal square root, as IEEE 754-2019 recommends (R251). -/
def numRsqrt : Num → Num
  | .nan => .nan
  | .inf n => if n then .nan else .fin false 0 0
  | .fin n 0 _ => .inf n
  | .fin true _ _ => .nan
  | .fin false m e =>
    let mm := m * 2 ^ (e % 2).toNat
    let ee := e - e % 2
    let k := divBits + bitLen mm
    let t := 2 ^ (2 * k)
    let r := isqrt (t / mm)
    .fin false (odd r (r * r * mm != t)) (-(k : Int) - ee / 2)

/-- One rounding of m 2^e to a multiple of 2^q, as the multiple's factor (R58). -/
def roundAt (r : Rnd) (neg : Bool) (m : Nat) (e q : Int) : Nat :=
  if e ≥ q then m * 2 ^ (e - q).toNat
  else
    let s := (q - e).toNat
    let f := m / 2 ^ s
    let rem := m % 2 ^ s
    if rem = 0 then f
    else match r with
      | .rne => if 2 * rem > 2 ^ s || (2 * rem == 2 ^ s && f % 2 == 1) then f + 1 else f
      | .rtz => f
      | .rdn => if neg then f + 1 else f
      | .rup => if neg then f else f + 1
      | .rto => if f % 2 = 0 then f + 1 else f

/-- The exponent of the last place to which a magnitude is rounded in a format. -/
def roundExp (f : Fmt) (m : Nat) (e : Int) : Int :=
  max (fmtEmin f) (e + (bitLen m : Int) - ((fmtMant f : Int) + 1))

/-- The magnitude code of a finite magnitude rounded to a float format, unbounded above. -/
def roundMag (f : Fmt) (r : Rnd) (neg : Bool) (m : Nat) (e : Int) : Nat :=
  let q := roundExp f m e
  (q - fmtEmin f).toNat * 2 ^ fmtMant f + roundAt r neg m e q

/-- The sign bit of a float format. -/
def signBit (f : Fmt) (neg : Bool) : Nat := if neg then 2 ^ (fmtBits f - 1) else 0

/-- The code beyond the largest finite value under each mode (R70). -/
def overflowCode (f : Fmt) (r : Rnd) (neg : Bool) : Nat :=
  let big := fmtMax f
  let inf := (fmtInf f).getD big
  signBit f neg + (match r with
    | .rne => inf
    | .rtz => big
    | .rto => big
    | .rup => if neg then big else inf
    | .rdn => if neg then inf else big)

/-- The code of a number rounded once to FP32, BF16 or FP16 (R69, R70). -/
def numRound (f : Fmt) (r : Rnd) (x : Num) : Nat :=
  match x with
  | .nan => (fmtNan f).getD 0
  | .inf n => signBit f n + (fmtInf f).getD (fmtMax f)
  | .fin n m e =>
    if m = 0 then signBit f n
    else
      let c := roundMag f r n m e
      if c > fmtMax f then overflowCode f r n else signBit f n + c

/-- A number rounded to FP32, as a number. -/
def rnd32 (r : Rnd) (x : Num) : Num := numDecode .fp32 (numRound .fp32 r x)

/-- RNE to FP32. -/
def rne32 (x : Num) : Num := rnd32 .rne x

/-- The value of an INT32 code. -/
def int32 (code : Nat) : Int := sext 32 code

/-- An integer saturated to the INT32 range (R83). -/
def satInt (i : Int) : Int := if i > 2147483647 then 2147483647 else if i < -2147483648 then -2147483648 else i

/-- The code of an integer in INT32, saturated. -/
def int32Code (i : Int) : Nat := twos 32 (satInt i)

/-- The integer to which a finite number rounds. -/
def roundInt (r : Rnd) (neg : Bool) (m : Nat) (e : Int) : Int :=
  let k : Int := roundAt r neg m e 0
  if neg then -k else k

/-- Conversion to INT32 (R88). -/
def numToInt32 (r : Rnd) (x : Num) : Nat :=
  match x with
  | .nan => 0
  | .inf n => int32Code (if n then -2147483648 else 2147483647)
  | .fin n m e => int32Code (roundInt r n m e)

/-- The value of an element with its block's scale, exactly (R61, R64). -/
def numScaled (f : Fmt) (code scale : Nat) : Num :=
  if scale % 256 = 0xFF then .nan else numScale (numDecode f code) ((scale % 256 : Nat) - 127)

/-- A value decoded with its block scale: a value beyond the FP32 range becomes an infinity (R86, D). DESIGN CHOICE: also where the
destination is narrow (R86, S). R86 takes the exact value there and says that every source but INT32 decodes exactly to FP32,
and the text after R66 that no such source exceeds the largest FP32 value; for an element that does, it gives no result. -/
def numDecoded (f : Fmt) (code scale : Nat) : Num :=
  if fmtNarrow f then
    match numScaled f code scale with
    | .fin n m e => if numCmp (.fin false m e) (numDecode .fp32 0x7F7FFFFF) = .gt then .inf n else .fin n m e
    | y => y
  else numDecode f code

/-- max by R89. -/
def numMax (x y : Num) : Num :=
  match x, y with
  | .nan, b => b
  | a, .nan => a
  | a, b =>
    if numIsZero a && numIsZero b then (if numNeg? a && numNeg? b then a else numZero)
    else if numCmp a b = .lt then b else a

/-- min by R89. -/
def numMin (x y : Num) : Num :=
  match x, y with
  | .nan, b => b
  | a, .nan => a
  | a, b =>
    if numIsZero a && numIsZero b then (if numNeg? a || numNeg? b then .fin true 0 0 else numZero)
    else if numCmp b a = .lt then b else a

/-! ### Scale-on-write (R65 to R68) -/

/-- The smallest e with amax at most F 2^e, before the bounds of R66, for a positive magnitude. -/
def scaleExp (fmax : Num) (m : Nat) (e : Int) : Int :=
  match fmax with
  | .fin _ fm fe =>
    let guess := (e + (bitLen m : Int)) - (fe + (bitLen fm : Int))
    let ok := fun (k : Int) => numCmp (.fin false m e) (.fin false fm (fe + k)) != .gt
    if ok (guess - 1) then guess - 1 else if ok guess then guess else guess + 1
  | _ => 0

/-- amax over the finite elements of a block (R66). -/
def amaxFinite (vals : List Num) : Num :=
  vals.foldl (fun a v => if numIsFin v then numMax a (numAbs v) else a) numZero

/-- The exponent e of R66, within its bounds. -/
def blockExp (f : Fmt) (vals : List Num) : Int :=
  match amaxFinite vals with
  | .fin _ m e => if m = 0 then 0 else min 127 (max (-127) (scaleExp (numDecode f (fmtMax f)) m e))
  | _ => 0

/-- A finite quotient rounded to a narrow format, held at F (R67). -/
def quantise (f : Fmt) (r : Rnd) (neg : Bool) (m : Nat) (e : Int) : Nat :=
  if fmtInt f then
    let k : Int := min (fmtMax f : Int) (roundAt r neg m e 0)
    twos (fmtBits f) (if neg then -k else k)
  else if m = 0 then signBit f neg
  else signBit f neg + min (fmtMax f) (roundMag f r neg m e)

/-- The code of an element under R67 and R68 with block exponent `ex`. -/
def quantElem (f : Fmt) (r : Rnd) (ex : Int) (v : Num) : Nat :=
  match v with
  | .nan => (fmtNan f).getD 0
  | .inf n =>
    if f = .e5m2 then signBit f n + 0x7C
    else if fmtInt f then twos (fmtBits f) (if n then -(fmtMax f : Int) else (fmtMax f : Int))
    else signBit f n + fmtMax f
  | .fin n m e => quantise f r n m (e - ex)

/-- The formats whose blocks take the NaN scale (R68). -/
def nanScaleFmt (f : Fmt) : Bool := fmtNarrow f && f != .e4m3 && f != .e5m2

/-- One block by scale-on-write: its scale code and its element codes. `mid` is the MID format of a chain (R71). -/
def writeBlock (f : Fmt) (r : Rnd) (mid : Option Fmt) (vals : List Num) : Nat × List Nat :=
  if vals.any numIsNan && nanScaleFmt f then (0xFF, vals.map (fun _ => 0))
  else
    let ex := blockExp f vals
    let thru := fun (v : Num) =>
      match mid, v with
      | some g, .fin n m e => numScale (numDecode g (numRound g .rto (.fin n m (e - ex)))) ex
      | _, w => w
    ((ex + 127).toNat, vals.map (fun v => quantElem f r ex (thru v)))

/-! ### Packing (R53) and the scale area (R62, R63) -/

/-- The bytes that a row of `n` elements occupies (R53). -/
def rowBytes (f : Fmt) (n : Nat) : Nat :=
  match fmtBits f with
  | 4 => (n + 1) / 2
  | 6 => (n + 3) / 4 * 3
  | w => n * (w / 8)

/-- The packed bytes of a row of element codes. -/
def packRow (f : Fmt) (codes : List Nat) : List Byte :=
  leBytes (rowBytes f codes.length) (codes.foldr (fun c acc => acc * 2 ^ fmtBits f + c % 2 ^ fmtBits f) 0)

/-- The element codes of a packed row. -/
def unpackRow (f : Fmt) (n : Nat) (bs : List Byte) : List Nat :=
  let v := leNat bs
  (List.range n).map (fun i => bits v (fmtBits f * i) (fmtBits f))

/-- The block sizes of R59. -/
def blkSize (blk : Nat) : Nat := 16 * 2 ^ (blk % 4)

/-- The index of the scale byte of element (i, j) of a tensor with `cols` columns (R63). -/
def scaleIndex (b : Nat) (dirCol : Bool) (cols i j : Nat) : Nat :=
  if dirCol then i / b * cols + j else i * cdiv cols b + j / b

/-- The number of bytes in the scale area of a tensor. -/
def scaleBytes (b : Nat) (dirCol : Bool) (rows cols : Nat) : Nat :=
  if dirCol then cdiv rows b * cols else rows * cdiv cols b

/-- A list cut into pieces of `b` elements, the last one shorter; `n` pieces at most. -/
def chunks {α : Type} (b : Nat) : Nat → List α → List (List α)
  | 0, _ => []
  | n + 1, l => if l.isEmpty then [] else l.take b :: chunks b n (l.drop b)

/-- A table of rows turned on its side. -/
def transpose {α : Type} (d : α) (rows : List (List α)) (cols : Nat) : List (List α) :=
  (List.range cols).map (fun j => rows.map (fun r => r.getD j d))

/-- Scale-on-write of a whole tensor given as rows: the scale area and the rows of codes (R62 to R68). -/
def writeTensor (f : Fmt) (r : Rnd) (mid : Option Fmt) (b : Nat) (dirCol : Bool) (rows : List (List Num)) (cols : Nat) :
    List Nat × List (List Nat) :=
  let row := fun (l : List Num) => (chunks b (cdiv l.length b) l).map (writeBlock f r mid)
  if dirCol then
    let blocks := (transpose numZero rows cols).map row
    let codes := blocks.map (fun l => l.flatMap (·.2))
    let scales := transpose 0 (blocks.map (fun l => l.map (·.1))) (cdiv rows.length b)
    (scales.flatten, transpose 0 codes rows.length)
  else
    let blocks := rows.map row
    (blocks.flatMap (fun l => l.map (·.1)), blocks.map (fun l => l.flatMap (·.2)))

/-! ### Stochastic rounding (R74 to R78) -/

/-- The finaliser of R76. -/
def srMix (z : BitVec 64) : BitVec 64 :=
  let a := (z ^^^ (z >>> 30)) * 0xBF58476D1CE4E5B9
  let b := (a ^^^ (a >>> 27)) * 0x94D049BB133111EB
  b ^^^ (b >>> 31)

/-- The 32 random bits of R76. -/
def srBits (seed w1 w2 : BitVec 64) : Nat := (srMix (srMix (seed ^^^ w1) ^^^ w2)).toNat / 2 ^ 32

/-- The word w1 of R77. -/
def srW1 (site core array issue : Nat) : BitVec 64 :=
  BitVec.ofNat 64 (site * 2 ^ 60 + core % 256 * 2 ^ 52 + array % 16 * 2 ^ 48 + issue % 2 ^ 48)

/-- The word w2 of R77. -/
def srW2 (top mid low : Nat) : BitVec 64 :=
  BitVec.ofNat 64 (top % 256 * 2 ^ 56 + mid % 2 ^ 24 * 2 ^ 32 + low % 2 ^ 32)

/-- A stochastic addition of two FP32 numbers with random bits r (R75), as an FP32 code. -/
def srAdd (r : Nat) (x y : Num) : Nat :=
  match numAdd false x y with
  | .nan => numRound .fp32 .rne .nan
  | .inf n => numRound .fp32 .rne (.inf n)
  | .fin n m e =>
    if m = 0 then (if numNeg? x && numNeg? y then 0x80000000 else 0)
    else
      let c := min (fmtMax .fp32) (roundMag .fp32 .rtz n m e)
      match numDecode .fp32 c with
      | .fin _ lm le =>
        -- the magnitude above lo, in units of lo's binade: `le` is the exponent of that unit
        let (a, b, g) := alignInt false m e false lm le
        let d := ((a - b).toNat * 2 ^ (32 + (g - le).toNat)) / 2 ^ (le - g).toNat
        let res := if d > r then c + 1 else c
        if res = 0 then 0 else signBit .fp32 n + res
      | _ => signBit .fp32 n + c

end Sys2Proof.Machine
end

