-- ==== Sys2Proof/Config.lean ====
section
/-!
DEFINITION. The free values: constants without a body, which no proof can look into. Each stands for a value that the manual
leaves open; a statement that mentions one holds whatever it is. The first argument of each is the count of free values drawn
so far (`Dev.freeCtr`), so that two draws are unrelated.
-/
namespace Sys2Proof.Config

/-- An undefined word of `w` bits: the value of a result that the manual calls undefined or not specified. -/
opaque freeBits (w : Nat) (draw : Nat) (at_ : Nat) : BitVec w

/-- An undefined choice between two outcomes: whether a byte that "holds old or new values" holds the new one. -/
opaque freeBit (draw : Nat) (at_ : Nat) : Bool

/-- An undefined byte: of the summary of measurements that R491 does not describe. -/
opaque freeByte (draw : Nat) (at_ : Nat) : BitVec 8

/-- What the entropy source of R494 delivers to seed the CTR_DRBG: 32 bytes of entropy input and 16 of nonce. -/
opaque entropy (draw : Nat) : BitVec 384

/-- An undefined natural number: a time or an amount that the manual bounds but does not give. -/
opaque freeNat (draw : Nat) (at_ : Nat) : Nat

/-- How many rows a link between two members of a ring holds before it is full (R136). -/
opaque ringLinkRows : Nat

/-- The DMTF value type that an SPDM measurement reports beside its form; R492 gives no type. -/
opaque measurementType (index : Nat) : BitVec 7

/-- CTExponent of the SPDM capabilities, which R491 does not give. -/
opaque spdmCtExponent : BitVec 8

/-- The SEV that the Registrar gives an event of a CODE; R530 gives the encoding and no assignment. -/
opaque severity (code : Nat) : BitVec 2

end Sys2Proof.Config
end

