-- ==== Sys2Proof/Machine/Map.lean ====
section
/-!
DEFINITION. Operations of the sparse tables in which registers and sparse state are held. Keys rise strictly; a put keeps
that order.
-/
namespace Sys2Proof.Machine

/-- The value listed under a key. -/
def mapGet? {α : Type} : NMap α → Nat → Option α
  | [], _ => none
  | (a, v) :: r, k => if a = k then some v else mapGet? r k

/-- The value under a key, `d` when the key is not listed. -/
def mapGet {α : Type} (d : α) (m : NMap α) (k : Nat) : α := (mapGet? m k).getD d

/-- The table with the key bound to the value. -/
def mapPut {α : Type} : NMap α → Nat → α → NMap α
  | [], k, v => [(k, v)]
  | (a, w) :: r, k, v =>
    if k < a then (k, v) :: (a, w) :: r
    else if k = a then (k, v) :: r
    else (a, w) :: mapPut r k v

/-- The table without the key. -/
def mapDel {α : Type} (m : NMap α) (k : Nat) : NMap α := m.filter (fun p => p.1 != k)

/-- The table with the value under the key (`d` when unlisted) put through `f`. -/
def mapMod {α : Type} (d : α) (m : NMap α) (k : Nat) (f : α → α) : NMap α := mapPut m k (f (mapGet d m k))

/-- Element `i` of a list with `x` in its place; the list unchanged when it has no element `i`. -/
def listSet {α : Type} (l : List α) (i : Nat) (x : α) : List α := l.set i x

end Sys2Proof.Machine
end

