-- ==== Sys2Proof/Machine/Ops.lean ====
section
/-!
DEFINITION. Named operations over the device: its parts, its memory, free values, messages and interrupts, and the event log.
-/
namespace Sys2Proof.Machine

/-! ### Parts of the device -/

/-- Core `v`. -/
def coreOf (d : Dev) (v : Nat) : Core := mapGet {} d.cores v
/-- The device with core `v` replaced. -/
def setCore (d : Dev) (v : Nat) (c : Core) : Dev := { d with cores := mapPut d.cores v c }
/-- The device with core `v` put through `f`. -/
def modCore (d : Dev) (v : Nat) (f : Core → Core) : Dev := setCore d v (f (coreOf d v))
/-- Array `a` of a core. -/
def arrOf (c : Core) (a : Nat) : ArrayState := mapGet {} c.arrays a
/-- The core with array `a` put through `f`. -/
def modArr (c : Core) (a : Nat) (f : ArrayState → ArrayState) : Core := { c with arrays := mapPut c.arrays a (f (arrOf c a)) }
/-- HBM controller `c`. -/
def hbmOf (d : Dev) (c : Nat) : HbmCtl := mapGet {} d.hbm c
/-- The device with HBM controller `c` put through `f`. -/
def modHbm (d : Dev) (c : Nat) (f : HbmCtl → HbmCtl) : Dev := { d with hbm := mapPut d.hbm c (f (hbmOf d c)) }
/-- CXL port `p`. -/
def cxlOf (d : Dev) (p : Nat) : CxlPort := mapGet {} d.cxl p
/-- The device with CXL port `p` put through `f`. -/
def modCxl (d : Dev) (p : Nat) (f : CxlPort → CxlPort) : Dev := { d with cxl := mapPut d.cxl p (f (cxlOf d p)) }
/-- Fabric port `p`. -/
def fabPort (d : Dev) (p : Nat) : FabPort := mapGet {} d.fab.ports p
/-- The device with fabric port `p` put through `f`. -/
def modPort (d : Dev) (p : Nat) (f : FabPort → FabPort) : Dev :=
  { d with fab := { d.fab with ports := mapPut d.fab.ports p (f (fabPort d p)) } }
/-- Context `k`. -/
def ctxOf (d : Dev) (k : Nat) : Ctx := mapGet {} d.host.ctxs k
/-- The device with context `k` put through `f`. -/
def modCtx (d : Dev) (k : Nat) (f : Ctx → Ctx) : Dev :=
  { d with host := { d.host with ctxs := mapPut d.host.ctxs k (f (ctxOf d k)) } }
/-- HDMA channel `c`. -/
def hdmaOf (d : Dev) (c : Nat) : Hdma := mapGet {} d.host.hdma c
/-- The device with HDMA channel `c` put through `f`. -/
def modHdma (d : Dev) (c : Nat) (f : Hdma → Hdma) : Dev :=
  { d with host := { d.host with hdma := mapPut d.host.hdma c (f (hdmaOf d c)) } }
/-- The pacer of region `r`. -/
def pacerOf (d : Dev) (r : Nat) : Pacer := mapGet {} d.pace.pacers r
/-- The device with the pacer of region `r` put through `f`. -/
def modPacer (d : Dev) (r : Nat) (f : Pacer → Pacer) : Dev :=
  { d with pace := { d.pace with pacers := mapPut d.pace.pacers r (f (pacerOf d r)) } }
/-- Bell `b`. -/
def bellOf (d : Dev) (b : Nat) : BellState := mapGet {} d.bells b
/-- The device with Bell `b` put through `f`. -/
def modBell (d : Dev) (b : Nat) (f : BellState → BellState) : Dev := { d with bells := mapPut d.bells b (f (bellOf d b)) }

/-- An engine's streams: those of a core or of an HDMA channel. -/
def strmOf (d : Dev) : Engine → StreamState
  | .core v => (coreOf d v).strm
  | .hdma c => (hdmaOf d c).strm
/-- The device with an engine's streams put through `f`. -/
def modStrm (d : Dev) (e : Engine) (f : StreamState → StreamState) : Dev :=
  match e with
  | .core v => modCore d v (fun c => { c with strm := f c.strm })
  | .hdma c => modHdma d c (fun h => { h with strm := f h.strm })

/-! ### The part in hand (R4, R21 to R25, R44) -/

/-- The number of virtual cores of the grade (R25). -/
def gridCores (d : Dev) : Nat := if d.fuses.grade = 2 then 176 else 192
/-- HBM bytes of the grade (R43). -/
def hbmCap (d : Dev) : Nat := if d.fuses.grade = 3 then 0x3000000000 else 0x4800000000
/-- Bytes of one C-die's slice (R44). -/
def hbmSlice (d : Dev) : Nat := hbmCap d / 4
/-- A0 silicon (R5). -/
def isA0 (d : Dev) : Bool := d.fuses.step == 0
/-- The dark row of a C-die (R21, R41). -/
def darkRow (d : Dev) (n : Nat) : Nat :=
  match n with
  | 0 => d.fuses.dark0.toNat
  | 1 => d.fuses.dark1.toNat
  | 2 => d.fuses.dark2.toNat
  | _ => d.fuses.dark3.toNat
/-- The C-die of physical column X and row Y. -/
def dieOf (x y : Nat) : Nat := x / 8 + 2 * (y / 7)
/-- The physical core (X, Y) is enabled (R21, R22). -/
def siteEnabled (d : Dev) (x y : Nat) : Bool :=
  let n := dieOf x y
  let lc := x % 8
  let row := y % 7
  let halfRow := d.fuses.half && (if n < 2 then row == 6 && lc < 4 else row == 0 && 4 ≤ lc)
  row != darkRow d n && !halfRow
/-- The physical rows Y of the enabled cores of a column, ascending (R24). -/
def colRows (d : Dev) (x : Nat) : List Nat := indices 14 (fun y => siteEnabled d x y)
/-- The physical position (X, Y) of virtual core v (R24, R25). -/
def physOf (d : Dev) (v : Nat) : Nat × Nat := (v % 16, (colRows d (v % 16)).getD (v / 16) 0)
/-- The region of R429 of the core site (X, Y). -/
def siteRegion (x y : Nat) : Nat := 16 * y + x
/-- The region of virtual core v. -/
def coreRegion (d : Dev) (v : Nat) : Nat := siteRegion (physOf d v).1 (physOf d v).2
/-- The position (X, Y) of a core-site region. -/
def regionSite (r : Nat) : Nat × Nat := (r % 16, r / 16)
/-- The virtual core of a region, when its site is enabled and in the grid. -/
def regionCore (d : Dev) (r : Nat) : Option Nat :=
  if r < 224 then
    let (x, y) := regionSite r
    if siteEnabled d x y then
      let v := 16 * ((colRows d x).idxOf y) + x
      if v < gridCores d then some v else none
    else none
  else none

/-! ### Free values -/

/-- A draw: the counter advances. -/
def draw (d : Dev) : Dev := { d with freeCtr := d.freeCtr + 1 }
/-- A free word of w bits for the present draw. -/
def freeWord (d : Dev) (w at_ : Nat) : BitVec w := Config.freeBits w d.freeCtr at_

/-! ### Byte memory -/

/-- What an unlisted byte reads as (DESIGN CHOICE; the manual gives no power-on contents). -/
def memDefault : Byte := 0
/-- The canonical form: addresses strictly rising and no entry equal to the unlisted value. -/
def memWf : List Host.Cell → Bool
  | [] => true
  | [(_, b)] => b != memDefault
  | (a, b) :: (a2, b2) :: r => b != memDefault && decide (a < a2) && memWf ((a2, b2) :: r)
/-- The byte at an address. -/
def memByte (m : List Host.Cell) (a : Nat) : Byte :=
  match m with
  | [] => memDefault
  | (x, b) :: r => if x = a then b else memByte r a
/-- The cells of a run of bytes, without those that equal the unlisted value. -/
def memCells : Nat → List Byte → List Host.Cell
  | _, [] => []
  | a, b :: r => if b = memDefault then memCells (a + 1) r else (a, b) :: memCells (a + 1) r
/-- The memory with the bytes stored from an address on. -/
def memWrite (m : List Host.Cell) (a : Nat) (bs : List Byte) : List Host.Cell :=
  m.filter (fun c => decide (c.1 < a)) ++ memCells a bs ++ m.filter (fun c => decide (a + bs.length ≤ c.1))
/-- The memory with a range unlisted. -/
def memClear (m : List Host.Cell) (a len : Nat) : List Host.Cell :=
  m.filter (fun c => decide (c.1 < a) || decide (a + len ≤ c.1))
/-- `n` bytes from an address. -/
def memRead (m : List Host.Cell) (a n : Nat) : List Byte := (List.range n).map (fun i => memByte m (a + i))

/-! ### The address map (R43 to R46) -/

/-- What a local address names. -/
inductive AddrKind where
  | hbm | board (p : Nat) | window (v : Nat) (off : Nat) | reg (off : Nat) | host (h : Nat) | none
deriving DecidableEq, Repr

/-- The bottom of CXL port p's range. -/
def boardBase (p : Nat) : Nat := 0x100000000000 + p * 0x20000000000
/-- The populated bytes of CXL port p (R45, R308): none while the link is down. -/
def boardCap (d : Dev) (p : Nat) : Nat :=
  let c := cxlOf d p
  match c.link with
  | .up64 => c.cap.toNat * 0x10000000
  | .up32 => c.cap.toNat * 0x10000000
  | _ => 0
/-- The base of a core's window. -/
def winBase (v : Nat) : Nat := 0x200000000000 + v * 0x1000000
/-- Window offsets of scratchpad. -/
def inScratch (off : Nat) : Bool := off < 0x600000
/-- Window offsets of the Gradebook. -/
def inGrade (off : Nat) : Bool := 0x800000 ≤ off && off < 0x900000

/-- What a local address names on this part (R43 to R46, R49). -/
def addrKind (d : Dev) (a : Nat) : AddrKind :=
  if a < hbmCap d then .hbm
  else if boardBase 0 ≤ a ∧ a < boardBase 0 + boardCap d 0 then .board 0
  else if boardBase 1 ≤ a ∧ a < boardBase 1 + boardCap d 1 then .board 1
  else if winBase 0 ≤ a ∧ a < winBase (gridCores d) then
    let v := (a - winBase 0) / 0x1000000
    let off := (a - winBase 0) % 0x1000000
    if inScratch off || inGrade off || 0xF00000 ≤ off then .window v off else .none
  else if 0x300000000000 ≤ a ∧ a < 0x300001000000 then .reg (a - 0x300000000000)
  else if 0x400000000000 ≤ a ∧ a < 0x800000000000 then .host (a - 0x400000000000)
  else .none

/-- Where an HBM address lies (R295): controller, controller-local granule, pseudo-channel, and byte within the granule. -/
structure HbmPlace where
  ctl : Nat
  granule : Nat
  channel : Nat
  byte : Nat
deriving DecidableEq, Repr
/-- The interleave of a slice over its die's three controllers (R295). -/
def hbmPlace (d : Dev) (a : Nat) : HbmPlace :=
  let g := a % hbmSlice d / 256
  let h := g / 3
  { ctl := 3 * (a / hbmSlice d) + g % 3, granule := h, channel := bits h 0 5 ^^^ bits h 5 5 ^^^ bits h 10 5, byte := a % hbmSlice d % 256 }
/-- The HBM controller that serves an HBM address. -/
def hbmCtlOf (d : Dev) (a : Nat) : Nat := (hbmPlace d a).ctl

/-! ### Where a local address lies: the redirect and the tier cache -/

/-- The COPY section in force. -/
def copyCfg (d : Dev) : Option CopyCfg := d.ttl.active.bind (·.copy)
/-- The TIER section in force (R313). -/
def tierCfg (d : Dev) : TierCfg := (d.ttl.active.map (·.tier)).getD {}
/-- Bytes of the protected pages of a range. -/
def rangeLen (r : CopyRange) : Nat := r.pages * 0x200000
/-- The protected HBM range that holds an address (R383). -/
def protRange (d : Dev) (a : Nat) : Option CopyRange :=
  (copyCfg d).bind (fun c => c.ranges.find? (fun r => r.base < 0x100000000000 && r.base ≤ a && a < r.base + rangeLen r))
/-- The frame of a protected granule: the shadow frame when the table lists the granule, else the home frame. -/
def frameOf (tbl : List Nat) (r : CopyRange) (a : Nat) : Nat := if tbl.contains (a / 256) then a - r.base + r.shadow else a

/-- SIZE and CBASE of a port (R311). -/
def tierSize (t : TierCfg) (p : Nat) : Nat := if p = 0 then t.size0 else t.size1
/-- CBASE of a port. -/
def tierCbase (t : TierCfg) (p : Nat) : Nat := if p = 0 then t.cbase0 else t.cbase1
/-- LBASE of a port. -/
def tierLbase (t : TierCfg) (p : Nat) : Nat := if p = 0 then t.lbase0 else t.lbase1
/-- The port whose range holds an address. -/
def boardPort (a : Nat) : Option Nat :=
  if boardBase 0 ≤ a ∧ a < boardBase 1 then some 0
  else if boardBase 1 ≤ a ∧ a < boardBase 2 then some 1 else none
/-- The board page number of an address (R316). -/
def boardPage (p a : Nat) : Nat := (a - boardBase p) / 0x10000
/-- The cache line that holds a page. -/
def lineOf (d : Dev) (p page : Nat) : Option CacheLine := (cxlOf d p).lines.find? (fun l => l.page == page)
/-- The HBM address of a cache way (R316). -/
def wayAddr (d : Dev) (p set way : Nat) : Nat := tierCbase (tierCfg d) p + (8 * set + way) * 0x10000

/-- Where the current value of a local address lies: the CUR frame of a protected granule (R386), the tier cache for a cached
board page (R316), else the address itself. -/
def placeOf (d : Dev) (a : Nat) : Nat :=
  match protRange d a with
  | some r => frameOf d.copy.cur r a
  | none =>
    match boardPort a with
    | some p =>
      match lineOf d p (boardPage p a) with
      | some l => wayAddr d p l.set l.way + (a - boardBase p) % 0x10000
      | none => a
    | none => a

/-- Nothing redirects: no COPY section and no cached page. -/
def plainMem (d : Dev) : Bool := (copyCfg d).isNone && (cxlOf d 0).lines.isEmpty && (cxlOf d 1).lines.isEmpty

/-- The byte at a local address. -/
def rdByte (d : Dev) (a : Nat) : Byte := memByte d.mem (placeOf d a)
/-- `n` bytes from a local address. -/
def rdBytes (d : Dev) (a n : Nat) : List Byte :=
  if plainMem d then memRead d.mem a n else (List.range n).map (fun i => rdByte d (a + i))
/-- The first word with an uncorrectable error that a read of the range touches, as the address of its granule (R302). -/
def rdBad (d : Dev) (a n : Nat) : Option Nat :=
  if d.badWords.isEmpty then none
  else ((List.range n).find? (fun i => d.badWords.contains (placeOf d (a + i) / 8))).map (fun i => placeOf d (a + i) / 64 * 64)

/-- Bytes stored at a place; a word with an uncorrectable error takes only a whole new word (R301, R302). The answer says
whether such a word was met in part. -/
def wrPlace (d : Dev) (a : Nat) (bs : List Byte) : Dev × Bool :=
  if d.badWords.isEmpty then ({ d with mem := memWrite d.mem a bs }, false)
  else
    let whole := fun w => a ≤ 8 * w && 8 * w + 8 ≤ a + bs.length
    let hit := fun w => 8 * w < a + bs.length && a < 8 * w + 8
    let part := d.badWords.filter (fun w => hit w && !whole w)
    let m := part.foldl (fun m w => memWrite m (8 * w) (memRead d.mem (8 * w) 8)) (memWrite d.mem a bs)
    ({ d with mem := m, badWords := d.badWords.filter (fun w => !whole w) }, !part.isEmpty)

/-- The words of the granule of an address. -/
def granuleWords (a : Nat) : List Nat := (List.range 32).map (fun i => a / 256 * 32 + i)
/-- A write within one granule goes to the other frame and takes its other bytes from the SNAP frame (R387). -/
def redirects (d : Dev) (a : Nat) : Bool :=
  (protRange d a).isSome && d.copy.state == .frozen && d.copy.cur.contains (a / 256) == d.copy.snap.contains (a / 256)
/-- The first address at which a write of `n` bytes that stays in one granule cannot go on, with the granule of the uncorrectable
error: a word that it replaces only in part is bad, or, where it is redirected, a word that the merge takes from the SNAP frame
(R299, R301, R387). -/
def badMergeIn (d : Dev) (a n : Nat) : Option (Nat × Nat) :=
  let whole := fun w => decide (a ≤ 8 * w) && decide (8 * w + 8 ≤ a + n)
  let bad := fun w => d.badWords.contains (placeOf d (8 * w) / 8)
  match (granuleWords a).find? (fun w => !whole w && (redirects d a || decide (8 * w < a + n && a < 8 * w + 8)) && bad w) with
  | some w => some (if redirects d a then a else max a (8 * w), placeOf d (8 * w) / 64 * 64)
  | none => none
/-- The same for a write of any length, granule by granule: `k` granules at most. -/
def badMergeSpan (d : Dev) : Nat → Nat → Nat → Option (Nat × Nat)
  | 0, _, _ => none
  | k + 1, a, n =>
    if n = 0 then none
    else
      let m := min n (256 - a % 256)
      (badMergeIn d a m).or (badMergeSpan d k (a + m) (n - m))
/-- Where a write at a local address meets an uncorrectable error, if it does. -/
def badMerge (d : Dev) (a n : Nat) : Option (Nat × Nat) :=
  if d.badWords.isEmpty then none else badMergeSpan d (n / 256 + 2) a n

/-- A store within one 256-byte granule, through the redirect (R386, R387). A merge that meets an uncorrectable error writes
nothing (R301). -/
def wrGranule (d : Dev) (a : Nat) (bs : List Byte) : Dev × Bool :=
  match protRange d a with
  | none => wrPlace d (placeOf d a) bs
  | some r =>
    let g := a / 256
    if redirects d a then
      if (badMerge d a bs.length).isSome then (d, true)
      else
      -- the write goes to the other frame, whose other bytes come from the SNAP frame
      let old := memRead d.mem (frameOf d.copy.snap r (g * 256)) 256
      let cur := if d.copy.cur.contains g then d.copy.cur.filter (· != g) else g :: d.copy.cur
      let d1 := { d with copy := { d.copy with cur := cur } }
      let d2 := (wrPlace d1 (frameOf cur r (g * 256)) old).1
      wrPlace d2 (frameOf cur r a) bs
    else wrPlace d (frameOf d.copy.cur r a) bs

/-- A store of any length, granule by granule: `n` granules at most. -/
def wrSpan : Nat → Dev → Nat → List Byte → Dev × Bool
  | 0, d, _, _ => (d, false)
  | n + 1, d, a, bs =>
    if bs.isEmpty then (d, false)
    else
      let k := 256 - a % 256
      let (d1, u1) := wrGranule d a (bs.take k)
      let (d2, u2) := wrSpan n d1 (a + k) (bs.drop k)
      (d2, u1 || u2)

/-- A store at a local address. -/
def wrBytes' (d : Dev) (a : Nat) (bs : List Byte) : Dev × Bool :=
  if plainMem d then wrPlace d a bs else wrSpan (bs.length / 256 + 2) d a bs
/-- A store at a local address, its error answer dropped. -/
def wrBytes (d : Dev) (a : Nat) (bs : List Byte) : Dev := (wrBytes' d a bs).1
/-- Whole words are replaced, and an uncorrectable error in one is gone (R302). -/
def clearBad (d : Dev) (a len : Nat) : Dev :=
  { d with badWords := d.badWords.filter (fun w => !(decide (a ≤ 8 * w) && decide (8 * w + 8 ≤ a + len))) }
/-- A range of zeros: unlisted in memory. -/
def wipe (d : Dev) (a len : Nat) : Dev := clearBad { d with mem := memClear d.mem a len } a len

/-! ### A core's own window -/

/-- Bytes of a core's window. -/
def winRead (d : Dev) (v off n : Nat) : List Byte := rdBytes d (winBase v + off) n
/-- A store into a core's window. -/
def winWrite (d : Dev) (v off : Nat) (bs : List Byte) : Dev := wrBytes d (winBase v + off) bs
/-- A 32-bit word of a core's window. -/
def winWord (d : Dev) (v off : Nat) : Nat := leNat (winRead d v off 4)

/-! ### Messages, interrupts and the event log -/

/-- The device sends something. -/
def emit (d : Dev) (o : Out) : Dev := { d with out := o :: d.out }

/-- A source fires (R452). -/
def signal (d : Dev) (vec : Nat) : Dev :=
  if d.host.msixEn then
    if d.host.msixAll || bit d.host.msixMask.toNat vec then
      { d with host := { d.host with msixPend := d.host.msixPend ||| BitVec.ofNat 16 (2 ^ vec) } }
    else emit d (.msix vec)
  else d

/-- An event-log entry (R529 to R531); every entry signals vector 2. -/
def logEvent (d : Dev) (code src arg : Nat) (data : List Byte) : Dev :=
  let e : LogEntry :=
    { time := d.glb.timeUs, seq := d.reg.logSeq, code := BitVec.ofNat 16 code, sev := (Config.severity code).setWidth 8,
      src := BitVec.ofNat 16 src, arg := BitVec.ofNat 16 arg, data := slice data 0 12 }
  signal { d with reg := { d.reg with log := (e :: d.reg.log).take 4096, logSeq := d.reg.logSeq + 1 } } 2

/-- A little-endian field for DATA. -/
def le (n v : Nat) : List Byte := leBytes n v
/-- One byte. -/
def by1 (v : Nat) : List Byte := leBytes 1 v

/-- SRC of the Registrar, and ARG of no part (R530). -/
def srcRegistrar : Nat := 0x100
/-- ARG when nothing is concerned. -/
def argNone : Nat := 0xFFFF
/-- The block value of a virtual core (R518). -/
def coreBlock (d : Dev) (v : Nat) : Nat := coreRegion d v

/-- The time in µs (R530). -/
def nowUs (d : Dev) : Nat := d.glb.timeUs.toNat

/-- A Timetable is active. -/
def ttActive (d : Dev) : Bool := d.ttl.active.isSome
/-- The whole of BAR0 is served: the Syllabus is active (R433). -/
def syllActive (d : Dev) : Bool := d.host.syll
/-- Some context has an active job. -/
def jobActive (d : Dev) : Bool := (List.range 4).any (fun k => (ctxOf d k).job.isSome)
/-- A device ID names this device (R47). -/
def isSelf (d : Dev) (id : Nat) : Bool := id == 0xFFFF || id == d.fab.id.toNat
/-- A word of configuration parity is in fault (R539). -/
def pfault (d : Dev) (off : Nat) : Bool := d.glb.faulted.contains off
/-- The hardware changes a word and recomputes its parity in the same step (R538). -/
def fixParity (d : Dev) (off : Nat) : Dev := { d with glb := { d.glb with parityWrong := d.glb.parityWrong.filter (· != off) } }
/-- A write of a whole word recomputes its parity and clears its fault (R539). -/
def clearFault (d : Dev) (o : Nat) : Dev :=
  { d with glb := { d.glb with parityWrong := d.glb.parityWrong.filter (· != o), faulted := d.glb.faulted.filter (· != o) } }

end Sys2Proof.Machine
end

