-- ==== Sys2Proof/Machine/Operands.lean ====
section
/-!
DEFINITION. The 128-bit command word of R152 to R161 and its operands: fields, operand references, resolved addresses,
regions (R175) and register increments (R157), and the layouts of array operands (R104 to R107). A word is read as a number.
-/
namespace Sys2Proof.Machine

/-! ### Header (R152) -/

/-- OPC. -/
def cwOpc (w : Nat) : Nat := bits w 0 8
/-- QUE. -/
def cwQue (w : Nat) : Nat := bits w 8 3
/-- TAG. -/
def cwTag (w : Nat) : Nat := bits w 12 8

/-- An array opcode (R153). -/
def cwArray (w : Nat) : Bool := 0x20 ≤ cwOpc w && cwOpc w ≤ 0x26
/-- A vector opcode. -/
def cwVector (w : Nat) : Bool := 0x30 ≤ cwOpc w && cwOpc w ≤ 0x38
/-- MMA.F, MMA.T or MMA.O. -/
def cwMma (w : Nat) : Bool := 0x20 ≤ cwOpc w && cwOpc w ≤ 0x22
/-- The array mode of an MMA opcode. -/
def cwMode (w : Nat) : MmaMode := if cwOpc w = 0x21 then .t else if cwOpc w = 0x22 then .o else .f

/-- The opcode is reserved (R153). -/
def opcReserved (o : Nat) : Bool :=
  !((1 ≤ o && o ≤ 0xB) || (0x10 ≤ o && o ≤ 0x12) || (0x20 ≤ o && o ≤ 0x26) || (0x30 ≤ o && o ≤ 0x38))
/-- QUE is what the opcode requires (R153). -/
def queOk (o q : Nat) : Bool :=
  if (1 ≤ o && o ≤ 0xB) || o == 0x11 then q == 7
  else if o == 0x10 || o == 0x12 then q == 5
  else if o < 0x30 then q ≤ 3
  else q == 4

/-! ### Array layout (R158) -/

/-- SWAP. -/
def aSwap (w : Nat) : Bool := bit w 20
/-- ACC. -/
def aAcc (w : Nat) : Bool := bit w 21
/-- FUSE. -/
def aFuse (w : Nat) : Bool := bit w 22
/-- RING. -/
def aRing (w : Nat) : Bool := bit w 23
/-- HEAD. -/
def aHead (w : Nat) : Bool := bit w 24
/-- SPLIT. -/
def aSplit (w : Nat) : Nat := bits w 25 2
/-- INCX. -/
def aIncX (w : Nat) : Bool := bit w 27
/-- INCY. -/
def aIncY (w : Nat) : Bool := bit w 28
/-- INCD. -/
def aIncD (w : Nat) : Bool := bit w 29
/-- M; for GB.CLEAR the tile mask. -/
def aM (w : Nat) : Nat := bits w 32 16
/-- The tile t of GB.DRAIN. -/
def aTile (w : Nat) : Nat := bits w 32 4
/-- K. -/
def aK (w : Nat) : Nat := bits w 48 9
/-- N. -/
def aN (w : Nat) : Nat := bits w 57 7
/-- The products of an MMA command are non-empty (R119). -/
def mmaLive (w : Nat) : Bool := aM w != 0 && aK w != 0 && aN w != 0
/-- XR. -/
def aXR (w : Nat) : Nat := bits w 64 4
/-- XF. -/
def aXF (w : Nat) : Nat := bits w 68 4
/-- XB. -/
def aXB (w : Nat) : Nat := bits w 72 2
/-- XD. -/
def aXD (w : Nat) : Bool := bit w 74
/-- XQ. -/
def aXQ (w : Nat) : Nat := bits w 75 8
/-- YR. -/
def aYR (w : Nat) : Nat := bits w 83 4
/-- YF. -/
def aYF (w : Nat) : Nat := bits w 87 4
/-- YB. -/
def aYB (w : Nat) : Nat := bits w 91 2
/-- YD. -/
def aYD (w : Nat) : Bool := bit w 93
/-- YQ. -/
def aYQ (w : Nat) : Nat := bits w 94 8
/-- DR. -/
def aDR (w : Nat) : Nat := bits w 102 4
/-- DF. -/
def aDF (w : Nat) : Nat := bits w 106 4
/-- DQ. -/
def aDQ (w : Nat) : Nat := bits w 110 8

/-! ### Vector layout (R159) -/

/-- POST. -/
def vPost (w : Nat) : Bool := bit w 20
/-- SKW. -/
def vSkw (w : Nat) : Bool := bit w 21
/-- FSRC. -/
def vFsrc (w : Nat) : Bool := bit w 22
/-- FARR. -/
def vFarr (w : Nat) : Nat := bits w 23 2
/-- LS. -/
def vLs (w : Nat) : Bool := bit w 25
/-- METH. -/
def vMeth (w : Nat) : Bool := bit w 26
/-- INCA. -/
def vIncA (w : Nat) : Bool := bit w 27
/-- INCB. -/
def vIncB (w : Nat) : Bool := bit w 28
/-- INCC. -/
def vIncC (w : Nat) : Bool := bit w 29
/-- INCD. -/
def vIncD (w : Nat) : Bool := bit w 30
/-- FN. -/
def vFn (w : Nat) : Nat := bits w 32 8
/-- COLS. -/
def vCols (w : Nat) : Nat := bits w 40 16
/-- ROWS. -/
def vRows (w : Nat) : Nat := bits w 56 16
/-- AR. -/
def vAR (w : Nat) : Nat := bits w 72 4
/-- AF. -/
def vAF (w : Nat) : Nat := bits w 76 4
/-- BLK of AB. -/
def vAB (w : Nat) : Nat := bits w 80 2
/-- DIR of AB. -/
def vAD (w : Nat) : Bool := bit w 82
/-- BR. -/
def vBR (w : Nat) : Nat := bits w 83 4
/-- BF. -/
def vBF (w : Nat) : Nat := bits w 87 4
/-- BLK of BB. -/
def vBB (w : Nat) : Nat := bits w 91 2
/-- DIR of BB. -/
def vBD (w : Nat) : Bool := bit w 93
/-- CR. -/
def vCR (w : Nat) : Nat := bits w 94 4
/-- DR. -/
def vDR (w : Nat) : Nat := bits w 98 4
/-- DD: the descriptor of D. -/
def vDD (w : Nat) : Nat := bits w 102 16
/-- SLOT. -/
def vSlot (w : Nat) : Nat := bits w 118 8

/-! ### The numeric descriptor (R57) -/

/-- FMT. -/
def dFmt (x : Nat) : Nat := bits x 0 4
/-- RND. -/
def dRnd (x : Nat) : Nat := bits x 4 3
/-- BLK. -/
def dBlk (x : Nat) : Nat := bits x 7 2
/-- DIR. -/
def dDir (x : Nat) : Bool := bit x 9
/-- SCL. -/
def dScl (x : Nat) : Bool := bit x 10
/-- RSV. -/
def dRsv (x : Nat) : Bool := bit x 11
/-- MID. -/
def dMid (x : Nat) : Nat := bits x 12 4
/-- The intermediate format that MID names. -/
def midFmt (m : Nat) : Option Fmt := if m = 1 then some .bf16 else if m = 2 then some .fp16 else none
/-- The first two conditions of R60. -/
def descReserved (x : Nat) : Bool := (fmtOf (dFmt x)).isNone || (rndOf (dRnd x)).isNone || 2 < dMid x || dRsv x
/-- A chain that R72 allows on this part. -/
def chainOk (a0 : Bool) (src mid dst : Fmt) : Bool :=
  fmtNarrowFloat dst && fmtWideFloat src && src != mid && (mid == .bf16 || (mid == .fp16 && !a0))

/-! ### Reserved bits (R154, R155, R158, R159, R161) -/

/-- The bits that an opcode's layout marks reserved. -/
def rsvMask (o : Nat) : Nat :=
  let all := 2 ^ 128 - 1
  let keep := fun (fields : List (Nat × Nat)) =>
    -- everything but the header below FLG and the listed fields
    all - (2 ^ 20 - 1) - fields.foldl (fun m f => m + (2 ^ f.2 - 1) * 2 ^ f.1) 0
  let m := match o with
    | 0x10 => keep [(32, 46)]
    | 0x11 => keep [(32, 19)]
    | 0x0A => keep [(32, 34)]
    | 0x0B => keep [(32, 31)]
    | 0x02 => keep [(32, 19)]
    | 0x04 => keep [(32, 78)]
    | 0x05 => keep [(32, 52)]
    | 0x06 => keep [(32, 36)]
    | 0x07 => keep [(32, 61)]
    | 0x01 => keep [(32, 16)]
    | 0x25 => 3 * 2 ^ 30 + (2 ^ 10 - 1) * 2 ^ 118 + (2 ^ 12 - 1) * 2 ^ 36
    | _ =>
      if 0x20 ≤ o && o ≤ 0x26 then 3 * 2 ^ 30 + (2 ^ 10 - 1) * 2 ^ 118
      else if 0x30 ≤ o then 2 ^ 31 + 3 * 2 ^ 126
      else keep []
  m + 2 ^ 11

/-- The operand references that a command uses, as the bit positions of their fields (R161). -/
def oprFields (w : Nat) : List Nat :=
  match cwOpc w with
  | 0x10 => [32]
  | 0x0A => [45]
  | 0x0B => if bit w 62 then [42] else []
  | 0x06 => if bit w 35 then [36] else []
  | _ => []

/-- A reserved bit of the word is set. -/
def rsvBad (w : Nat) : Bool :=
  w &&& rsvMask (cwOpc w) != 0 || (oprFields w).any (fun p => !bit w (p + 19) && bit w (p + 18))

/-! ### Registers and operand references (R155, R168, R169) -/

/-- Address register n. -/
def aregOf (c : Core) (n : Nat) : AReg := mapGet {} c.areg n
/-- BASE of register n as a number. -/
def baseOf (c : Core) (n : Nat) : Nat := (aregOf c n).base.toNat
/-- BASE plus a signed amount, modulo 2^48. -/
def addBase (b : BitVec 48) (k : Int) : BitVec 48 := b + BitVec.ofInt 48 k
/-- Auto-increment of register n by its stride (R157, R168). -/
def bump (c : Core) (n : Nat) : Core :=
  let r := aregOf c n
  { c with areg := mapPut c.areg n { r with base := addBase r.base r.stride.toInt } }

/-- The 48-bit value of an operand reference (R155). -/
def oprValue (c : Core) (o : Nat) : Nat :=
  if bit o 19 then (addBase (aregOf c (bits o 15 4)).base (64 * sext 14 (bits o 0 14))).toNat else bits o 0 18 * 64
/-- The register that an operand reference increments. -/
def oprInc (o : Nat) : List Nat := if bit o 19 && bit o 14 then [bits o 15 4] else []

/-- An operand of n bytes lies wholly in scratchpad. -/
def inSpad (off n : Nat) : Bool := off + n ≤ 0x600000
/-- An operand of n bytes lies wholly in scratchpad or wholly in the Gradebook range (R147). -/
def inWin (off n : Nat) : Bool := inSpad off n || (0x800000 ≤ off && off + n ≤ 0x900000)

/-- The smallest region of whole granules that holds n bytes at an offset; none for no bytes (R175). -/
def regionOf (off n : Nat) (rd wr : Bool) : List Region :=
  if n = 0 then [] else [{ lo := off / 64, hi := (off + n - 1) / 64, rd := rd, wr := wr }]
/-- Two regions share a granule. -/
def regionMeet (a b : Region) : Bool := a.lo ≤ b.hi && b.lo ≤ a.hi
/-- Two regions conflict: they share a granule and at least one access is a write (R176). -/
def regionConflict (a b : Region) : Bool := regionMeet a b && (a.wr || b.wr)

/-! ### Array operands (R93, R104 to R107) -/

/-- The pairing of a format (R80), numbered by its row. -/
def pairingOf : Fmt → Option Nat
  | .bf16 | .fp16 => some 0
  | .e4m3 | .e5m2 => some 1
  | .e3m2 | .e2m3 | .e2m1 => some 2
  | .int8 => some 3
  | .int4 => some 4
  | _ => none
/-- The pack factor (R93). -/
def packOf (f : Fmt) : Nat :=
  match pairingOf f with
  | some 0 => 1
  | some 1 => 2
  | some 3 => 2
  | some 2 => 4
  | some 4 => 4
  | _ => 1
/-- The slot size S of a left-edge operand or weight tile (R104). -/
def slotLeft (f : Fmt) : Nat := if fmtBits f = 6 then 3 else 2
/-- The slot size of a top-edge operand (R104). -/
def slotTop (f : Fmt) : Nat := if fmtBits f = 16 then 2 else 1
/-- The pitch that a Q field gives for image length I: 0 means Q = I. -/
def pitchOf (q i : Nat) : Nat := if q = 0 then i else q * 64
/-- The byte offset of slot p of image m (R105). -/
def slotAt (base q s m p : Nat) : Nat := base + m * q + (p + m) % 64 * s
/-- The bytes that M images span. -/
def imagesSpan (m q i : Nat) : Nat := if m = 0 then 0 else (m - 1) * q + i

/-- The bytes that rows of a plain result span. -/
def rowsSpan (rows pitch len : Nat) : Nat := if rows = 0 || len = 0 then 0 else (rows - 1) * pitch + len
/-- A length rounded up to 64 bytes. -/
def up64 (n : Nat) : Nat := (n + 63) / 64 * 64

end Sys2Proof.Machine
end

