-- ==== Sys2Proof/Machine/Entry.lean ====
section
/-!
DEFINITION. The fields of a block-list entry and its extension (R199 to R205), and the byte ranges that the transfer they describe
reads and writes.
-/
namespace Sys2Proof.Machine

/-! ### Fields (R199, R201, R204) -/

/-- A transfer's fields, with its addresses relocated. -/
structure Tx where
  kind : Nat
  src : Nat
  dst : Nat
  sscl : Nat
  dscl : Nat
  res : Nat
  sdesc : Nat
  ddesc : Nat
  len : Nat
  rows : Nat
  spitch : Nat
  dpitch : Nat
  plc : Nat
  skw : Bool
  conv : Bool
  ext : Bool
  ord : Bool
  role : Bool
  k : Nat
  arr : Bool
deriving DecidableEq, Repr

/-- A global address relocated: the base is added to bits [47:0] (R204). -/
def relocate (ga base : Nat) : Nat := ga / 2 ^ 48 * 2 ^ 48 + (ga + base) % 2 ^ 48

/-- KIND of an entry. -/
def tKind (e : Nat) : Nat := bits e 240 4
/-- EXT of an entry. -/
def tExt (e : Nat) : Bool := bit e 251
/-- ORD of an entry. -/
def tOrd (e : Nat) : Bool := bit e 252

/-- The fields of an entry and its extension under a relocation base. -/
def txOf (e x base : Nat) : Tx :=
  let kind := tKind e
  let src := bits e 0 64
  let dst := bits e 64 64
  let rs := bit e 249
  let rd := bit e 250
  { kind := kind
    src := if rs && kind != 1 && kind != 9 then relocate src base else src
    dst := if rd && kind != 9 then relocate dst base else dst
    sscl := if rs then relocate (bits x 0 64) base else bits x 0 64
    dscl := if rd then relocate (bits x 64 64) base else bits x 64 64
    res := bits x 128 64
    sdesc := bits e 128 16, ddesc := bits e 144 16, len := bits e 160 24, rows := bits e 184 16
    spitch := bits e 200 20, dpitch := bits e 220 20, plc := bits e 244 3, skw := bit e 247, conv := bit e 248
    ext := tExt e, ord := tOrd e, role := bit e 253, k := bits x 192 16, arr := bit x 208 }

/-- The source format. -/
def sFmt (t : Tx) : Fmt := (fmtOf (dFmt t.sdesc)).getD .fp32
/-- The destination format. -/
def ddFmt (t : Tx) : Fmt := (fmtOf (dFmt t.ddesc)).getD .fp32
/-- A reduction. -/
def isReduce (t : Tx) : Bool := 2 ≤ t.kind && t.kind ≤ 4
/-- A compression: TOPK or SIGN. -/
def isCompress (t : Tx) : Bool := t.kind == 5 || t.kind == 6
/-- An expansion. -/
def isExpand (t : Tx) : Bool := t.kind == 7 || t.kind == 8
/-- A top-k kind. -/
def isTop (t : Tx) : Bool := t.kind == 5 || t.kind == 7
/-- No rows or no elements (R224). -/
def txZero (t : Tx) : Bool := t.rows == 0 || t.len == 0

/-- The bytes of a source row (R205, R210, R213). -/
def srcRow (t : Tx) : Nat :=
  if t.kind = 0 then (if t.conv then rowBytes (sFmt t) t.len else t.len)
  else if isReduce t then rowBytes (sFmt t) t.len
  else if isCompress t then 4 * t.len else 0
/-- The image length of a skewed destination (R104). -/
def skewLen (t : Tx) : Nat := 64 * (if t.role then slotTop (ddFmt t) else slotLeft (ddFmt t))
/-- The bytes of a destination row. -/
def dstRow (t : Tx) : Nat :=
  if t.kind = 0 then (if t.skw then skewLen t else if t.conv then rowBytes (ddFmt t) t.len else t.len)
  else if t.kind = 1 then t.len
  else 4 * t.len
/-- The source pitch in bytes. -/
def srcPitch (t : Tx) : Nat := if t.spitch = 0 then srcRow t else t.spitch * 64
/-- The destination pitch in bytes: Q = I for a skewed destination with DPITCH 0. -/
def dstPitch (t : Tx) : Nat := if t.dpitch = 0 then dstRow t else t.dpitch * 64

/-! ### What a transfer reads and writes -/

/-- The element counts of the blocks of a compression (R213). -/
def txBlocks (t : Tx) : List Nat :=
  let n := t.rows * t.len
  (List.range (cdiv n 1024)).map (fun j => min 1024 (n - 1024 * j))
/-- The record bytes of a block of n elements (R281, R283). -/
def recordLen (t : Tx) (n : Nat) : Nat :=
  if isTop t then
    let k := min t.k n
    cdiv (2 * k + cdiv (10 * k) 8) 4 * 4
  else cdiv (4 + cdiv n 8) 4 * 4
/-- The bytes of all records. -/
def recordsLen (t : Tx) : Nat := ((txBlocks t).map (recordLen t)).sum
/-- The address of element `idx` of an FP32 destination laid out by LEN and DPITCH. -/
def elemAddr (t : Tx) (idx : Nat) : Nat := t.dst + idx / t.len * dstPitch t + 4 * (idx % t.len)

/-- Row addresses with their lengths. -/
def rowRanges (base pitch n len : Nat) : List (Nat × Nat) := (List.range n).map (fun i => (base + i * pitch, len))

/-- The ranges that a transfer reads, in order. -/
def txReads (t : Tx) : List (Nat × Nat) :=
  if txZero t || t.kind = 1 || t.kind = 9 then []
  else if isExpand t then [(t.src, recordsLen t)]
  else
    rowRanges t.src (srcPitch t) t.rows (srcRow t)
      ++ (if t.kind = 0 && t.conv && fmtNarrow (sFmt t) then
            [(t.sscl, scaleBytes (blkSize (dBlk t.sdesc)) (dDir t.sdesc) t.rows t.len)] else [])
      ++ (if isCompress t then [(t.res, 4 * t.rows * t.len)] else [])

/-- The ranges that a transfer may write. -/
def txWrites (t : Tx) : List (Nat × Nat) :=
  if txZero t || t.kind = 9 then []
  else if isCompress t then
    (if t.arr then rowRanges t.dst (dstPitch t) t.rows (dstRow t) else [(t.dst, recordsLen t)]) ++ [(t.res, 4 * t.rows * t.len)]
  else
    rowRanges t.dst (dstPitch t) t.rows (dstRow t)
      ++ (if t.kind = 0 && t.conv && fmtNarrow (ddFmt t) then
            [(t.dscl, scaleBytes (blkSize (dBlk t.ddesc)) (dDir t.ddesc) t.rows t.len)] else [])

end Sys2Proof.Machine
end

