-- ==== Sys2Proof/Machine/CoreOps.lean ====
section
/-!
DEFINITION. Shared operations on cores: reading the next command word, stopping issue, abandoning work with the old-or-new
rule, breaking a ring (R137), the Copybook's end of a freeze, and Detention (R400 to R403).
-/
namespace Sys2Proof.Machine

/-! ### Commands beside transfers in flight (R150, R163) -/

/-- The engines of the device. -/
def engines (d : Dev) : List Engine := (List.range (gridCores d)).map Engine.core ++ (List.range 4).map Engine.hdma
/-- The transfer has still to write what it writes on this device: it waits for read responses, for host memory or for the
scoreboard. -/
def xPending (t : Xfer) : Bool := t.status == 0 && (t.hostWait || t.guard || t.waiting.any (·.read))
/-- The address lies in a core window. -/
def inWindows (a : Nat) : Bool := decide (0x200000000000 ≤ a) && decide (a < 0x300000000000)
/-- An address lies in one of some ranges. -/
def inRanges (rs : List (Nat × Nat)) (a : Nat) : Bool := rs.any (fun r => r.1 ≤ a && a < r.1 + r.2)
/-- The addresses of the windows that some ranges hold, each with a free value. -/
def openCells (d : Dev) (rs : List (Nat × Nat)) : List Host.Cell :=
  (rs.filter (fun r => inWindows r.1)).flatMap (fun r => (List.range r.2).map (fun i => (r.1 + i, freeWord d 8 (r.1 + i))))

/-- The transfers that a run of entries describes, an extension with its entry (R199). -/
def entryTxs (base : Nat) : List Nat → List Tx
  | [] => []
  | [e] => [txOf e 0 base]
  | e :: x :: r => if tExt e then txOf e x base :: entryTxs base r else txOf e 0 base :: entryTxs base (x :: r)
/-- The transfers of a list that have still to start. -/
def futureTxs (d : Dev) (l : BList) : List Tx :=
  if l.count ≤ l.next then []
  else entryTxs l.reloc.toNat (l.buf.map (·.toNat) ++
    (List.range (l.count - l.nread)).map (fun i => leNat (rdBytes d (l.base + 32 * (l.nread + i)) 32)))
/-- Some ranges of this device, as local addresses. -/
def localRanges (d : Dev) (rs : List (Nat × Nat)) : List (Nat × Nat) :=
  (rs.filter (fun r => isSelf d (r.1 / 2 ^ 48))).map (fun r => (r.1 % 2 ^ 48, r.2))

/-- Bytes of core windows that lists write and no STRM.WAIT has covered, with the other value that each may hold for a command: the
earlier one where a transfer has written, a free one where one has still to write (R163). -/
def racing (d : Dev) : List Host.Cell :=
  let ss := (engines d).map (strmOf d)
  let xs := ss.flatMap (·.xfers)
  let ls := ss.flatMap (·.lists)
  (ss.flatMap (fun s => s.stale.flatMap (·.2))).filter (fun c => inWindows c.1) ++
    (xs.filter (fun t => !xPending t)).flatMap (fun t => t.undo.filter (fun c => inWindows c.1)) ++
    (xs.filter xPending).flatMap (fun t => openCells d t.writes) ++
    ls.flatMap (fun l => (futureTxs d l).flatMap (fun t => openCells d (localRanges d (txWrites t))))
/-- The device as a command sees it: each such byte has one of its values, by free choices (R163). -/
def seen (d : Dev) : Dev :=
  let cells := racing d
  if cells.isEmpty then d
  else { d with mem := (cells.mapIdx (fun i c => (i, c))).foldl (fun m p =>
                  if Config.freeBit d.freeCtr (p.1 * 2 ^ 48 + p.2.1) then memWrite m p.2.1 [p.2.2] else m) d.mem,
                freeCtr := d.freeCtr + 2 }
/-- Transfers that have still to write a byte of these remember its value: the order of the two writes is open. -/
def noteCells (d : Dev) (cells : List Host.Cell) : Dev :=
  let hit := fun (t : Xfer) => cells.filter (fun c => inRanges t.writes c.1)
  (engines d).foldl (fun d e =>
    if (strmOf d e).xfers.any (fun t => xPending t && !(hit t).isEmpty) then
      modStrm d e (fun x => { x with xfers := x.xfers.map (fun t =>
        if xPending t then { t with undo := t.undo ++ hit t } else t) })
    else d) d
/-- Bytes that a command has overwritten, with their earlier values: lists that have still to read one remember it (R163). -/
def noteOver (d : Dev) (cells : List Host.Cell) : Dev :=
  let hit := fun (d : Dev) (l : BList) =>
    let rs := (futureTxs d l).flatMap (fun t => localRanges d (txReads t))
    cells.filter (fun c => inRanges rs c.1)
  if cells.isEmpty then d
  else (engines d).foldl (fun d e =>
    if (strmOf d e).lists.any (fun l => !(hit d l).isEmpty) then
      modStrm d e (fun x => { x with lists := x.lists.map (fun l => { l with stale := l.stale ++ hit d l }) })
    else d) d
/-- The effect of a command beside transfers in flight: it runs on the bytes that it sees. A byte that it leaves alone stays as it
is; one that it writes and a transfer has written keeps either value; a transfer that has still to write one may write first. -/
def raced (d : Dev) (f : Dev → Dev) : Dev :=
  let cells := racing d
  if cells.isEmpty then f d
  else
    let d1 := seen d
    let d2 := f d1
    if d2.mem = d1.mem then { d2 with mem := d.mem }
    else
      let wrote := cells.filter (fun c => memByte d2.mem c.1 != memByte d1.mem c.1)
      let mem := cells.foldl (fun m c =>
        if wrote.any (fun x => x.1 == c.1) && Config.freeBit (d.freeCtr + 1) c.1 then m
        else memWrite m c.1 [memByte d.mem c.1]) d2.mem
      noteCells { d2 with mem := mem } (wrote.map (fun c => (c.1, memByte d2.mem c.1)))

/-! ### Fetch (R148, R149) -/

/-- The end of the range that holds a start address: the core's own scratchpad, or HBM; none for another range (R149). -/
def fetchEnd (d : Dev) (v : Nat) (start : Nat) : Option Nat :=
  match addrKind d start with
  | .hbm => some (hbmCap d)
  | .window u off => if u = v && inScratch off then some (winBase v + 0x600000) else none
  | _ => none

/-- The start address is valid (R149). -/
def fetchStartOk (d : Dev) (v : Nat) (start : Nat) : Bool := start % 16 == 0 && (fetchEnd d v start).isSome

/-- The next command lies beyond the end of the range that holds PRC_START, or before its beginning. -/
def fetchBeyond (d : Dev) (v : Nat) : Bool :=
  let c := coreOf d v
  match fetchEnd d v c.start.toNat with
  | none => true
  | some e => c.pc.toNat + 16 > e || (winBase 0 ≤ c.start.toNat && c.pc.toNat < winBase v)

/-- The bytes of a command in a scratchpad: those that transfers in flight write have all one or all the other value (R150). -/
def commandBytes (d : Dev) (a : Nat) : List Byte :=
  let bs := rdBytes d a 16
  let near := (racing d).filter (fun c => a ≤ c.1 && c.1 < a + 16)
  if near.isEmpty then bs
  else if Config.freeBit d.freeCtr a then near.foldl (fun bs c => bs.set (c.1 - a) c.2) bs else bs
/-- A word that software has overwritten under a running stream: the old one or the new one, by a free choice (R150). -/
def oldOrNew (d : Dev) (a old new : Nat) : Nat := if old = new then new else if Config.freeBit (d.freeCtr + 1) a then old else new
/-- The command word at PRC_PC when it has been fetched: from the core's own scratchpad, where the old word is that of START,
or from the fetch buffer, where the old word is the one held and the new one that of memory (R150). -/
def fetchWord (d : Dev) (v : Nat) : Option Nat :=
  let c := coreOf d v
  let pc := c.pc.toNat
  if fetchBeyond d v then none
  else if winBase 0 ≤ c.start.toNat then some (oldOrNew d pc (leNat (memRead c.code pc 16)) (leNat (commandBytes d pc)))
  else (mapGet? c.fetchBuf (pc / 2048 * 2048)).map (fun b => oldOrNew d pc (leAt b (pc % 2048) 16) (leNat (rdBytes d pc 16)))

/-! ### State of the Proctor -/

/-- A task: a command posted to the pool. -/
def isTask (i : Issued) : Bool :=
  match i.unit with
  | .pool _ => true
  | _ => false
/-- Commands not complete. -/
def drained (c : Core) : Bool := c.cmds.isEmpty
/-- Issue has stopped and issued commands are still completing (PRC_STATUS.DRAINING). -/
def draining (c : Core) : Bool := c.state == .running && c.stop != .issuing
/-- The Proctor may issue. -/
def issuing (c : Core) : Bool := c.state == .running && c.stop == .issuing
/-- HALT_REQ: issue stops at the next command boundary (R193); a HALT that already waits stands. -/
def haltReqCore (c : Core) : Core :=
  if issuing c then { c with stop := .haltReq }
  else if c.state = .brk then { c with state := .running, stop := .haltReq }
  else c
/-- HALT_REQ written to core v. -/
def haltReqAt (d : Dev) (v : Nat) : Dev := modCore d v haltReqCore
/-- The Proctor stops for a fault, with what PRC_FAULT and VEC_FAULT record (R186). -/
def stopFault (c : Core) (cause detail : Nat) (w : Nat) : Core :=
  let why := StopWhy.fault (BitVec.ofNat 8 cause) (BitVec.ofNat 8 (cwOpc w)) (BitVec.ofNat 3 (cwQue w))
    (BitVec.ofNat 8 (cwTag w)) (BitVec.ofNat 8 detail) (BitVec.ofNat 8 (vFn w))
  { c with stop := why }

/-! ### Abandoned work: old or new bytes (R401, R521) -/

/-- Each unit written by abandoned work keeps its new value or takes its old one, by a free choice. -/
def undoUnits (d : Dev) (unit : Nat → Nat) (cells : List Host.Cell) : Dev :=
  draw (cells.foldl (fun e c => if Config.freeBit d.freeCtr (unit c.1) then e else wrBytes e c.1 [c.2]) d)
/-- The address lies in a Gradebook of a core. -/
def inGradebooks (a : Nat) : Bool := inWindows a && inGrade ((a - winBase 0) % 0x1000000)
/-- Bytes are old or new one by one (R401, R521), and an element of a Gradebook as a whole (R276, R277). -/
def undoBytes (d : Dev) (cells : List Host.Cell) : Dev := undoUnits d (fun a => if inGradebooks a then a / 4 * 4 else a) cells

/-- What an execution changed in the written regions of a core's window, with the earlier values. -/
def regionDiff (before after : Dev) (v : Nat) (rs : List Region) : List Host.Cell :=
  (rs.filter (·.wr)).flatMap (fun r =>
    (List.range ((r.hi + 1 - r.lo) * 64)).filterMap (fun i =>
      let a := winBase v + r.lo * 64 + i
      let o := rdByte before a
      if o = rdByte after a then none else some (a, o)))

/-- Tasks of other cores that the engines of core v were executing are lost (R271). -/
def loseStolen (d : Dev) (v : Nat) : Dev :=
  (List.range (gridCores d)).foldl (fun e u =>
    if u = v then e
    else
      let c := coreOf e u
      let mine := fun (i : Issued) => isTask i && !i.lost && (i.taker.map (·.1)) == some v
      let lost := c.cmds.filter mine
      if lost.isEmpty then e
      else
        let e1 := setCore e u { c with cmds := c.cmds.map (fun i => if mine i then { i with lost := true } else i) }
        lost.foldl (fun x i => logEvent x 0x0403 (coreBlock d v) v (by1 u ++ by1 (vSlot i.word.toNat))) e1) d

/-- A core's own tasks are lost, each with its event (R271): every one when the core enters Detention, and those that it executes
itself when it takes a block reset. -/
def loseOwn (d : Dev) (v : Nat) (detained : Bool) : Dev :=
  let c := coreOf d v
  let tasks := c.cmds.filter (fun i => isTask i && !i.lost && (detained || (i.taker.map (·.1)) == some v))
  tasks.foldl (fun x i => logEvent x 0x0403 (coreBlock d v) v (by1 v ++ by1 (vSlot i.word.toNat))) d

/-- Engines that execute a task of core v have it no longer in hand. -/
def freeHands (d : Dev) (v : Nat) : Dev :=
  { d with cores := d.cores.map (fun p =>
      (p.1, { p.2 with vec := { p.2.vec with hand := p.2.vec.hand.filter (fun h => h.2.1 != v) } })) }

/-- Arrivals that the core has issued and not sent are dropped. -/
def dropHeld (d : Dev) (v : Nat) : Dev :=
  { d with bells := d.bells.map (fun p => (p.1, { p.2 with held := p.2.held.filter (fun h => h.core != v) })) }

/-- The core's issued commands, lists and transfers are abandoned; posted tasks stay in the pool when `keep` says so. -/
def abandonCore (d : Dev) (v : Nat) (keep : Bool) : Dev :=
  let c := coreOf d v
  let cells := c.cmds.flatMap (·.undo) ++ c.strm.xfers.flatMap (·.undo)
  let d1 := freeHands (loseStolen (loseOwn (dropHeld (undoBytes d cells) v) v keep) v) v
  modCore d1 v (fun c =>
    { c with cmds := if keep then (c.cmds.filter isTask).map (fun i => { i with lost := true, undo := [] }) else []
             strm := { c.strm with lists := [], xfers := [], heldSlots := [] }
             vec := { c.vec with hand := [] }, loops := [] })

/-! ### Rings (R137) -/

/-- The ring that holds array a of core v, with the member's place in it. -/
def ringOf (d : Dev) (v a : Nat) : Option (Nat × Nat) :=
  match d.ttl.active with
  | none => none
  | some t =>
    ((List.range t.rings.length).find? (fun r => (t.rings.getD r []).contains (v, a))).map
      (fun r => (r, (t.rings.getD r []).idxOf (v, a)))

/-- The members of a ring. -/
def ringMembers (d : Dev) (r : Nat) : List (Nat × Nat) := (d.ttl.active.map (fun t => t.rings.getD r [])).getD []

/-- A ring command on array a. -/
def isRingCmd (i : Issued) (a : Nat) : Bool := i.unit == .array a && cwMma i.word.toNat && aRing i.word.toNat

/-- The ids of the ring commands in flight on array a. -/
def ringIds (c : Core) (a : Nat) : List Nat := (c.cmds.filter (fun i => isRingCmd i a)).map (·.id)
/-- A core without the ring commands of array a. A fused consumer of one of them has no more rows to come and writes nothing;
one that has not yet issued finds no command to pair with. DESIGN CHOICE: the formats and the pending tile that the
Proctor tracks stay as the commands left them at issue, and so does the pending tile of an MMA.O that has executed. -/
def dropRingCmds (c : Core) (a : Nat) : Core :=
  let gone := ringIds c a
  let left := (c.cmds.filter (fun i => !isRingCmd i a)).map (fun i =>
    if i.pair.any (fun p => gone.contains p) then { i with executed := true } else i)
  if gone.isEmpty then c
  else modArr { c with cmds := left } a (fun s =>
    { s with unpaired := s.unpaired.filter (fun u => !gone.contains u.id), fused := s.fused.filter (fun f => !gone.contains f.1) })
/-- What the abandoned ring commands of array a and their consumers have written: each 4-byte sum is one that was already written
or one that is not written any more, by a free choice (R137). -/
def undoRing (d : Dev) (v a : Nat) : Dev :=
  let c := coreOf d v
  let gone := ringIds c a
  let hit := c.cmds.filter (fun i => gone.contains i.id || i.pair.any (fun p => gone.contains p))
  let acc := c.cmds.any (fun i => gone.contains i.id && i.executed && cwOpc i.word.toNat == 0x22 && mmaLive i.word.toNat)
  let d1 := undoUnits d (fun x => x / 4 * 4) (hit.flatMap (·.undo))
  if acc then
    modCore d1 v (fun c => modArr c a (fun s => { s with acc := s.acc.map (fun p => (p.1, freeWord d 32 ((4 * v + a) * 0x4000 + p.1))) }))
  else d1
/-- A Proctor whose ring broke stops at its next command boundary with cause 0x0D (R186), whatever else stopped its issue; a fault
already met stands. -/
def ringFault (c : Core) (w : Nat) : Core :=
  if c.state != .running && c.state != .brk then c
  else match c.stop with
    | .fault _ _ _ _ _ _ => c
    | _ => { stopFault c 0x0D 0 w with state := .running }

/-- A ring breaks: its members abandon their ring commands and halt issue with cause 0x0D (R137, R186). -/
def breakRing (d : Dev) (r v a cause : Nat) : Dev :=
  if d.ttl.brokenRings.contains r then d
  else
    let d1 := { d with ttl := { d.ttl with
      brokenRings := r :: d.ttl.brokenRings, ringFlow := d.ttl.ringFlow.filter (fun f => f.ring != r) } }
    let d2 := (ringMembers d r).foldl (fun e m =>
      let w := (fetchWord e m.1).getD 0
      modCore (undoRing e m.1 m.2) m.1 (fun c => ringFault (dropRingCmds c m.2) w)) d1
    logEvent d2 0x0402 (coreBlock d v) v (le 2 r ++ by1 v ++ by1 a ++ by1 cause)

/-- Every ring with an array in core v breaks with a cause. DESIGN CHOICE: where the core holds several arrays of one
ring, event 0x0402 names the lowest. -/
def breakRingsOf (d : Dev) (v cause : Nat) : Dev :=
  (List.range 4).foldl (fun e a =>
    match ringOf e v a with
    | some (r, _) => breakRing e r v a cause
    | none => e) d

/-! ### The Copybook's end of a freeze (R388, R396) -/

/-- A freeze or an open round ends without a commit. -/
def copyStopRound (d : Dev) (why : CopyLast) : Dev :=
  match d.copy.state with
  | .opened | .frozen =>
    let c := { d.copy with state := .idle, hold := false, last := why, freezeGen := none, snap := d.copy.cur }
    let d1 := { d with copy := c }
    let code := match why with
      | .none => 0 | .committed => 1 | .drainFailed => 2 | .restarted => 3 | .aborted => 4
    signal (logEvent d1 0x0902 0x105 argNone (le 8 (d.copy.seq.toNat + 1) ++ by1 code)) 12
  | _ => d

/-! ### Detention (R400 to R403) -/

/-- Core v stops at once (R401). -/
def detainStop (d : Dev) (v : Nat) : Dev :=
  let d1 := breakRingsOf (abandonCore d v true) v 0x06
  modCore d1 v (fun c => { c with state := .detained, stop := .issuing, passBreak := false })

/-- A core enters Detention, and the Registrar stops all work on the device (R401, R402). -/
def detainCore (d : Dev) (v cause : Nat) : Dev :=
  if (coreOf d v).state = .detained || gridCores d ≤ v then d
  else
    let d1 := detainStop d v
    let d2 := { d1 with det := { d1.det with cause := BitVec.ofNat 4 cause, core := BitVec.ofNat 8 v, stopping := true } }
    let d3 := signal (logEvent d2 0x0901 (coreBlock d v) v (by1 cause ++ by1 v)) 13
    let d4 := (List.range (gridCores d)).foldl (fun e u => if u = v then e else haltReqAt e u) d3
    (List.range 4).foldl (fun e k => modCtx e k (fun x => { x with job := x.job.map (fun j => { j with detained := true }) })) d4

/-- The device enters Detention: every core is detained and the Copybook abandons its round (R403). -/
def detainDevice (d : Dev) (cause : Nat) : Dev :=
  if d.det.device then d
  else
    let d1 := { d with det := { d.det with device := true, cause := BitVec.ofNat 4 cause } }
    let d2 := (List.range (gridCores d)).foldl (fun e v => if (coreOf e v).state = .detained then e else detainStop e v) d1
    let d3 := copyStopRound d2 .aborted
    let d4 := (List.range 4).foldl (fun e k => modCtx e k (fun x => { x with job := x.job.map (fun j => { j with detained := true }) })) d3
    signal (logEvent d4 0x0901 0xFFFF argNone (by1 cause ++ by1 0xFF)) 13

/-- The core is in Detention. -/
def isDetained (d : Dev) (v : Nat) : Bool := (coreOf d v).state == .detained

/-- An uncorrectable error at an access of a stream engine or of the fetch of core v (R301): counted and recorded at the
controller or port that serves the granule, logged, and the core enters Detention when it is one of this device. -/
def ueEvent (d : Dev) (granule : Nat) (core : Option Nat) : Dev :=
  let d1 := match boardPort granule with
    | some p =>
      let e := modCxl d p (fun x => { x with ueCnt := satAdd x.ueCnt 1 })
      logEvent e 0x0601 (0xEC + p) p (le 6 granule ++ by1 (core.getD 0xFF))
    | none =>
      let c := hbmCtlOf d granule
      let e := modHbm d c (fun x => { x with ueCnt := satAdd x.ueCnt 1, ueAddr := BitVec.ofNat 48 granule })
      logEvent e 0x0601 (0xE0 + c) c (le 6 granule ++ by1 (core.getD 0xFF))
  match core with
  | some v => detainCore d1 v 0x1
  | none => d1

end Sys2Proof.Machine
end

