-- ==== Sys2Proof/Machine/Array.lean ====
section
/-!
DEFINITION. What the array commands compute (R93 to R125): weight loading and swapping, the three product modes with their
splits and accumulate forms, the Gradebook drain and clear. Products and sums follow R80 to R83; every function here works on
one core's window and one array.
-/
namespace Sys2Proof.Machine

/-- The key of element j of cell (r, c). -/
def cellKey (r c j : Nat) : Nat := (64 * r + c) * 4 + j
/-- The key of weight W[k][n] of a product whose cells start at row r0 and column c0. -/
def wKey (p r0 c0 k n : Nat) : Nat := cellKey (r0 + k / p) (c0 + n) (k % p)

/-- A stored element as an exact number with its block scale (R64). -/
def elemNum (f : Fmt) (e : WElem) : Num := numScaled f e.code.toNat e.scale.toNat
/-- A stored element as a raw integer (R64). -/
def elemInt (f : Fmt) (e : WElem) : Int := sext (fmtBits f) e.code.toNat

/-! ### Reading streamed operands and weight tiles -/

/-- Where an array operand lies: data offset, scale offset, pitch, format, block size and direction, row length C (R107). -/
structure Operand where
  base : Nat
  sbase : Nat
  q : Nat
  fmt : Fmt
  blk : Nat
  dirCol : Bool
  cols : Nat
deriving DecidableEq, Repr

/-- The scale code of logical element (i, j) of an operand (R107); 0x7F in a format without scales. -/
def operandScale (d : Dev) (v : Nat) (o : Operand) (i j : Nat) : Byte :=
  if fmtNarrow o.fmt then
    rdByte d (winBase v + o.sbase + scaleIndex (blkSize o.blk) o.dirCol o.cols i j)
  else 0x7F

/-- Element j of slot p of image m (R105). -/
def slotElem (d : Dev) (v : Nat) (o : Operand) (s m p j : Nat) : BitVec 16 :=
  let n := leNat (winRead d v (slotAt o.base o.q s m p) s)
  BitVec.ofNat 16 (bits n (fmtBits o.fmt * j) (fmtBits o.fmt))

/-- Row m of a left-edge operand, logical columns 0 to width - 1. -/
def leftRow (d : Dev) (v : Nat) (o : Operand) (width m : Nat) : List WElem :=
  let p := packOf o.fmt
  (List.range width).map (fun k =>
    { code := slotElem d v o (slotLeft o.fmt) m (k / p) (k % p), scale := operandScale d v o m k })
/-- Row m of a top-edge operand. -/
def topRow (d : Dev) (v : Nat) (o : Operand) (width m : Nat) : List WElem :=
  (List.range width).map (fun n =>
    { code := slotElem d v o (slotTop o.fmt) m n 0, scale := operandScale d v o m n })

/-- The shadow tile that WLOAD reads: positions below K and N, the others +0 with scale code 0x7F (R109, R110). -/
def wloadTile (d : Dev) (v : Nat) (o : Operand) (kk nn : Nat) : NMap WElem :=
  let p := packOf o.fmt
  (List.range 64).flatMap (fun r => (List.range 64).flatMap (fun c => (List.range p).filterMap (fun j =>
    let k := p * r + j
    if k < kk && c < nn then
      let e : WElem := { code := slotElem d v o (slotLeft o.fmt) r c j, scale := operandScale d v o k c }
      if e = {} then none else some (cellKey r c j, e)
    else none)))

/-- Live and shadow slots and their format codes exchanged (R111). -/
def swapTiles (a : ArrayState) : ArrayState :=
  { a with live := a.shadow, shadow := a.live, liveFmt := a.shadowFmt, shadowFmt := a.liveFmt }

/-! ### Products (R81, R82, R83, R97 to R99) -/

/-- The exact sum of the products of one cell (R81). -/
def cellSum (xf wf : Fmt) (xs ws : List WElem) : Num :=
  match List.zipWith (fun x w => numMul (elemNum xf x) (elemNum wf w)) xs ws with
  | [] => numZero
  | p :: ps => ps.foldl (numAdd false) p
/-- A float sum updated once per cell, in order (R82). -/
def floatSum (start : Num) (cells : List Num) : Nat :=
  numRound .fp32 .rne (cells.foldl (fun s p => rne32 (numAdd false s p)) start)
/-- An integer sum, saturated once (R83). -/
def intSum (start : Int) (terms : List Int) : Nat := int32Code (terms.foldl (· + ·) start)

/-- One sum of MMA.F: x row and weight column of equal length, cell by cell of P elements. -/
def sumF (xf wf : Fmt) (start : Nat) (xs ws : List WElem) : Nat :=
  if fmtInt wf then intSum (int32 start) (List.zipWith (fun x w => elemInt xf x * elemInt wf w) xs ws)
  else
    let p := packOf wf
    let n := cdiv xs.length p
    floatSum (numDecode .fp32 start) (List.zipWith (cellSum xf wf) (chunks p n xs) (chunks p n ws))
/-- One sum of MMA.T: dy row and weight row, one product per cell. -/
def sumT (yf wf : Fmt) (start : Nat) (ys ws : List WElem) : Nat :=
  if fmtInt wf then intSum (int32 start) (List.zipWith (fun y w => elemInt yf y * elemInt wf w) ys ws)
  else floatSum (numDecode .fp32 start) (List.zipWith (fun y w => numMul (elemNum yf y) (elemNum wf w)) ys ws)

/-- Weight W[k][n] of a product. -/
def weight (a : ArrayState) (p r0 c0 k n : Nat) : WElem := mapGet {} a.live (wKey p r0 c0 k n)

/-- The rows of one product of MMA.F, with the start value of each output. -/
def prodF (a : ArrayState) (xf : Fmt) (r0 c0 k n : Nat) (start : Nat → Nat → Nat) (rows : List (List WElem)) : List (List Nat) :=
  let p := packOf a.liveFmt
  let cols := (List.range n).map (fun c => (List.range k).map (fun i => weight a p r0 c0 i c))
  rows.mapIdx (fun m row => cols.mapIdx (fun c col => sumF xf a.liveFmt (start m c) (row.take k) col))
/-- The rows of one product of MMA.T. -/
def prodT (a : ArrayState) (yf : Fmt) (r0 c0 k n : Nat) (start : Nat → Nat → Nat) (rows : List (List WElem)) : List (List Nat) :=
  let p := packOf a.liveFmt
  let wr := (List.range k).map (fun i => (List.range n).map (fun c => weight a p r0 c0 i c))
  rows.mapIdx (fun m row => wr.mapIdx (fun i w => sumT yf a.liveFmt (start m i) (row.take n) w))
/-- The accumulators of one product of MMA.O: key and FP32 code (R82, R99). -/
def prodO (xf yf : Fmt) (r0 c0 k n : Nat) (xs ys : List (List WElem)) : NMap Word :=
  let p := packOf xf
  (List.range k).flatMap (fun i => (List.range n).map (fun c =>
    let terms := List.zipWith (fun x y => numMul (elemNum xf (x.getD i {})) (elemNum yf (y.getD c {}))) xs ys
    (wKey p r0 c0 i c, BitVec.ofNat 32 (floatSum numZero terms))))

/-! ### The operands of an MMA command -/

/-- The format that a field names; BF16 where it names none (a malformed command never executes). -/
def fmtD (code : Nat) : Fmt := (fmtOf code).getD .bf16

/-- The extent of the X operand in logical columns (R107, R130). -/
def xWidth (w : Nat) (p : Nat) : Nat :=
  if aRing w && aHead w then 64 * p else if aSplit w = 1 then 32 * p + aK w else aK w
/-- The extent of the Y operand. -/
def yWidth (w : Nat) : Nat :=
  if aRing w && aHead w && cwOpc w == 0x21 then 64 else if aSplit w = 2 then 32 + aN w else aN w

/-- The X operand as resolved at issue. -/
def operX (w : Nat) (o : Opnds) : Operand :=
  let f := fmtD (aXF w)
  { base := o.x, sbase := o.xs, q := pitchOf (aXQ w) (64 * slotLeft f), fmt := f, blk := aXB w, dirCol := aXD w,
    cols := xWidth w (packOf f) }
/-- The X2 operand: a tensor of its own with C = K. -/
def operX2 (w : Nat) (o : Opnds) : Operand := { operX w o with base := o.x2, sbase := o.x2s, cols := aK w }
/-- The Y operand. -/
def operY (w : Nat) (o : Opnds) : Operand :=
  let f := fmtD (aYF w)
  { base := o.y, sbase := o.ys, q := pitchOf (aYQ w) (64 * slotTop f), fmt := f, blk := aYB w, dirCol := aYD w,
    cols := yWidth w }
/-- The Y2 operand: C = N. -/
def operY2 (w : Nat) (o : Opnds) : Operand := { operY w o with base := o.y2, sbase := o.y2s, cols := aN w }

/-- The rows of an operand. -/
def rowsOf (row : Nat → List WElem) (m : Nat) : List (List WElem) := (List.range m).map row

/-- The result row length in elements: N for MMA.F, K for MMA.T. -/
def resultCols (w : Nat) : Nat := if cwOpc w = 0x21 then aK w else aN w
/-- The pitch of D (R158). -/
def resultPitch (w : Nat) : Nat := if aDQ w = 0 then up64 (4 * resultCols w) else aDQ w * 64

/-- The start value of an output: what D holds in the accumulate form, else zero (R117). -/
def startAt (d : Dev) (v : Nat) (w base m j : Nat) : Nat :=
  if aAcc w then winWord d v (base + m * resultPitch w + 4 * j) else 0

/-- The two products of a split, as second cell row and second cell column. -/
def splitRow (w : Nat) : Nat := if aSplit w = 1 then 32 else 0
/-- The column at which the second product starts. -/
def splitCol (w : Nat) : Nat := if aSplit w = 2 then 32 else 0

/-- The results of MMA.F: product 1 and, under a split, product 2. `xs` are the rows of the streamed operand. -/
def mmaFResults (d : Dev) (v : Nat) (a : ArrayState) (xf : Fmt) (w : Nat) (o : Opnds) (xs : List (List WElem)) :
    List (List Nat) × List (List Nat) :=
  let k := aK w
  let n := aN w
  let p1 := prodF a xf 0 0 k n (startAt d v w o.d) xs
  let p2 :=
    match aSplit w with
    | 1 => prodF a xf 32 0 k n (startAt d v w o.d2) (xs.map (fun r => r.drop (32 * packOf xf)))
    | 2 => prodF a xf 0 32 k n (startAt d v w o.d2) (rowsOf (leftRow d v (operX2 w o) k) (aM w))
    | _ => []
  (p1, p2)

/-- The results of MMA.T. -/
def mmaTResults (d : Dev) (v : Nat) (a : ArrayState) (yf : Fmt) (w : Nat) (o : Opnds) (ys : List (List WElem)) :
    List (List Nat) × List (List Nat) :=
  let k := aK w
  let n := aN w
  let p1 := prodT a yf 0 0 k n (startAt d v w o.d) ys
  let p2 :=
    match aSplit w with
    | 1 => prodT a yf 32 0 k n (startAt d v w o.d2) (rowsOf (topRow d v (operY2 w o) n) (aM w))
    | 2 => prodT a yf 0 32 k n (startAt d v w o.d2) (ys.map (fun r => r.drop 32))
    | _ => []
  (p1, p2)

/-- The accumulators after MMA.O (R99, R116). -/
def mmaOResults (d : Dev) (v : Nat) (xf : Fmt) (w : Nat) (o : Opnds) (xs : List (List WElem)) : NMap Word :=
  let k := aK w
  let n := aN w
  let yf := fmtD (aYF w)
  let ys := rowsOf (topRow d v (operY w o) (yWidth w)) (aM w)
  let p1 := prodO xf yf 0 0 k n xs ys
  let p2 :=
    match aSplit w with
    | 1 => prodO xf yf 32 0 k n (xs.map (fun r => r.drop (32 * packOf xf))) (rowsOf (topRow d v (operY2 w o) n) (aM w))
    | 2 => prodO xf yf 0 32 k n (rowsOf (leftRow d v (operX2 w o) k) (aM w)) (ys.map (fun r => r.drop 32))
    | _ => []
  (p1 ++ p2).foldl (fun m e => mapPut m e.1 e.2) []

/-- Rows of 32-bit codes stored at an offset with a pitch. -/
def writeRows32 (d : Dev) (v base pitch : Nat) (rows : List (List Nat)) : Dev :=
  (rows.mapIdx (fun m r => (m, r))).foldl
    (fun e p => winWrite e v (base + p.1 * pitch) (p.2.flatMap (fun c => leBytes 4 c))) d

/-- Two lists of rows, alternating (R181). -/
def alternate : List (List Nat) → List (List Nat) → List (List Nat)
  | a :: as, b :: bs => a :: b :: alternate as bs
  | as, [] => as
  | [], bs => bs

/-- The sums of MMA.F or MMA.T written to D and D2, or handed to the fused consumer (R114). -/
def deliver (d : Dev) (v a id w : Nat) (o : Opnds) (r : List (List Nat) × List (List Nat)) : Dev :=
  if aFuse w then
    modCore d v (fun c => modArr c a (fun s => { s with fused := s.fused ++ [(id, (alternate r.1 r.2).map (List.map (BitVec.ofNat 32)))] }))
  else
    let d1 := writeRows32 d v o.d (resultPitch w) r.1
    if aSplit w = 0 then d1 else writeRows32 d1 v o.d2 (resultPitch w) r.2

/-- The streamed operand that a command reads for itself: X, or Y for MMA.T. -/
def streamRows (d : Dev) (v w : Nat) (o : Opnds) : Fmt × List (List WElem) :=
  if cwOpc w = 0x21 then
    (fmtD (aYF w), rowsOf (topRow d v (operY w o) (yWidth w)) (aM w))
  else
    (fmtD (aXF w), rowsOf (leftRow d v (operX w o) (xWidth w (packOf (fmtD (aXF w))))) (aM w))

/-- An MMA command on its streamed operand, after its swap (R97 to R100, R111, R119). -/
def execMmaOn (d : Dev) (v a id w : Nat) (o : Opnds) (f : Fmt) (rows : List (List WElem)) : Dev :=
  if !mmaLive w then
    -- a fused command of zero extent hands over its rows without elements
    if aFuse w then modCore d v (fun c => modArr c a (fun s => { s with fused := s.fused ++ [(id, [])] })) else d
  else
    let d1 := if aSwap w then modCore d v (fun c => modArr c a swapTiles) else d
    let arr := arrOf (coreOf d1 v) a
    match cwOpc w with
    | 0x20 => deliver d1 v a id w o (mmaFResults d1 v arr f w o rows)
    | 0x21 => deliver d1 v a id w o (mmaTResults d1 v arr f w o rows)
    | _ =>
      let acc := mmaOResults d1 v f w o rows
      let t : PendTile := { k := aK w, n := aN w, split := BitVec.ofNat 2 (aSplit w), pack := packOf f }
      modCore d1 v (fun c => modArr c a (fun s => { s with acc := acc, pend := some t }))

/-! ### The Gradebook (R121 to R125) -/

/-- The window offset of a Gradebook tile (R121). -/
def gbTile (a t : Nat) : Nat := 0x800000 + a * 0x40000 + t * 0x4000
/-- The drain extent K_D (R122). -/
def drainK (t : PendTile) : Nat := if t.split = 1 then 32 * t.pack + t.k else t.k
/-- The array coordinates that a pending tile defines (R122). -/
def drainCells (t : PendTile) : List (Nat × Nat) :=
  let prod := fun (k0 n0 : Nat) => (List.range t.k).flatMap (fun k => (List.range t.n).map (fun n => (k0 + k, n0 + n)))
  prod 0 0 ++ (if t.split = 1 then prod (32 * t.pack) 0 else if t.split = 2 then prod 0 32 else [])

/-- The seed of the stochastic roundings (R78). -/
def seedOf (d : Dev) : BitVec 64 := (d.ttl.active.map (·.seed)).getD 0

/-- The new value of a Gradebook element that holds `old`: the drained accumulator added with stochastic rounding (R75, R77,
R122). -/
def drainElem (d : Dev) (v a id t0 p : Nat) (acc : NMap Word) (kn : Nat × Nat) (old : Nat) : Nat :=
  let x := numDecode .fp32 (mapGet 0 acc (wKey p 0 0 kn.1 kn.2)).toNat
  let r := srBits (seedOf d) (srW1 1 v a id) (srW2 (t0 + kn.1 / 64) 0 (64 * (kn.1 % 64) + kn.2))
  srAdd r (numDecode .fp32 old) x
/-- One element of a drain. -/
def drainAdd (v a id t0 : Nat) (p : Nat) (acc : NMap Word) (d : Dev) (kn : Nat × Nat) : Dev :=
  let off := gbTile a (t0 + kn.1 / 64) + 4 * (64 * (kn.1 % 64) + kn.2)
  winWrite d v off (leBytes 4 (drainElem d v a id t0 p acc kn (winWord d v off)))

/-- GB.DRAIN: capture, then the additions (R122, R123). -/
def execDrain (d : Dev) (v a id t0 : Nat) : Dev :=
  let arr := arrOf (coreOf d v) a
  match arr.pend with
  | none => d
  | some t =>
    let d1 := modCore d v (fun c => modArr c a (fun s => { s with latch := s.acc, acc := [], pend := none }))
    (drainCells t).foldl (drainAdd v a id t0 t.pack arr.acc) d1

/-- GB.CLEAR: the named tiles become +0.0 (R125). -/
def execClear (d : Dev) (v a mask : Nat) : Dev :=
  (maskList 16 mask).foldl (fun e t => winWrite e v (gbTile a t) (zeros 0x4000)) d

/-- WLOAD into the shadow slots (R109, R110). -/
def execLoad (d : Dev) (v a w : Nat) (o : Opnds) : Dev :=
  if aK w = 0 || aN w = 0 then d
  else
    let op : Operand := { operX w o with cols := aN w }
    let tile := wloadTile d v op (aK w) (aN w)
    modCore d v (fun c => modArr c a (fun s => { s with shadow := tile, shadowFmt := op.fmt }))

/-! ### Rings (R126 to R136) -/

/-- The ring step that the head injects: its header and every row of the operand over the full image width (R130, R131). -/
def injectStep (d : Dev) (v a w : Nat) (step : BitVec 16) (f : Fmt) (rows : List (List WElem)) : Dev :=
  match ringOf d v a with
  | none => d
  | some (r, pos) =>
    let pr := (pairingOf f).getD 0
    let fl : RingFlow := ⟨r, step, cwMode w, aM w, f, pr, pos, rows, []⟩
    { d with ttl := { d.ttl with ringFlow := d.ttl.ringFlow ++ [fl] } }

/-- The effect of an issued array command when its turn comes. A ring command of a member that is not the head executes by
`execRingMember` instead. -/
def execArrayCmd (d : Dev) (v a : Nat) (i : Issued) : Dev :=
  let w := i.word.toNat
  match cwOpc w with
  | 0x23 => execLoad d v a w i.ops
  | 0x24 => modCore d v (fun c => modArr c a swapTiles)
  | 0x25 => execDrain d v a i.id (aTile w)
  | 0x26 => execClear d v a (aM w)
  | _ =>
    let reads := mmaLive w || (aRing w && aHead w && aM w != 0)
    let (f, rows) := if reads then streamRows d v w i.ops
      else (if cwOpc w = 0x21 then fmtD (aYF w) else fmtD (aXF w), [])
    let d1 := if aRing w then injectStep d v a w i.step f rows else d
    execMmaOn d1 v a i.id w i.ops f rows

end Sys2Proof.Machine
end

