-- ==== Sys2Proof/Machine/Trans.lean ====
section
/-!
DEFINITION. The functions of the transcendental class (R250, R251, R571), each rounded once. A function is enclosed between
two fixed-point numbers computed with integers; when both ends round to one code, that code is the correctly rounded result,
and otherwise the enclosure is computed again with more bits. Beyond the arguments at which every format has saturated, a
sample on the right side of the limit takes the place of the value.
-/
namespace Sys2Proof.Machine

/-- A closed range of integers, standing for its ends divided by 2^w of the computation. -/
structure Ivl where
  lo : Int
  hi : Int
deriving DecidableEq, Repr

/-- The sum. -/
def ivAdd (a b : Ivl) : Ivl := ⟨a.lo + b.lo, a.hi + b.hi⟩
/-- The difference. -/
def ivSub (a b : Ivl) : Ivl := ⟨a.lo - b.hi, a.hi - b.lo⟩
/-- The integer 1. -/
def ivOne (w : Nat) : Ivl := ⟨2 ^ w, 2 ^ w⟩
/-- The product of two ranges, either sign. -/
def ivMul (w : Nat) (a b : Ivl) : Ivl :=
  let p := [a.lo * b.lo, a.lo * b.hi, a.hi * b.lo, a.hi * b.hi]
  let lo := p.foldl min (a.lo * b.lo)
  let hi := p.foldl max (a.lo * b.lo)
  ⟨lo / 2 ^ w, hi / 2 ^ w + 1⟩
/-- The quotient of two ranges of positive numbers. -/
def ivDiv (w : Nat) (a b : Ivl) : Ivl := ⟨a.lo * 2 ^ w / b.hi, a.hi * 2 ^ w / b.lo + 1⟩
/-- The quotient by a positive integer. -/
def ivDivN (a : Ivl) (n : Nat) : Ivl := ⟨a.lo / n, a.hi / n + 1⟩

/-- A finite number in fixed point with w fraction bits. -/
def ivOf (w : Nat) : Num → Ivl
  | .fin n m e =>
    let k := e + (w : Int)
    let lo : Int := if k ≥ 0 then (m * 2 ^ k.toNat : Nat) else (m / 2 ^ (-k).toNat : Nat)
    let hi : Int := if k ≥ 0 then lo else lo + 1
    if n then ⟨-hi, -lo⟩ else ⟨lo, hi⟩
  | _ => ⟨0, 0⟩

/-- The Taylor sum of e^y for a small y: n further terms, the k-th being `t`. -/
def expTaylor (w : Nat) (y : Ivl) : Nat → Nat → Ivl → Ivl → Ivl
  | 0, _, t, s => ⟨s.lo, s.hi + 2 * t.hi + 1⟩
  | n + 1, k, t, s =>
    let t' := ivDivN (ivMul w t y) k
    expTaylor w y n (k + 1) t' (ivAdd s t')

/-- e^x for 0 at most x at most 300: Taylor at x / 2^16, then sixteen squarings. -/
def expPos (w : Nat) (x : Ivl) : Ivl :=
  let y : Ivl := ⟨x.lo / 65536, x.hi / 65536 + 1⟩
  Nat.repeat (fun v => ivMul w v v) 16 (expTaylor w y (w / 8 + 2) 1 (ivOne w) (ivOne w))

/-- e^x for |x| at most 300. -/
def expIv (w : Nat) (x : Ivl) : Ivl :=
  if x.hi ≤ 0 then ivDiv w (ivOne w) (expPos w ⟨-x.hi, -x.lo⟩) else expPos w x

/-- The series of atanh or atan of t: `sgn` is 1 or -1 times each further term. -/
def oddSeries (w : Nat) (t2 : Ivl) (sgn : Int) : Nat → Nat → Int → Ivl → Ivl → Ivl
  | 0, _, _, p, s => ⟨s.lo - p.hi - 1, s.hi + p.hi + 1⟩
  | n + 1, k, sg, p, s =>
    let p' := ivMul w p t2
    let q := ivDivN p' k
    oddSeries w t2 sgn n (k + 2) (sg * sgn) p' (if sg > 0 then ivAdd s q else ivSub s q)

/-- atanh t for 0 at most t at most 1/3. -/
def atanhIv (w : Nat) (t : Ivl) : Ivl := oddSeries w (ivMul w t t) 1 (w / 3 + 2) 3 1 t t
/-- atan t for 0 at most t at most 1/5. -/
def atanIv (w : Nat) (t : Ivl) : Ivl := oddSeries w (ivMul w t t) (-1) (w / 4 + 2) 3 (-1) t t
/-- ln 2 = 2 atanh (1/3). -/
def ln2Iv (w : Nat) : Ivl := let a := atanhIv w (ivDivN (ivOne w) 3); ivAdd a a
/-- pi = 16 atan (1/5) - 4 atan (1/239). -/
def piIv (w : Nat) : Ivl :=
  let a := atanIv w (ivDivN (ivOne w) 5)
  let b := atanIv w (ivDivN (ivOne w) 239)
  ⟨16 * a.lo - 4 * b.hi, 16 * a.hi - 4 * b.lo⟩

/-- The square root of a range of positive numbers. -/
def sqrtIv (w : Nat) (a : Ivl) : Ivl := ⟨isqrt (a.lo.toNat * 2 ^ w), isqrt (a.hi.toNat * 2 ^ w) + 1⟩

/-- ln of m 2^e, m positive: the exponent times ln 2 plus 2 atanh ((f - 1) / (f + 1)) with f between 2/3 and 4/3. -/
def lnIv (w : Nat) (m : Nat) (e : Int) : Ivl :=
  let k := bitLen m - 1
  let up := 3 * m ≥ 4 * 2 ^ k
  let den : Nat := if up then 2 ^ (k + 1) else 2 ^ k
  let ex : Int := e + k + (if up then 1 else 0)
  let num : Int := (m : Int) - (den : Int)
  let tot : Nat := m + den
  let t : Ivl := ⟨(num.natAbs * 2 ^ w / tot : Nat), (num.natAbs * 2 ^ w / tot + 1 : Nat)⟩
  let a := atanhIv w t
  let l := ln2Iv w
  let el : Ivl := if ex ≥ 0 then ⟨ex * l.lo, ex * l.hi⟩ else ⟨ex * l.hi, ex * l.lo⟩
  if num ≥ 0 then ivAdd el ⟨2 * a.lo, 2 * a.hi⟩ else ivAdd el ⟨-2 * a.hi, -2 * a.lo⟩

/-- The logistic function. -/
def sigIv (w : Nat) (x : Ivl) : Ivl :=
  if x.lo ≥ 0 then ivDiv w (ivOne w) (ivAdd (ivOne w) (expIv w ⟨-x.hi, -x.lo⟩))
  else let e := expIv w x; ivDiv w e (ivAdd (ivOne w) e)

/-- tanh x for x positive. -/
def tanhIv (w : Nat) (x : Ivl) : Ivl :=
  let e := expPos w ⟨2 * x.lo, 2 * x.hi⟩
  ivDiv w (ivSub e (ivOne w)) (ivAdd e (ivOne w))

/-- The standard normal density. -/
def phiIv (w : Nat) (x : Ivl) : Ivl :=
  let p := piIv w
  let q := ivMul w x x
  ivDiv w (expIv w ⟨-(q.hi / 2) - 1, -(q.lo / 2)⟩) (sqrtIv w ⟨2 * p.lo, 2 * p.hi⟩)

/-- The sum of x^(2n+1) / (1 3 5 ... (2n+1)) for x positive. -/
def cdfSeries (w : Nat) (x2 : Ivl) : Nat → Nat → Ivl → Ivl → Ivl
  | 0, _, t, s => ⟨s.lo, s.hi + 2 * t.hi + 1⟩
  | n + 1, k, t, s => let t' := ivDivN (ivMul w t x2) k; cdfSeries w x2 n (k + 2) t' (ivAdd s t')

/-- The standard normal distribution function for |x| at most 20, computed with 640 further bits. -/
def cdfIv (w : Nat) (x : Ivl) : Ivl :=
  let v := w + 640
  let neg := x.hi < 0
  let y : Ivl := if neg then ⟨-x.hi * 2 ^ 640, -x.lo * 2 ^ 640⟩ else ⟨x.lo * 2 ^ 640, x.hi * 2 ^ 640⟩
  let s := cdfSeries v (ivMul v y y) (800 + v) 3 y y
  let t := ivMul v (phiIv v y) s
  let half : Int := 2 ^ (v - 1)
  let r : Ivl := if neg then ⟨half - t.hi, half - t.lo⟩ else ⟨half + t.lo, half + t.hi⟩
  ⟨r.lo / 2 ^ 640, r.hi / 2 ^ 640 + 1⟩

/-- A fixed-point integer as a number. -/
def numFix (w : Nat) (i : Int) : Num := .fin (i < 0) i.natAbs (-(w : Int))

/-- The first precision at which both ends of the enclosure round alike; at the last precision the lower end's code. -/
def ziv (round : Num → Nat) (encl : Nat → Num × Num) : List Nat → Nat
  | [] => 0
  | [p] => round (encl p).1
  | p :: q :: ps =>
    let (a, b) := encl p
    if round a = round b then round a else ziv round encl (q :: ps)

/-- The precisions tried, in fraction bits. -/
def zivBits : List Nat := [512, 1024, 2048, 4096]

/-- A range as the two numbers at its ends. -/
def ivNums (w : Nat) (v : Ivl) : Num × Num := (numFix w v.lo, numFix w v.hi)

/-- The factor times both ends of a range; the two ends in either order. -/
def scaleNums (b : Num) (p : Num × Num) : Num × Num := (numMul b p.1, numMul b p.2)

/-- A finite number is above a positive integer in magnitude. -/
def farOut (x : Num) (n : Nat) : Bool := numCmp (numAbs x) (.fin false n 0) == .gt

/-- 1 + s 2^-k, exactly. -/
def nearOne (s : Int) (k : Nat) : Num := numFix k (2 ^ k + s)

/-- EXP (R251). -/
def numExp (round : Num → Nat) : Num → Nat
  | .nan => round .nan
  | .inf n => round (if n then numZero else .inf false)
  | .fin _ 0 _ => round (numInt 1)
  | .fin n m e =>
    let x := Num.fin n m e
    if farOut x 200 then round (.fin false 1 (if n then -300 else 300))
    else ziv round (fun w => ivNums w (expIv w (ivOf w x))) zivBits

/-- LOG (R251). -/
def numLog (round : Num → Nat) : Num → Nat
  | .nan => round .nan
  | .inf n => round (if n then .nan else .inf false)
  | .fin _ 0 _ => round (.inf true)
  | .fin n m e =>
    if n then round .nan
    else if numCmp (.fin false m e) (numInt 1) == .eq then round numZero
    else ziv round (fun w => ivNums w (lnIv w m e)) zivBits

/-- TANH (R251). -/
def numTanh (round : Num → Nat) : Num → Nat
  | .nan => round .nan
  | .inf n => round (.fin n 1 0)
  | .fin n 0 e => round (.fin n 0 e)
  | .fin n m e =>
    let sg := Num.fin n 1 0
    let x := Num.fin false m e
    if farOut x 100 then round (numMul sg (nearOne (-1) 250))
    else ziv round (fun w => scaleNums sg (ivNums w (tanhIv w (ivOf w x)))) zivBits

/-- SIGMOID (R251, R571). -/
def numSigmoid (round : Num → Nat) : Num → Nat
  | .nan => round .nan
  | .inf n => round (if n then numZero else numInt 1)
  | .fin _ 0 _ => round (.fin false 1 (-1))
  | .fin n m e =>
    let x := Num.fin n m e
    if farOut x 200 then round (if n then .fin false 1 (-288) else nearOne (-1) 280)
    else ziv round (fun w => ivNums w (sigIv w (ivOf w x))) zivBits

/-- GELU (R251, R571). -/
def numGelu (round : Num → Nat) : Num → Nat
  | .nan => round .nan
  | .inf n => round (if n then .fin true 0 0 else .inf false)
  | .fin n 0 e => round (.fin n 0 e)
  | .fin n m e =>
    let x := Num.fin n m e
    if farOut x 20 then round (if n then .fin true 1 (-280) else numMul x (nearOne (-1) 200))
    else ziv round (fun w => scaleNums x (ivNums w (cdfIv w (ivOf w x)))) zivBits

/-- SILU (R251, R571). -/
def numSilu (round : Num → Nat) : Num → Nat
  | .nan => round .nan
  | .inf n => round (if n then .fin true 0 0 else .inf false)
  | .fin n 0 e => round (.fin n 0 e)
  | .fin n m e =>
    let x := Num.fin n m e
    if farOut x 200 then round (if n then .fin true 1 (-270) else numMul x (nearOne (-1) 280))
    else ziv round (fun w => scaleNums x (ivNums w (sigIv w (ivOf w x)))) zivBits

/-- The derivative of SIGMOID. -/
def dsigIv (w : Nat) (x : Ivl) : Ivl := let s := sigIv w x; ivMul w s (sigIv w ⟨-x.hi, -x.lo⟩)
/-- The derivative of GELU. -/
def dgeluIv (w : Nat) (x : Ivl) : Ivl := ivAdd (cdfIv w x) (ivMul w x (phiIv w x))
/-- The derivative of SILU. -/
def dsiluIv (w : Nat) (x : Ivl) : Ivl :=
  let t := sigIv w ⟨-x.hi, -x.lo⟩
  ivMul w (sigIv w x) (ivAdd (ivOne w) (ivMul w x t))

/-- DSIGMOID: b times the derivative (R571). -/
def numDsigmoid (round : Num → Nat) (b a : Num) : Nat :=
  match a with
  | .nan => round .nan
  | .inf _ => round (numMul b numZero)
  | .fin _ 0 _ => round (numMul b (.fin false 1 (-2)))
  | .fin n m e =>
    let x := Num.fin n m e
    if !numIsFin b || numIsZero b then round (numMul b (numInt 1))
    else if farOut x 200 then round (numMul b (.fin false 1 (-300)))
    else ziv round (fun w => scaleNums b (ivNums w (dsigIv w (ivOf w x)))) zivBits

/-- The product of b, zero or not finite, with a number of the sign of the enclosed g. -/
def mulSign (b : Num) (p : Num × Num) : Num := numMul b (.fin (numNeg? p.1) 1 0)

/-- DGELU: b times the derivative (R571). -/
def numDgelu (round : Num → Nat) (b a : Num) : Nat :=
  match a with
  | .nan => round .nan
  | .inf n => round (numMul b (if n then .fin true 0 0 else numInt 1))
  | .fin _ 0 _ => round (numMul b (.fin false 1 (-1)))
  | .fin n m e =>
    let x := Num.fin n m e
    let far := if n then Num.fin true 1 (-400) else nearOne 1 200
    let encl := fun w => ivNums w (dgeluIv w (ivOf w x))
    if farOut x 20 then round (numMul b far)
    else if !numIsFin b || numIsZero b then round (mulSign b (encl 512))
    else ziv round (fun w => scaleNums b (encl w)) zivBits

/-- DSILU: b times the derivative (R571). -/
def numDsilu (round : Num → Nat) (b a : Num) : Nat :=
  match a with
  | .nan => round .nan
  | .inf n => round (numMul b (if n then .fin true 0 0 else numInt 1))
  | .fin _ 0 _ => round (numMul b (.fin false 1 (-1)))
  | .fin n m e =>
    let x := Num.fin n m e
    let far := if n then Num.fin true 1 (-300) else nearOne 1 200
    let encl := fun w => ivNums w (dsiluIv w (ivOf w x))
    if farOut x 200 then round (numMul b far)
    else if !numIsFin b || numIsZero b then round (mulSign b (encl 512))
    else ziv round (fun w => scaleNums b (encl w)) zivBits

/-- The update term p / (sqrt q + eps) of R267, rounded once: exact operands, one rounding. -/
def numUpd (round : Num → Nat) (p q eps : Num) : Nat :=
  match q with
  | .fin false m e =>
    if m = 0 || !numIsFin eps || !numIsFin p then round (numDiv p (numAdd false (numSqrt q) eps))
    else
      let mm := m * 2 ^ (e % 2).toNat
      let ee := (e - e % 2) / 2
      ziv round (fun w =>
        let s := isqrt (mm * 2 ^ (2 * w))
        let hi := if s * s = mm * 2 ^ (2 * w) then s else s + 1
        let f := fun (k : Nat) => numDiv p (numAdd false (.fin false k (ee - (w : Int))) eps)
        (f s, f hi)) zivBits
  | _ => round (numDiv p (numAdd false (numSqrt q) eps))

end Sys2Proof.Machine
end

