-- ==== Sys2Proof/Machine/Vector.lean ====
section
/-!
DEFINITION. What the vector functions compute (R241 to R268): operands, elementwise functions, conversions, counts, reductions
in the lane-tree order, normalisation and soft-maximum forward and backward, and the optimiser update.
-/
namespace Sys2Proof.Machine

/-! ### Operands (R160, R247, R248) -/

/-- The row pitch of a dense vector operand (R160). -/
def vPitch (f : Fmt) (cols : Nat) : Nat := up64 (rowBytes f cols)
/-- The bytes that a dense vector operand spans. -/
def vSpan (f : Fmt) (rows cols : Nat) : Nat := rowsSpan rows (vPitch f cols) (rowBytes f cols)

/-- The element codes of a dense operand. -/
def vCodes (d : Dev) (v base : Nat) (f : Fmt) (rows cols : Nat) : List (List Nat) :=
  (List.range rows).map (fun i => unpackRow f cols (winRead d v (base + i * vPitch f cols) (rowBytes f cols)))
/-- The scale code of element (i, j); 0x7F for a format without scales. -/
def vScale (d : Dev) (v sbase : Nat) (f : Fmt) (b : Nat) (dir : Bool) (cols i j : Nat) : Nat :=
  if fmtNarrow f then (rdByte d (winBase v + sbase + scaleIndex b dir cols i j)).toNat else 0x7F
/-- The values of a dense operand, decoded by R86. -/
def vNums (d : Dev) (v base sbase : Nat) (f : Fmt) (blk : Nat) (dir : Bool) (rows cols : Nat) : List (List Num) :=
  (vCodes d v base f rows cols).mapIdx (fun i r =>
    r.mapIdx (fun j c => numDecoded f c (vScale d v sbase f (blkSize blk) dir cols i j)))

/-- The format of A. -/
def vFmtA (w : Nat) : Fmt := (fmtOf (vAF w)).getD .fp32
/-- The format of B. -/
def vFmtB (w : Nat) : Fmt := (fmtOf (vBF w)).getD .fp32
/-- The format of D. -/
def vFmtD (w : Nat) : Fmt := (fmtOf (dFmt (vDD w))).getD .fp32
/-- The rounding mode of D. -/
def vRndD (w : Nat) : Rnd := (rndOf (dRnd (vDD w))).getD .rne

/-- The codes of A: the fused stream under FSRC (R243), else memory. -/
def vACodes (d : Dev) (v w : Nat) (o : Opnds) (fused : List (List Word)) : List (List Nat) :=
  if vFsrc w then fused.map (fun r => r.map (·.toNat)) else vCodes d v o.x (vFmtA w) (vRows w) (vCols w)
/-- The values of A. -/
def vANums (d : Dev) (v w : Nat) (o : Opnds) (fused : List (List Word)) : List (List Num) :=
  if vFsrc w then fused.map (fun r => r.map (fun c => numDecode (vFmtA w) c.toNat))
  else vNums d v o.x o.xs (vFmtA w) (vAB w) (vAD w) (vRows w) (vCols w)

/-- The extents of B and C under the broadcast of FN[6:5] (R250). -/
def bcastDims (w : Nat) : Nat × Nat :=
  match bits (vFn w) 5 2 with
  | 0 => (vRows w, vCols w)
  | 1 => (1, vCols w)
  | 2 => (1, vRows w)
  | _ => (1, 1)
/-- Element (i, j) of an operand under the broadcast. -/
def bcastAt (w : Nat) (t : List (List Num)) (i j : Nat) : Num :=
  match bits (vFn w) 5 2 with
  | 0 => (t.getD i []).getD j numZero
  | 1 => (t.getD 0 []).getD j numZero
  | 2 => (t.getD 0 []).getD i numZero
  | _ => (t.getD 0 []).getD 0 numZero

/-! ### Writing a destination (R208, R248, R249) -/

/-- The format into which a result is rounded first: D's own when wide, else FP32 (R248). -/
def wideOf (f : Fmt) : Fmt := if fmtWideFloat f then f else .fp32
/-- The first rounding of a result (R69, R248). -/
def firstRound (f : Fmt) (r : Rnd) (x : Num) : Nat := if fmtWideFloat f then numRound f r x else numRound .fp32 .rne x
/-- Zero results of exact sums follow RDN only where D is rounded by it (R70). -/
def rdnOf (f : Fmt) (r : Rnd) : Bool := fmtWideFloat f && r == .rdn

/-- The image of row m in skewed layout: slots beyond the row's elements are zero bits (R104, R105, R208). -/
def skewImage (f : Fmt) (top : Bool) (m : Nat) (codes : List Nat) : List Byte :=
  let p := if top then 1 else packOf f
  let s := if top then slotTop f else slotLeft f
  (List.range 64).flatMap (fun q =>
    let slot := (q + 64 - m % 64) % 64
    leBytes s ((List.range p).foldl (fun n j => n + codes.getD (p * slot + j) 0 % 2 ^ fmtBits f * 2 ^ (fmtBits f * j)) 0))

/-- Rows of codes stored at D, plain or skewed with Q = I. -/
def vStore (d : Dev) (v base : Nat) (f : Fmt) (cols : Nat) (skw top : Bool) (rows : List (List Nat)) : Dev :=
  let img := 64 * (if top then slotTop f else slotLeft f)
  (rows.mapIdx (fun i r => (i, r))).foldl
    (fun e p =>
      if skw then winWrite e v (base + p.1 * img) (skewImage f top p.1 p.2)
      else winWrite e v (base + p.1 * vPitch f cols) (packRow f p.2)) d

/-- Values written to a destination with a descriptor: wide floats by one rounding, narrow formats by scale-on-write of values
already in FP32 (R248). `codes` are the codes after the first rounding. -/
def vWrite (d : Dev) (v base sbase : Nat) (desc : Nat) (cols : Nat) (skw top : Bool) (codes : List (List Nat)) : Dev :=
  let f := (fmtOf (dFmt desc)).getD .fp32
  let r := (rndOf (dRnd desc)).getD .rne
  if fmtNarrow f then
    let vals := codes.map (fun row => row.map (numDecode .fp32))
    let (sc, out) := writeTensor f r none (blkSize (dBlk desc)) (dDir desc) vals cols
    winWrite (vStore d v base f cols skw top out) v sbase (sc.map (BitVec.ofNat 8))
  else vStore d v base f cols skw top codes

/-- The result of a function with ROWS x COLS results, written to D. -/
def vPut (d : Dev) (v w : Nat) (o : Opnds) (codes : List (List Nat)) : Dev :=
  vWrite d v o.d o.ds (vDD w) (vCols w) (vSkw w) (bit (vFn w) 7) codes

/-! ### VOP (R250 to R252, R571) -/

/-- A float function of VOP, rounded once. -/
def vopFloat (fn : Nat) (rdn : Bool) (rd : Num → Nat) (a b c : Num) : Nat :=
  let pos := fun (x : Num) => !numIsNan x && !numIsZero x && !numNeg? x
  match fn with
  | 0x00 => rd (numAdd rdn a b)
  | 0x01 => rd (numAdd rdn a (numNegate b))
  | 0x02 => rd (numMul a b)
  | 0x03 => rd (numAdd rdn (numMul a b) c)
  | 0x04 => rd (numDiv a b)
  | 0x05 => rd (numMax a b)
  | 0x06 => rd (numMin a b)
  | 0x07 => rd (numAbs a)
  | 0x08 => rd (numNegate a)
  | 0x09 => rd (numSqrt a)
  | 0x0A => rd (numRsqrt a)
  | 0x0B => rd (numDiv (numInt 1) a)
  | 0x0C => numExp rd a
  | 0x0D => numLog rd a
  | 0x0E => numTanh rd a
  | 0x0F => numSigmoid rd a
  | 0x10 => numGelu rd a
  | 0x11 => numSilu rd a
  | 0x12 => if numIsNan a then rd .nan else if pos a then rd a else rd numZero
  | 0x13 => rd (numAdd rdn b a)
  | 0x14 => if numIsNan a then rd .nan else if pos a then rd b else rd numZero
  | 0x15 => if numIsNan b then rd .nan else numDsigmoid rd b a
  | 0x16 => if numIsNan b then rd .nan else numDgelu rd b a
  | _ => if numIsNan b then rd .nan else numDsilu rd b a

/-- An INT32 function of VOP: saturating (R83). -/
def vopInt (fn : Nat) (a b : Int) : Int :=
  match fn with
  | 0x00 => satInt (a + b)
  | 0x01 => satInt (a - b)
  | 0x02 => satInt (a * b)
  | 0x05 => max a b
  | 0x06 => min a b
  | 0x07 => satInt a.natAbs
  | _ => satInt (-a)

/-- The integer value of a number that is one. -/
def numToInt : Num → Int
  | .fin n m e => roundInt .rtz n m e
  | _ => 0

/-- The function code of VOP uses B. -/
def vopUsesB (fn : Nat) : Bool := fn ≤ 6 || (0x13 ≤ fn && fn ≤ 0x17)

/-- The results of VOP. -/
def vopRows (d : Dev) (v w : Nat) (o : Opnds) (fused : List (List Word)) : List (List Nat) :=
  let fn := bits (vFn w) 0 5
  let fd := vFmtD w
  let dims := bcastDims w
  let a := vANums d v w o fused
  let b := if vopUsesB fn then vNums d v o.y o.ys (vFmtB w) (vBB w) (vBD w) dims.1 dims.2 else []
  let c := if fn = 3 then vNums d v o.c o.cs (vFmtB w) (vBB w) (vBD w) dims.1 dims.2 else []
  a.mapIdx (fun i r => r.mapIdx (fun j x =>
    let y := bcastAt w b i j
    if vFmtA w = .int32 then twos 32 (vopInt fn (numToInt x) (numToInt y))
    else vopFloat fn (rdnOf fd (vRndD w)) (firstRound fd (vRndD w)) x y (bcastAt w c i j)))

/-! ### The lane-tree order (R256, R257) -/

/-- One lane: its first term, then the others with their term index. -/
def laneFold {α : Type} (add : Nat → α → α → α) : List (Nat × α) → Option α
  | [] => none
  | (_, x) :: r => some (r.foldl (fun s p => add p.1 s p.2) x)
/-- One addition of the tree; an absent side passes the other unchanged. -/
def treeAdd {α : Type} (add : Nat → α → α → α) (t : Nat) : Option α → Option α → Option α
  | some x, some y => some (add t x y)
  | some x, none => some x
  | none, y => y
/-- One level of the tree: adjacent results, numbered from t. -/
def treeLevel {α : Type} (add : Nat → α → α → α) : Nat → List (Option α) → List (Option α)
  | t, x :: y :: r => treeAdd add t x y :: treeLevel add (t + 1) r
  | _, r => r
/-- The lane-tree sum: `add n` is the addition with index n (R257). -/
def laneTree {α : Type} (add : Nat → α → α → α) (terms : List α) : Option α :=
  let l := terms.length
  let idx := terms.mapIdx (fun j x => (j, x))
  let lanes := (List.range 64).map (fun k => laneFold add (idx.filter (fun p => p.1 % 64 == k)))
  let l1 := treeLevel add l lanes
  let l2 := treeLevel add (l + 32) l1
  let l3 := treeLevel add (l + 48) l2
  let l4 := treeLevel add (l + 56) l3
  let l5 := treeLevel add (l + 60) l4
  (treeLevel add (l + 62) l5).headD none
/-- The FP32 sum in lane-tree order, each addition RNE. -/
def laneSum (terms : List Num) : Num := (laneTree (fun _ x y => rne32 (numAdd false x y)) terms).getD numZero

/-! ### VRED (R255 to R257) -/

/-- A float reduction of the terms of output `el`. -/
def vredFloat (op : Nat) (ls : Bool) (bitsAt : Nat → Nat) (terms : List Num) : Num :=
  let add := fun (n : Nat) (x y : Num) =>
    if ls then numDecode .fp32 (srAdd (bitsAt n) x y) else rne32 (numAdd false x y)
  match op with
  | 0 => (laneTree add terms).getD numZero
  | 1 => (laneTree add (terms.map (fun a => rne32 (numMul a a)))).getD numZero
  | 2 => terms.foldl numMax .nan
  | 3 => terms.foldl numMin .nan
  | _ => (terms.map numAbs).foldl numMax .nan
/-- An INT32 reduction. -/
def vredInt (op : Nat) (terms : List Int) : Int :=
  let add := fun (_ : Nat) (x y : Int) => satInt (x + y)
  match op with
  | 0 => (laneTree add terms).getD 0
  | 1 => (laneTree add (terms.map (fun a => satInt (a * a)))).getD 0
  | 2 => terms.foldl max (terms.headD 0)
  | 3 => terms.foldl min (terms.headD 0)
  | _ => let t := terms.map (fun a => satInt a.natAbs); t.foldl max (t.headD 0)

/-- VRED: one output per row or per column, each rounded into D once. -/
def vredOut (d : Dev) (v w id : Nat) (o : Opnds) (fused : List (List Word)) : List Nat :=
  let fn := vFn w
  let a := vANums d v w o fused
  let lines := if bit fn 3 then transpose numZero a (vCols w) else a
  let slot := if vPost w then vSlot w else 0
  lines.mapIdx (fun el terms =>
    if vFmtA w = .int32 then int32Code (vredInt (bits fn 0 3) (terms.map numToInt))
    else
      let rb := fun n => srBits ((d.ttl.active.map (·.seed)).getD 0) (srW1 2 v 0 id) (srW2 slot el n)
      numRound (vFmtD w) (vRndD w) (vredFloat (bits fn 0 3) (vLs w) rb terms))

/-! ### VCAST and VCOUNT.NF (R86, R87, R92, R253, R254) -/

/-- The E8M0 scale operand of element (i, j) (R87, R253). -/
def castScale (d : Dev) (v w : Nat) (o : Opnds) (i j : Nat) : Nat :=
  let at_ := fun k => (rdByte d (winBase v + o.c + k)).toNat
  match bits (vFn w) 0 3 with
  | 1 => at_ (i * vCols w + j)
  | 2 => at_ i
  | 3 => at_ 0
  | 4 => at_ (scaleIndex (blkSize (vAB w)) (vAD w) (vCols w) i j)
  | _ => 0x7F
/-- The source values of VCAST: INT32 with its scale, exactly; every other format decoded. -/
def castNums (d : Dev) (v w : Nat) (o : Opnds) (fused : List (List Word)) : List (List Num) :=
  let a := vANums d v w o fused
  if vFmtA w = .int32 && bits (vFn w) 0 3 != 0 then
    a.mapIdx (fun i r => r.mapIdx (fun j x =>
      let s := castScale d v w o i j
      if s = 0xFF then .nan else numScale x ((s : Int) - 127)))
  else a
/-- The bytes of a scale area. -/
def scaleArea (d : Dev) (v sbase b : Nat) (dir : Bool) (rows cols : Nat) : List Byte :=
  winRead d v sbase (scaleBytes b dir rows cols)

/-- VCAST (R86, R253). -/
def execCast (d : Dev) (v w : Nat) (o : Opnds) (fused : List (List Word)) : Dev :=
  let f := vFmtD w
  let r := vRndD w
  let cols := vCols w
  let desc := vDD w
  let put := fun codes => vStore d v o.d f cols (vSkw w) (bit (vFn w) 7) codes
  if fmtNarrow f && dScl desc then
    -- copied unchanged, elements and scales (R65)
    winWrite (put (vACodes d v w o fused)) v o.ds
      (scaleArea d v o.xs (blkSize (dBlk desc)) (dDir desc) (vRows w) cols)
  else if fmtNarrow f then
    let (sc, out) := writeTensor f r (midFmt (dMid desc)) (blkSize (dBlk desc)) (dDir desc) (castNums d v w o fused) cols
    winWrite (put out) v o.ds (sc.map (BitVec.ofNat 8))
  else if f = .int32 then
    if fmtInt (vFmtA w) && vFmtA w != .int32 then
      put ((vACodes d v w o fused).map (fun row => row.map (fun c => twos 32 (sext (fmtBits (vFmtA w)) c))))
    else put ((castNums d v w o fused).map (fun row => row.map (numToInt32 r)))
  else if f = .e8m0 then put (vACodes d v w o fused)
  else put ((castNums d v w o fused).map (fun row => row.map (numRound f r)))

/-- VCOUNT.NF (R92, R254): the NaN count at D and the infinity count at D + 4. DESIGN CHOICE: the elements are counted as stored, so an
E5M2 or E4M3 element whose value times its scale lies beyond the FP32 range, which R86 decodes as an infinity, does not count;
R92 settles this only for the formats without NaN or infinity. -/
def execCount (d : Dev) (v w : Nat) (o : Opnds) (fused : List (List Word)) : Dev :=
  let f := vFmtA w
  let raw := if vFsrc w then vANums d v w o fused
    else (vCodes d v o.x f (vRows w) (vCols w)).mapIdx (fun i r => r.mapIdx (fun j c =>
      if fmtNarrow f then numScaled f c (vScale d v o.xs f (blkSize (vAB w)) (vAD w) (vCols w) i j) else numDecode f c))
  let all := raw.flatten
  winWrite d v o.d (leBytes 4 (all.countP numIsNan) ++ leBytes 4 (all.countP numIsInf))

/-! ### Normalisation (R258 to R262) -/

/-- An FP32 field of the record. -/
def recNum (o : Opnds) (off : Nat) : Num := numDecode .fp32 (leAt o.recd off 4)
/-- A 4-byte field of the record. -/
def recWord (o : Opnds) (off : Nat) : Nat := leAt o.recd off 4
/-- One row of a wide-float vector. -/
def vecRow (d : Dev) (v base : Nat) (f : Fmt) (n : Nat) : List Num :=
  (unpackRow f n (winRead d v base (rowBytes f n))).map (numDecode f)

/-- Mean and reciprocal deviation of a row (R259). -/
def normStats (rms : Bool) (eps : Num) (x : List Num) : Num × Num :=
  let l := numInt x.length
  let mu := if rms then numZero else rne32 (numDiv (laneSum x) l)
  let ds := if rms then x else x.map (fun a => rne32 (numAdd false a (numNegate mu)))
  let var := rne32 (numDiv (laneSum (ds.map (fun a => rne32 (numMul a a)))) l)
  (mu, rne32 (numRsqrt (rne32 (numAdd false var eps))))
/-- d_j of R259. -/
def centred (rms : Bool) (mu x : Num) : Num := if rms then x else rne32 (numAdd false x (numNegate mu))

/-- A row of statistics: two FP32 numbers (R259, R264). -/
def statBytes (a b : Num) : List Byte := leBytes 4 (numRound .fp32 .rne a) ++ leBytes 4 (numRound .fp32 .rne b)
/-- The statistics of row i, as saved. -/
def readStats (d : Dev) (v off i : Nat) : Num × Num :=
  (numDecode .fp32 (winWord d v (off + 8 * i)), numDecode .fp32 (winWord d v (off + 8 * i + 4)))

/-- VNORM (R259). -/
def execNorm (d : Dev) (v w : Nat) (o : Opnds) (fused : List (List Word)) : Dev :=
  let rms := bit (vFn w) 0
  let flags := recWord o 4
  let gamma := vecRow d v o.y (vFmtB w) (vCols w)
  let bf := (fmtOf (leAt o.recd 0x18 1)).getD .fp32
  let beta := if bit flags 0 then vecRow d v (recWord o 0xC) bf (vCols w) else List.replicate (vCols w) numZero
  let x := vANums d v w o fused
  let st := x.map (normStats rms (recNum o 0))
  let f := vFmtD w
  let rows := List.zipWith (fun r s =>
    List.zipWith (fun xg b =>
      let t := rne32 (numMul (centred rms s.1 xg.1) s.2)
      firstRound f (vRndD w) (numAdd (rdnOf f (vRndD w)) (numMul t xg.2) b)) (List.zip r gamma) beta) x st
  let d1 := vPut d v w o rows
  if bit flags 1 then winWrite d1 v (recWord o 0x10) (st.flatMap (fun s => statBytes s.1 s.2)) else d1

/-- A sum added into an FP32 element of a vector (R261). -/
def addInto (d : Dev) (v off : Nat) (sums : List Num) : Dev :=
  (sums.mapIdx (fun j s => (j, s))).foldl (fun e p =>
    let a := off + 4 * p.1
    winWrite e v a (leBytes 4 (numRound .fp32 .rne (numAdd false (numDecode .fp32 (winWord e v a)) p.2)))) d

/-- VNORM.B (R260, R261). -/
def execNormB (d : Dev) (v w : Nat) (o : Opnds) (fused : List (List Word)) : Dev :=
  let rms := bit (vFn w) 0
  let flags := recWord o 4
  let gf := (fmtOf (leAt o.recd 0x18 1)).getD .fp32
  let gamma := vecRow d v (recWord o 8) gf (vCols w)
  let dy := vANums d v w o fused
  let x := vNums d v o.y o.ys (vFmtB w) (vBB w) (vBD w) (vRows w) (vCols w)
  let l := numInt (vCols w)
  let stats := x.mapIdx (fun i r => if vMeth w then readStats d v (recWord o 0x10) i else normStats rms (recNum o 0) r)
  let f := vFmtD w
  let sub := fun a b => rne32 (numAdd false a (numNegate b))
  let xh := List.zipWith (fun r s => r.map (fun a => rne32 (numMul (centred rms s.1 a) s.2))) x stats
  let rows := List.zipWith (fun (p : List Num × List Num) (s : Num × Num) =>
    let g := List.zipWith (fun a b => rne32 (numMul a b)) p.1 gamma
    let a := if rms then numZero else rne32 (numDiv (laneSum g) l)
    let b := rne32 (numDiv (laneSum (List.zipWith (fun u t => rne32 (numMul u t)) g p.2)) l)
    List.zipWith (fun u t => firstRound f (vRndD w) (numMul s.2 (sub (sub u a) (rne32 (numMul t b))))) g p.2)
    (List.zip dy xh) stats
  let d1 := vPut d v w o rows
  if bit flags 2 then
    let prods := List.zipWith (fun a b => List.zipWith (fun u t => rne32 (numMul u t)) a b) dy xh
    let d2 := addInto d1 v (recWord o 0x14) ((transpose numZero prods (vCols w)).map laneSum)
    if bit flags 0 then addInto d2 v (recWord o 0xC) ((transpose numZero dy (vCols w)).map laneSum) else d2
  else d1

/-! ### Soft-maximum (R263 to R265) -/

/-- Element (i, j) is masked (R264). -/
def smMasked (o : Opnds) (i j : Nat) : Bool := bit (recWord o 4) 0 && decide ((j : Int) > (i : Int) + sext 32 (recWord o 8))
/-- z_j of row i. -/
def smZ (o : Opnds) (i : Nat) (x : List Num) : List Num :=
  x.mapIdx (fun j a => if smMasked o i j then .inf true else rne32 (numMul a (recNum o 0)))
/-- exp (z - m), both steps RNE. -/
def smExp (m z : Num) : Num := numDecode .fp32 (numExp (numRound .fp32 .rne) (rne32 (numAdd false z (numNegate m))))
/-- Every element of the row is masked. -/
def smAll (o : Opnds) (i n : Nat) : Bool := (List.range n).all (fun j => smMasked o i j)
/-- m and s of a row (R264). -/
def smStats (o : Opnds) (i : Nat) (x : List Num) : Num × Num :=
  if smAll o i x.length then (.inf true, numZero)
  else
    let z := smZ o i x
    let m := z.foldl numMax .nan
    (m, laneSum (z.map (smExp m)))

/-- VSMAX (R264). -/
def execSmax (d : Dev) (v w : Nat) (o : Opnds) (fused : List (List Word)) : Dev :=
  let f := vFmtD w
  let x := vANums d v w o fused
  let st := x.mapIdx (smStats o)
  let rows := (List.zip x st).mapIdx (fun i p =>
    (smZ o i p.1).mapIdx (fun j z =>
      if smMasked o i j then firstRound f (vRndD w) numZero
      else firstRound f (vRndD w) (numDiv (smExp p.2.1 z) p.2.2)))
  let d1 := vPut d v w o rows
  if bit (recWord o 4) 1 then winWrite d1 v (recWord o 0xC) (st.flatMap (fun s => statBytes s.1 s.2)) else d1

/-- VSMAX.B (R265). -/
def execSmaxB (d : Dev) (v w : Nat) (o : Opnds) (fused : List (List Word)) : Dev :=
  let f := vFmtD w
  let dy := vANums d v w o fused
  let x := vNums d v o.y o.ys (vFmtB w) (vBB w) (vBD w) (vRows w) (vCols w)
  let rows := (List.zip dy x).mapIdx (fun i p =>
    let s := if vMeth w then readStats d v (recWord o 0xC) i else smStats o i p.2
    if smAll o i (vCols w) then p.1.map (fun _ => firstRound f (vRndD w) numZero)
    else
      let y := (smZ o i p.2).map (fun z => rne32 (numDiv (smExp s.1 z) s.2))
      let c := laneSum (List.zipWith (fun a b => rne32 (numMul a b)) p.1 y)
      (List.zipWith (fun a b => (a, b)) p.1 y).mapIdx (fun j q =>
        if smMasked o i j then firstRound f (vRndD w) numZero
        else firstRound f (vRndD w) (numMul (recNum o 0) (rne32 (numMul q.2 (rne32 (numAdd false q.1 (numNegate c))))))))
  vPut d v w o rows

/-! ### VUPD (R266 to R268) -/

/-- One element of VUPD: the new master and the new state (R267). -/
def updElem (o : Opnds) (grad wt m vv : Num) : Num × Num × Num :=
  let g := rne32 (numMul grad (recNum o 0x20))
  let b1 := recNum o 0xC
  let b2 := recNum o 0x10
  let oneMinus := fun b => numAdd false (numInt 1) (numNegate b)
  let mm := rne32 (numAdd false (numMul b1 m) g)
  let ma := rne32 (numAdd false (numMul b1 m) (numMul (oneMinus b1) g))
  let va := rne32 (numAdd false (numMul b2 vv) (numMul (numMul (oneMinus b2) g) g))
  let (u, m', v') := match leAt o.recd 0 1 with
    | 0 => (g, m, vv)
    | 1 => (mm, mm, vv)
    | _ => (numDecode .fp32 (numUpd (numRound .fp32 .rne) (numMul ma (recNum o 0x18)) (numMul va (recNum o 0x1C))
              (recNum o 0x14)), ma, va)
  let step := numMul (recNum o 4) (numAdd false u (numMul (recNum o 8) wt))
  (rne32 (numAdd false wt (numNegate step)), m', v')

/-- Bytes of state per element. -/
def updStateBytes (kind : Nat) : Nat := if kind = 0 then 0 else if kind = 1 then 4 else 8

/-- VUPD (R266, R267): masters, state and one or two working copies. -/
def execUpd (d : Dev) (v w : Nat) (o : Opnds) (fused : List (List Word)) : Dev :=
  let kind := leAt o.recd 0 1
  let flags := leAt o.recd 1 1
  let rows := vRows w
  let cols := vCols w
  let sb := updStateBytes kind
  let sp := up64 (sb * cols)
  let soff := recWord o 0x24
  let grad := vANums d v w o fused
  let master := vNums d v o.y o.ys .fp32 0 false rows cols
  let stAt := fun (i j k : Nat) => if k + 4 ≤ sb then numDecode .fp32 (winWord d v (soff + i * sp + j * sb + k)) else numZero
  let res := (List.zip grad master).mapIdx (fun i p =>
    (List.zip p.1 p.2).mapIdx (fun j q => updElem o q.1 q.2 (stAt i j 0) (stAt i j 4)))
  let code := fun x => numRound .fp32 .rne x
  let d1 := vStore d v o.y .fp32 cols false false (res.map (fun r => r.map (fun t => code t.1)))
  let d2 := (res.mapIdx (fun i r => (i, r))).foldl (fun e p =>
    winWrite e v (soff + p.1 * sp) (p.2.flatMap (fun t => (leBytes 4 (code t.2.1) ++ leBytes 4 (code t.2.2)).take sb))) d1
  let wcopy := fun (desc : Nat) => res.map (fun r => r.map (fun t =>
    firstRound ((fmtOf (dFmt desc)).getD .fp32) ((rndOf (dRnd desc)).getD .rne) t.1))
  let d3 := vWrite d2 v o.d o.ds (vDD w) cols (vSkw w) (bit (vFn w) 7) (wcopy (vDD w))
  if bit flags 0 then
    let desc := leAt o.recd 2 2
    vWrite d3 v (recWord o 0x28) (recWord o 0x2C) desc cols (bit flags 1) (bit flags 2) (wcopy desc)
  else d3

/-- The effect of an issued vector command on the window of its posting core (R90, R250 to R268). -/
def execVecCmd (d : Dev) (v : Nat) (i : Issued) (fused : List (List Word)) : Dev :=
  let w := i.word.toNat
  let o := i.ops
  if vRows w = 0 || vCols w = 0 then d
  else match cwOpc w with
    | 0x30 =>
      if vFmtA w = .int32 then vStore d v o.d .int32 (vCols w) (vSkw w) (bit (vFn w) 7) (vopRows d v w o fused)
      else vPut d v w o (vopRows d v w o fused)
    | 0x31 =>
      let out := vredOut d v w i.id o fused
      vStore d v o.d (vFmtD w) out.length false false [out]
    | 0x32 => execNorm d v w o fused
    | 0x33 => execNormB d v w o fused
    | 0x34 => execSmax d v w o fused
    | 0x35 => execSmaxB d v w o fused
    | 0x36 => execCast d v w o fused
    | 0x37 => execUpd d v w o fused
    | _ => execCount d v w o fused

end Sys2Proof.Machine
end

