-- ==== Sys2Proof/Machine/Check.lean ====
section
/-!
DEFINITION. What the Proctor computes at issue from the tracked state: the resolved operands of a command (R157), the regions
it declares (R162, R175) and the malformed checks in the order of R569.
-/
namespace Sys2Proof.Machine

/-! ### Array commands -/

/-- The command streams X: WLOAD, MMA.F, MMA.O. -/
def usesX (w : Nat) : Bool := cwOpc w == 0x23 || cwOpc w == 0x20 || cwOpc w == 0x22
/-- The command streams Y: MMA.T, MMA.O. -/
def usesY (w : Nat) : Bool := cwOpc w == 0x21 || cwOpc w == 0x22
/-- The command writes D: MMA.F and MMA.T without FUSE. -/
def usesD (w : Nat) : Bool := (cwOpc w == 0x20 || cwOpc w == 0x21) && !aFuse w
/-- The ring operand is X for MMA.F and MMA.O, Y for MMA.T (R126). -/
def ringIsX (w : Nat) : Bool := cwOpc w != 0x21

/-- The command has work of its own: its extents are not zero (R119, R110). -/
def arrLive (w : Nat) : Bool := if cwOpc w = 0x23 then aK w != 0 && aN w != 0 else mmaLive w
/-- The head of a ring step with rows reads its ring operand whatever its extents (R119). -/
def headReads (w : Nat) : Bool := cwMma w && aRing w && aHead w && aM w != 0
/-- X is read from scratchpad. -/
def readsX (w : Nat) : Bool :=
  usesX w && ((arrLive w && !(cwMma w && aRing w && !aHead w)) || (headReads w && ringIsX w))
/-- Y is read from scratchpad. -/
def readsY (w : Nat) : Bool :=
  usesY w && ((arrLive w && !(aRing w && !aHead w && !ringIsX w)) || (headReads w && !ringIsX w))
/-- X2 is used: the column split of MMA.F and MMA.O. -/
def readsX2 (w : Nat) : Bool := arrLive w && aSplit w == 2 && (cwOpc w == 0x20 || cwOpc w == 0x22)
/-- Y2 is used: the row split of MMA.T and MMA.O. -/
def readsY2 (w : Nat) : Bool := arrLive w && aSplit w == 1 && (cwOpc w == 0x21 || cwOpc w == 0x22)
/-- D is written. -/
def writesD (w : Nat) : Bool := usesD w && mmaLive w
/-- D2 is written. -/
def writesD2 (w : Nat) : Bool := writesD w && aSplit w != 0

/-- The operands of an array command, resolved from the registers (R156, R157). -/
def arrOpnds (c : Core) (w : Nat) : Opnds :=
  { x := baseOf c (aXR w), xs := baseOf c (aXR w + 1), x2 := baseOf c (aXR w + 2), x2s := baseOf c (aXR w + 3),
    y := baseOf c (aYR w), ys := baseOf c (aYR w + 1), y2 := baseOf c (aYR w + 2), y2s := baseOf c (aYR w + 3),
    d := baseOf c (aDR w), d2 := baseOf c (aDR w + 2) }

/-- The bytes of X: its images and its scale area, as offset and length (R162). -/
def xSpans (w : Nat) (o : Opnds) : List (Nat × Nat) :=
  let op := operX w o
  let rows := if cwOpc w = 0x23 then 64 else aM w
  let i := 64 * slotLeft op.fmt
  let srows := if cwOpc w = 0x23 then aK w else aM w
  let cols := if cwOpc w = 0x23 then aN w else op.cols
  let one := fun (b s c : Nat) => (b, imagesSpan rows op.q i) ::
    (if fmtNarrow op.fmt then [(s, scaleBytes (blkSize op.blk) op.dirCol srows c)] else [])
  (if readsX w then one o.x o.xs cols else []) ++ (if readsX2 w then one o.x2 o.x2s (aK w) else [])
/-- The bytes of Y. -/
def ySpans (w : Nat) (o : Opnds) : List (Nat × Nat) :=
  let op := operY w o
  let i := 64 * slotTop op.fmt
  let one := fun (b s c : Nat) => (b, imagesSpan (aM w) op.q i) ::
    (if fmtNarrow op.fmt then [(s, scaleBytes (blkSize op.blk) op.dirCol (aM w) c)] else [])
  (if readsY w then one o.y o.ys op.cols else []) ++ (if readsY2 w then one o.y2 o.y2s (aN w) else [])
/-- The bytes of D and D2. -/
def dSpans (w : Nat) (o : Opnds) : List (Nat × Nat) :=
  let n := rowsSpan (aM w) (resultPitch w) (4 * resultCols w)
  (if writesD w then [(o.d, n)] else []) ++ (if writesD2 w then [(o.d2, n)] else [])

/-- The tracked pending tile that a GB.DRAIN will drain. -/
def drainShape (c : Core) (w : Nat) : Option PendTile := (arrOf c (cwQue w)).tPend

/-- The Gradebook tiles that a GB.DRAIN or GB.CLEAR declares, as a span (R122, R125, R162). -/
def gbSpans (c : Core) (w : Nat) : List (Nat × Nat) :=
  let a := cwQue w
  if cwOpc w = 0x25 then
    match drainShape c w with
    | some t => [(gbTile a (aTile w), cdiv (drainK t) 64 * 0x4000)]
    | none => []
  else
    match maskList 16 (aM w) with
    | [] => []
    | lo :: r => let hi := (lo :: r).getLastD lo; [(gbTile a lo, (hi + 1 - lo) * 0x4000)]

/-- Regions from spans. -/
def spanRegions (l : List (Nat × Nat)) (rd wr : Bool) : List Region := l.flatMap (fun p => regionOf p.1 p.2 rd wr)

/-- The regions that an array command declares. -/
def arrRegions (c : Core) (w : Nat) (o : Opnds) : List Region :=
  match cwOpc w with
  | 0x24 => []
  | 0x25 => spanRegions (gbSpans c w) false true
  | 0x26 => spanRegions (gbSpans c w) false true
  | _ => spanRegions (xSpans w o ++ ySpans w o) true false ++ spanRegions (dSpans w o) (aAcc w) true

/-- The live format before the products of an MMA command, as tracked: after its own swap (R113, R180). -/
def trackedLive (c : Core) (w : Nat) : Fmt :=
  let a := arrOf c (cwQue w)
  if aSwap w && mmaLive w then a.tShadow else a.tLive

/-- The streamed format of an MMA command. -/
def streamFmt (w : Nat) : Fmt := if cwOpc w = 0x21 then fmtD (aYF w) else fmtD (aXF w)

/-- The pairing of an MMA command: of its two operands, when they agree (R80, R113). -/
def mmaPairing (c : Core) (w : Nat) : Option Nat :=
  let other := if cwOpc w = 0x22 then fmtD (aYF w) else trackedLive c w
  match pairingOf (streamFmt w), pairingOf other with
  | some p, some q => if p = q then some p else none
  | _, _ => none

/-- The mode accepts the pairing (R95, and the A0 note of chapter 3). -/
def modeAccepts (a0 : Bool) (opc p : Nat) : Bool :=
  match opc with
  | 0x20 => true
  | 0x21 => p == 0 || p == 1 || p == 3
  | _ => p == 0 || (p == 1 && !a0)

/-- One operand of an array command: reserved format or one that the place refuses, register beyond A15, range, layout. -/
def arrOperand (used reads : Bool) (code reg regs : Nat) (spans : List (Nat × Nat)) (layoutOk : Bool) : Option Nat :=
  if !used then none
  else match fmtOf code with
    | none => some 0x04
    | some f =>
      if (pairingOf f).isNone then some 0x04
      else if !reads then none
      else if 15 < reg + regs then some 0x06
      else if spans.any (fun s => !inSpad s.1 s.2) then some 0x05
      else if !layoutOk then some 0x07
      else none

/-- The operand checks of an array command, X, Y, D in turn (R569, order 6). -/
def arrOperandCheck (w : Nat) (o : Opnds) : Option Nat :=
  let nar := fun code => b2n (fmtNarrow (fmtD code))
  let lay := fun (op : Operand) (i b2 : Nat) (two : Bool) => op.base % 64 == 0 && i ≤ op.q && (!two || b2 % 64 == 0)
  let x := arrOperand (usesX w) (readsX w) (aXF w) (aXR w) (nar (aXF w) + if readsX2 w then 2 else 0) (xSpans w o)
    (lay (operX w o) (64 * slotLeft (fmtD (aXF w))) o.x2 (readsX2 w))
  let y := arrOperand (usesY w) (readsY w || readsY2 w) (aYF w) (aYR w) (nar (aYF w) + if readsY2 w then 2 else 0)
    (ySpans w o) (lay (operY w o) (64 * slotTop (fmtD (aYF w))) o.y2 (readsY2 w))
  let dd :=
    if !usesD w then none
    else if aDF w != 0 && aDF w != 0xA then some 0x04
    else if !writesD w then none
    else if writesD2 w && 13 < aDR w then some 0x06
    else if (dSpans w o).any (fun s => !inSpad s.1 s.2) then some 0x05
    else none
  (x.or y).or dd

/-- The other array rules (R569, order 8). -/
def arrRules (d : Dev) (v : Nat) (c : Core) (w : Nat) : Bool :=
  let opc := cwOpc w
  if opc = 0x23 then aK w ≤ 64 * packOf (fmtD (aXF w)) && aN w ≤ 64
  else if opc = 0x25 then
    match drainShape c w with
    | some t => aTile w + cdiv (drainK t) 64 ≤ 16
    | none => true
  else if !cwMma w then true
  else
    let p := packOf (streamFmt w)
    aK w ≤ 64 * p && aN w ≤ 64 && aSplit w != 3
      && !(aSplit w == 1 && 32 * p < aK w) && !(aSplit w == 2 && 32 < aN w)
      && !(aSplit w != 0 && aRing w) && !(aHead w && !aRing w)
      && !(aRing w && (ringOf d v (cwQue w)).isNone)
      && !(aAcc w && (aFuse w || opc == 0x22))
      && !(opc == 0x22 && mmaLive w && (arrOf c (cwQue w)).tPend.isSome)
      && !(isA0 d && opc == 0x21 && aSplit w == 2)

/-- Pairing and result format (R569, order 7). -/
def arrPairing (d : Dev) (c : Core) (w : Nat) : Bool :=
  if !cwMma w then true
  else match mmaPairing c w with
    | none => false
    | some p => modeAccepts (isA0 d) (cwOpc w) p && (!usesD w || aDF w == (if p == 3 || p == 4 then 0xA else 0))

/-- The cause for which an array command is malformed, after the header checks. -/
def arrMalformed (d : Dev) (v : Nat) (c : Core) (w : Nat) : Option Nat :=
  let o := arrOpnds c w
  match arrOperandCheck w o with
  | some x => some x
  | none =>
    if !arrPairing d c w then some 0x04
    else if !arrRules d v c w then some 0x07
    else if cwMma w && aRing w && ((ringOf d v (cwQue w)).any (fun r => d.ttl.brokenRings.contains r.1)) then some 0x0D
    else none

/-! ### Vector commands -/

/-- The command has elements (R90). -/
def vLive (w : Nat) : Bool := vRows w != 0 && vCols w != 0
/-- The function uses operand B. -/
def usesB (w : Nat) : Bool :=
  match cwOpc w with
  | 0x30 => vopUsesB (bits (vFn w) 0 5)
  | 0x32 => true
  | 0x33 => true
  | 0x35 => true
  | 0x37 => true
  | _ => false
/-- The function has a parameter record. -/
def usesRec (w : Nat) : Bool := [0x32, 0x33, 0x34, 0x35, 0x37].contains (cwOpc w)
/-- VOP FMA uses C as a third operand. -/
def usesC (w : Nat) : Bool := cwOpc w == 0x30 && bits (vFn w) 0 5 == 3
/-- VCAST uses C as a scale operand. -/
def usesCs (w : Nat) : Bool := cwOpc w == 0x36 && bits (vFn w) 0 3 != 0
/-- D holds ROWS x COLS elements. -/
def fullD (w : Nat) : Bool := cwOpc w != 0x31 && cwOpc w != 0x38

/-- The operands of a vector command, with the bytes of its record (R156, R157, R160). -/
def vecOpnds (d : Dev) (v : Nat) (c : Core) (w : Nat) : Opnds :=
  let cr := baseOf c (vCR w)
  { x := baseOf c (vAR w), xs := baseOf c (vAR w + 1), y := baseOf c (vBR w), ys := baseOf c (vBR w + 1),
    c := cr, cs := baseOf c (vCR w + 1), d := baseOf c (vDR w), ds := baseOf c (vDR w + 1),
    recd := if usesRec w && vLive w then winRead (seen d) v cr 64 else [] }

/-- Data and scale area of a dense operand, as offset and length. -/
def vSpans (base sbase : Nat) (f : Fmt) (blk : Nat) (dir : Bool) (rows cols : Nat) : List (Nat × Nat) :=
  (base, vSpan f rows cols) :: (if fmtNarrow f then [(sbase, scaleBytes (blkSize blk) dir rows cols)] else [])

/-- The spans of A. -/
def aSpansV (w : Nat) (o : Opnds) : List (Nat × Nat) :=
  if vFsrc w || !vLive w then [] else vSpans o.x o.xs (vFmtA w) (vAB w) (vAD w) (vRows w) (vCols w)
/-- The extents of B. -/
def bDims (w : Nat) : Nat × Nat :=
  match cwOpc w with
  | 0x30 => bcastDims w
  | 0x32 => (1, vCols w)
  | _ => (vRows w, vCols w)
/-- The spans of B. -/
def bSpansV (w : Nat) (o : Opnds) : List (Nat × Nat) :=
  if !usesB w || !vLive w then [] else vSpans o.y o.ys (vFmtB w) (vBB w) (vBD w) (bDims w).1 (bDims w).2
/-- The bytes of the scale operand of VCAST (R253). -/
def castScaleLen (w : Nat) : Nat :=
  match bits (vFn w) 0 3 with
  | 1 => vRows w * vCols w
  | 2 => vRows w
  | 3 => 1
  | 4 => scaleBytes (blkSize (vAB w)) (vAD w) (vRows w) (vCols w)
  | _ => 0
/-- The spans that the record names: read, written, and read and written. -/
def recSpans (w : Nat) (o : Opnds) : List (Nat × Nat) × List (Nat × Nat) × List (Nat × Nat) :=
  let flags := recWord o 4
  let n := vCols w
  let gf := (fmtOf (leAt o.recd 0x18 1)).getD .fp32
  let stat := fun off => (recWord o off, 8 * vRows w)
  match cwOpc w with
  | 0x32 =>
    (if bit flags 0 then [(recWord o 0xC, rowBytes gf n)] else [], if bit flags 1 then [stat 0x10] else [], [])
  | 0x33 =>
    ((recWord o 8, rowBytes gf n) :: (if vMeth w then [stat 0x10] else []), [],
      if bit flags 2 then (recWord o 0x14, 4 * n) :: (if bit flags 0 then [(recWord o 0xC, 4 * n)] else []) else [])
  | 0x34 => ([], if bit flags 1 then [stat 0xC] else [], [])
  | 0x35 => (if vMeth w then [stat 0xC] else [], [], [])
  | 0x37 =>
    let kind := leAt o.recd 0 1
    let sb := updStateBytes kind
    let df := (fmtOf (dFmt (leAt o.recd 2 2))).getD .fp32
    let desc := leAt o.recd 2 2
    let skw := bit (leAt o.recd 1 1) 1
    let img := 64 * (if bit (leAt o.recd 1 1) 2 then slotTop df else slotLeft df)
    let d2 := if bit (leAt o.recd 1 1) 0 then
        (recWord o 0x28, if skw then imagesSpan (vRows w) img img else vSpan df (vRows w) n) ::
        (if fmtNarrow df then [(recWord o 0x2C, scaleBytes (blkSize (dBlk desc)) (dDir desc) (vRows w) n)] else [])
      else []
    ([], d2, if sb = 0 then [] else [(recWord o 0x24, rowsSpan (vRows w) (up64 (sb * n)) (sb * n))])
  | _ => ([], [], [])
/-- The spans of C: third operand, scale operand or record. -/
def cSpansV (w : Nat) (o : Opnds) : List (Nat × Nat) :=
  if !vLive w then []
  else if usesC w then vSpans o.c o.cs (vFmtB w) (vBB w) (vBD w) (bDims w).1 (bDims w).2
  else if usesCs w then [(o.c, castScaleLen w)]
  else if usesRec w then [(o.c, 64)]
  else []
/-- The spans of D. -/
def dSpansV (w : Nat) (o : Opnds) : List (Nat × Nat) :=
  if !vLive w then []
  else
    let f := vFmtD w
    let desc := vDD w
    match cwOpc w with
    | 0x31 => [(o.d, rowBytes f (if bit (vFn w) 3 then vCols w else vRows w))]
    | 0x38 => [(o.d, 8)]
    | _ =>
      let img := 64 * (if bit (vFn w) 7 then slotTop f else slotLeft f)
      (o.d, if vSkw w then imagesSpan (vRows w) img img else vSpan f (vRows w) (vCols w)) ::
        (if fmtNarrow f then [(o.ds, scaleBytes (blkSize (dBlk desc)) (dDir desc) (vRows w) (vCols w))] else [])

/-- The regions that a vector command declares (R162, R268). -/
def vecRegions (w : Nat) (o : Opnds) : List Region :=
  if !vLive w then []
  else
    let r := recSpans w o
    spanRegions (aSpansV w o) true false ++ spanRegions (bSpansV w o) true (cwOpc w == 0x37) ++
      spanRegions (cSpansV w o ++ r.1) true false ++ spanRegions (dSpansV w o) false true ++
      spanRegions r.2.1 false true ++ spanRegions r.2.2 true true

/-- One operand of a vector command: reserved descriptor value, register, range (R569, order 6). -/
def vecOperand (used : Bool) (bad : Bool) (reg regs : Nat) (spans : List (Nat × Nat)) : Option Nat :=
  if !used then none
  else if bad then some 0x04
  else if 15 < reg + regs then some 0x06
  else if spans.any (fun s => !inWin s.1 s.2) then some 0x05
  else none

/-- A conversion that the matrix of R86 allows. -/
def castOk (src dst : Fmt) : Bool :=
  match src, dst with
  | .e8m0, d => fmtWideFloat d || d == .e8m0
  | _, .e8m0 => false
  | .int32, _ => true
  | s, .int32 => fmtWideFloat s || s == .int8 || s == .int4
  | _, _ => true

/-- The MID condition of R60 for D of a vector command. -/
def midBad (a0 : Bool) (w : Nat) : Bool :=
  let m := dMid (vDD w)
  m != 0 && (cwOpc w != 0x36 ||
    match midFmt m, fmtOf (vAF w), fmtOf (dFmt (vDD w)) with
    | some g, some s, some f => !chainOk a0 s g f
    | _, _, _ => true)

/-- The operand checks of a vector command, A, B, C, D in turn. -/
def vecOperandCheck (d : Dev) (w : Nat) (o : Opnds) : Option Nat :=
  let nar := fun code => b2n (fmtNarrow ((fmtOf code).getD .fp32))
  let lv := vLive w
  let a := vecOperand true (fmtOf (vAF w)).isNone (vAR w) (if vFsrc w || !lv then 0 else nar (vAF w)) (aSpansV w o)
  let b := vecOperand (usesB w) (fmtOf (vBF w)).isNone (vBR w) (if lv then nar (vBF w) else 0) (bSpansV w o)
  let r := recSpans w o
  let c := vecOperand (usesC w || usesCs w || usesRec w) false (vCR w) (if usesC w && lv then nar (vBF w) else 0)
    (cSpansV w o ++ (if lv then r.1 ++ r.2.1 ++ r.2.2 else []))
  let cr := if usesRec w && lv && !inSpad o.c 64 then some 0x05 else none
  let dd := vecOperand true (descReserved (vDD w) || midBad (isA0 d) w) (vDR w) (if lv then nar (dFmt (vDD w)) else 0)
    (dSpansV w o)
  (((a.or b).or cr).or c).or dd

/-- DETAIL 0x01: a reserved FN value or a bit that must be zero. -/
def vBadFn (w : Nat) : Bool :=
  let fn := vFn w
  match cwOpc w with
  | 0x30 => 0x18 ≤ bits fn 0 5
  | 0x31 => 5 ≤ bits fn 0 3 || bits fn 4 4 != 0
  | 0x32 => bits fn 1 6 != 0
  | 0x33 => bits fn 1 6 != 0
  | 0x36 => (bit fn 2 && bits fn 0 2 != 0) || (bits fn 0 3 != 0 && vFmtA w != .int32) || bits fn 3 4 != 0
  | 0x38 => fn != 0
  | _ => bits fn 0 7 != 0

/-- A format is allowed for the second working copy, and for D, of VUPD (R247). -/
def updFmtOk (f : Fmt) : Bool := f != .fp32 && f != .int32 && f != .e8m0

/-- DETAIL 0x02: operand or destination format refused. -/
def vBadFmt (w : Nat) (o : Opnds) : Bool :=
  let a := vFmtA w
  let b := vFmtB w
  let f := vFmtD w
  let fn := bits (vFn w) 0 5
  let scl := fmtNarrow f && dScl (vDD w)
  let wideA := fmtWideFloat a
  match cwOpc w with
  | 0x30 =>
    scl || a == .e8m0 || f == .e8m0 || (a == .int32) != (f == .int32)
      || (vopUsesB fn && (b == .e8m0 || (a == .int32) != (b == .int32)))
      || (a == .int32 && !(fn ≤ 2 || (5 ≤ fn && fn ≤ 8)))
  | 0x31 => scl || a == .e8m0 || (a == .int32) != (f == .int32) || !(fmtWideFloat f || f == .int32)
  | 0x32 => scl || !wideA || !fmtWideFloat b || !fmtFloat f
  | 0x33 => scl || !wideA || !fmtWideFloat b || !fmtWideFloat f
  | 0x34 => scl || !wideA || !fmtFloat f
  | 0x35 => scl || !wideA || !fmtWideFloat b || !fmtWideFloat f
  | 0x36 =>
    if scl then !(a == f && vAB w == dBlk (vDD w) && vAD w == dDir (vDD w)) else !castOk a f
  | 0x37 =>
    scl || !wideA || b != .fp32 || !updFmtOk f
      || (vLive w && bit (leAt o.recd 1 1) 0 &&
          (match fmtOf (dFmt (leAt o.recd 2 2)) with
           | some g => !updFmtOk g || (fmtNarrow g && dScl (leAt o.recd 2 2))
           | none => false))
  | _ => scl || a == .e8m0 || f != .int32

/-- The skewed destination is one that R209 refuses. -/
def skewBad (f : Fmt) (top : Bool) (base cols : Nat) : Bool :=
  f == .fp32 || f == .int32 || f == .e8m0 || (top && (fmtBits f == 6 || fmtBits f == 4))
    || (if top then 64 < cols else 64 * packOf f < cols) || base % 64 != 0 || !inScratch base

/-- DETAIL 0x04. -/
def vBadSkw (w : Nat) (o : Opnds) : Bool :=
  let role := bit (vFn w) 7
  (vSkw w && (!fullD w || skewBad (vFmtD w) role o.d (vCols w))) || (role && !vSkw w)
    || (cwOpc w == 0x37 && vLive w && bit (leAt o.recd 1 1) 0 && bit (leAt o.recd 1 1) 1 &&
        (fmtOf (dFmt (leAt o.recd 2 2))).any (fun g => skewBad g (bit (leAt o.recd 1 1) 2) (recWord o 0x28) (vCols w)))

/-- Bytes of the record from an offset on are zero. -/
def recZero (o : Opnds) (off : Nat) : Bool := (o.recd.drop off).all (· == 0)

/-- DETAIL 0x07: the record. -/
def vBadRec (w : Nat) (o : Opnds) : Bool :=
  let flags := recWord o 4
  let fm := leAt o.recd 0x18 1
  let al := fun off => recWord o off % 64 != 0
  if !usesRec w || !vLive w then false
  else o.c % 64 != 0 || match cwOpc w with
    | 0x32 =>
      7 < flags || recWord o 8 != 0 || !recZero o 0x19 || (bit flags 0 && (2 < fm || al 0xC)) || (bit flags 1 && al 0x10)
    | 0x33 =>
      7 < flags || !recZero o 0x19 || 2 < fm || al 8 || (vMeth w && al 0x10)
        || (bit flags 2 && (al 0x14 || (bit flags 0 && al 0xC)))
    | 0x34 => 3 < flags || !recZero o 0x10 || (bit flags 1 && al 0xC)
    | 0x35 => 3 < flags || !recZero o 0x10 || (vMeth w && al 0xC)
    | _ =>
      let fl := leAt o.recd 1 1
      let desc := leAt o.recd 2 2
      2 < leAt o.recd 0 1 || 7 < fl || !recZero o 0x30 || (leAt o.recd 0 1 != 0 && al 0x24)
        || (bit fl 0 && (descReserved desc || dMid desc != 0 || al 0x28
              || (fmtNarrow ((fmtOf (dFmt desc)).getD .fp32) && al 0x2C)))

/-- The fused MMA that a consumer pairs with: the oldest issued FUSE command of the array not yet paired (R181). -/
def fusedMma (c : Core) (w : Nat) : Option Unpaired := (arrOf c (vFarr w)).unpaired.head?
/-- The result format of an MMA on weights of a format (R115). -/
def mmaResultFmt (live : Fmt) : Fmt := if fmtInt live then .int32 else .fp32

/-- The lowest DETAIL among the vector checks that fail (R273, R569). -/
def vecDetail (c : Core) (w : Nat) (o : Opnds) : Option Nat :=
  let fn := bits (vFn w) 0 5
  if vBadFn w then some 1
  else if vBadFmt w o then some 2
  else if cwOpc w == 0x30 && fn == 0x13 && (vFmtB w != .fp32 || vFmtD w != .fp32 || bits (vFn w) 5 2 != 0) then some 3
  else if vBadSkw w o then some 4
  else if cwOpc w == 0x31 && vLs w && (1 < bits (vFn w) 0 3 || vFmtA w == .int32) then some 5
  else if (cwOpc w == 0x33 || cwOpc w == 0x35) && vMeth w != vFsrc w then some 6
  else if vBadRec w o then some 7
  else if vFsrc w && ((fusedMma c w).any (fun i => i.result != vFmtA w)) then some 8
  else none

/-- The fused-pair rules of R181 and R166 hold for a consumer. -/
def fusedOk (c : Core) (w : Nat) (o : Opnds) : Bool :=
  if !vFsrc w then true
  else if vPost w then false
  else match fusedMma c w with
    | none => false
    | some i =>
      let m := i.word.toNat
      vRows w == (if aSplit m = 0 then aM m else 2 * aM m) && vCols w == resultCols m
        && !((vecRegions w o).any (fun r => i.regions.any (regionMeet r)))

/-- The cause, with its DETAIL, for which a vector command is malformed, after the header checks. -/
def vecMalformed (d : Dev) (v : Nat) (c : Core) (w : Nat) : Option (Nat × Nat) :=
  let o := vecOpnds d v c w
  match vecOperandCheck d w o with
  | some x => some (x, 0)
  | none =>
    if !fusedOk c w o then some (0x09, 0)
    else (vecDetail c w o).map (fun t => (0x0C, t))

/-! ### Control, Bell and stream commands -/

/-- A Bell of the active Timetable. -/
def bellDef (d : Dev) (b : Nat) : Option BellDef := d.ttl.active.bind (fun t => t.bells.find? (fun x => x.num == b))
/-- The Bell is one of this device's: a device Bell, or a fabric Bell whose tree table lists the device (R231). -/
def bellHere (d : Dev) (x : BellDef) : Bool := !x.fabric || x.tree.any (fun t => t.1 == d.fab.id.toNat)
/-- The Bell is defined for the rings of core v (R231). -/
def bellRings (d : Dev) (b v : Nat) : Bool := (bellDef d b).any (fun x => bellHere d x && bit x.ring.toNat v)
/-- The Bell is defined for the waits of core v. -/
def bellWaits (d : Dev) (b v : Nat) : Bool :=
  (bellDef d b).any (fun x => bellHere d x && bit x.ring.toNat v && bit x.wait.toNat v)

/-- The Bell number of BELL.RING and BELL.WAIT. -/
def bNum (w : Nat) : Nat := bits w 32 10
/-- The value operand of BELL.RING, the result operand of BELL.WAIT, the word of SETL, the list of STRM.GO. -/
def bVal (w : Nat) : Nat := bits w 45 20
/-- RES. -/
def bRes (w : Nat) : Nat := bits w 42 20
/-- LIST. -/
def gList (w : Nat) : Nat := bits w 32 20
/-- COUNT of STRM.GO. -/
def gCount (w : Nat) : Nat := bits w 52 16
/-- The OPR of SETL. -/
def lOpr (w : Nat) : Nat := bits w 36 20

/-- The bytes that a control, Bell or stream command names in the window, with the range they must lie in. -/
def ctlSpan (c : Core) (w : Nat) : Option (Bool × Nat × Nat) :=
  match cwOpc w with
  | 0x10 => if gCount w = 0 then none else some (true, oprValue c (gList w), 32 * gCount w)
  | 0x0A => some (false, oprValue c (bVal w), 8)
  | 0x0B => if bit w 62 then some (false, oprValue c (bRes w), 8) else none
  | 0x06 => if bit w 35 then some (false, oprValue c (lOpr w), 4) else none
  | _ => none

/-- The cause for which a control, Bell or stream command is malformed, after the header checks. -/
def ctlMalformed (d : Dev) (v : Nat) (c : Core) (w : Nat) : Option Nat :=
  let opc := cwOpc w
  if (opc == 0x04 && bits w 36 2 == 3) || (opc == 0x07 && bits w 35 2 == 3) then some 0x0A
  else if opc == 0x0A && bits w 42 3 == 7 then some 0x0F
  else if (opc == 0x0A && !bellRings d (bNum w) v) || (opc == 0x0B && !bellWaits d (bNum w) v) then some 0x0B
  else if (ctlSpan c w).any (fun s => if s.1 then !inSpad s.2.1 s.2.2 else !inWin s.2.1 s.2.2) then some 0x05
  else if opc == 0x02 && (c.loops.length ≥ 4 || bits w 35 16 == 0) then some 0x08
  else if opc == 0x03 && (match c.loops with
      | [] => true
      | l :: _ => l.stop != c.pc.toNat) then some 0x08
  else if opc == 0x01 && (List.range 4).any (fun a => !(arrOf c a).unpaired.isEmpty) then some 0x09
  else none

/-- Why a command is malformed: the first cause in the order of R569, with the DETAIL of a vector check. -/
def malformed (d : Dev) (v : Nat) (w : Nat) : Option (Nat × Nat) :=
  let c := coreOf d v
  if opcReserved (cwOpc w) then some (0x01, 0)
  else if !queOk (cwOpc w) (cwQue w) then some (0x02, 0)
  else if rsvBad w then some (0x03, 0)
  else if cwArray w then (arrMalformed d v c w).map (fun x => (x, 0))
  else if cwVector w then vecMalformed d v c w
  else (ctlMalformed d v c w).map (fun x => (x, 0))

end Sys2Proof.Machine
end

