-- ==== Sys2Proof/Machine/Hash.lean ====
section
/-!
DEFINITION. CRC-32C (R45), SHA-256 (FIPS 180-4) and the RSASSA-PSS signature check (R462, PKCS #1 v2.2), computed on bytes.
-/
namespace Sys2Proof.Machine

/-- One bit step of the reflected CRC-32C, polynomial 0x1EDC_6F41. -/
def crcBit (c : Nat) : Nat := if c % 2 = 1 then (c / 2) ^^^ 0x82F63B78 else c / 2

/-- One byte step. -/
def crcByte (c : Nat) (b : Byte) : Nat := Nat.repeat crcBit 8 (c ^^^ b.toNat)

/-- CRC-32C: register preset to all ones, reflected, result inverted. -/
def crc32c (bs : List Byte) : Nat := (bs.foldl crcByte 0xFFFFFFFF) ^^^ 0xFFFFFFFF

/-! ### SHA-256 (R494)

The digest is one 256-bit number, whose words a to h of FIPS 180-4 lie from its top down, and the message schedule one 512-bit
number, whose top word is the next to be used. -/

/-- The 64 round constants, the first in the top 32 bits. -/
def shaConstants : Nat :=
  0x428a2f9871374491b5c0fbcfe9b5dba53956c25b59f111f1923f82a4ab1c5ed5d807aa9812835b01243185be550c7dc372be5d7480deb1fe9bdc06a7c19bf174e49b69c1efbe47860fc19dc6240ca1cc2de92c6f4a7484aa5cb0a9dc76f988da983e5152a831c66db00327c8bf597fc7c6e00bf3d5a7914706ca63511429296727b70a852e1b21384d2c6dfc53380d13650a7354766a0abb81c2c92e92722c85a2bfe8a1a81a664bc24b8b70c76c51a3d192e819d6990624f40e3585106aa07019a4c1161e376c082748774c34b0bcb5391c0cb34ed8aa4a5b9cca4f682e6ff3748f82ee78a5636f84c878148cc7020890befffaa4506cebbef9a3f7c67178f2
/-- The digest register before the first block. -/
def shaStart : Nat := 0x6a09e667bb67ae853c6ef372a54ff53a510e527f9b05688c1f83d9ab5be0cd19
/-- The exclusive or of three rotations of a 32-bit word, taken from two copies of it side by side. -/
def rot3 (x i j k : Nat) : Nat :=
  let y := x * 0x100000001
  (y >>> i ^^^ y >>> j ^^^ y >>> k) % 2 ^ 32
/-- The exclusive or of two rotations and a shift of a 32-bit word. -/
def rot2 (x i j k : Nat) : Nat :=
  let y := x * 0x100000001
  (y >>> i ^^^ y >>> j) % 2 ^ 32 ^^^ x >>> k
/-- The schedule moves on by a word: the word 16 places after its top enters at the bottom. -/
def shaShift (w : Nat) : Nat :=
  let next := bits w 480 32 + rot2 (bits w 448 32) 7 18 3 + bits w 192 32 + rot2 (bits w 32 32) 17 19 10
  w % 2 ^ 480 * 2 ^ 32 + next % 2 ^ 32
/-- A round with the sum of its constant and its message word: every word moves down a place, and a and e take their new values. -/
def shaRound (x kw : Nat) : Nat :=
  let (a, e) := (bits x 224 32, bits x 96 32)
  let (b, c, g) := (bits x 192 32, bits x 160 32, bits x 32 32)
  let t := bits x 0 32 + rot3 e 6 11 25 + (g ^^^ (e &&& (bits x 64 32 ^^^ g))) + kw
  (t + rot3 a 2 13 22 + ((a &&& (b ||| c)) ||| (b &&& c))) % 2 ^ 32 * 2 ^ 224 + bits x 160 96 * 2 ^ 128
    + (bits x 128 32 + t) % 2 ^ 32 * 2 ^ 96 + bits x 32 96
/-- Rounds 64 − n to 63 with the schedule. -/
def shaRounds : Nat → Nat → Nat → Nat
  | 0, _, x => x
  | n + 1, w, x => shaRounds n (shaShift w) (shaRound x (bits shaConstants (32 * n) 32 + bits w 480 32))
/-- The sum of two registers word by word. -/
def addWords (x y : Nat) : Nat :=
  ((List.range 8).map (fun i => (bits x (32 * i) 32 + bits y (32 * i) 32) % 2 ^ 32 * 2 ^ (32 * i))).sum
/-- The digest register after `n` blocks of 64 bytes. -/
def shaBlocks : Nat → Nat → List Byte → Nat
  | 0, x, _ => x
  | n + 1, x, bs => shaBlocks n (addWords x (shaRounds 64 (beNat (bs.take 64)) x)) (bs.drop 64)
/-- SHA-256 as its 32 bytes: the message is closed by a one bit, zeros and its length in bits. -/
def sha256 (bs : List Byte) : List Byte :=
  let n := bs.length
  let msg := bs ++ [0x80] ++ zeros ((119 - n % 64) % 64) ++ beBytes 8 (8 * n)
  beBytes 32 (shaBlocks (msg.length / 64) shaStart msg)

/-! ### RSASSA-PSS (R461) -/

/-- The power b ^ e modulo n, by the bits of e from the least significant. -/
def powMod (n : Nat) : Nat → Nat → Nat → Nat → Nat
  | 0, _, _, acc => acc
  | k + 1, b, e, acc => powMod n k (b * b % n) (e / 2) (if e % 2 = 1 then acc * b % n else acc)

/-- The mask generation function MGF1 with SHA-256. -/
def mgf1 (seed : List Byte) (len : Nat) : List Byte :=
  ((List.range (cdiv len 32)).flatMap (fun i => sha256 (seed ++ beBytes 4 i))).take len

/-- Bytewise exclusive or. -/
def xorBytes (a b : List Byte) : List Byte := List.zipWith (· ^^^ ·) a b

/-- The EMSA-PSS check of an encoded message of `emBits` bits over a message hash with salt length `sLen`. -/
def pssVerifyEncoding (mHash em : List Byte) (emBits sLen : Nat) : Bool :=
  let emLen := cdiv emBits 8
  let dbLen := emLen - 33
  let maskedDb := em.take dbLen
  let h := (em.drop dbLen).take 32
  let top := 8 * emLen - emBits
  let db0 := xorBytes maskedDb (mgf1 h dbLen)
  let db := match db0 with
    | [] => []
    | x :: r => BitVec.ofNat 8 (x.toNat % 2 ^ (8 - top)) :: r
  let salt := db.drop (dbLen - sLen)
  emLen ≥ 34 + sLen && em.length == emLen && em.getLastD 0 == 0xBC &&
    (em.headD 0).toNat < 2 ^ (8 - top) &&
    db.take (dbLen - sLen) == zeros (dbLen - sLen - 1) ++ [0x01] &&
    h == sha256 (zeros 8 ++ mHash ++ salt)

/-- RSASSA-PSS with SHA-256 and a 32-byte salt: the check of a signature over the message whose hash is given, with a modulus `n` of
3,072 bits and exponent 65,537 (R461). -/
def pssVerify (n : Nat) (mHash sig : List Byte) : Bool :=
  let s := beNat sig
  let emBits := bitLen n - 1
  bitLen n == 3072 && s < n && pssVerifyEncoding mHash (beBytes (cdiv emBits 8) (powMod n 17 s 65537 1)) emBits 32

/-- The encoded message of RSASSA-PSS for a hash and a salt. -/
def pssEncode (mHash salt : List Byte) (emBits : Nat) : List Byte :=
  let emLen := cdiv emBits 8
  let dbLen := emLen - 33
  let h := sha256 (zeros 8 ++ mHash ++ salt)
  let db := zeros (dbLen - salt.length - 1) ++ [0x01] ++ salt
  let m := xorBytes db (mgf1 h dbLen)
  let top := 8 * emLen - emBits
  (match m with
    | [] => []
    | x :: r => BitVec.ofNat 8 (x.toNat % 2 ^ (8 - top)) :: r) ++ h ++ [0xBC]

/-- The RSASSA-PSS signature with a modulus of `len` bytes and a secret exponent. -/
def pssSign (n d len : Nat) (mHash salt : List Byte) : List Byte :=
  let m := beNat (pssEncode mHash salt (bitLen n - 1))
  beBytes len (powMod n (bitLen d) m d 1)

end Sys2Proof.Machine
end

