-- ==== Sys2Proof/Machine/Link.lean ====
section
/-!
DEFINITION. The link layer of a fabric port (R334 to R348): flits and their CRC, sequence numbers, credits, the replay buffer,
the choice of the next flit, acceptance in sequence, and the flits of R338 to R342.
-/
namespace Sys2Proof.Machine

/-! ### Flits and CRC (R335, R336) -/

/-- The flit with its CRC in place. -/
def flitSeal (f : Nat) : BitVec 256 :=
  let b := f % 2 ^ 224
  BitVec.ofNat 256 (b + crc32c (leBytes 28 b) * 2 ^ 224)
/-- The CRC of a 32-byte flit holds. -/
def flitOk (f : BitVec 256) : Bool := crc32c (leBytes 28 f.toNat) == bits f.toNat 224 32
/-- A data flit of up to 252 bytes, with its CRC. -/
def dataSeal (bs : List Byte) : BitVec 2048 :=
  let b := slice bs 0 252
  BitVec.ofNat 2048 (leNat b + crc32c b * 2 ^ 2016)
/-- The data bytes of a data flit. -/
def dataBytes (f : BitVec 2048) : List Byte := leBytes 252 f.toNat
/-- The CRC of a data flit holds. -/
def dataOk (f : BitVec 2048) : Bool := crc32c (dataBytes f) == f.toNat / 2 ^ 2016
/-- The data of a message: its data flits' bytes, cut to a length. -/
def messageBytes (data : List (BitVec 2048)) (n : Nat) : List Byte := slice (data.flatMap dataBytes) 0 n
/-- Data flits that carry a run of bytes. -/
def dataFlits : Nat → List Byte → List (BitVec 2048)
  | 0, _ => []
  | n + 1, bs => if bs.isEmpty then [] else dataSeal (bs.take 252) :: dataFlits n (bs.drop 252)

/-- The type of a flit (R335). -/
def flitType (f : BitVec 256) : Nat := bits f.toNat 0 4
/-- The sequence number of a flit. -/
def flitSeq (f : BitVec 256) : Nat := bits f.toNat 4 10
/-- A bulk header. -/
def isBulk (f : BitVec 256) : Bool := flitType f == 4 || flitType f == 5
/-- The receive buffer of a flit (R342, R346): Bell, control, request lanes 0 and 1, response lanes 0 and 1. -/
def flitChan (f : BitVec 256) : Nat :=
  match flitType f with
  | 2 => 0
  | 3 => 0
  | 1 => 1
  | 4 => 2 + bits f.toNat 61 1
  | _ => 4 + bits f.toNat 61 1
/-- The 32-byte slots of a flit or message (R346). -/
def flitSlots (data : List (BitVec 2048)) : Nat := 1 + 8 * data.length

/-! ### Codewords (R334) -/

/-- A codeword message: the slot tags in bits 19 to 0, then the slots in their order. -/
def codeword (slots : List Slot) : BitVec 5140 :=
  let tags := (slots.mapIdx (fun i x => b2n x.begins * 2 ^ i)).sum
  let bodies := (slots.mapIdx (fun i x => x.body.toNat * 2 ^ (20 + 256 * i))).sum
  BitVec.ofNat 5140 (tags + bodies)
/-- The slots of a codeword message. -/
def slotsOf (w : BitVec 5140) : List Slot :=
  (List.range 20).map (fun i => { begins := bit w.toNat i, body := BitVec.ofNat 256 (bits w.toNat (20 + 256 * i) 256) })
/-- Slots in codewords of 20, the last one filled up. -/
def packWords (fill : Slot) : Nat → List Slot → List (BitVec 5140)
  | 0, _ => []
  | n + 1, l =>
    if l.isEmpty then []
    else codeword (l.take 20 ++ List.replicate (20 - l.length) fill) :: packWords fill n (l.drop 20)

/-- The eight slots of a data flit. -/
def dataSlots (f : BitVec 2048) : List Slot :=
  (List.range 8).map (fun i => { begins := false, body := BitVec.ofNat 256 (bits f.toNat (256 * i) 256) })
/-- The slots of a flit or message. -/
def messageSlots (hdr : BitVec 256) (data : List (BitVec 2048)) : List Slot :=
  { begins := true, body := hdr } :: data.flatMap dataSlots
/-- The data flit of eight slots. -/
def slotsData (l : List (BitVec 256)) : BitVec 2048 := BitVec.ofNat 2048 ((l.mapIdx (fun i x => x.toNat * 2 ^ (256 * i))).sum)

/-! ### Ports -/

/-- The port carries flits: it is up or in boot mode and not retraining (R345). -/
def portOpen (p : FabPort) : Bool := (p.state == .up || p.state == .boot) && !p.retraining
/-- The port is up. -/
def portUp (p : FabPort) : Bool := p.state == .up
/-- The numbers that a held flit or message takes: its header, its data flits and the flits inserted into it (R343). -/
def txCount (t : TxFlit) : Nat := 1 + t.data.length + t.ins.length
/-- Flits held in the replay buffer, and its bytes (R344). -/
def replayFlits (p : FabPort) : Nat := (p.replay.map (fun t => txCount t - t.acked)).sum
/-- Bytes held in the replay buffer. -/
def replayBytes (p : FabPort) : Nat := (p.replay.map (fun t => 32 * (1 + t.ins.length) + 256 * t.data.length)).sum
/-- The replay buffer takes a further message (R344). -/
def replayRoom (p : FabPort) (t : TxFlit) : Bool :=
  replayFlits p + 1 + t.data.length ≤ 512 && replayBytes p + 32 + 256 * t.data.length ≤ 65536
/-- The port holds credits for a message. -/
def hasCredit (p : FabPort) (t : TxFlit) : Bool := flitSlots t.data ≤ p.credits.getD (flitChan t.hdr) 0
/-- The control messages of boot mode: HELLO and chain delivery (R333). -/
def bootCtl (ctype : Nat) : Bool := ctype == 1 || (0x0B ≤ ctype && ctype ≤ 0x0E)
/-- A flit that a port in boot mode carries beside link flits (R333). -/
def bootFlit (f : BitVec 256) : Bool := flitType f == 1 && bootCtl (bits f.toNat 14 6)
/-- A waiting flit or message could be sent now. -/
def sendable (p : FabPort) (t : TxFlit) : Bool :=
  hasCredit p t && replayRoom p t && (p.state == .up || bootFlit t.hdr)
/-- A Bell flit. -/
def isBell (t : TxFlit) : Bool := flitType t.hdr == 2 || flitType t.hdr == 3

/-- The oldest waiting entry of the highest class in a list (R226). -/
def bestClass (l : List TxFlit) (every16 : Bool) : Option TxFlit :=
  let cls := fun (t : TxFlit) => bits t.hdr.toNat 14 2
  if every16 then l.head?
  else (List.range 4).findSome? (fun c => l.find? (fun t => cls t == c))

/-- The next flit or message to send, by R347. -/
def nextTx (p : FabPort) : Option TxFlit :=
  let w := p.txq.filter (sendable p)
  let ty := fun k => w.filter (fun t => flitType t.hdr == k)
  match w.find? isBell with
  | some t => some t
  | none =>
    match (ty 1).head? with
    | some t => some t
    | none =>
      let req := bestClass (ty 4) (p.reqGrants % 16 == 15)
      let rsp := bestClass (ty 5) (p.rspGrants % 16 == 15)
      match req, rsp with
      | some q, some r => if p.starts % 4 == 3 then some q else some r
      | some q, none => some q
      | none, r => r

/-- A list without the first entry equal to one given. -/
def eraseTx : List TxFlit → TxFlit → List TxFlit
  | [], _ => []
  | a :: r, t => if a = t then r else a :: eraseTx r t

/-- The header with its sequence number and CRC. -/
def stampSeq (hdr : BitVec 256) (seq : BitVec 10) : BitVec 256 := flitSeal (setBits hdr.toNat 4 10 seq.toNat)

/-- A link flit: acknowledgement, NAK and credit returns (R342). -/
def linkFlit (ack : BitVec 10) (nak : Bool) (credits : List Nat) : BitVec 256 :=
  flitSeal (ack.toNat * 2 ^ 4 + b2n nak * 2 ^ 14 + leNat (credits.map (fun c => BitVec.ofNat 8 c)) * 2 ^ 16)
/-- Slots leave the port in codewords; idle link flits fill the last one. DESIGN CHOICE: each command's slots begin a codeword. -/
def emitSlots (d : Dev) (p : Nat) (slots : List Slot) : Dev :=
  let idle : Slot := { begins := true, body := linkFlit ((fabPort d p).rxSeq - 1) false [0, 0, 0, 0, 0, 0] }
  (packWords idle slots.length slots).foldl (fun e w => emit e (.codeword p w)) d

/-- Flits of a message whose first slot is among its first k slots: the header and the data flits begun (R343). -/
def begun (k : Nat) : Nat := 1 + cdiv (k - 1) 8
/-- A flit or message is sent: it takes its numbers and credits and enters the replay buffer (R343, R344, R346). The last one
that can be sent may still be under way when the command ends: an open number of its 64-byte granules has left, and flits that come to wait
then can be inserted (R347). DESIGN CHOICE: the granules of a message are those of its data, so its pre-emption points lie behind the
header and then every two slots. -/
def txSend (d : Dev) (p : Nat) (t : TxFlit) : Dev :=
  let q := fabPort d p
  let hdr := stampSeq t.hdr q.txSeq
  let ch := flitChan t.hdr
  let both := q.txq.any (fun x => flitType x.hdr == 4) && q.txq.any (fun x => flitType x.hdr == 5)
  let ty := flitType t.hdr
  let slots := messageSlots hdr t.data
  let q0 : FabPort := { q with txq := eraseTx q.txq t, credits := q.credits.set ch (q.credits.getD ch 0 - flitSlots t.data),
                               replay := q.replay ++ [{ t with seq := q.txSeq, hdr := hdr }] }
  let open_ := !t.data.isEmpty && (nextTx q0).isNone
  let k := if open_ then 1 + 2 * (Config.freeNat d.freeCtr p % (1 + 4 * t.data.length)) else slots.length
  let q1 : FabPort :=
    { q0 with
      txSeq := q.txSeq + BitVec.ofNat 10 (begun k)
      sending := if k = slots.length then none else some k
      starts := if both && isBulk t.hdr then q.starts + 1 else q.starts
      reqGrants := if ty == 4 then q.reqGrants + 1 else q.reqGrants
      rspGrants := if ty == 5 then q.rspGrants + 1 else q.rspGrants }
  emitSlots (modPort (if open_ then draw d else d) p (fun _ => q1)) p (slots.take k)

/-- A Bell flit is inserted into the message being sent, behind k of its slots (R347). -/
def txInsert (d : Dev) (p k : Nat) (t : TxFlit) : Dev :=
  let q := fabPort d p
  let hdr := stampSeq t.hdr q.txSeq
  let ch := flitChan t.hdr
  let d1 := modPort d p (fun x =>
    { x with txq := eraseTx x.txq t, txSeq := x.txSeq + 1, credits := x.credits.set ch (x.credits.getD ch 0 - 1),
             replay := match x.replay.getLast? with
               | some m => x.replay.dropLast ++ [{ m with ins := m.ins ++ [(k, hdr)] }]
               | none => x.replay })
  emitSlots d1 p [{ begins := true, body := hdr }]
/-- The rest of the message being sent leaves. -/
def txFinish (d : Dev) (p : Nat) : Dev :=
  let q := fabPort d p
  match q.sending, q.replay.getLast? with
  | some k, some t =>
    let slots := messageSlots t.hdr t.data
    emitSlots (modPort d p (fun x =>
      { x with sending := none, txSeq := x.txSeq + BitVec.ofNat 10 (begun slots.length - begun k) })) p (slots.drop k)
  | _, _ => d
/-- Waiting Bell flits go into the message being sent, and its rest follows. -/
def txResume (d : Dev) (p : Nat) : Dev :=
  match (fabPort d p).sending with
  | none => d
  | some k =>
    let ins := fun (e : Dev) (t : TxFlit) => if isBell t && sendable (fabPort e p) t then txInsert e p k t else e
    txFinish ((fabPort d p).txq.foldl ins d) p

/-- The port sends what it can, at most `n` messages. -/
def txPump : Nat → Dev → Nat → Dev
  | 0, d, _ => d
  | n + 1, d, p =>
    match nextTx (fabPort d p) with
    | none => d
    | some t => txPump n (txSend d p t) p
/-- The transmitter of an open port goes on: first with the message being sent, then with what waits. -/
def txGo (d : Dev) (p : Nat) : Dev :=
  if !portOpen (fabPort d p) then d
  else
    let d1 := txResume d p
    txPump ((fabPort d1 p).txq.length) d1 p

/-- A flit or message is given to a port's transmitter, with the port and lane on which it came. -/
def txQueueFrom (d : Dev) (p : Nat) (hdr : BitVec 256) (data : List (BitVec 2048)) (arr lane : Nat) : Dev :=
  txGo (modPort d p (fun q => { q with txq := q.txq ++ [{ seq := 0, hdr := hdr, data := data, arr := arr, lane := lane }] })) p
/-- A flit or message of this device is given to a port's transmitter. -/
def txQueue (d : Dev) (p : Nat) (hdr : BitVec 256) (data : List (BitVec 2048)) : Dev := txQueueFrom d p hdr data 12 0
/-- Time passes: the messages being sent leave whole. -/
def txSettle (d : Dev) : Dev :=
  (List.range 12).foldl (fun e p => if (fabPort e p).sending.isSome then txGo e p else e) d

/-! ### Link flits (R342, R344) -/

/-- An acknowledgement goes out, with NAK or without, and returns credits. -/
def sendAck (d : Dev) (p : Nat) (nak : Bool) : Dev :=
  let q := fabPort d p
  let give := q.freed.map (fun c => min c 255)
  let rest := q.freed.map (fun c => c - min c 255)
  emitSlots (modPort d p (fun x => { x with freed := rest, unacked := 0, discarding := nak || x.discarding })) p
    [{ begins := true, body := linkFlit (q.rxSeq - 1) nak give }]

/-- The flits of a held message by their numbers, as slots: each inserted flit behind the flit that had begun (R343, R347). -/
def txUnits (t : TxFlit) : List (List Slot) :=
  let ins := fun g => (t.ins.filter (fun x => begun x.1 == g + 1)).map (fun x => [({ begins := true, body := x.2 } : Slot)])
  ([({ begins := true, body := t.hdr } : Slot)] :: ins 0) ++ (t.data.mapIdx (fun i f => dataSlots f :: ins (i + 1))).flatten
/-- Every flit after the acknowledged ones is sent again in its order: one replay (R344). -/
def replayAll (d : Dev) (p : Nat) : Dev :=
  let d1 := txFinish d p
  emitSlots d1 p ((fabPort d1 p).replay.flatMap (fun t => ((txUnits t).drop t.acked).flatten))

/-- A framing error: the flit is discarded and, unless flits are already being discarded, a NAK goes out (R344). -/
def framingError (d : Dev) (p : Nat) : Dev := if (fabPort d p).discarding then d else sendAck d p true

/-- The flit is refused without an answer: the port carries nothing, the device is detained (R373), RC_DONE of its epoch has not
arrived (R361), or boot mode carries only HELLO and chain delivery (R333). -/
def flitRefused (d : Dev) (p : Nat) (hdr : BitVec 256) : Bool :=
  let q := fabPort d p
  !portOpen q || d.det.device || (d.fab.awaitDone && flitType hdr != 1) || (q.state == .boot && !bootFlit hdr)

/-- Acceptance of one flit: the count, the credits of its slots, and an acknowledgement when 32 are due (R344). -/
def acceptOne (d : Dev) (p ch slots : Nat) : Dev :=
  let d1 := modPort d p (fun q =>
    { q with rxSeq := q.rxSeq + 1, discarding := false, unacked := q.unacked + 1, freed := q.freed.set ch (q.freed.getD ch 0 + slots) })
  if 32 ≤ (fabPort d1 p).unacked then sendAck d1 p false else d1

/-- A received 32-byte flit that is no link flit is accepted in sequence, or handled as a framing error (R344); the answer says
whether it was accepted. A Bell flit inserted into a data flit waits for that flit, which has the earlier number. DEDUCED: inside a
bulk message only Bell and link flits can arrive (R337, R347), so any other flit there is out of sequence. -/
def linkAccept (d : Dev) (p : Nat) (f : BitVec 256) : Dev × Bool :=
  if flitRefused d p f then (d, false)
  else
    let q := fabPort d p
    let bell := flitType f == 2 || flitType f == 3
    if flitOk f && bell && q.rxFlit.isSome then
      (modPort d p (fun x => { x with rxHeld := x.rxHeld ++ [f], rxNext := some (BitVec.ofNat 10 (flitSeq f) + 1) }), false)
    else
      let good := flitOk f && decide (1 ≤ flitType f) && decide (flitType f ≤ 5) && flitSeq f == q.rxSeq.toNat
        && (bell || q.rxMsg.isNone)
      let d1 := modPort d p (fun x => { x with rxNext := if flitOk f then some (BitVec.ofNat 10 (flitSeq f) + 1) else none })
      if !good then (framingError d1 p, false) else (acceptOne d1 p (flitChan f) 1, true)

/-- A data flit that has arrived whole, with the number that the order gives it: it joins its message, or is a framing error
(R337, R343, R344). -/
def dataAccept (d : Dev) (p : Nat) (num : Option (BitVec 10)) (f : BitVec 2048) : Dev :=
  let q := fabPort d p
  match q.rxMsg with
  | some m =>
    if num == some q.rxSeq && dataOk f then
      acceptOne (modPort d p (fun x => { x with rxMsg := some { m with data := m.data ++ [f] } })) p (flitChan m.hdr) 8
    else framingError d p
  | none => framingError d p

/-! ### Control flits (R340) -/

/-- A control flit of a type with a body that starts at bit 20. -/
def ctlFlit (ctype body : Nat) : BitVec 256 := BitVec.ofNat 256 (1 + ctype * 2 ^ 14 + body % 2 ^ 204 * 2 ^ 20)
/-- The type of a control message. -/
def ctlType (f : BitVec 256) : Nat := bits f.toNat 14 6
/-- A body field: bits from `lo` of the body. -/
def ctlField (f : BitVec 256) (lo w : Nat) : Nat := bits f.toNat (20 + lo) w
/-- A control message goes out on a port that can carry it, in boot mode only one of boot mode (R333); it waits while the port
retrains. -/
def sendCtl (d : Dev) (p ctype body : Nat) : Dev :=
  let q := fabPort d p
  if portUp q || q.retraining || (q.state == .boot && bootCtl ctype) then txQueue d p (ctlFlit ctype body) [] else d
/-- A control message goes up-tree, when this device is not the root. -/
def sendUp (d : Dev) (ctype body : Nat) : Dev := if d.fab.parent < 12 then sendCtl d d.fab.parent ctype body else d
/-- A control message goes to every child port (R357). -/
def sendDown (d : Dev) (ctype body : Nat) : Dev :=
  (List.range 12).foldl (fun e p => if (fabPort e p).child then sendCtl e p ctype body else e) d
/-- A control message goes out on every up port but one. -/
def sendFlood (d : Dev) (but ctype body : Nat) : Dev :=
  (List.range 12).foldl (fun e p => if p != but && portUp (fabPort e p) then sendCtl e p ctype body else e) d

/-! ### Bulk headers (R338) -/

/-- The fields of a bulk header. -/
structure Bulk where
  rsp : Bool := false
  cls : Nat := 0
  dst : Nat
  src : Nat
  op : Nat
  fmt : Nat := 0
  lane : Nat := 0
  ttl : Nat := 63
  core : Nat
  slot : Nat
  addr : Nat
  aux : Nat := 0
deriving DecidableEq, Repr

/-- The header of a bulk message with `n` data flits. -/
def bulkHdr (b : Bulk) (n : Nat) : BitVec 256 :=
  BitVec.ofNat 256 ((if b.rsp then 5 else 4) + b.cls % 4 * 2 ^ 14 + b.dst % 2 ^ 16 * 2 ^ 16 + b.src % 2 ^ 16 * 2 ^ 32
    + b.op % 16 * 2 ^ 48 + b.fmt % 16 * 2 ^ 52 + n % 32 * 2 ^ 56 + b.lane % 2 * 2 ^ 61 + b.ttl % 64 * 2 ^ 62
    + b.core % 256 * 2 ^ 68 + b.slot % 1024 * 2 ^ 76 + b.addr % 2 ^ 48 * 2 ^ 88 + b.aux % 2 ^ 88 * 2 ^ 136)
/-- The fields of a received bulk header. -/
def bulkOf (f : BitVec 256) : Bulk :=
  let w := f.toNat
  { rsp := flitType f == 5, cls := bits w 14 2, dst := bits w 16 16, src := bits w 32 16, op := bits w 48 4,
    fmt := bits w 52 4, lane := bits w 61 1, ttl := bits w 62 6, core := bits w 68 8, slot := bits w 76 10,
    addr := bits w 88 48, aux := bits w 136 88 }

end Sys2Proof.Machine
end

