-- ==== Sys2Proof/Machine/Route.lean ====
section
/-!
DEFINITION. The topology record (R359), the routes derived from it and those of the ROUTE section (R362 to R367), the send of
bulk messages through a router (R353), and the system-Bell tree (R372).
-/
namespace Sys2Proof.Machine

/-! ### The topology record (R359) -/

/-- The number of devices of a record. -/
def recCount (r : List Byte) : Nat := leAt r 0 2
/-- The record says torus routes. -/
def recTorus (r : List Byte) : Bool := leAt r 2 1 == 1
/-- A torus size of the record. -/
def recDim (r : List Byte) (k : Nat) : Nat := leAt r (4 + 2 * k) 2
/-- The serial of device i. -/
def recSerial (r : List Byte) (i : Nat) : Nat := leAt r (0x10 + 56 * i) 8
/-- The neighbour ID of port q of device i; 0xFFFF for none. -/
def recNid (r : List Byte) (i q : Nat) : Nat := leAt r (0x18 + 56 * i + 4 * q) 2
/-- The neighbour's port. -/
def recNport (r : List Byte) (i q : Nat) : Nat := leAt r (0x1A + 56 * i + 4 * q) 1
/-- The state of port q of device i: 0 down, 1 up, 2 disabled. -/
def recState (r : List Byte) (i q : Nat) : Nat := leAt r (0x1B + 56 * i + 4 * q) 1
/-- The neighbour over an up link of port q of device i, absent devices left out. -/
def recNbr (r : List Byte) (gone : List Nat) (i q : Nat) : Option Nat :=
  let n := recNid r i q
  if recState r i q = 1 && n < recCount r && !gone.contains n then some n else none

/-! ### Breadth-first levels (R358, R365, R372) -/

/-- A device reached by the search: its level, its parent and the parent's port. -/
structure Reach where
  level : Nat
  parent : Nat
  port : Nat
deriving DecidableEq, Repr

/-- One device of a level adds its unreached neighbours, in port order. -/
def reachFrom (r : List Byte) (gone : List Nat) (lvl : Nat) (m : NMap Reach × List Nat) (u : Nat) : NMap Reach × List Nat :=
  (List.range 12).foldl (fun m q =>
    match recNbr r gone u q with
    | some w => if (mapGet? m.1 w).isSome then m else (mapPut m.1 w { level := lvl + 1, parent := u, port := q }, m.2 ++ [w])
    | none => m) m

/-- Level by level from a frontier. -/
def reachLevels (r : List Byte) (gone : List Nat) : Nat → Nat → NMap Reach → List Nat → NMap Reach
  | 0, _, m, _ => m
  | n + 1, lvl, m, front =>
    if front.isEmpty then m
    else
      let (m1, next) := front.foldl (reachFrom r gone lvl) (m, [])
      reachLevels r gone n (lvl + 1) m1 next

/-- The breadth-first order from the root over the surviving devices and the up links. -/
def reachMap (r : List Byte) (gone : List Nat) : NMap Reach :=
  reachLevels r gone (recCount r + 1) 0 [(0, { level := 0, parent := 0xFFFF, port := 12 })] [0]

/-! ### Roll Call routes of table mode (R365) -/

/-- Device w ranks above device u. -/
def ranksAbove (m : NMap Reach) (w u : Nat) : Bool :=
  let lw : Nat := ((mapGet? m w).map (·.level)).getD 0
  let lu : Nat := ((mapGet? m u).map (·.level)).getD 0
  decide (lu < lw) || (lw == lu && decide (u < w))

/-- The lesser of two lengths, no value counting as none. -/
def optMin : Option Nat → Option Nat → Option Nat
  | some a, some b => some (min a b)
  | some a, none => some a
  | none, b => b

/-- Devices by ascending rank: level by level, by ID within a level. -/
def rankOrder (r : List Byte) (m : NMap Reach) : List Nat :=
  (List.range (recCount r + 1)).flatMap (fun l => (m.filter (fun p => p.2.level == l)).map (·.1))

/-- D(u, t) of R365 for every device u, by descending rank. -/
def downDist (r : List Byte) (m : NMap Reach) (t : Nat) : NMap Nat :=
  (rankOrder r m).reverse.foldl (fun acc u =>
    if u = t then mapPut acc u 0
    else
      let best := (List.range 12).foldl (fun b q =>
        match recNbr r [] u q with
        | some w => if ranksAbove m w u then optMin b ((mapGet? acc w).map (· + 1)) else b
        | none => b) none
      match best with
      | some x => mapPut acc u x
      | none => acc) []

/-- L(u, t) of R365 for every device u, by ascending rank. -/
def upDownDist (r : List Byte) (m : NMap Reach) (t : Nat) : NMap Nat :=
  let down := downDist r m t
  (rankOrder r m).foldl (fun acc u =>
    let best := (List.range 12).foldl (fun b q =>
      match recNbr r [] u q with
      | some w => if ranksAbove m w u then b else optMin b ((mapGet? acc w).map (· + 1))
      | none => b) (mapGet? down u)
    match best with
    | some x => mapPut acc u x
    | none => acc) []

/-- The entry for destination t at device u by R364: MASK0 at [11:0] and MASK1 at [23:12]. -/
def rcEntry (r : List Byte) (u t : Nat) : Nat :=
  if u = t then 0
  else
    let m := reachMap r []
    let down := downDist r m t
    let ld := upDownDist r m t
    let lu := mapGet? ld u
    let du := mapGet? down u
    let plus := fun (x : Option Nat) => x.map (· + 1)
    let m0 := indices 12 (fun q => match recNbr r [] u q with
      | some w => lu.isSome && (if ranksAbove m w u then plus (mapGet? down w) == lu else plus (mapGet? ld w) == lu)
      | none => false)
    let m1 := indices 12 (fun q => match recNbr r [] u q with
      | some w => du.isSome && ranksAbove m w u && plus (mapGet? down w) == du
      | none => false)
    listMask m0 + listMask m1 * 2 ^ 12

/-- SWITCH at device u: its down ports. -/
def rcSwitch (r : List Byte) (u : Nat) : Nat :=
  let m := reachMap r []
  listMask (indices 12 (fun q => match recNbr r [] u q with
    | some w => ranksAbove m w u
    | none => false))

/-! ### The next hop (R362 to R364, R367) -/

/-- The ROUTE section in force. -/
def routeCfg (d : Dev) : Option RouteCfg := d.ttl.active.bind (·.route)
/-- This device's ID. -/
def ownId (d : Dev) : Nat := d.fab.id.toNat
/-- The neighbour on a port is a device declared absent: by the ID of its heartbeats, by the serial of its HELLO, or, until a HELLO has
come, by the topology record (R371). -/
def nbrAbsent (d : Dev) (p : Nat) : Bool :=
  let q := fabPort d p
  d.fab.absentSet.any (fun a =>
    q.nid.toNat == a || (if q.helloSeen then recSerial d.fab.record a == q.nserial.toNat else recNid d.fab.record (ownId d) p == a))
/-- A usable port: up, and its neighbour not declared absent (R371). -/
def usable (d : Dev) (p : Nat) : Bool := portUp (fabPort d p) && !nbrAbsent d p

/-- The torus coordinate of an ID. -/
def torusCoord (x y id k : Nat) : Nat := if k = 0 then id % x else if k = 1 then id / x % y else id / (x * y)

/-- The hop of R363: the output port and the lane. `arr` is the port of arrival, 12 at the source. -/
def torusHop (d : Dev) (x y z src dst lane arr : Nat) : Option (Nat × Nat) :=
  let size := fun k => if k = 0 then x else if k = 1 then y else z
  let cur := fun k => torusCoord x y (ownId d) k
  let tgt := fun k => torusCoord x y dst k
  match (List.range 3).find? (fun k => cur k != tgt k) with
  | none => none
  | some k =>
    let n := size k
    let plus := decide (2 * ((tgt k + n - cur k) % n) ≤ n)
    let base := 4 * k + (if plus then 0 else 2)
    let copy := (src ^^^ dst) % 2
    let wrap := if plus then cur k == n - 1 else cur k == 0
    let fresh := 12 ≤ arr || arr / 4 != k
    let ln := if wrap then 1 else if fresh then 0 else lane
    if usable d (base + copy) then some (base + copy, ln)
    else if usable d (base + 1 - copy) then some (base + 1 - copy, ln)
    else none

/-- The hop of R364 for an entry and a SWITCH mask. -/
def tableHop (d : Dev) (entry switch src dst lane : Nat) : Option (Nat × Nat) :=
  let mask := if lane = 0 then entry % 4096 else entry / 4096 % 4096
  let ups := (maskList 12 mask).filter (usable d)
  if ups.isEmpty then none
  else
    let p := ups.getD ((src ^^^ dst) % ups.length) 0
    some (p, if bit switch p then 1 else lane)

/-- The next hop of a message: its port and lane; none when no up port serves it. -/
def nextHop (d : Dev) (src dst lane arr : Nat) : Option (Nat × Nat) :=
  match routeCfg d with
  | some c =>
    if c.torus then torusHop d c.x c.y c.z src dst lane arr
    else tableHop d (mapGet 0 c.entries dst).toNat c.switch.toNat src dst lane
  | none =>
    let r := d.fab.record
    if recTorus r then torusHop d (recDim r 0) (recDim r 1) (recDim r 2) src dst lane arr
    else tableHop d (rcEntry r (ownId d) dst) (rcSwitch r (ownId d)) src dst lane

/-! ### Bulk messages through the router (R350, R353) -/

/-- A status response to a request. -/
def statusFor (d : Dev) (b : Bulk) (status : Nat) : Bulk :=
  { rsp := true, cls := b.cls, dst := b.src, src := ownId d, op := 4, core := b.core, slot := b.slot, addr := 0, aux := status }

/-- A message goes out by its route; the answer says whether a port took it. -/
def routeOut (d : Dev) (b : Bulk) (data : List (BitVec 2048)) (arr : Nat) : Dev × Bool :=
  match nextHop d b.src b.dst b.lane arr with
  | some (p, ln) => (txQueueFrom d p (bulkHdr { b with lane := ln } data.length) data arr b.lane, true)
  | none => (d, false)

/-- A message dropped by a router is counted; a dropped request is answered with status 0x5 (R353). -/
def dropBulk (d : Dev) (b : Bulk) : Dev :=
  let d1 := { d with fab := { d.fab with drop := satAdd d.fab.drop 1 } }
  if b.rsp then d1
  else
    let (d2, ok) := routeOut d1 (statusFor d1 b 5) [] 12
    if ok then d2 else { d2 with fab := { d2.fab with drop := satAdd d2.fab.drop 1 } }

/-- A message is sent or forwarded: it leaves by its route or is dropped. -/
def sendBulk (d : Dev) (b : Bulk) (data : List (BitVec 2048)) (arr : Nat) : Dev :=
  let (d1, ok) := routeOut d b data arr
  if ok then d1 else dropBulk d1 b

/-- A router passes on a message for another device (R353). -/
def forwardBulk (d : Dev) (b : Bulk) (data : List (BitVec 2048)) (arr : Nat) : Dev :=
  if b.ttl = 0 then dropBulk d b else sendBulk d { b with ttl := b.ttl - 1 } data arr

/-- A remote device that the issuing engine refuses before sending (R353, R371): beyond COUNT, absent, or without a route; and any, until RC_DONE
of the epoch of its ID has arrived (R361). -/
def unreachable (d : Dev) (dst : Nat) : Bool :=
  d.fab.count.toNat ≤ dst || d.fab.absentSet.contains dst || d.fab.awaitDone
    || (nextHop d (ownId d) dst 0 12).isNone

/-! ### The tree of the system Bells (R372) -/

/-- The parent port of this device and its child ports in the system-Bell tree over the surviving devices. -/
def sysTree (d : Dev) : Option Nat × List Nat :=
  let r := d.fab.record
  let gone := d.fab.absentSet
  let m := reachMap r gone
  let me := ownId d
  let up := match mapGet? m me with
    | some x => if x.parent = 0xFFFF then none else some (recNport r x.parent x.port)
    | none => none
  let down := indices 12 (fun q => m.any (fun p => p.2.parent == me && p.2.port == q && p.1 != me))
  (up, down)

end Sys2Proof.Machine
end

