-- ==== Sys2Proof/Machine/BellBase.lean ====
section
/-!
DEFINITION. Bells (R228 to R238): arrivals, their reduction, the flow up a Bell's tree and the release down it. What a release
of a system Bell or of the step Bell brings about stands in Bell.lean.
-/
namespace Sys2Proof.Machine

/-- The source that stands for this device's Registrar or Copybook at a system Bell. -/
def srcSystem : Nat := 2000
/-- The source that stands for a child port. -/
def srcPort (p : Nat) : Nat := 1000 + p

/-- The parent port, none at the root, and the child ports of a Bell at this device (R228, R234, R372). -/
def bellTree (d : Dev) (b : Nat) : Option Nat × List Nat :=
  if 1017 ≤ b then sysTree d
  else match bellDef d b with
    | some x =>
      match x.tree.find? (fun t => x.fabric && t.1 == ownId d) with
      | some (_, par, mask) => (if par = 0xFF then none else some par, maskList 12 mask.toNat)
      | none => (none, [])
    | none => (none, [])

/-- The regions that take part in a pace epoch: those out of reset (R418). -/
def epochRegions (d : Dev) : List Nat := indices 236 (fun r => (pacerOf d r).released)

/-- The sources whose arrivals complete this device's part of a generation. -/
def bellSources (d : Dev) (b : Nat) : List Nat :=
  if 1017 ≤ b then srcSystem :: (bellTree d b).2.map srcPort
  else if b = 1016 then d.pace.members
  else match bellDef d b with
    | some x => maskList 256 x.ring.toNat ++ (bellTree d b).2.map srcPort
    | none => []

/-- The Bell exists at this device. -/
def bellLive (d : Dev) (b : Nat) : Bool :=
  if 1016 ≤ b then decide (b ≤ 1023) else (bellDef d b).any (bellHere d)

/-- A reduction of two values (R235; the OP codes of BELL.RING). -/
def bellOp (op : BitVec 3) (a b : Dword) : Dword :=
  match op.toNat with
  | 1 => if a.toNat ≤ b.toNat then a else b
  | 2 => if a.toNat ≤ b.toNat then b else a
  | 3 => a &&& b
  | 4 => a ||| b
  | 5 => a ^^^ b
  | 6 => a + b
  | _ => 0

/-- The common OP and the result of some arrivals; OP 7 stands for a mismatch, whose result is zero (R235). -/
def bellReduce (arr : List Arrival) : BitVec 3 × Dword :=
  arr.foldl (fun acc x =>
    if x.op = 0 then acc
    else if acc.1 = 0 then (x.op, if x.op = 7 then 0 else x.value)
    else if acc.1 = x.op && x.op != 7 then (acc.1, bellOp x.op acc.2 x.value)
    else (7, 0)) (0, 0)

/-- Every source has arrived for the current generation. -/
def bellFull (d : Dev) (b : Nat) : Bool := (bellSources d b).all (fun s => (bellOf d b).arrivals.any (fun a => a.src == s))

/-- A Bell flit (R341). -/
def bellFlit (d : Dev) (release : Bool) (b gen : Nat) (op : BitVec 3) (value : Dword) : BitVec 256 :=
  BitVec.ofNat 256 ((if release then 3 else 2) + b % 1024 * 2 ^ 14 + gen % 65536 * 2 ^ 24 + op.toNat * 2 ^ 40
    + value.toNat * 2 ^ 48 + ownId d * 2 ^ 112)

/-- A device that is not the root sends its combined arrival once its part of the generation is complete (R234). -/
def bellForward (d : Dev) (b : Nat) : Dev :=
  let s := bellOf d b
  if s.sentUp || !bellFull d b then d
  else match (bellTree d b).1 with
    | none => d
    | some p =>
      let (op, val) := bellReduce s.arrivals
      txQueue (modBell d b (fun x => { x with sentUp := true })) p (bellFlit d false b s.done op val) []

/-- An arrival for the current generation; a second one of a source is not counted. Different nonzero OPs that meet here are
logged (R235). -/
def bellArrive (d : Dev) (b src : Nat) (op : BitVec 3) (value : Dword) : Dev :=
  let s := bellOf d b
  if s.arrivals.any (fun a => a.src == src) then d
  else
    let before := (bellReduce s.arrivals).1
    let clash := before != 0 && before != 7 && op != 0 && op != 7 && before != op
    let d1 := modBell d b (fun x => { x with arrivals := x.arrivals ++ [{ src := src, op := op, value := value }] })
    let d2 := if clash then logEvent d1 0x0803 0xFFFF argNone (le 2 b ++ by1 before.toNat ++ by1 op.toNat) else d1
    bellForward d2 b

/-- This device's Registrar or Copybook arrives at a system Bell. -/
def systemArrive (d : Dev) (b : Nat) (op : BitVec 3) (value : Dword) : Dev := bellArrive d b srcSystem op value

/-- The generation is released at this device, and the release goes on to its children (R234). -/
def bellRelease (d : Dev) (b : Nat) (op : BitVec 3) (value : Dword) : Dev :=
  let s := bellOf d b
  let now := nowUs d
  let long := d.copy.state == .frozen || (d.copy.state == .opened && d.copy.arrived1021)
  let d1 := modBell d b (fun x =>
    { x with
      done := s.done + 1, arrivals := [], sentUp := false
      results := ((s.done, value) :: x.results).take 2
      times := if long then now :: x.times else (now :: x.times).take 17 })
  (bellTree d b).2.foldl (fun e p => txQueue e p (bellFlit e true b s.done op value) []) d1

/-- The system Bells 1,017 to 1,023 start again at generation zero (R372). -/
def resetSystemBells (d : Dev) : Dev := { d with bells := d.bells.filter (fun p => p.1 ≤ 1016) }
/-- The Bells of the Timetable start again at generation zero; arrivals that are held stay held (R232). -/
def resetUserBells (d : Dev) : Dev :=
  { d with bells := d.bells.map (fun p => if 1016 ≤ p.1 then p else (p.1, { held := p.2.held })) }

/-! ### Held arrivals (R232, R236, R393) -/

/-- The Copybook holds the step Bell's arrivals for a generation (R393 step 2). -/
def copyHolds (d : Dev) (b g : Nat) : Bool :=
  d.copy.hold && (copyCfg d).any (fun c => c.stepBell == b) && decide (d.copy.holdFrom ≤ g)

/-- The next arrival of core v at Bell b can be sent. -/
def arrivalReady (d : Dev) (b v : Nat) : Bool :=
  let s := bellOf d b
  let g := mapGet 0 s.sent v
  decide (g ≤ s.done) && (!bellWaits d b v || decide (g ≤ mapGet 0 s.waits v + 1)) && !copyHolds d b g

/-- A BELL.RING with DRN = 1 sends only after every earlier command of its core has completed (R177). -/
def ringDrained (c : Core) (id : Nat) : Bool :=
  match c.cmds.find? (fun i => i.id == id) with
  | some i => !(bit i.word.toNat 65) || !(c.cmds.any (fun j => decide (j.id < id)))
  | none => true

end Sys2Proof.Machine
end

