-- ==== Sys2Proof/Machine/Tier.lean ====
section
/-!
DEFINITION. HBM controllers and the board tier (R294 to R328): the tier cache with its replacement and write-back, the dirty
log, flush and log swap, refresh and temperature, ECC, scrub and training, and the CXL ports.
-/
namespace Sys2Proof.Machine

/-- The memory with `n` bytes copied from one address to another. -/
def memCopy (m : List Host.Cell) (src dst n : Nat) : List Host.Cell :=
  m.filter (fun c => decide (c.1 < dst))
    ++ (m.filter (fun c => decide (src ≤ c.1) && decide (c.1 < src + n))).map (fun c => (c.1 - src + dst, c.2))
    ++ m.filter (fun c => decide (dst + n ≤ c.1))

/-! ### Tier modes and the cache (R311 to R318) -/

/-- The tier is in large mode (R313). -/
def tierLarge (d : Dev) : Bool := (tierCfg d).large
/-- The number of sets of a port's cache (R316). -/
def tierSets (d : Dev) (p : Nat) : Nat := tierSize (tierCfg d) p * 2048
/-- The port's cache with its lines put through `f`. -/
def modLines (d : Dev) (p : Nat) (f : CacheLine → CacheLine) : Dev := modCxl d p (fun c => { c with lines := c.lines.map f })
/-- The line of a page put through `f`. -/
def modLine (d : Dev) (p page : Nat) (f : CacheLine → CacheLine) : Dev := modLines d p (fun l => if l.page == page then f l else l)
/-- A use of a cached page, for the least-recently-used choice. -/
def touchLine (d : Dev) (p page : Nat) : Dev :=
  modLine (modCxl d p (fun c => { c with uses := c.uses + 1 })) p page (fun l => { l with used := (cxlOf d p).uses + 1 })
/-- The least recently used of some lines. -/
def oldestLine (ls : List CacheLine) : Option CacheLine :=
  ls.foldl (fun b l => match b with
    | none => some l
    | some x => if l.used < x.used then some l else b) none
/-- The page becomes a keep page, within KEEPWAYS of its set (R317). -/
def makeKeep (d : Dev) (p page : Nat) : Dev :=
  let k := (tierCfg d).keepWays
  match lineOf d p page with
  | none => d
  | some l =>
    if l.keep || k = 0 then d
    else
      let keeps := (cxlOf d p).lines.filter (fun x => x.set == l.set && x.keep)
      let d1 := if k ≤ keeps.length then
          match oldestLine keeps with
          | some o => modLine d p o.page (fun x => { x with keep := false })
          | none => d
        else d
      modLine d1 p page (fun x => { x with keep := true })

/-- The 64-byte granules of a cache way that hold a word with an uncorrectable error. -/
def badGranules (d : Dev) (base : Nat) : List Nat := ((d.badWords.filter (fun w => base ≤ 8 * w && 8 * w < base + 0x10000)).map (· / 8)).eraseDups

/-- The event of R326 for a page: 0 clean, 1 dirty. -/
def tierErrorEvent (d : Dev) (p page dirty : Nat) : Dev := logEvent d 0x0603 (0xEC + p) p (le 6 (boardBase p + page * 0x10000) ++ by1 dirty)

/-- A dirty page is written back whole; granules with an uncorrectable error are not written, and such an error detains the
device (R317, R326). -/
def writeBackLine (d : Dev) (p : Nat) (l : CacheLine) : Dev :=
  let way := wayAddr d p l.set l.way
  let home := boardBase p + l.page * 0x10000
  let bad := badGranules d way
  let m1 := memCopy d.mem way home 0x10000
  let m2 := bad.foldl (fun m g => memWrite m (g * 64 - way + home) (memRead d.mem (g * 64 - way + home) 64)) m1
  let d1 := modCxl { d with mem := m2 } p (fun c => { c with wb := satAdd c.wb 1, flushPages := c.flushPages.filter (· != l.page) })
  let d2 := modLine d1 p l.page (fun x => { x with dirty := false })
  if bad.isEmpty then d2 else detainDevice (tierErrorEvent d2 p l.page 1) 0x2

/-- A way is emptied; its contents leave the cache. -/
def emptyWay (d : Dev) (p set way : Nat) : Dev :=
  let d1 := modCxl d p (fun c => { c with lines := c.lines.filter (fun l => !(l.set == set && l.way == way)) })
  { d1 with badWords := d1.badWords.filter (fun w => !(badGranules d (wayAddr d p set way)).contains (w / 8)) }

/-- The way that a fill of a set takes: an invalid one, else the least recently used without a keep page, else the least
recently used keep page (R317). -/
def chooseWay (d : Dev) (p set : Nat) : Nat :=
  let ls := (cxlOf d p).lines.filter (fun l => l.set == set)
  match (List.range 8).find? (fun w => !ls.any (fun l => l.way == w)) with
  | some w => w
  | none =>
    match oldestLine (ls.filter (fun l => !l.keep)) with
    | some l => l.way
    | none => ((oldestLine ls).map (·.way)).getD 0

/-- A page takes its way; a dirty page that leaves is written back first. With `rd` the page is read from the memory device. -/
def fillPage (d : Dev) (p page : Nat) (rd : Bool) : Dev :=
  let set := page % tierSets d p
  let way := chooseWay d p set
  let d1 := match (cxlOf d p).lines.find? (fun l => l.set == set && l.way == way) with
    | some l => emptyWay (if l.dirty then writeBackLine d p l else d) p set way
    | none => d
  let w := wayAddr d p set way
  let d2 := if rd then clearBad { d1 with mem := memCopy d1.mem (boardBase p + page * 0x10000) w 0x10000 } w 0x10000 else d1
  modCxl d2 p (fun c => { c with lines := c.lines ++ [{ set := set, way := way, page := page }] })

/-! ### The dirty log (R324, R325, R390) -/

/-- The base of a port's dirty-log bank. -/
def logBase (d : Dev) (p : Nat) (bank : Bool) : Nat := tierLbase (tierCfg d) p + (if bank then 0x400000 else 0)
/-- The page of an address lies in a protected board range. -/
def protBoard (d : Dev) (a : Nat) : Bool :=
  (copyCfg d).any (fun c => c.ranges.any (fun r => 0x100000000000 ≤ r.base && r.base ≤ a && a < r.base + rangeLen r))
/-- The page's bit in the active bank is set. -/
def setLogBit (d : Dev) (p page : Nat) : Dev :=
  let a := logBase d p (cxlOf d p).logBank + page / 8
  if (cxlOf d p).hasLog then (wrPlace d a [memByte d.mem a ||| BitVec.ofNat 8 (2 ^ (page % 8))]).1 else d
/-- The tier manager accepts an access: a write that R317 marks in its last column sets its page's bit (R324). -/
def acceptAccess (d : Dev) (p addr : Nat) (wr : Option (List Byte)) (plc : Nat) : Dev :=
  if wr.isSome && (plc != 3 || protBoard d addr) then setLogBit d p (boardPage p addr) else d
/-- A swap of the dirty-log banks begins (R325). -/
def logSwapAt (d : Dev) (p : Nat) : Dev :=
  let c := cxlOf d p
  if !tierLarge d || !c.hasLog || c.logBusy then d
  else modCxl (wipe d (logBase d p !c.logBank) 0x400000) p (fun x => { x with logBusy := true, logBank := !c.logBank })
/-- The old bank is all in HBM. -/
def logSwapEnd (d : Dev) (p : Nat) : Dev := modCxl d p (fun x => { x with logBusy := false })

/-! ### Accesses (R316 to R318) -/

/-- An accepted access is served now, on a page that is not being filled. `wr` holds the bytes written. -/
def tierServe (d : Dev) (p addr len : Nat) (wr : Option (List Byte)) (plc : Nat) : Dev :=
  let page := boardPage p addr
  let keep := plc == 2
  let fills := plc == 0 || keep
  let d1 :=
    if tierSets d p = 0 then d
    else if (lineOf d p page).isSome then modCxl d p (fun c => { c with hit := satAdd c.hit 1 })
    else
      let m := modCxl d p (fun c => { c with miss := satAdd c.miss 1 })
      if fills then fillPage m p page (!(wr.isSome && len == 0x10000)) else m
  let d2 := if (lineOf d1 p page).isSome then
      let t := touchLine d1 p page
      let k := if keep then makeKeep t p page else t
      if wr.isSome then modLine k p page (fun l => { l with dirty := true }) else k
    else d1
  match wr with
  | some bs => wrBytes d2 addr bs
  | none => d2

/-- An access of the row TIER_ACCESS is served, and a read answers with its bytes. -/
def tierAnswer (d : Dev) (p addr len : Nat) (wr : Option (List Byte)) (plc : Nat) : Dev :=
  let d1 := tierServe d p addr len wr plc
  if wr.isNone then emit d1 (.readData addr (rdBytes d1 addr len)) else d1

/-- A fill in progress ends: the page is in its way and the waiting accesses are served in order (R318). -/
def finishFill (d : Dev) (p page : Nat) : Dev :=
  match mapGet? (cxlOf d p).filling page with
  | none => d
  | some ws =>
    let d1 := modCxl d p (fun c => { c with filling := mapDel c.filling page })
    let d2 := if (lineOf d1 p page).isSome then d1 else fillPage d1 p page true
    let hits := (cxlOf d2 p).hit
    match ws with
    | [] => d2
    | w :: r =>
      -- the access that started the fill was counted as a miss
      let d3 := modCxl (tierAnswer d2 p w.addr w.len w.wr w.plc.toNat) p (fun c => { c with hit := hits })
      r.foldl (fun e w => tierAnswer e p w.addr w.len w.wr w.plc.toNat) d3

/-- One access within a page by a stream transfer, the host or another device: served at once. -/
def tierPiece (d : Dev) (p addr len : Nat) (wr : Option (List Byte)) (plc : Nat) : Dev :=
  if tierLarge d then tierServe (acceptAccess (finishFill d p (boardPage p addr)) p addr wr plc) p addr len wr plc
  else match wr with
    | some bs => wrBytes d addr bs
    | none => d

/-- An access to board memory, page by page: `n` pages at most. -/
def tierSpan : Nat → Dev → Nat → Nat → Nat → Option (List Byte) → Nat → Dev
  | 0, d, _, _, _, _, _ => d
  | n + 1, d, p, addr, len, wr, plc =>
    if len = 0 then d
    else
      let k := min len (0x10000 - (addr - boardBase p) % 0x10000)
      tierSpan n (tierPiece d p addr k (wr.map (·.take k)) plc) p (addr + k) (len - k) (wr.map (·.drop k)) plc

/-- An access of `n` bytes at an address finds an uncorrectable error in a cached page: a read in any word that it touches, a write in
one that it replaces in part (R301). -/
def findsBad (d : Dev) (addr n : Nat) (wr : Bool) (l : CacheLine) (p : Nat) : Bool :=
  let home := boardBase p + l.page * 0x10000
  (d.badWords.map (fun w => 8 * w - wayAddr d p l.set l.way + home)).any (fun x =>
    decide (home ≤ x) && decide (x < home + 0x10000) && decide (x < addr + n) && decide (addr < x + 8)
      && !(wr && decide (addr ≤ x) && decide (x + 8 ≤ addr + n)))
/-- Clean cached pages in which an access finds an uncorrectable error are emptied, so that the memory device serves the access
again (R326). -/
def healClean (d : Dev) (p addr len : Nat) (wr : Bool) : Dev :=
  if d.badWords.isEmpty then d
  else ((cxlOf d p).lines.filter (fun l => !l.dirty && findsBad d addr len wr l p)).foldl
    (fun e l => tierErrorEvent (emptyWay e p l.set l.way) p l.page 0) d
/-- The same at any local address. -/
def heal (d : Dev) (addr len : Nat) (wr : Bool) : Dev :=
  match boardPort addr with
  | some p => healClean d p addr len wr
  | none => d

/-- Bytes stored at a local address, by the tier manager where board memory is concerned. -/
def storeBytes (d : Dev) (addr : Nat) (bs : List Byte) (plc : Nat) : Dev :=
  match boardPort addr with
  | some p => tierSpan (bs.length / 0x10000 + 2) (healClean d p addr bs.length true) p addr bs.length (some bs) plc
  | none => wrBytes d addr bs
/-- The tier manager's part of a read; the bytes are then read with rdBytes. -/
def touchRead (d : Dev) (addr len plc : Nat) : Dev :=
  match boardPort addr with
  | some p => tierSpan (len / 0x10000 + 2) (healClean d p addr len false) p addr len none plc
  | none => d

/-! ### Rows of the tier manager -/

/-- An access that hits: a clean page in which it finds an uncorrectable error is emptied, and the memory device serves the access
again; in a dirty page R301 applies (R326). -/
def tierHit (d : Dev) (core : Option Nat) (p addr len : Nat) (wr : Option (List Byte)) (plc : Nat) : Dev :=
  let d1 := acceptAccess (healClean d p addr len wr.isSome) p addr wr plc
  match wr with
  | none =>
    match rdBad d1 addr len with
    | some g => ueEvent d1 g core
    | none => tierAnswer d1 p addr len none plc
  | some bs =>
    match badMerge d1 addr len with
    | some (stop, g) => ueEvent (if stop = addr then d1 else tierServe d1 p addr (stop - addr) (some (bs.take (stop - addr))) plc) g core
    | none => tierServe d1 p addr len wr plc
/-- A device in Detention serves only the host's diagnostic reads (R403). -/
def servesNot (d : Dev) (core : Option Nat) (wr : Bool) : Bool := d.det.device && (wr || core.isSome)

/-- TIER_ACCESS: an access within one page of a populated board range in large mode, served from the cache, directly, or
after a fill that starts now; what an ECC check of the cached page found is handled by R300, R301 and R326. -/
def tierAccessAt (d : Dev) (core : Option Nat) (addr len : Nat) (wr : Option (List Byte)) (plc : Nat) (ecc : Ecc) : Dev :=
  match boardPort addr with
  | none => d
  | some p =>
    let page := boardPage p addr
    let fits := addr - boardBase p + len ≤ boardCap d p && (addr - boardBase p) % 0x10000 + len ≤ 0x10000 && len != 0
    let wrOk := (wr.map (·.length)).getD len == len
    let wait : TierWait := { core := core, addr := addr, len := len, wr := wr, plc := BitVec.ofNat 3 plc }
    if !tierLarge d || !fits || !wrOk || 3 < plc || servesNot d core wr.isSome then d
    else match mapGet? (cxlOf d p).filling page with
      | some ws =>
        modCxl (acceptAccess d p addr wr plc) p (fun c => { c with filling := mapPut c.filling page (ws ++ [wait]) })
      | none =>
        match lineOf d p page with
        | some l =>
          let here := wayAddr d p l.set l.way + (addr - boardBase p) % 0x10000
          match ecc with
          | .clean => tierHit d core p addr len wr plc
          | .single => tierHit (modHbm d (hbmCtlOf d here) (fun h => { h with ceCnt := satAdd h.ceCnt 1 })) core p addr len wr plc
          | .uncorrectable => tierHit { d with badWords := (here / 8) :: d.badWords.filter (· != here / 8) } core p addr len wr plc
        | none =>
          let fills := (plc == 0 || plc == 2) && tierSets d p != 0 && !(wr.isSome && len == 0x10000)
          if fills then
            modCxl (acceptAccess d p addr wr plc) p (fun c =>
              { c with miss := satAdd c.miss 1, filling := mapPut c.filling page [wait] })
          else if wr.isSome then tierServe (acceptAccess d p addr wr plc) p addr len wr plc
          else tierAnswer d p addr len wr plc

/-- WRITE_BACK: a dirty page's write-back completes. An error that the row reports lies in a granule of the page that is not
given: it is a free one. -/
def writeBackAt (d : Dev) (p page : Nat) (ecc : Ecc) : Dev :=
  match lineOf d p page with
  | none => d
  | some l =>
    if !l.dirty then d
    else
      let way := wayAddr d p l.set l.way
      let g := Config.freeNat d.freeCtr page % 0x2000
      match ecc with
      | .clean => writeBackLine d p l
      | .single => writeBackLine (modHbm d (hbmCtlOf d way) (fun h => { h with ceCnt := satAdd h.ceCnt 1 })) p l
      | .uncorrectable => writeBackLine (draw { d with badWords := (way / 8 + g) :: d.badWords.filter (· != way / 8 + g) }) p l

/-- TIER_CTL.FLUSH: every page dirty now is to be written back (R321). -/
def flushStart (d : Dev) (p : Nat) : Dev :=
  if !tierLarge d then d
  else modCxl d p (fun c =>
    let dirty := (c.lines.filter (·.dirty)).map (·.page)
    { c with flushing := true, flushPages := c.flushPages ++ dirty.filter (fun x => !c.flushPages.contains x) })
/-- FLUSH_DONE: the last page of the flush has been written back. -/
def flushEnd (d : Dev) (p : Nat) : Dev :=
  if (cxlOf d p).flushing && (cxlOf d p).flushPages.isEmpty then modCxl d p (fun c => { c with flushing := false }) else d

/-- Every dirty page of a port is written back, and the cache is emptied (R322). -/
def flushAndEmpty (d : Dev) (p : Nat) : Dev :=
  let d1 := ((cxlOf d p).filling.map (·.1)).foldl (fun e page => finishFill e p page) d
  let d2 := ((cxlOf d1 p).lines.filter (·.dirty)).foldl (fun e l => writeBackLine e p l) d1
  modCxl d2 p (fun c => { c with lines := [], flushing := false, flushPages := [], filling := [] })
/-- The cache is emptied without a write-back (R323). -/
def emptyCache (d : Dev) (p : Nat) : Dev :=
  modCxl d p (fun c => { c with lines := [], flushing := false, flushPages := [], filling := [], logBusy := false })

/-! ### HBM controllers (R297 to R304) -/

/-- HBM_ACCESS: an access within HBM through the redirect, with what its ECC check found. -/
def hbmAccessAt (d : Dev) (core : Option Nat) (addr len : Nat) (wr : Option (List Byte)) (ecc : Ecc) : Dev :=
  let here := placeOf d addr
  let ctl := hbmCtlOf d addr
  let wrOk := (wr.map (·.length)).getD len == len
  if hbmCap d < addr + len || len = 0 || !wrOk || (hbmOf d ctl).state != .ready || servesNot d core wr.isSome then d
  else
    let d1 := match ecc with
      | .single => modHbm d ctl (fun h => { h with ceCnt := satAdd h.ceCnt 1 })
      | .uncorrectable => { d with badWords := (here / 8) :: d.badWords.filter (· != here / 8) }
      | .clean => d
    match wr with
    | none =>
      match rdBad d1 addr len with
      | some g => ueEvent d1 g core
      | none => emit d1 (.readData addr (rdBytes d1 addr len))
    | some bs =>
      match badMerge d1 addr len with
      | some (stop, g) => ueEvent (wrBytes d1 addr (bs.take (stop - addr))) g core
      | none => wrBytes d1 addr bs

/-- REFRESH: one round of per-bank refreshes (R297); it changes no value. -/
def refreshAt (d : Dev) (ctl : Nat) : Dev := modHbm d ctl (fun h => { h with refreshes := h.refreshes + 1 })

/-- The stack temperature in °C above which the activate rate is halved (the temperature table of Package, Pins and Electrical Data). -/
def throttleLimit : Nat := 95

/-- TEMPERATURE_REPORT: the refresh interval and the throttle follow the temperature (R297, R298). -/
def temperatureAt (d : Dev) (ctl : Nat) (t : Byte) : Dev :=
  modHbm d ctl (fun h =>
    { h with temp := t, refHot := decide (85 < t.toNat),
             throt := decide (throttleLimit < t.toNat) || (h.throt && decide (throttleLimit - 5 < t.toNat)) })

/-- The cached page whose way holds an HBM address. -/
def cachedAt (d : Dev) (a : Nat) : Option (Nat × CacheLine) :=
  (List.range 2).findSome? (fun p =>
    ((cxlOf d p).lines.find? (fun l => let w := wayAddr d p l.set l.way; w ≤ a && a < w + 0x10000)).map (fun l => (p, l)))

/-- An uncorrectable error that scrub finds: counted, recorded and logged; in a clean cached page the way is emptied, in a
dirty one the device is detained (R303, R326). -/
def scrubUe (d : Dev) (ctl a : Nat) : Dev :=
  let g := a / 64 * 64
  let d1 := { d with badWords := (a / 8) :: d.badWords.filter (· != a / 8) }
  match cachedAt d1 a with
  | some (p, l) =>
    if l.dirty then detainDevice (tierErrorEvent d1 p l.page 1) 0x2
    else tierErrorEvent (emptyWay d1 p l.set l.way) p l.page 0
  | none =>
    let d2 := modHbm d1 ctl (fun h => { h with ueCnt := satAdd h.ueCnt 1, ueAddr := BitVec.ofNat 48 g })
    logEvent d2 0x0602 (0xE0 + ctl) ctl (le 6 g)

/-- SCRUB: a scrub period begins and HBM_SCRUB takes effect; an enabled scrub corrects or records what it finds. -/
def scrubAt (d : Dev) (ctl : Nat) (found : Option (Nat × Ecc)) : Dev :=
  let d1 := modHbm d ctl (fun h => { h with scrubEnNow := h.scrubEn, scrubPeriodNow := h.scrubPeriod })
  if 12 ≤ ctl || !(hbmOf d1 ctl).scrubEnNow || pfault d (0x90014 + 0x100 * ctl) || (hbmOf d ctl).state != .ready then d1
  else match found with
    | none => d1
    | some (a, e) =>
      if hbmCap d ≤ a || hbmCtlOf d a != ctl then d1
      else match e with
        | .clean => d1
        | .single => modHbm d1 ctl (fun h => { h with ceCnt := satAdd h.ceCnt 1 })
        | .uncorrectable => scrubUe d1 ctl a

/-- HBM_TRAINING: a released controller trains its stack under the active Syllabus; a failure, and a controller whose region
failed at its release, detains the device (R304). -/
def trainHbm (d : Dev) (ctl : Nat) (ok : Bool) : Dev :=
  let p := pacerOf d (224 + ctl)
  if 12 ≤ ctl || (hbmOf d ctl).state != .training || p.state = .inReset || p.state = .trimming then d
  else if ok && p.released then modHbm d ctl (fun h => { h with state := .ready, selfRefresh := false })
  else
    let d1 := modHbm d ctl (fun h => { h with state := .failed })
    detainDevice (logEvent d1 0x0604 (0xE0 + ctl) ctl (by1 ctl)) 0x3

/-! ### CXL ports (R305 to R310) -/

/-- The port goes down and its range is unpopulated. -/
def cxlDown (d : Dev) (p : Nat) : Dev :=
  modCxl d p (fun c => { c with link := .down, lanes := 0, cap := 0, active := false, waitActive := false, memEnable := false })

/-- CXL_ENUMERATE: the port trains and the Registrar reads the DVSEC (R307 steps 1 and 2). -/
def cxlEnumerateAt (d : Dev) (p : Nat) (rate : CxlRate) (lanes : Nat) (mem : Bool) (hdm : Nat) : Dev :=
  let c := cxlOf d p
  if 2 ≤ p || !syllActive d || !d.reg.fw || c.link != .training || c.waitActive || c.active then d
  else
    let width := [16, 8, 4, 2, 1].contains lanes
    let lk := match rate with
      | .down => CxlLink.down
      | .gt64 => .up64
      | .gt32 => .up32
    if lk = .down || !width || !mem || hdm = 0 then cxlDown d p
    else modCxl d p (fun c => { c with link := lk, lanes := BitVec.ofNat 5 lanes, waitActive := true })

/-- MEMORY_ACTIVE: the capacity, in units of 256 MiB, is read and decoder 0 committed (R307 steps 4 to 6, R308). -/
def memoryActiveAt (d : Dev) (p capacity : Nat) : Dev :=
  let c := cxlOf d p
  if 2 ≤ p || !c.waitActive then d
  else
    let cap := min capacity 8192
    let d1 := modCxl d p (fun c =>
      { c with active := true, waitActive := false, cap := BitVec.ofNat 14 cap, hdmBase := boardBase p,
               hdmSize := cap * 0x10000000, memEnable := true })
    let rate := if c.link = .up64 then 2 else 3
    logEvent d1 0x0701 srcRegistrar p (by1 rate ++ by1 c.lanes.toNat ++ le 4 cap)

/-- MEMORY_ACTIVE_TIMEOUT: the port is marked down (R307 step 3). -/
def memoryTimeoutAt (d : Dev) (p : Nat) : Dev := if 2 ≤ p || !(cxlOf d p).waitActive then d else cxlDown d p

/-- EVENT_RECORD_POLL: each record of the memory device is copied into the event log (R309). -/
def eventPollAt (d : Dev) (p : Nat) (recs : List (List Byte)) : Dev :=
  if 2 ≤ p || !(cxlOf d p).active || !d.reg.fw then d
  else recs.foldl (fun e r => logEvent e 0x0703 srcRegistrar p (slice r 0 12)) d

/-- The CXL link carries traffic. -/
def cxlUp (d : Dev) (p : Nat) : Bool := (cxlOf d p).link == .up64 || (cxlOf d p).link == .up32

/-- LINK_RETRY: counted; it changes no value (R310). -/
def linkRetryAt (d : Dev) (p : Nat) : Dev :=
  if p < 2 && cxlUp d p then modCxl d p (fun c => { c with retry := satAdd c.retry 1 }) else d

/-- A link goes down: accesses that wait for a fill fail as uncorrectable errors, and the range becomes unpopulated (R310);
vector 15 is signalled (R452; DEDUCED: a link that goes down is a link event). -/
def cxlGone (d : Dev) (p : Nat) : Dev :=
  let waits := (cxlOf d p).filling.flatMap (·.2)
  let d1 := waits.foldl (fun e w => ueEvent e (w.addr / 64 * 64) w.core) d
  let d2 := modCxl d1 p (fun c => { c with filling := [] })
  signal (logEvent (cxlDown d2 p) 0x0702 srcRegistrar p (by1 p)) 15

end Sys2Proof.Machine
end

