-- ==== Sys2Proof/Machine/Copybook.lean ====
section
/-!
DEFINITION. Configuration agreement (R375 to R378) and the Copybook (R383 to R399, R404): the freeze, the drain, the commit,
the cadence, the fold and the ends of a round.
-/
namespace Sys2Proof.Machine

/-! ### Configuration agreement (R375 to R377) -/

/-- FAB_STATUS.AG changes: vector 11 (R452). -/
def setAg (d : Dev) (a : AgState) : Dev :=
  if d.fab.ag = a then d else signal { d with fab := { d.fab with ag := a } } 11
/-- FAB_STATUS.RC changes: vector 11 (R452). -/
def setRc (d : Dev) (r : RcState) : Dev :=
  if d.fab.rc = r then d else signal { d with fab := { d.fab with rc := r } } 11

/-- The routing in force, as the settings record gives it. -/
def routingCode (d : Dev) : Nat :=
  match routeCfg d with
  | some c => if c.torus then 3 else 2
  | none => if recTorus d.fab.record then 1 else 0
/-- The settings record S (R375). -/
def settingsRecord (d : Dev) : List Byte :=
  leBytes 8 d.fab.topo.toNat ++ by1 d.fab.epoch.toNat ++ by1 (routingCode d) ++ leBytes 2 d.fab.count.toNat ++ zeros 20
/-- PLAN: the plan digest of the ROUTE section, or the digest of the whole Timetable. -/
def planDigest (d : Dev) : List Byte :=
  match d.ttl.active with
  | none => zeros 32
  | some t =>
    match t.route with
    | some r => r.plan
    | none => leBytes 32 t.digest.toNat
/-- The configuration fingerprint F (R375). -/
def fingerprint (d : Dev) : Nat :=
  let mdig := leBytes 32 ((d.prefect.active.map Manifest.mdig).getD 0).toNat
  leAt (sha256 (mdig ++ planDigest d ++ settingsRecord d)) 0 8

/-- This device is the root of the numbered fabric. -/
def isRoot (d : Dev) : Bool := d.fab.id == 0
/-- A round may start: a Timetable is active and Roll Call is complete (R377). -/
def agreeReady (d : Dev) : Bool := ttActive d && d.fab.rc == .complete
/-- A round of agreement begins (step 1 of R376). -/
def agreeBegin (d : Dev) : Dev :=
  let f := BitVec.ofNat 64 (fingerprint d)
  let d1 := setAg { d with fab := { d.fab with fp := f, agMin := none, agMax := none } } .waiting
  systemArrive (systemArrive d1 1017 1 f) 1018 2 f
/-- FAB_CTL.AGREE, or an activation: a round starts, or waits for the one that runs (R378). -/
def agreeStart (d : Dev) : Dev :=
  if !agreeReady d then d
  else if d.fab.ag = .waiting then { d with fab := { d.fab with agQueue := d.fab.agQueue + 1 } }
  else agreeBegin d
/-- The round has ended with a state; the next one that software started begins. -/
def agreeEnd (d : Dev) (a : AgState) : Dev :=
  let d1 := setAg { d with fab := { d.fab with agMin := none, agMax := none } } a
  if d1.fab.agQueue = 0 || !agreeReady d1 then d1
  else agreeBegin { d1 with fab := { d1.fab with agQueue := d1.fab.agQueue - 1 } }
/-- The Timetable is inactive, or the tree is new: no agreement (R372, R377). -/
def agreeDrop (d : Dev) : Dev := setAg { d with fab := { d.fab with agMin := none, agMax := none, agQueue := 0 } } .none
/-- Bells 1,017 and 1,018 have both completed: agreed, or Bell 1,019 tells where it differs (steps 2 and 3 of R376). -/
def agreeCompare (d : Dev) : Dev :=
  match d.fab.agMin, d.fab.agMax with
  | some a, some b =>
    if a = b then agreeEnd d .agreed else systemArrive d 1019 4 (if isRoot d then d.fab.fp else 0)
  | _, _ => d
/-- A release of an agreement Bell (R376). -/
def agreeRelease (d : Dev) (b : Nat) (v : Dword) : Dev :=
  if d.fab.ag != .waiting then d
  else if b = 1017 then agreeCompare { d with fab := { d.fab with agMin := some v } }
  else if b = 1018 then agreeCompare { d with fab := { d.fab with agMax := some v } }
  else if d.fab.fp = v then agreeEnd d .elsewhere
  else
    let d1 := logEvent d 0x0802 srcRegistrar argNone (leBytes 8 d.fab.fp.toNat ++ leBytes 4 v.toNat)
    agreeEnd d1 .here

/-! ### Protected pages and images (R383, R390, R391) -/

/-- The protected pages of the ranges before one: the number of its first page in a slot. -/
def firstPage (c : CopyCfg) (i : Nat) : Nat := ((c.ranges.take i).map (·.pages)).sum
/-- The base of the slot of a sequence, on the partner. -/
def slotOf (c : CopyCfg) (n : Nat) : Nat := c.slotBase + n % 2 * c.slotSize
/-- The sequence of the round (R394). -/
def roundSeq (d : Dev) : Nat := d.copy.seq.toNat + 1
/-- A range lies in board memory. -/
def boardRange (r : CopyRange) : Bool := 0x100000000000 ≤ r.base
/-- The 64 KiB pages of every board range: the range's index and the page within the range. -/
def boardPages (c : CopyCfg) : List (Nat × Nat) :=
  (List.range c.ranges.length).flatMap (fun i =>
    match c.ranges[i]? with
    | some r => if boardRange r then (List.range (32 * r.pages)).map (fun p => (i, p)) else []
    | none => [])
/-- The address of a 64 KiB page of a range. -/
def boardPageAddr (c : CopyCfg) (p : Nat × Nat) : Nat := ((c.ranges[p.1]?).map (·.base)).getD 0 + p.2 * 0x10000

/-- Bytes of the frozen image: the SNAP frame of a protected HBM granule (R387), and a board page through the tier cache. -/
def snapRead (d : Dev) (a n : Nat) : List Byte :=
  (List.range n).map (fun i =>
    match protRange d (a + i) with
    | some r => memByte d.mem (frameOf d.copy.snap r (a + i))
    | none => rdByte d (a + i))
/-- A word with an uncorrectable error in what a drain reads. -/
def snapBad (d : Dev) (a n : Nat) : Bool :=
  let place := fun x => match protRange d x with
    | some r => frameOf d.copy.snap r x
    | none => placeOf d x
  !d.badWords.isEmpty && (List.range n).any (fun i => d.badWords.contains (place (a + i) / 8))

/-- The first 64 bytes of a header page with state 0x0 (R391). -/
def slotHeader (d : Dev) (gen : Nat) : List Byte :=
  leBytes 4 0x4B425043 ++ leBytes 2 (ownId d) ++ zeros 2 ++ leBytes 8 (roundSeq d) ++ leBytes 8 d.fab.fp.toNat
    ++ leBytes 4 gen ++ zeros 4 ++ leBytes 8 d.glb.timeUs.toNat ++ zeros 24

/-- The pages that a drain copies, in order: the place in the slot, the address and the length (R390, R393 step 5). -/
def drainParts (d : Dev) (c : CopyCfg) : List (Nat × Nat × Nat) :=
  let clear := if roundSeq d % 2 = 0 then d.copy.map0 else d.copy.map1
  let hbm := (List.range c.ranges.length).flatMap (fun i =>
    match c.ranges[i]? with
    | some r =>
      if boardRange r then []
      else (List.range r.pages).map (fun j => (0x200000 * (1 + firstPage c i + j), r.base + 0x200000 * j, 0x200000))
    | none => [])
  let board := ((boardPages c).filter (fun p => !clear.contains p)).map (fun p =>
    (0x200000 * (1 + firstPage c p.1) + 0x10000 * p.2, boardPageAddr c p, 0x10000))
  hbm ++ board

/-- A range of n bytes cut at 4 KiB boundaries into pieces of at most 4,032 bytes, as offsets and lengths (R349): two for each 4 KiB. -/
def drainPieces (n : Nat) : List (Nat × Nat) :=
  (List.range (cdiv n 4096)).flatMap (fun i =>
    let k := min 4096 (n - 4096 * i)
    if k ≤ 4032 then [(4096 * i, k)] else [(4096 * i, 4032), (4096 * i + 4032, k - 4032)])

/-- A bulk write of the Copybook: CORE = 0xFF, class 3 (R391, R393). It waits for its status under a number that its SLOT field carries
(DESIGN CHOICE: the spec gives the SLOT of these messages no use). -/
def copyWrite (d : Dev) (c : CopyCfg) (addr : Nat) (bs : List Byte) : Dev :=
  let k := d.copy.sent % 1024
  let b : Bulk :=
    { cls := 3, dst := c.partner, src := ownId d, op := 1, core := 0xFF, slot := k, addr := addr, aux := bs.length }
  let d1 := { d with copy := { d.copy with sent := d.copy.sent + 1, waits := d.copy.waits ++ [(k, addr)] } }
  sendBulk d1 b (dataFlits 17 bs) 12

/-- A drain write fails: the Registrar logs the status and the address, and the round will not commit (R396). -/
def drainFails (d : Dev) (status addr : Nat) : Dev :=
  logEvent { d with copy := { d.copy with drainOk := false } } 0x0501 0x105 argNone (leBytes 4 status ++ le 6 addr)

/-- One write of a drain: the bytes of the image go to the partner. Where they hold an uncorrectable error that the tier cache does not
heal (R326), nothing is sent (R302) and the write fails with status 0x6, without Detention (R396). -/
def drainWrite (d : Dev) (c : CopyCfg) (dst from_ n : Nat) : Dev :=
  let d1 := heal d from_ n false
  if snapBad d1 from_ n then drainFails (ueEvent d1 (from_ / 64 * 64) none) 6 dst else copyWrite d1 c dst (snapRead d1 from_ n)
/-- The sequencer drains the image into the partner's slot: the header with state 0x0, then the pages (R392, R393 step 5). -/
def drainAll (d : Dev) (c : CopyCfg) (gen : Nat) : Dev :=
  let slot := slotOf c (roundSeq d)
  if c.partner = 0xFFFF then d
  else if unreachable d c.partner then drainFails d 5 slot
  else
    let header := slotHeader d gen ++ zeros (0x200000 - 64)
    let d1 := (drainPieces 0x200000).foldl (fun x q => copyWrite x c (slot + q.1) (slice header q.1 q.2)) d
    (drainParts d1 c).foldl (fun e p =>
      (drainPieces p.2.2).foldl (fun x q => drainWrite x c (slot + p.1 + q.1) (p.2.1 + q.1) q.2) e) d1

/-! ### The freeze (R387, R390) -/

/-- The page's bit in a dirty-log bank. -/
def logBit (d : Dev) (p : Nat) (bank : Bool) (page : Nat) : Bool := bit (memByte d.mem (logBase d p bank + page / 8)).toNat (page % 8)
/-- Ports with a protected board range. -/
def boardPorts (c : CopyCfg) : List Nat := indices 2 (fun p => c.ranges.any (fun r => boardRange r && boardPort r.base == some p))

/-- The step Bell's freeze generation has completed: SNAP takes CUR, the dirty logs swap, the retired banks join both maps, and
the drain begins (R387, R390, R393 steps 4 and 5). -/
def freezeAt (d : Dev) (c : CopyCfg) (gen : Nat) : Dev :=
  let changed := (boardPages c).filter (fun p =>
    let a := boardPageAddr c p
    match boardPort a with
    | some q => logBit d q (cxlOf d q).logBank (boardPage q a)
    | none => false)
  let d1 := (boardPorts c).foldl logSwapAt d
  let keep := fun (m : List (Nat × Nat)) => m.filter (fun p => !changed.contains p)
  let d2 := { d1 with copy := { d1.copy with
    state := .frozen, snap := d1.copy.cur, drainOk := true, freezeAt := nowUs d1, map0 := keep d1.copy.map0, map1 := keep d1.copy.map1,
    stepTimes := (bellOf d1 c.stepBell).times } }
  drainAll d2 c gen
/-- The freeze that the completion of generation g of Bell b brings about, if any (R393 step 4). -/
def freezeOn (d : Dev) (b g : Nat) : Dev :=
  match copyCfg d with
  | some c => if c.stepBell = b && d.copy.state == .opened && d.copy.freezeGen == some g then freezeAt d c g else d
  | none => d

/-! ### Rounds (R393, R394, R396) -/

/-- The device takes part in a round: it arrives at Bell 1,020 with c and holds its arrivals from generation c + 1 on. -/
def joinRound (d : Dev) (c : CopyCfg) : Dev :=
  let n := (bellOf d c.stepBell).done
  let d1 := { d with copy := { d.copy with
    state := .opened, hold := true, holdFrom := n + 1, freezeGen := none, drainOk := true, arrived1021 := false, due := false, waits := [] } }
  systemArrive d1 1020 2 (BitVec.ofNat 64 n)
/-- The previous round has ended at this device. -/
def roundOver (d : Dev) : Bool :=
  d.copy.state == .idle && !((bellOf d 1020).arrivals.any (fun a => a.src == srcSystem))
    && !((bellOf d 1021).arrivals.any (fun a => a.src == srcSystem))
/-- COPY_CTL.ARM as it acts (R539). -/
def armed (d : Dev) : Bool := d.copy.arm && !pfault d 0xC0000
/-- A round can open here: ARM is 1, no round is open, the frames are not dropped by a fold, and Roll Call is complete (R389, R404). -/
def roundMay (d : Dev) : Bool := armed d && roundOver d && !d.copy.folded && d.fab.rc == .complete
/-- The start of a round arrives: the device takes part (R393 step 2). -/
def startArrives (d : Dev) : Dev :=
  match copyCfg d with
  | some c => if roundMay d then joinRound d c else d
  | none => d
/-- The root's Registrar sends the start to every device over the system-Bell tree, and takes part (R393 step 1). DESIGN CHOICE: the
start is a release of Bell 1,022, which the spec gives no other use. -/
def sendStart (d : Dev) : Dev := if roundMay d && (copyCfg d).isSome then startArrives (bellRelease d 1022 0 0) else d
/-- A round that is due at the root starts at once on a fabric of one device. On a larger one it waits for ROUND_START to say that on
every other device ARM is 1 and the previous round has ended (R393 step 1, R394, R404). -/
def roundNext (d : Dev) : Dev := if d.copy.due && isRoot d && d.fab.count.toNat ≤ 1 then sendStart d else d
/-- A round is due at the root: it starts, or waits (R396). -/
def roundDue (d : Dev) : Dev :=
  if !isRoot d || (copyCfg d).isNone || !armed d then d else roundNext { d with copy := { d.copy with due := true } }
/-- ROUND_START: at the root the round that is due starts, once every other device is ready for it; at another device the start
arrives. -/
def roundStartAt (d : Dev) (ready : Bool) : Dev :=
  if !isRoot d then startArrives d else if d.copy.due && ready then sendStart d else d

/-- The drain is over: every write has been answered or, when not `ok`, one that has no answer has timed out with status 0x5 (R352). The
freeze ends and the device arrives at Bell 1,021 (R388, R393 step 6, R396). -/
def drainEnd (d0 : Dev) (ok : Bool) : Dev :=
  if d0.copy.state != .frozen || (ok && !d0.copy.waits.isEmpty) then d0
  else
    let d1 := if ok then d0 else drainFails d0 5 (((d0.copy.waits.head?).map (·.2)).getD ((copyCfg d0).elim 0 (fun c => slotOf c (roundSeq d0))))
    let d := { d1 with copy := { d1.copy with waits := [] } }
    let v := b2n d.copy.drainOk
    systemArrive { d with copy := { d.copy with state := .opened, arrived1021 := true } } 1021 3 (BitVec.ofNat 64 v)
/-- COPY_CTL.ABORT, or a fold, before the device has arrived at Bell 1,021: it arrives with 0 and the freeze ends (R396). -/
def roundAbort (d : Dev) : Dev :=
  match d.copy.state with
  | .opened | .frozen => if d.copy.arrived1021 then d else systemArrive (copyStopRound d .aborted) 1021 3 0
  | _ => d

/-! ### Cadence (R397 to R399) -/

/-- The cost of a round in units of 1/16 µs: the step Bell's intervals since the freeze minus the reference interval. -/
def roundCost (d : Dev) (c : CopyCfg) : Nat :=
  let before := d.copy.freezeAt :: d.copy.stepTimes
  let n := min 16 (before.length - 1)
  let refSum := before.getD 0 0 - before.getD n 0
  let since := (bellOf d c.stepBell).times.take ((bellOf d c.stepBell).times.length - before.length)
  let k := since.length
  if n = 0 || k = 0 then 0 else 16 * (since.getD 0 0 - d.copy.freezeAt) - 16 * k * refSum / n

/-- The interval T from FIXED, or √(2 C M) within 30 to 3,600 s, and the registers (R397, R398). -/
def cadence (d : Dev) : Dev :=
  match copyCfg d with
  | none => d
  | some c =>
    let den := c.fail0 + d.copy.lost + 1
    let mUs := (c.elapsed0 + c.mtbf0) * 1000000 + (nowUs d - d.copy.activeAt)
    let n := d.copy.costs.length
    let sum := d.copy.costs.sum
    let lo := 30000000 * 30000000
    let hi := 3600000000 * 3600000000
    let sq :=
      if c.fixed != 0 then c.fixed * 1000000 * (c.fixed * 1000000)
      else if n = 0 then lo
      else max lo (min hi (cdiv (2 * sum * mUs) (16 * n * den)))
    let root := isRoot d
    { d with copy := { d.copy with
      fail := BitVec.ofNat 32 (c.fail0 + d.copy.lost)
      tSq := if root then sq else d.copy.tSq
      t := if root then BitVec.ofNat 32 (isqrt sq / 1000000) else d.copy.t
      c := if root then BitVec.ofNat 32 (if n = 0 then 0 else sum / (16 * n * 1000)) else d.copy.c
      m := if root then BitVec.ofNat 32 (mUs / (den * 1000000)) else d.copy.m } }

/-- T has passed since the last commit, or since activation. -/
def cadenceDue (d : Dev) : Bool :=
  let since := if d.copy.commits = 0 then d.copy.activeAt else d.copy.lastCommit
  let e := nowUs d - since
  decide (d.copy.tSq ≤ e * e)

/-- The round ends at the release of Bell 1,021 with result 0: an abort is recorded (R393 step 8). -/
def roundFails (d : Dev) : Dev := copyStopRound d .drainFailed
/-- The round commits: the header's state becomes 0x1, COPY_SEQ becomes n and Ms is cleared (R393 step 7). The first commit ends
the interval of 30 s that holds before it (R397; DEDUCED). -/
def roundCommits (d : Dev) (c : CopyCfg) : Dev :=
  let n := roundSeq d
  let d1 := if c.partner = 0xFFFF || unreachable d c.partner then d else copyWrite d c (slotOf c n + 0x1C) (leBytes 4 1)
  let cost := roundCost d c
  let all := boardPages c
  let d2 := { d1 with copy := { d1.copy with
    state := .idle, hold := false, freezeGen := none, last := .committed, seq := BitVec.ofNat 64 n,
    map0 := if n % 2 = 0 then all else d1.copy.map0, map1 := if n % 2 = 0 then d1.copy.map1 else all,
    commits := d1.copy.commits + 1, lastCommit := nowUs d, costs := (cost :: d1.copy.costs).take 8 } }
  signal (logEvent (if d.copy.commits = 0 then cadence d2 else d2) 0x0902 0x105 argNone (le 8 n ++ by1 1)) 12

/-- A release of a Copybook Bell: 1,020 gives the freeze generation, 1,021 the end of the round. -/
def copyRelease (d : Dev) (b : Nat) (v : Dword) : Dev :=
  match copyCfg d with
  | none => d
  | some c =>
    if b = 1020 then
      if d.copy.state = .opened && d.copy.hold then
        { d with copy := { d.copy with hold := false, freezeGen := some (v.toNat + 1) } }
      else d
    else if d.copy.state = .opened && d.copy.arrived1021 then
      roundNext (if v = 1 then roundCommits d c else roundFails d)
    else roundNext d

/-! ### Activation and the fold (R386, R389, R390, R404) -/

/-- The Copybook folds: any round is aborted, and every granule whose CUR names the shadow frame moves home (R389). The
frames are dropped: no round of this COPY section starts any more. -/
def foldCopy (d : Dev) : Dev :=
  match copyCfg d with
  | none => d
  | some _ =>
    let d1 := copyStopRound (roundAbort d) .aborted
    let d2 := d1.copy.cur.foldl (fun e g =>
      match protRange e (g * 256) with
      | some r =>
        let bs := memRead e.mem (frameOf e.copy.cur r (g * 256)) 256
        let src := frameOf e.copy.cur r (g * 256) / 8
        let bad := e.badWords.filter (fun w => src ≤ w && w < src + 32)
        { e with mem := memWrite e.mem (g * 256) bs
                 badWords := bad.map (fun w => w - src + g * 32) ++ e.badWords.filter (fun w => !(g * 32 ≤ w && w < g * 32 + 32)) }
      | none => e) d1
    { d2 with copy := { d2.copy with cur := [], snap := [], folded := true } }

/-- A Timetable has become active: the Copybook starts from its COPY section, or has none (R386, R390, R404). -/
def activateCopy (d : Dev) : Dev :=
  match copyCfg d with
  | none => { d with copy := {} }
  | some _ => cadence { fixParity d 0xC0000 with copy := { state := .idle, activeAt := nowUs d } }

end Sys2Proof.Machine
end

