-- ==== Sys2Proof/Machine/Drbg.lean ====
section
/-!
DEFINITION. The random bits of the Prefect (R494, R496): AES-256 (FIPS 197), the CTR_DRBG with a derivation function over it
(SP 800-90A), and the generation of the identity key from its output (FIPS 186-5, R479). What the two standards say is taken from
outside the manual, which names them (PRESUMED, notes/assumptions).
-/
namespace Sys2Proof.Machine

/-! ### AES-256 -/

/-- The 256 substitution bytes, the first in the lowest 8 bits. -/
def aesTable : Nat :=
  0x16bb54b00f2d99416842e6bf0d89a18cdf2855cee9871e9b948ed9691198f8e19e1dc186b95735610ef6034866b53e708a8bbd4b1f74dde8c6b4a61c2e2578ba08ae7a65eaf4566ca94ed58d6d37c8e779e4959162acd3c25c2406490a3a32e0db0b5ede14b8ee4688902a22dc4f816073195d643d7ea7c41744975fec130ccdd2f3ff1021dab6bcf5389d928f40a351a89f3c507f02f94585334d43fbaaefd0cf584c4a39becb6a5bb1fc20ed00d153842fe329b3d63b52a05a6e1b1a2c830975b227ebe28012079a059618c323c7041531d871f1e5a534ccf73f362693fdb7c072a49cafa2d4adf04759fa7dc982ca76abd7fe2b670130c56f6bf27b777c63
/-- The substitute of a byte. -/
def aesSub (b : Nat) : Nat := bits aesTable (8 * b) 8
/-- A field element times x. -/
def aesDouble (b : Nat) : Nat := if b < 128 then 2 * b else (2 * b) ^^^ 0x11B
/-- The key schedule from its words, newest first: `n` words more, the next with number `i`. Eight words hold a key. -/
def aesExpand : Nat → Nat → List (List Nat) → List (List Nat)
  | 0, _, ws => ws
  | n + 1, i, ws =>
    let last := ws.headD []
    let mixed := if i % 8 = 0 then (match last with
        | a :: r => List.zipWith (· ^^^ ·) ((r ++ [a]).map aesSub) [Nat.repeat aesDouble (i / 8 - 1) 1, 0, 0, 0]
        | [] => [])
      else if i % 8 = 4 then last.map aesSub else last
    aesExpand n (i + 1) (List.zipWith (· ^^^ ·) (ws.getD 7 []) mixed :: ws)
/-- The fifteen round keys of a key, in order. -/
def aesKeys (key : List Nat) : List (List Nat) :=
  let first := ((List.range 8).map (fun i => (key.drop (4 * i)).take 4)).reverse
  let all := (aesExpand 52 8 first).reverse.flatten
  (List.range 15).map (fun r => (all.drop (16 * r)).take 16)
/-- The substitution and the turn of the rows: byte r of column c comes from column c + r. -/
def aesTurn (s : List Nat) : List Nat := (List.range 16).map (fun i => aesSub (s.getD ((i + 4 * (i % 4)) % 16) 0))
/-- The mixing of the columns: byte r of a column takes twice itself, three times the next byte, and the other two. -/
def aesMix (s : List Nat) : List Nat :=
  (List.range 16).map (fun i =>
    let at_ := fun k => s.getD (i / 4 * 4 + (i + k) % 4) 0
    aesDouble (at_ 0 ^^^ at_ 1) ^^^ at_ 1 ^^^ at_ 2 ^^^ at_ 3)
/-- AES-256 on a block of 16 bytes under a key of 32 (FIPS 197). -/
def aes256 (key block : List Nat) : List Nat :=
  let add := List.zipWith (· ^^^ ·)
  match aesKeys key with
  | k0 :: ks =>
    let mid := (ks.take 13).foldl (fun s k => add (aesMix (aesTurn s)) k) (add block k0)
    add (aesTurn mid) (ks.getD 13 [])
  | [] => []

/-! ### CTR_DRBG (SP 800-90A, 10.2.1) -/

/-- The bytes of a number, the most significant first. -/
def octets (n v : Nat) : List Nat := (beBytes n v).map (·.toNat)
/-- The number that octets spell. -/
def ofOctets (l : List Nat) : Nat := l.foldl (fun v x => 256 * v + x) 0
/-- `n` blocks of output: the counter block is advanced before each. -/
def ctrBlocks : Nat → List Nat → Nat → List Nat
  | 0, _, _ => []
  | n + 1, key, v =>
    let v1 := (v + 1) % 2 ^ 128
    aes256 key (octets 16 v1) ++ ctrBlocks n key v1
/-- The chained blocks of the derivation function. -/
def chainBlocks : Nat → List Nat → List Nat → List Nat → List Nat
  | 0, _, x, _ => x
  | n + 1, key, x, data => chainBlocks n key (aes256 key (List.zipWith (· ^^^ ·) x (data.take 16))) (data.drop 16)
/-- Block after block under a key, each of the one before. -/
def stretch : Nat → List Nat → List Nat → List Nat
  | 0, _, _ => []
  | n + 1, key, x => let y := aes256 key x; y ++ stretch n key y
/-- The derivation function: 48 bytes of seed from input bytes. -/
def deriveSeed (input : List Nat) : List Nat :=
  let body := octets 4 input.length ++ octets 4 48 ++ input ++ [0x80]
  let data := body ++ List.replicate ((16 - body.length % 16) % 16) 0
  let part := fun i => chainBlocks (data.length / 16 + 1) (List.range 32) (List.replicate 16 0) (octets 4 i ++ List.replicate 12 0 ++ data)
  let t := part 0 ++ part 1 ++ part 2
  stretch 3 (t.take 32) ((t.drop 32).take 16)
/-- The generator takes a new key and counter block, mixed with 48 bytes. -/
def drbgUpdate (g : Drbg) (mix : List Nat) : Drbg :=
  let t := List.zipWith (· ^^^ ·) (ctrBlocks 3 (octets 32 g.key.toNat) g.v.toNat) mix
  { g with key := BitVec.ofNat 256 (ofOctets (t.take 32)), v := BitVec.ofNat 128 (ofOctets (t.drop 32)) }
/-- The generator is seeded, at its first use and after 2^48 requests, by the entropy input. -/
def drbgSeed (g : Drbg) (entropy : BitVec 384) : Drbg := { drbgUpdate g (deriveSeed (octets 48 entropy.toNat)) with count := 1 }
/-- A request for `n` bytes, which leaves the generator with a new state. -/
def drbgTake (g : Drbg) (n : Nat) : List Byte × Drbg :=
  let out := ctrBlocks (cdiv n 16) (octets 32 g.key.toNat) g.v.toNat
  let v := BitVec.ofNat 128 (g.v.toNat + cdiv n 16)
  ((out.take n).map (BitVec.ofNat 8), { drbgUpdate { g with v := v } (List.replicate 48 0) with count := g.count + 1 })

/-! ### Generation of the identity key (FIPS 186-5, A.1.3: random primes that are probably prime) -/

/-- A random number of `n` bytes. -/
def drbgNat (g : Drbg) (n : Nat) : Nat × Drbg := let (bs, g1) := drbgTake g n; (beNat bs, g1)
/-- Whether `b` shows that `n` is composite: n − 1 is 2^a m with m odd. -/
def showsComposite (n a m b : Nat) : Bool :=
  let z := powMod n 1536 (b % n) m 1
  let steps := (List.range (a - 1)).foldl (fun l _ => (l.headD 0 * l.headD 0 % n) :: l) [z]
  !(z == 1 || steps.contains (n - 1))
/-- The Miller-Rabin test with `k` random bases. -/
def probablyPrime (n : Nat) : Nat → Drbg → Bool × Drbg
  | 0, g => (true, g)
  | k + 1, g =>
    let a := ((List.range 1536).find? (fun i => (n - 1).testBit i)).getD 1
    let (b, g1) := drbgNat g 192
    if showsComposite n a ((n - 1) >>> a) (2 + b % (n - 3)) then (false, g1) else probablyPrime n k g1
/-- A prime p of 1,536 bits with p² at least 2^3071, p − 1 prime to 65,537, and away from another: by at most `fuel` tries. -/
def findPrime (other : Nat) : Nat → Drbg → Option Nat × Drbg
  | 0, g => (none, g)
  | fuel + 1, g =>
    let (r, g1) := drbgNat g 192
    let p := r ||| 1
    let apart := decide (2 ^ 1436 < p - other + (other - p))
    if p * p < 2 ^ 3071 || (p - 1) % 65537 == 0 || !apart then findPrime other fuel g1
    else
      let (ok, g2) := probablyPrime p 5 g1
      if ok then (some p, g2) else findPrime other fuel g2
/-- The inverse of `e` modulo `n` by the extended algorithm of Euclid, with `fuel` divisions. -/
def inverse (n : Nat) : Nat → Int → Int → Int → Int → Nat
  | 0, _, _, _, _ => 0
  | fuel + 1, r0, r1, t0, t1 => if r1 = 0 then (t0 % n).toNat else inverse n fuel r1 (r0 % r1) t1 (t0 - r0 / r1 * t1)
/-- An RSA key of 3,072 bits with the public exponent 65,537: modulus and secret exponent; none when no primes are found. -/
def makeKey (g : Drbg) : Option (Nat × Nat) × Drbg :=
  match findPrime 0 15360 g with
  | (some p, g1) =>
    match findPrime p 30720 g1 with
    | (some q, g2) =>
      let l := Nat.lcm (p - 1) (q - 1)
      (some (p * q, inverse l 4096 l 65537 0 1), g2)
    | (none, g2) => (none, g2)
  | (none, g1) => (none, g1)

end Sys2Proof.Machine
end

