-- ==== Sys2Proof/Machine/MailBase.lean ====
section
/-!
DEFINITION. The mailboxes (R480, R548, R549): request and response records, the Registrar's responses, and the life cycle of
the fuses (R476).
-/
namespace Sys2Proof.Machine

/-- Bytes of a mailbox buffer. -/
def mbRead (m : Mailbox) (off n : Nat) : List Byte := (List.range n).map (fun i => mapGet 0 m.buf (off + i))
/-- CMD of the request. -/
def mbCmd (m : Mailbox) : Nat := leNat (mbRead m 0 2)
/-- LEN of the request. -/
def mbLen (m : Mailbox) : Nat := leNat (mbRead m 2 2)
/-- A field of the request's payload. -/
def mbField (m : Mailbox) (off n : Nat) : Nat := leNat (mbRead m (8 + off) n)
/-- Bytes of the request's payload. -/
def mbBytes (m : Mailbox) (off n : Nat) : List Byte := mbRead m (8 + off) n
/-- A buffer with a record from offset 0 and zero in every other byte. -/
def mbFill (bs : List Byte) : NMap Byte := (bs.mapIdx (fun i b => (i, b))).filter (fun p => p.2 != 0)
/-- The mailbox with a response (R480, R549): it holds CMD, STATUS, TAG, LEN and the payload from offset 16. -/
def mbRespond (m : Mailbox) (status : Nat) (payload : List Byte) : Mailbox :=
  { state := .ready, count := m.count + 1,
    buf := mbFill (mbRead m 0 2 ++ leBytes 2 status ++ mbRead m 4 4 ++ leBytes 2 payload.length ++ zeros 6 ++ payload) }
/-- GO (R549): it submits the buffer unless the mailbox is busy. -/
def mbGo (m : Mailbox) : Mailbox := if m.state = .busy then m else { m with state := .busy }
/-- A write into the buffer, discarded while the mailbox is busy. -/
def mbWrite (m : Mailbox) (off : Nat) (bs : List Byte) : Mailbox :=
  if m.state = .busy then m
  else { m with buf := (bs.mapIdx (fun i b => (off + i, b))).foldl (fun t p =>
    if p.2 = 0 then mapDel t p.1 else if p.1 < 4096 then mapPut t p.1 p.2 else t) m.buf }

/-- The Registrar responds, and vector 0 fires. -/
def regRespond (d : Dev) (status : Nat) (payload : List Byte) : Dev :=
  signal { d with reg := { d.reg with mb := mbRespond d.reg.mb status payload } } 0
/-- The Registrar has a request with this command before it. -/
def regAsked (d : Dev) (cmd : Nat) : Bool := d.reg.mb.state == .busy && mbCmd d.reg.mb == cmd && d.reg.running

/-- The status of a request before its command runs, in the order of R551: LEN and fields, the policy firmware where the command
needs it and what else it needs, and a flash write or sag in progress. -/
def regGate (d : Dev) (len : Nat) (fields needsFw allowed : Bool) : Nat :=
  if mbLen d.reg.mb != len || !fields then 2
  else if (needsFw && !d.reg.fw) || !allowed then 3
  else if d.reg.write.isSome || d.reg.sag.isSome then 5 else 0

/-- The life cycle of the fuses (R476). -/
def lifeCycle (f : Fuses) : Nat :=
  if f.keyKill then 3
  else if f.blank then 0
  else if f.owner.any (fun p => p.2.used && !p.2.revoked) then 2 else 1

end Sys2Proof.Machine
end

