-- ==== Sys2Proof/Machine/Reset.lean ====
section
/-!
DEFINITION. The reset kinds and sources (R508 to R511), the settings in flash (R331, R486, R488), the release order (R512 to
R517), block reset (R518 to R523), the power states (R524, R525) and the supply events (R502 to R506).
-/
namespace Sys2Proof.Machine

/-! ### The module flash (R485, R486, R488) -/

/-- A region of the flash: the first bytes of its copies A and B, and their size. -/
structure FlashRegion where
  a : Nat
  b : Nat
  size : Nat
deriving DecidableEq, Repr

/-- The identity region. -/
def idRegion : FlashRegion := ⟨0x00000, 0x10000, 0x10000⟩
/-- The factory trim. -/
def trimRegion : FlashRegion := ⟨0x20000, 0x60000, 0x40000⟩
/-- The persistent settings; every byte past their copies is reserved and erased. -/
def setRegion : FlashRegion := ⟨0xA0000, 0xB0000, 0x10000⟩
/-- `n` bytes from an address, by the programmed bytes from there on. -/
def flashFrom : Nat → Nat → NMap Byte → List Byte
  | 0, _, _ => []
  | n + 1, a, [] => 0xFF :: flashFrom n (a + 1) []
  | n + 1, a, (k, x) :: r => if k = a then x :: flashFrom n (a + 1) r else 0xFF :: flashFrom n (a + 1) ((k, x) :: r)
/-- Bytes of the flash. -/
def flashRead (d : Dev) (a n : Nat) : List Byte := flashFrom n a (d.flash.filter (fun p => a ≤ p.1))
/-- Bytes of the flash are erased. -/
def flashErase (d : Dev) (a n : Nat) : Dev := { d with flash := d.flash.filter (fun p => p.1 < a || a + n ≤ p.1) }
/-- Bytes of the flash are programmed. -/
def flashProgram (d : Dev) (a : Nat) (bs : List Byte) : Dev :=
  { d with flash := (bs.mapIdx (fun i x => (a + i, x))).foldl (fun m p => if p.2 = 0xFF then mapDel m p.1 else mapPut m p.1 p.2) d.flash }
/-- The address of the commit page of a copy: its last 256 bytes. -/
def commitAt (r : FlashRegion) (base : Nat) : Nat := base + r.size - 256
/-- A field of a commit page: the magic number at 0, the sequence number at 4, the body length at 8, the CRC at 12. -/
def commitField (d : Dev) (r : FlashRegion) (base off : Nat) : Nat := leNat (flashRead d (commitAt r base + off) 4)
/-- The commit page of a body. -/
def commitPage (seq : Nat) (body : List Byte) : List Byte :=
  leBytes 4 0x48534C46 ++ leBytes 4 seq ++ leBytes 4 body.length ++ leBytes 4 (crc32c body) ++ List.replicate 240 0xFF
/-- The body of a copy. -/
def copyBody (d : Dev) (r : FlashRegion) (base : Nat) : List Byte := flashRead d base (commitField d r base 8)
/-- A copy is valid (R486): its commit page holds the magic number and its body, which leaves room for that page, matches the CRC. -/
def copyValid (d : Dev) (r : FlashRegion) (base : Nat) : Bool :=
  commitField d r base 0 == 0x48534C46 && decide (commitField d r base 8 ≤ r.size - 256)
    && crc32c (copyBody d r base) == commitField d r base 12
/-- The copy in force of a region: the valid one with the higher sequence number, A when they are equal. -/
def copyInForce (d : Dev) (r : FlashRegion) : Option Nat :=
  if copyValid d r r.a && (!copyValid d r r.b || decide (commitField d r r.b 4 ≤ commitField d r r.a 4)) then some r.a
  else if copyValid d r r.b then some r.b else none
/-- The body in force of a region. -/
def regionBody (d : Dev) (r : FlashRegion) : Option (List Byte) := (copyInForce d r).map (copyBody d r)
/-- The settings body in force; 64 zero bytes with version 1 when there is none. -/
def settingsBody (d : Dev) : List Byte :=
  match regionBody d setRegion with
  | some b => slice b 0 64
  | none => leBytes 2 1 ++ zeros 62
/-- The identity region in force. -/
def identityBody (d : Dev) : List Byte := (regionBody d idRegion).getD []
/-- The module serial: the first field of the identity region. -/
def flashSerial (d : Dev) : Nat := leAt (identityBody d) 0 8

/-! ### The strap (R516, R517) -/

/-- The code of one sample of the strap voltage. -/
def strapCode (mv : Nat) : Nat := min 15 (mv / 100)
/-- The measurement of R516: the first group of eight samples that agree, among the first and its 16 repeats; else code 0. -/
def strapMeasure : Nat → List Nat → Nat
  | 0, _ => 0
  | n + 1, mv =>
    let g := mv.take 8
    if g.length == 8 && g.all (fun x => strapCode x == strapCode (g.headD 0)) then strapCode (g.headD 0)
    else strapMeasure n (mv.drop 8)
/-- The code that acts (R517): 9 to 14 act as 0 outside BLANK. -/
def strapActs (c : Nat) : Nat := if 9 ≤ c && c ≤ 14 then 0 else c
/-- The boot source of a strap code. -/
def strapSource (c : Nat) : BootSource :=
  match strapActs c with
  | 0 => .recovery
  | 1 => .recovery
  | 6 => .chain
  | 7 => .chain
  | 8 => .chain
  | _ => .host
/-- The fabric-root choice of a strap code. -/
def strapRoot (c : Nat) : Bool := [1, 3, 5, 8].contains (strapActs c)
/-- The polarity option of a strap code: inverted. -/
def strapInverted (c : Nat) : Bool := [4, 5, 7].contains (strapActs c)

/-- The reset value "setting" of a port: EN, CHAN and TXINV, by the settings that the last cold reset took (R331, R488). -/
def portSetting (d : Dev) (p : Nat) (q : FabPort) : FabPort :=
  let b := leAt d.rp.settings (8 + p) 1
  if bit b 0 then { q with en := bit b 1, chan := BitVec.ofNat 2 (bits b 2 2), txinv := BitVec.ofNat 4 (bits b 4 4) }
  else { q with en := true, chan := 0b10, txinv := if strapInverted d.rp.strap.toNat then 0xF else 0 }

/-! ### Cold and warm resets (R508, R509, R526, the Cold and Warm columns) -/

/-- A port after a warm reset. -/
def warmPort (q : FabPort) : FabPort :=
  { en := q.en, chan := q.chan, txinv := q.txinv, replayCnt := q.replayCnt, fecc := q.fecc, fecu := q.fecu, miss := q.miss }
/-- A CXL port after a warm reset: the cache is emptied, CXL_UECNT and CXL_RETRY are kept. -/
def warmCxl (c : CxlPort) : CxlPort := { ueCnt := c.ueCnt, retry := c.retry }
/-- A controller after a warm reset. -/
def warmHbm (keep : Bool) (h : HbmCtl) : HbmCtl :=
  { ceCnt := h.ceCnt, ueCnt := h.ueCnt, ueAddr := h.ueAddr, scrubEn := h.scrubEn, scrubPeriod := h.scrubPeriod,
    scrubEnNow := h.scrubEn, scrubPeriodNow := h.scrubPeriod, selfRefresh := keep, refreshes := h.refreshes }
/-- A pacer after a warm reset: its counters are kept. -/
def warmPacer (p : Pacer) : Pacer := { beats := p.beats, str1 := p.str1, str2 := p.str2, strp := p.strp }
/-- An HDMA channel after a warm reset. -/
def warmHdma (h : Hdma) : Hdma := { errCnt := h.errCnt }

/-- Addresses of memory that this device's resets clear: HBM, and the windows of the cores. -/
def clearedAddr (keepHbm : Bool) (a : Nat) : Bool :=
  (!keepHbm && decide (a < 0x100000000000)) || (0x200000000000 ≤ a && a < 0x300000000000)
/-- Addresses of protected pages and shadow frames, whose content a reset that clears the Timetable loses (R389). -/
def protectedAddr (d : Dev) (a : Nat) : Bool :=
  (copyCfg d).any (fun c => c.ranges.any (fun r =>
    r.base < 0x100000000000 && ((r.base ≤ a && a < r.base + rangeLen r) || (r.shadow ≤ a && a < r.shadow + rangeLen r))))
/-- The memory contents that a cold or warm reset loses. -/
def loseMemory (d : Dev) (keepHbm : Bool) : Dev :=
  { d with
    mem := d.mem.filter (fun c => !clearedAddr keepHbm c.1 && !protectedAddr d c.1)
    badWords := d.badWords.filter (fun w => !clearedAddr keepHbm (8 * w) && !protectedAddr d (8 * w)) }

/-- A cold or warm reset has taken effect within this µs: a source that asserts now asserts together with its source (R522). -/
def resetTogether (d : Dev) : Bool := d.rp.resetAt == some (nowUs d)
/-- RST_LAST takes a source that asserts together with the one it holds: the wider kind, then the lower code (R522). -/
def takesRecord (d : Dev) (cause : Nat) (kind : ResetKind) : Bool :=
  (kind == .cold && d.rp.lastKind == .warm) || (kind == d.rp.lastKind && decide (cause < d.rp.lastCause.toNat))
/-- The record of a reset that takes effect: its counter and RST_LAST (R522, R527, R528). -/
def recordReset (d : Dev) (cause : Nat) (kind : ResetKind) (block srcid : Nat) : Dev :=
  let wide := kind != .block
  let met := wide && resetTogether d
  let early := if met then d.rp.lastEarly else wide && (d.rp.step == 1 || d.rp.step == 2)
  let r := { d.rp with
    cnt := mapPut d.rp.cnt cause (satAdd (mapGet 0 d.rp.cnt cause) 1)
    resetAt := if wide then some (nowUs d) else d.rp.resetAt }
  if met && !takesRecord d cause kind then { d with rp := r }
  else { d with rp := { r with
    lastCause := BitVec.ofNat 4 cause, lastKind := kind, lastEarly := early
    lastBlock := BitVec.ofNat 8 block, lastSrc := BitVec.ofNat 16 srcid } }

/-- KEEP_HBM acts on a warm reset of this cause (R509, R539). -/
def keepsHbm (d : Dev) (cause : Nat) : Bool :=
  d.rp.keepHbm && !pfault d 0x10000 && !([2, 9, 0xB, 0xC].contains cause)

/-- Parity faults after a reset: every fault reads 0; a word that keeps its value keeps its parity bit. -/
def warmParity (g : Glb) : Glb :=
  { g with
    faulted := []
    parityWrong := (g.parityWrong ++ g.faulted).filter (fun o =>
      (0x10000 ≤ o && o < 0x11000) || o == 0x6000C || (0x90000 ≤ o && o < 0x90C00) || o == 0xB0024 || (0xB1000 ≤ o && o < 0xB1C00)) }

/-- The part of both resets that clears the compute domains, the Prefect and the Registrar. -/
def clearDomains (d : Dev) (keep : Bool) : Dev :=
  let m := loseMemory d keep
  { m with
    cores := [], bells := [], ttl := {}, copy := {}, det := {}, edgeWrites := []
    pace := { pacers := d.pace.pacers.map (fun p => (p.1, warmPacer p.2)) }
    hbm := d.hbm.map (fun p => (p.1, warmHbm keep p.2))
    cxl := d.cxl.map (fun p => (p.1, warmCxl p.2))
    fab := { root := strapRoot d.rp.strap.toNat, timeout := d.fab.timeout, late := d.fab.late, drop := d.fab.drop,
             ports := d.fab.ports.map (fun p => (p.1, warmPort p.2)) }
    host := { cfg := d.host.cfg, winHi := d.host.winHi, refused := d.host.refused, hdma := d.host.hdma.map (fun p => (p.1, warmHdma p.2)) }
    prefect := {}
    reg := { log := d.reg.log, logSeq := d.reg.logSeq }
    glb := warmParity d.glb
    rp := { d.rp with
      done := false, blockReset := none, blockQueue := [], turn := 0, vinMv := 0, vinW := 0,
      dieTemp := 0, auxTemp := 0, pwr := .on } }

/-- A warm reset of a cause takes effect (R508); together with a cold reset it is only counted (R522). -/
def warmReset (d : Dev) (cause srcid : Nat) : Dev :=
  let early := d.rp.step == 1 || d.rp.step == 2
  let d1 := recordReset d cause .warm 0 srcid
  if resetTogether d && d.rp.lastKind == .cold then d1 else
  let d2 := clearDomains d1 (keepsHbm d cause)
  { d2 with rp := { d2.rp with step := if early then 1 else 3, trimV := if early then false else d2.rp.trimV } }

/-- A cold reset of a cause takes effect (R508): strap, fuses and trim are taken again. -/
def coldReset (d : Dev) (cause srcid : Nat) : Dev :=
  let d1 := recordReset d cause .cold 0 srcid
  let d2 := clearDomains d1 false
  { d2 with
    pace := {}, hbm := [], cxl := []
    fab := { root := strapRoot d.rp.strap.toNat }
    host := {}
    glb := { timeUs := d.glb.timeUs }
    rp := { d2.rp with
      swKind := false, keepHbm := false, trimV := false, trimDef := false, blk := 0, honoured := false, blkTo := 0x64,
      strap := 0, capUf := 0, ehMj := 0, huValid := false, step := 1, strapDone := false } }

/-- A reset whose kind the requester chooses. -/
def kindReset (d : Dev) (cold : Bool) (cause srcid : Nat) : Dev := if cold then coldReset d cause srcid else warmReset d cause srcid

/-! ### Reset sources (R502, R505, R506, R510, R511) -/

/-- No SRCID. -/
def noSrc : Nat := 0xFFFF

/-- POWER_ON: VAUX rises through 3.0 V; the event log, its SEQ and its time base start again (R529, R530). -/
def powerOnReset (d : Dev) : Dev :=
  if d.rp.vauxOk then d
  else
    let d1 := coldReset { d with rp := { d.rp with vauxOk := true } } 1 noSrc
    { d1 with reg := {}, glb := {}, rp := { d1.rp with resetAt := none, lastEarly := false } }

/-- VAUX_LOSS: the event log is lost; without VBAK the backup domain is undefined (R501, R526). -/
def vauxLossAt (d : Dev) (vbakOk : Bool) : Dev :=
  if !d.rp.vauxOk then d
  else
    let d1 := clearDomains d false
    let d2 := { d1 with
      pace := {}, hbm := [], cxl := [], fab := {}, host := {}, reg := {}, glb := {}
      rp := { ({} : ResetPower) with
        vauxOk := false, cnt := d.rp.cnt, lastCause := d.rp.lastCause, lastKind := d.rp.lastKind, lastEarly := d.rp.lastEarly,
        lastBlock := d.rp.lastBlock, lastSrc := d.rp.lastSrc, vinGood := false, switchOpen := d.rp.switchOpen,
        perstLow := d.rp.perstLow, resetInLow := d.rp.resetInLow } }
    if vbakOk then d2
    else
      let kinds := [ResetKind.none, .block, .warm, .cold]
      draw { d2 with rp := { d2.rp with
        cnt := (List.range 12).map (fun i => (i + 1, freeWord d 16 (i + 1)))
        lastCause := freeWord d 4 100, lastKind := kinds.getD (freeWord d 2 101).toNat .none, lastEarly := Config.freeBit d.freeCtr 102
        lastBlock := freeWord d 8 103, lastSrc := freeWord d 16 104 } }

/-- VIN_GOOD: the switch is fully on; what VIN measures between 43 V and 62 V is free (R500, R503). -/
def vinGoodAt (d : Dev) : Dev :=
  if d.rp.switchOpen || d.rp.overvolt then d
  else draw { d with rp := { d.rp with
    vinGood := true
    vinMv := if d.rp.vinGood then d.rp.vinMv else BitVec.ofNat 16 (43000 + Config.freeNat d.freeCtr 0 % 19001) } }

/-- A rail fault lasts 10 µs: warm reset (R502). -/
def railFaultAt (d : Dev) : Dev := if 5 ≤ d.rp.step then warmReset d 0xB noSrc else d

/-- POWER_FAIL: VIN falls through 43 V (R505). -/
def powerFailAt (d : Dev) (mv : Nat) : Dev :=
  if d.rp.pfail then d
  else logEvent { d with rp := { d.rp with pfail := true, vinMv := BitVec.ofNat 16 mv } } 0x0201 srcRegistrar argNone (le 4 mv)
/-- POWER_FAIL_CLEAR: VIN rises through 43 V. -/
def powerFailClearAt (d : Dev) : Dev :=
  { d with rp := { d.rp with pfail := false, switchOpen := if d.rp.overvolt then d.rp.switchOpen else false } }
/-- The device goes to standby with a warm reset (R505, R506, R524). -/
def toStandby (d : Dev) (cause : Nat) : Dev :=
  let d1 := warmReset { d with rp := { d.rp with switchOpen := true, vinGood := false } } cause noSrc
  { d1 with rp := { d1.rp with pwr := .standby } }
/-- VIN_LOSS: VIN falls through 41 V (R505). -/
def vinLossAt (d : Dev) : Dev := if d.rp.switchOpen then d else toStandby d 2
/-- VIN_OVERVOLTAGE: VIN above 62 V; the event carries the highest VIN (R506). -/
def overvoltAt (d : Dev) (mv : Nat) : Dev :=
  if d.rp.overvolt then d
  else
    let d1 := toStandby d 0xC
    logEvent { d1 with rp := { d1.rp with overvolt := true } } 0x0206 srcRegistrar argNone (le 4 mv)
/-- OVERVOLTAGE_CLEAR: the switch closes. -/
def overvoltClearAt (d : Dev) : Dev :=
  if d.rp.overvolt then { d with rp := { d.rp with overvolt := false, switchOpen := false } } else d

/-- THERMAL_TRIP: a die sensor reads 115 °C or more (R511). -/
def thermalTripAt (d : Dev) (t : Nat) : Dev :=
  if t < 115 || d.rp.thold then d
  else
    let d1 := warmReset d 9 noSrc
    { d1 with rp := { d1.rp with thold := true, dieTemp := BitVec.ofNat 8 t } }
/-- THERMAL_HOLD_END. -/
def thermalHoldEndAt (d : Dev) : Dev := { d with rp := { d.rp with thold := false } }
/-- THERMAL_WARNING: a die sensor reaches 105 °C (R531). -/
def thermalWarningAt (d : Dev) (sensor t : Nat) : Dev :=
  if t < 105 then d
  else logEvent { d with rp := { d.rp with dieTemp := BitVec.ofNat 8 t } } 0x0204 srcRegistrar argNone (by1 sensor ++ by1 t)

/-- PERST#, a hot reset or a link-down (R510, R431). -/
def perstAt (d : Dev) (low : Bool) : Dev :=
  if low then
    if d.rp.perstLow then d
    else warmReset { d with rp := { d.rp with perstLow := true } } 3 noSrc
  else { d with rp := { d.rp with perstLow := false } }
/-- RESET_IN# (R510). -/
def resetInAt (d : Dev) (low : Bool) : Dev :=
  if low then
    if d.rp.resetInLow then d
    else coldReset { d with rp := { d.rp with resetInLow := true } } 4 noSrc
  else { d with rp := { d.rp with resetInLow := false } }
/-- WATCHDOG_EXPIRY: the watchdog runs while the policy firmware is active (R507). -/
def watchdogAt (d : Dev) : Dev := if d.reg.fw then warmReset d 7 noSrc else d

/-! ### The release order (R512 to R515) -/

/-- The regions of a release turn: the sites of one physical row of a C-die. -/
def rowRegions (die row : Nat) : List Nat :=
  (List.range 8).map (fun i => siteRegion (8 * (die % 2) + i) (7 * (die / 2) + row))
/-- All regions of a C-die. -/
def dieRegions (die : Nat) : List Nat := (List.range 7).flatMap (rowRegions die)

/-- Rails come up: the pacers of some regions start (R408), each at the delay code of its factory trim, which is not given
(R406). -/
def startPacers (d : Dev) (rs : List Nat) : Dev :=
  draw (rs.foldl (fun e r => modPacer e r (fun p =>
    if p.state = .inReset then
      { p with state := .trimming, inBand := 0, released := false, delay := freeWord d 10 r }
    else p)) d)
/-- Every region of a group reads stable or failed. -/
def groupReady (d : Dev) (rs : List Nat) : Bool :=
  rs.all (fun r => (pacerOf d r).state == .stable || (pacerOf d r).state == .failed)

/-- L of a crossing, in receiving beats (R425's table). -/
def crossBeats : CrossKind → Nat
  | .meshHop => 3
  | .meshBridge => 11
  | .memLane => 2
  | .hbmEdge => 8
  | .xdie => 10
  | .ringCore => 2
  | .ringDie => 4
  | .ringBridge => 12
/-- The token count: the round trip in beats of 625 ps, rounded up, plus 2 (R424). -/
def crossTokens (c : Crossing) : Nat := cdiv c.trip 625 + 2
/-- The forward delay fits within L beats of 625 ps less a guard of 20 %, and the token count within the queue of 16 (R424, R425). -/
def crossGood (c : Crossing) : Bool := c.fwd ≤ 500 * crossBeats c.kind && crossTokens c ≤ 16
/-- A side of a crossing is ready for its calibration: its pacer is stable, or it is an X-die (R424). -/
def sideReady (d : Dev) (r : Nat) : Bool := 236 ≤ r || (pacerOf d r).state == .stable
/-- Calibration of the crossings of the regions being released, each once both its pacers are stable: the token count is set, or both
regions are marked failed and stay in reset (R424, R425). -/
def calibrate (d : Dev) (rs : List Nat) (cs : List Crossing) : Dev :=
  cs.foldl (fun e c =>
    if !(rs.contains c.a || rs.contains c.b) || !sideReady e c.a || !sideReady e c.b then e
    else if crossGood c then
      { e with pace := { e.pace with
        tokens := ((c.a, c.b), crossTokens c) :: e.pace.tokens.filter (fun t => t.1 != (c.a, c.b)) } }
    else
      let f := fun (p : Pacer) => { p with state := .failed, released := false }
      let fail := fun (e : Dev) (r : Nat) => if r < 236 then modPacer e r f else e
      logEvent (fail (fail e c.a) c.b) 0x0304 0x102 argNone (by1 c.a ++ by1 c.b)) d
/-- The stable regions of a group are released; each failed one is logged and stays in reset (R513). -/
def releaseGroup (d : Dev) (rs : List Nat) (cs : List Crossing) : Dev :=
  rs.foldl (fun e r =>
    if (pacerOf e r).state = .stable then modPacer e r (fun p => { p with released := true })
    else logEvent e 0x0104 0x103 argNone (by1 r)) (calibrate d rs cs)

/-- The release goes to a step. -/
def toStep (d : Dev) (step turn : Nat) : Dev := { d with rp := { d.rp with step := step, turn := turn } }

/-- Step 1: the AUX domain leaves reset; the strap is measured (R516) and FAB_CTL.ROOT takes its choice. -/
def releaseAux (d : Dev) (mv : List Nat) : Dev :=
  let c := strapMeasure 17 mv
  toStep { d with
    rp := { d.rp with strap := BitVec.ofNat 4 c, strapDone := true }
    fab := { d.fab with root := strapRoot c } } 2 0

/-- The identity of the function by the fuses, the module serial and a settings body (R430, R488). -/
def configOf (d : Dev) (b : List Byte) : ConfigSpace :=
  let dev := 0x0410 + d.fuses.grade.toNat
  let given := leAt b 4 2 != 0
  { device := BitVec.ofNat 16 dev, revision := d.fuses.step.setWidth 8, serial := BitVec.ofNat 64 (flashSerial d),
    subVendor := if given then BitVec.ofNat 16 (leAt b 4 2) else 0x1F7A, subId := BitVec.ofNat 16 (if given then leAt b 6 2 else dev) }
/-- TRIM_LOAD_DONE at step 2: the load has ended with a copy of the trim region, or with the defaults of ROM when neither copy is
valid (R515), as `fromFlash` reports; the serial and the settings are read from the flash (R331, R430, R488, R545). -/
def trimLoaded (d : Dev) (fromFlash : Bool) : Dev :=
  let valid := (copyInForce d trimRegion).isSome
  if d.rp.step != 2 || fromFlash != valid then d
  else
    let body := settingsBody d
    let d0 := { d with rp := { d.rp with settings := body }, host := { d.host with cfg := configOf d body } }
    let ports := (List.range 12).foldl (fun m p => mapPut m p (portSetting d0 p (mapGet {} m p))) d.fab.ports
    let d1 := { d0 with
      rp := { d0.rp with trimV := true, trimDef := !valid }
      fab := { d.fab with ports := ports }
      glb := { d.glb with serial := BitVec.ofNat 64 (flashSerial d) } }
    let d2 := toStep d1 3 0
    if valid then d2 else logEvent d2 0x0102 0x103 argNone []

/-- The volatile CSPs of the Prefect are overwritten with zeros (R496). -/
def zeroCsp (d : Dev) : Dev := { d with prefect := { d.prefect with drbg := {}, entropy := 0 } }
/-- The Prefect enters the error state (R496, R497); which test failed has no encoding. -/
def prefectError (d : Dev) : Dev :=
  let d1 := zeroCsp (draw d)
  let d2 := { d1 with prefect := { d1.prefect with
    boot := .error, bundle := if d.prefect.bundle.any (·.verified) then d.prefect.bundle else none } }
  let d3 := logEvent d2 0x0B02 0x101 argNone (by1 (freeWord d 8 0).toNat)
  if d3.host.syll then detainDevice d3 5 else d3
/-- The CTR_DRBG holds a state: it is seeded at its first use and when its seed has served 2^48 requests. -/
def drbgReady (d : Dev) : Dev :=
  let p := d.prefect
  if p.drbg.count = 0 || 2 ^ 48 < p.drbg.count then
    let e := Config.entropy d.freeCtr
    { draw d with prefect := { p with drbg := drbgSeed p.drbg e, entropy := e } }
  else d
/-- Bytes of the CTR_DRBG. -/
def randomBytes (d : Dev) (n : Nat) : List Byte := (drbgTake (drbgReady d).prefect.drbg n).1
/-- The device after a request for bytes of the CTR_DRBG. -/
def drbgUsed (d : Dev) (n : Nat) : Dev :=
  let d1 := drbgReady d
  { d1 with prefect := { d1.prefect with drbg := (drbgTake d1.prefect.drbg n).2 } }
/-- The identity key is generated once, in BLANK (R479). -/
def identityKey (d : Dev) : Dev :=
  if lifeCycle d.fuses != 0 || d.fuses.idMod != 0 then d
  else
    let d1 := drbgReady d
    let made := makeKey d1.prefect.drbg
    { d1 with
      prefect := { d1.prefect with drbg := made.2 }
      fuses := { d1.fuses with idMod := (made.1.map Prod.fst).getD 0, idExp := (made.1.map Prod.snd).getD 0 } }
/-- Step 3: the Prefect is released. When its self-tests pass the Primer takes the boot source, and otherwise it enters the error state
(R455, R475, R497). -/
def releasePrefect (d : Dev) (testsPass : Bool) : Dev :=
  let src := strapSource d.rp.strap.toNat
  let rec_ := src == .recovery
  let d1 := { d with prefect := { d.prefect with
    source := src, boot := if rec_ then .recWaiting else .waiting, recCause := if rec_ then 1 else 0 } }
  toStep (if testsPass then identityKey d1 else prefectError d) 4 0

/-- Step 5: the north X-die, and with it the host link, whose trained rate and width the manual does not fix. -/
def releaseNorth (d : Dev) : Dev :=
  let rate := 4 + Config.freeNat d.freeCtr 0 % 3
  let width := [1, 2, 4, 8, 16].getD (Config.freeNat d.freeCtr 1 % 5) 16
  toStep (draw { d with
    rp := { d.rp with pwr := if d.rp.pwr = .standby then .on else d.rp.pwr }
    host := { d.host with rate := BitVec.ofNat 3 rate, width := BitVec.ofNat 5 width } }) 6 0

/-- A turn of step 7: the rails of controller c rise and its pacer starts; once it is stable or failed it is released. -/
def releaseHbm (d : Dev) (cs : List Crossing) : Dev :=
  let c := d.rp.turn
  let r := 224 + c
  match (pacerOf d r).state with
  | .inReset => startPacers d [r]
  | .trimming => d
  | _ => toStep (releaseGroup d [r] cs) (if c < 11 then 7 else 8) (if c < 11 then c + 1 else 0)

/-- A turn of steps 8 and 9 on a die: turn 0 raises the rails, turns 1 to 7 release rows 0 to 6. -/
def releaseDie (d : Dev) (die sub : Nat) (cs : List Crossing) : Dev :=
  if sub = 0 then toStep (startPacers d (dieRegions die)) d.rp.step (d.rp.turn + 1)
  else
    let rs := rowRegions die (sub - 1)
    if !groupReady d rs then d
    else
      let d1 := releaseGroup d rs cs
      if d1.rp.step = 8 && sub = 7 then toStep d1 9 0
      else if d1.rp.step = 9 && d1.rp.turn = 23 then toStep d1 10 0
      else toStep d1 d1.rp.step (d1.rp.turn + 1)

/-- RST_LAST as a word (R546). -/
def rstLast (d : Dev) : Nat :=
  let kind := match d.rp.lastKind with
    | .none => 0 | .block => 1 | .warm => 2 | .cold => 3
  d.rp.lastCause.toNat + kind * 2 ^ 4 + b2n d.rp.lastEarly * 2 ^ 6 + d.rp.lastBlock.toNat * 2 ^ 8 + d.rp.lastSrc.toNat * 2 ^ 16

/-- RELEASE_STEP: the next step of R512 takes place when its conditions are met. -/
def releaseStepAt (d : Dev) (mv : List Nat) (testsPass : Bool) (cs : List Crossing) : Dev :=
  let r := d.rp
  match r.step with
  | 1 => if r.vauxOk && !r.resetInLow then releaseAux d mv else d
  | 3 => if r.trimV then releasePrefect d testsPass else d
  | 4 => toStep { d with reg := { d.reg with running := true } } 5 0
  | 5 => if r.vinGood && !r.perstLow && !r.resetInLow && !r.thold && !r.switchOpen then releaseNorth d else d
  | 6 => toStep d 7 0
  | 7 => releaseHbm d cs
  | 8 => releaseDie d 0 r.turn cs
  | 9 => releaseDie d (1 + r.turn / 8) (r.turn % 8) cs
  | 10 => logEvent (toStep { d with rp := { r with done := true, pwr := .on } } 11 0) 0x0101 0x103 argNone (le 4 (rstLast d))
  | _ => d

/-- PACER_STABLE_TIMEOUT: a pacer that trims for 1 ms reads failed (R408). -/
def pacerTimeoutAt (d : Dev) (r : Nat) : Dev :=
  if r < 236 && (pacerOf d r).state = .trimming then modPacer d r (fun p => { p with state := .failed }) else d

/-! ### Block reset (R518 to R523) -/

/-- Why a block reset is refused (R519, R523, R570): 0 when it is not. -/
def blockRefused (d : Dev) (blk : Nat) : Nat :=
  if !d.rp.done then 4
  else if d.rp.blockReset.isSome then 1
  else if [0xEE, 0xEF].contains blk || 0xFC ≤ blk then 2
  else if blk < 0xE0 && (regionCore d blk).isNone then 3
  else 0

/-- A block reset begins: the block is asked to go idle (R519). -/
def blockStart (d : Dev) (blk requester : Nat) : Dev :=
  let why := blockRefused d blk
  if why != 0 then logEvent d 0x0105 0x103 argNone (by1 requester ++ by1 why ++ le 2 blk)
  else
    let b : BlockReset := { block := BitVec.ofNat 8 blk, requester := BitVec.ofNat 8 requester, since := nowUs d }
    let d1 := { d with rp := { d.rp with blockReset := some b } }
    match regionCore d blk with
    | some v => if blk < 0xE0 then haltReqAt d1 v else d1
    | none => d1

/-- The core has nothing in progress (R520). -/
def coreIdle (c : Core) : Bool :=
  c.state != .running && c.cmds.isEmpty && c.strm.lists.isEmpty && c.strm.xfers.isEmpty && c.vec.hand.isEmpty
/-- The block reports idle (R520). -/
def blockIsIdle (d : Dev) (blk : Nat) : Bool :=
  if blk < 0xE0 then (regionCore d blk).all (fun v => coreIdle (coreOf d v))
  else if blk < 0xEC then true
  else if blk < 0xEE then (cxlOf d (blk - 0xEC)).filling.isEmpty
  else (fabPort d (blk - 0xF0)).replay.isEmpty

/-- A core is reset: its state is idle and its registers are at their Block values; ring step counts stay (R520). -/
def resetCore (d : Dev) (v : Nat) (honoured : Bool) : Dev :=
  let d1 := if honoured then dropHeld (loseOwn d v false) v else abandonCore d v false
  let d2 := breakRingsOf d1 v 0x07
  setCore d2 v { ringSteps := (coreOf d v).ringSteps }

/-- The bytes that an HBM controller serves are lost. -/
def loseController (d : Dev) (c : Nat) : Dev :=
  let mine := fun a => decide (a < hbmCap d) && hbmCtlOf d a == c
  { d with mem := d.mem.filter (fun x => !mine x.1), badWords := d.badWords.filter (fun w => !mine (8 * w)) }
/-- A controller is reset and, once the Syllabus is active, retrains under its firmware (R520, R327). -/
def resetHbm (d : Dev) (c : Nat) (honoured : Bool) : Dev :=
  let d1 := if honoured then d else loseController d c
  modHbm d1 c (fun h =>
    { ceCnt := h.ceCnt, ueCnt := h.ueCnt, ueAddr := h.ueAddr, refreshes := h.refreshes,
      state := if syllActive d then .training else .off, selfRefresh := honoured })
/-- A tier manager is reset: the cache is emptied without write-back (R323). -/
def resetTier (d : Dev) (p : Nat) : Dev :=
  modCxl (emptyCache d p) p (fun c => { c with hit := 0, miss := 0, wb := 0, logBank := false })
/-- A fabric port is reset: it retrains (R345), unless Attendance holds it down (R369). -/
def resetPort (d : Dev) (p : Nat) (honoured : Bool) : Dev :=
  modPort d p (fun q =>
    let s := portSetting d p q
    { s with retraining := !q.heldDown, state := if q.heldDown then .down else .training, rev := false, lanes := 0, nport := 0, nid := 0xFFFF,
             replay := if honoured then q.replay else [], sending := if honoured then q.sending else none,
             rxFlit := none, rxHeld := [], rxNext := none, rxMsg := if honoured then q.rxMsg else none })

/-- The shadow copies of a block after its reset: the fields read as the Block column has them, until the next slow-clock edge shows
what the block then holds (R533, R535). -/
def shadowReset (sh : Dev) (blk : Nat) : Dev :=
  if blk < 0xE0 then (match regionCore sh blk with
    | some v => setCore sh v {}
    | none => sh)
  else if blk < 0xEC then
    modHbm sh (blk - 0xE0) (fun h => { h with state := .off, refHot := false, throt := false, temp := 0 })
  else if blk < 0xEE then
    modCxl sh (blk - 0xEC) (fun c =>
      { c with link := .down, lanes := 0, active := false, cap := 0, large := false, flushing := false, logBusy := false, logBank := false
               hit := 0, miss := 0, wb := 0 })
  else modPort sh (blk - 0xF0) (fun q => { q with state := .down, lanes := 0, rev := false, nport := 0, nid := 0xFFFF })

/-- The virtual core, controller or port that a block concerns (R530). -/
def blockArg (d : Dev) (blk : Nat) : Nat :=
  if blk < 0xE0 then (regionCore d blk).getD argNone
  else if blk < 0xEC then blk - 0xE0 else if blk < 0xEE then blk - 0xEC else blk - 0xF0
/-- The Registrar starts a block reset as the host does, by a write of RST_BLOCK (R519, R538, R539). -/
def registrarGo (d : Dev) (blk : Byte) : Dev := blockStart (clearFault { d with rp := { d.rp with blk := blk } } 0x10008) blk.toNat 1
/-- The block reset takes place, is counted, recorded and logged; the next one that the Registrar wants starts. -/
def blockDone (d : Dev) (honoured : Bool) : Dev :=
  match d.rp.blockReset with
  | none => d
  | some b =>
    let blk := b.block.toNat
    let d1 := recordReset (fixParity { d with rp := { d.rp with blockReset := none, honoured := honoured } } 0x10008) 0xA .block blk noSrc
    let d2 :=
      if blk < 0xE0 then (match regionCore d blk with
        | some v => resetCore d1 v honoured
        | none => d1)
      else if blk < 0xEC then resetHbm d1 (blk - 0xE0) honoured
      else if blk < 0xEE then resetTier d1 (blk - 0xEC)
      else resetPort d1 (blk - 0xF0) honoured
    let d3 := logEvent d2 0x0103 0x103 (blockArg d blk) (by1 blk ++ by1 (b2n honoured) ++ le 4 (nowUs d - b.since))
    match d3.rp.blockQueue with
    | [] => d3
    | q :: r => registrarGo { d3 with rp := { d3.rp with blockQueue := r } } q

/-- The Registrar wants some cores block-reset, one after another (R402, R448). -/
def registrarResets (d : Dev) (vs : List Nat) : Dev :=
  let blks := vs.map (fun v => BitVec.ofNat 8 (coreBlock d v))
  if d.rp.blockReset.isSome then { d with rp := { d.rp with blockQueue := d.rp.blockQueue ++ blks } }
  else match blks with
    | [] => d
    | q :: r => registrarGo { d with rp := { d.rp with blockQueue := d.rp.blockQueue ++ r } } q

/-! ### Power states (R524, R525) -/

/-- A request for a power state is allowed: no active job, no list, and no open round. -/
def powerAllowed (d : Dev) : Bool :=
  !jobActive d && (List.range (gridCores d)).all (fun v => (coreOf d v).strm.lists.isEmpty)
    && (List.range 4).all (fun c => !(hdmaOf d c).busy) && d.copy.state != .opened && d.copy.state != .frozen
    && d.rp.done

/-- Sleep ends: every core is reset as by a block reset (R525), its rings and tasks among them, and the release goes on from
step 7 with the stack rails up. -/
def wakeUp (d : Dev) : Dev :=
  let d1 := (List.range (gridCores d)).foldl (fun e v => resetCore e v (coreIdle (coreOf e v))) d
  let pac := d1.pace.pacers.map (fun p => (p.1, { p.2 with state := PacerState.inReset, released := false }))
  toStep { d1 with
    pace := { d1.pace with pacers := pac }
    hbm := d1.hbm.map (fun p => (p.1, { p.2 with selfRefresh := false }))
    rp := { d1.rp with done := false, pwr := .on } } 7 0

/-- Entry to a state: park stops the pacers; sleep also puts the stacks into self-refresh. -/
def enterPower (d : Dev) (s : PwrState) : Dev :=
  match s with
  | .sleep => { d with rp := { d.rp with pwr := .sleep }, hbm := d.hbm.map (fun p => (p.1, { p.2 with selfRefresh := true })) }
  | s => { d with rp := { d.rp with pwr := s } }

end Sys2Proof.Machine
end

