-- ==== Sys2Proof/Machine/Pacing.lean ====
section
/-!
DEFINITION. Pacing (R406 to R428): pacer trimming, margin levels, pace epochs and the power limit.
-/
namespace Sys2Proof.Machine

/-! ### Pacers (R406 to R408) -/

/-- One slow-clock edge of a pacer, failed ones too: its code moves one step toward the period of the pace, and a pacer that is being
released counts the edges at which its period lies in band. Where the period lies is not given: both are free choices. -/
def trimPacer (n : Nat) (r : Nat) (p : Pacer) : Pacer :=
  match p.state with
  | .inReset => p
  | _ =>
    let up := Config.freeBit n (2 * r)
    let near := Config.freeBit n (2 * r + 1)
    let delay := if up then satAdd p.delay 1 else if p.delay = 0 then 0 else p.delay - 1
    let run := if near then p.inBand + 1 else 0
    if p.state = .trimming then
      { p with delay := delay, inBand := run, state := if 8 ≤ run then .stable else .trimming }
    else { p with delay := delay }
/-- Every pacer takes its step; a parked device's pacers are stopped (R422). -/
def trimPacers (d : Dev) : Dev :=
  if d.rp.pwr != .on then d
  else draw { d with pace := { d.pace with pacers := d.pace.pacers.map (fun x => (x.1, trimPacer d.freeCtr x.1 x.2)) } }

/-! ### The applied code (R410 to R412, R515) -/

/-- N of R411. -/
def paceN (d : Dev) : Nat :=
  let top := if d.rp.trimDef then 0x64 else 0xA0
  max 0x28 (min (min d.pace.tgt.toNat d.pace.ceil.toNat) (min d.pace.therm.toNat top))
/-- LIMIT as it acts (R426). -/
def limitW (d : Dev) : Nat := max 1500 (min 3200 d.pace.limit.toNat)
/-- FAST as it acts (R428). -/
def fastW (d : Dev) : Nat := max (limitW d) (min 3600 d.pace.fast.toNat)

/-! ### Pace epochs (R418 to R422) -/

/-- The announcement: every member loads the delay code of its trim for the pace, which the manual does not give, into its standby
register and arrives at Bell 1,016 (step 3 of R419). -/
def announce (d : Dev) (n : Byte) : Dev :=
  let d1 := draw (d.pace.members.foldl (fun e r => modPacer e r (fun p => { p with standby := freeWord d 10 r })) d)
  d1.pace.members.foldl (fun e r => bellArrive e 1016 r 0 0) { d1 with pace := { d1.pace with phase := .announced n } }
/-- An epoch to a code begins (step 1). -/
def epochBegin (d : Dev) (n : Nat) : Dev :=
  let p := d.pace.cur.toNat
  let code := BitVec.ofNat 8 (if p < n then min n (p + 5) else n)
  let d1 := { d with pace := { d.pace with busy := true, epoch := d.pace.epoch + 1, members := epochRegions d } }
  if p < n then { d1 with pace := { d1.pace with phase := .rails code } } else announce d1 code
/-- Epochs run while the device is neither parked nor asleep (R419, R422). -/
def epochsRun (d : Dev) : Bool := d.rp.pwr == .on
/-- PACE_EPOCH: when N differs from CUR, no epoch runs, and R420 and R427 allow it. -/
def paceEpochAt (d : Dev) : Dev :=
  let n := paceN d
  let p := d.pace.cur.toNat
  if d.pace.busy || !epochsRun d || n = p then d
  else if p < n && (d.pace.upBlocked || d.pace.lowRun < 10) then d
  else epochBegin d n
/-- N has changed: an upward epoch that still waits for its rails is abandoned when N lies below CUR, and the downward epoch
starts at once (R422). -/
def paceChanged (d : Dev) : Dev :=
  match d.pace.phase with
  | .rails _ =>
    if paceN d < d.pace.cur.toNat then epochBegin { d with pace := { d.pace with busy := false, phase := .idle } } (paceN d) else d
  | _ => d
/-- A fall of N starts its epoch at once (R426). -/
def paceFall (d : Dev) : Dev := if paceN d < d.pace.cur.toNat then paceEpochAt (paceChanged d) else d
/-- The epoch ends with CUR as it stands. -/
def epochOver (d : Dev) : Dev :=
  { d with pace := { d.pace with busy := false, phase := .idle, lowRun := 0, skipWindow := true, members := [] } }
/-- RAILS_SETTLED (step 3). -/
def railsSettledAt (d : Dev) : Dev :=
  match d.pace.phase with
  | .rails n => announce { d with pace := { d.pace with volt := n } } n
  | _ => d
/-- RAIL_SETTLE_TIMEOUT (R420). -/
def railTimeoutAt (d : Dev) : Dev :=
  match d.pace.phase with
  | .rails n =>
    let d1 := epochOver d
    logEvent { d1 with pace := { d1.pace with upBlocked := true } } 0x0302 0x102 argNone (by1 n.toNat)
  | _ => d
/-- The members switch to their standby codes and arrive again (step 4). -/
def switchCodes (d : Dev) (n : Byte) : Dev :=
  let d1 := d.pace.members.foldl (fun e r => modPacer e r (fun p => { p with delay := p.standby })) d
  d1.pace.members.foldl (fun e r => bellArrive e 1016 r 0 0) { d1 with pace := { d1.pace with phase := .switched n } }
/-- A release of Bell 1,016: the switch, or the end of the epoch (steps 4 and 5). -/
def paceRelease (d : Dev) : Dev :=
  match d.pace.phase with
  | .announced n => switchCodes d n
  | .switched n =>
    let down := decide (n.toNat < d.pace.cur.toNat)
    let d1 := epochOver d
    { d1 with pace := { d1.pace with
      cur := n, volt := if down then n else d1.pace.volt, pstrDown := d1.pace.pstrDown || (down && d1.pace.pstr) } }
  | _ => d

/-! ### Writes of the pace registers (R410, R411, R420) -/

/-- The code is one that R410 defines. -/
def paceCodeOk (c : Nat) : Bool := 0x28 ≤ c && c ≤ 0xA0
/-- A write of PACE_TGT.CODE by the Registrar. -/
def writeTgt (d : Dev) (c : Nat) : Dev :=
  if paceCodeOk c then paceChanged { d with pace := { d.pace with tgt := BitVec.ofNat 8 c, upBlocked := false } }
  else logEvent { d with pace := { d.pace with upBlocked := false } } 0x0301 0x102 argNone (by1 c)
/-- A write of PACE_THERM.CODE by the Registrar. -/
def writeTherm (d : Dev) (c : Nat) : Dev :=
  if paceCodeOk c then paceChanged { d with pace := { d.pace with therm := BitVec.ofNat 8 c } }
  else logEvent d 0x0301 0x102 argNone (by1 c)

/-- The policy firmware writes the thermal ceiling from the die temperatures, with a code that the manual leaves to it (R411); a
reserved one is kept out by R410. -/
def thermPolicy (d : Dev) : Dev :=
  if d.reg.fw then writeTherm (draw d) (Config.freeNat d.freeCtr 0 % 256) else d

/-! ### Margin and stretching (R413 to R416) -/

/-- MARGIN_STRETCH: the region's level, which stretches its following beats; 0b11 is never reported. -/
def marginAt (d : Dev) (r : Nat) (level : BitVec 2) : Dev :=
  if level = 3 || 236 ≤ r then d else modPacer d r (fun p => { p with level := level })
/-- CRITICAL_LEVEL: 1,024 consecutive critical beats (R416). -/
def criticalAt (d : Dev) (r : Nat) : Dev :=
  if (pacerOf d r).critRun < 1024 then d
  else logEvent (modPacer d r (fun p => { p with critRun := 0 })) 0x0303 srcRegistrar argNone (by1 r)
/-- A pacer's counters for one beat: beats, and stretched beats by level and by the power stretch (R429). -/
def countBeat (a0 pstr : Bool) (p : Pacer) : Pacer :=
  { p with
    beats := satAdd p.beats 1
    str1 := if p.level = 1 then satAdd p.str1 1 else p.str1
    str2 := if p.level = 2 then satAdd p.str2 1 else p.str2
    strp := if pstr && !a0 then satAdd p.strp 1 else p.strp
    critRun := if p.level = 2 then p.critRun + 1 else 0 }
/-- The pacer of a region runs. -/
def pacerRuns (d : Dev) (r : Nat) : Bool :=
  d.rp.pwr == .on && ((pacerOf d r).state == .trimming || (pacerOf d r).state == .stable)

/-! ### The power limit (R426 to R428) -/

/-- POWER_WINDOW: the mean VIN power of a window of ten slow-clock edges. -/
def powerWindowAt (d : Dev) (w : Nat) : Dev :=
  let lim := limitW d
  let above := decide (lim < w)
  let low := decide (100 * w ≤ 97 * lim)
  let p := d.pace
  let run := if low then p.ceilRun + 1 else 0
  let rise := decide (100 ≤ run)
  let cur := p.cur.toNat
  let ceil := if pfault d 0x20010 then 0x28 else if above then BitVec.ofNat 8 (max 0x28 (cur - 2))
    else if rise then BitVec.ofNat 8 (min 0xA0 (p.ceil.toNat + 1)) else p.ceil
  let d1 : Dev := { d with
    rp := { d.rp with vinW := BitVec.ofNat 16 w }
    pace := { p with
    ceil := ceil
    ceilRun := if rise then 0 else run
    lowRun := if p.skipWindow then 0 else if low then p.lowRun + 1 else 0
    skipWindow := false
    means := (w :: p.means).take 100
    pstr := p.pstr && !(p.pstrDown && !above)
    pstrDown := p.pstrDown && above } }
  let d2 := if above && cur = 0x28 then logEvent d1 0x0205 0x102 argNone (le 4 w) else d1
  if above then paceFall d2 else d2

/-- POWER_STRETCH: an instantaneous reading above FAST (R428). -/
def powerStretchAt (d : Dev) (w : Nat) : Dev :=
  if w ≤ fastW d || d.pace.pstr then d else { d with pace := { d.pace with pstr := true, pstrDown := false } }

/-- PACE_CTL.CLRCNT (R429). -/
def clearPacers (d : Dev) : Dev :=
  { d with pace := { d.pace with
    pacers := d.pace.pacers.map (fun x => (x.1, { x.2 with beats := 0, str1 := 0, str2 := 0, strp := 0 })) } }

end Sys2Proof.Machine
end

