-- ==== Sys2Proof/Machine/Proctor.lean ====
section
/-!
DEFINITION. The Proctor (R148 to R193): issue with its conditions in the order of R179, the effect of each command at issue,
the engine queues, completion, and the states that follow from stopping issue. One operation serves every command row.
-/
namespace Sys2Proof.Machine

/-! ### Comparators (R189, R190) -/

/-- A comparator matches the next command. -/
def cmpMatches (c : Core) (n w : Nat) : Bool :=
  let x := mapGet {} c.cmpr n
  match x.mode.toNat with
  | 1 => x.cval == c.issue
  | 2 => x.ctag.toNat == cwTag w
  | _ => false
/-- The lowest matching comparator, unless RESUME lets the held command pass. -/
def cmpHit (c : Core) (w : Nat) : Option Nat := if c.passBreak then none else (List.range 8).find? (fun n => cmpMatches c n w)

/-! ### The scoreboard and the queues (R176, R177, R179) -/

/-- Scoreboard entries in use. -/
def sbUsed (c : Core) : Nat := (c.cmds.map (·.regions.length)).sum
/-- A set of regions conflicts with an entry. -/
def sbConflict (c : Core) (rs : List Region) : Bool := rs.any (fun r => c.cmds.any (fun i => i.regions.any (regionConflict r)))
/-- Entries of a unit's queue. -/
def queued (c : Core) (u : CUnit) : Nat := c.cmds.countP (fun i => i.unit == u)
/-- Commands in the stream queue: STRM.GO whose list is not yet read, and STRM.FENCE behind one (R195). -/
def strmQueued (c : Core) : Nat :=
  let unread := fun (i : Issued) => cwOpc i.word.toNat == 0x10
  let behind := fun (i : Issued) => c.cmds.any (fun j => unread j && j.unit == .strm && j.id < i.id)
  c.cmds.countP (fun i => i.unit == .strm && (unread i || behind i))
/-- Tasks in the pool. -/
def pooled (c : Core) : Nat := c.cmds.countP isTask

/-- The operands of a command as resolved at issue. -/
def opndsOf (d : Dev) (v : Nat) (w : Nat) : Opnds :=
  let c := coreOf d v
  if cwArray w then arrOpnds c w else if cwVector w then vecOpnds d v c w
  else { x := ((ctlSpan c w).map (fun s => s.2.1)).getD 0,
         base := if bit w 77 then (aregOf c (bits w 73 4)).base else 0 }
/-- The regions that a command declares, or waits on for the commands that the Proctor itself executes (R162, R177). -/
def regionsOf (d : Dev) (v : Nat) (w : Nat) (o : Opnds) : List Region :=
  let c := coreOf d v
  if cwArray w then arrRegions c w o
  else if cwVector w then vecRegions w o
  else match ctlSpan c w with
    | some (_, off, n) => regionOf off n (cwOpc w != 0x0B) (cwOpc w == 0x0B)
    | none => []
/-- The command holds its regions in the scoreboard after it has issued. -/
def holdsRegions (w : Nat) : Bool := cwArray w || cwVector w || cwOpc w == 0x10 || (cwOpc w == 0x0A && bit w 65)
/-- The queue of a command has room. -/
def queueRoom (c : Core) (w : Nat) : Bool :=
  if cwArray w then queued c (.array (cwQue w)) < 32
  else if cwVector w then (if vPost w then pooled c < 256 else queued c .vec < 32)
  else if cwOpc w == 0x10 || cwOpc w == 0x12 then strmQueued c < 32
  else true

/-- The event counter of STRM.WAIT and STRM.GO. -/
def eregOf (c : Core) (n : Nat) : Word := mapGet 0 c.ereg n
/-- BELL.WAITs that a core has issued on a Bell. -/
def bellWaited (d : Dev) (b v : Nat) : Nat := mapGet 0 (bellOf d b).waits v

/-- The stall counter of the first condition that a well-formed command does not meet, by its place in R191: SB 0, QF 1,
SLOT 2, SWAIT 3, BWAIT 4, TDRAIN 5; none when it can issue. -/
def unmet (d : Dev) (v : Nat) (w : Nat) : Option Nat :=
  let c := coreOf d v
  let opc := cwOpc w
  let rs := regionsOf d v w (opndsOf d v w)
  if opc == 0x11 && decide ((eregOf c (bits w 32 3)).toNat < bits w 35 16) then some 3
  else if opc == 0x0B && decide ((bellOf d (bNum w)).done ≤ bellWaited d (bNum w) v) then some 4
  else if opc == 0x09 && pooled c != 0 then some 5
  else if cwVector w && vPost w && c.cmds.any (fun i => i.unit == .pool (vSlot w)) then some 2
  else if sbConflict c rs || 64 < sbUsed c + rs.length then some 0
  else if !queueRoom c w then some 1
  else none

/-! ### Effects at issue -/

/-- Registers that advance once the command has issued (R157). DESIGN CHOICE: INCX and INCY also advance the register of
a ring operand that a member other than the head ignores (R130); INCA under FSRC, which names no operand, advances none. -/
def incRegs (w : Nat) : List Nat :=
  let nar := fun code => fmtNarrow ((fmtOf code).getD .fp32)
  let pair := fun (r code : Nat) => r :: (if nar code then [r + 1] else [])
  let l :=
    if cwArray w then
      (if aIncX w && usesX w then pair (aXR w) (aXF w) ++
          (if aSplit w == 2 && cwOpc w != 0x23 then pair (aXR w + 2) (aXF w) else []) else []) ++
      (if aIncY w && usesY w then pair (aYR w) (aYF w) ++ (if aSplit w == 1 then pair (aYR w + 2) (aYF w) else []) else []) ++
      (if aIncD w && usesD w then aDR w :: (if aSplit w != 0 then [aDR w + 2] else []) else [])
    else if cwVector w then
      (if vIncA w && !vFsrc w then pair (vAR w) (vAF w) else []) ++
      (if vIncB w && usesB w then pair (vBR w) (vBF w) else []) ++
      (if vIncC w && (usesC w || usesCs w || usesRec w) then (if usesC w then pair (vCR w) (vBF w) else [vCR w]) else []) ++
      (if vIncD w then pair (vDR w) (dFmt (vDD w)) else [])
    else (oprFields w).flatMap (fun p => oprInc (bits w p 20))
  (l.filter (· ≤ 15)).eraseDups

/-- The Proctor goes on to the next command. -/
def advance (c : Core) (w : Nat) : Core :=
  let c1 := (incRegs w).foldl bump c
  { c1 with pc := c.pc + 16, issue := c.issue + 1, passBreak := false }

/-- A command put into flight. -/
def putFlight (d : Dev) (v w : Nat) (u : CUnit) (f : Issued → Issued) : Dev :=
  let c := coreOf d v
  let o := opndsOf d v w
  let rs := if holdsRegions w then regionsOf d v w o else []
  let i : Issued := { id := c.issue.toNat, word := BitVec.ofNat 128 w, unit := u, ops := o, regions := rs }
  setCore d v { c with cmds := c.cmds ++ [f i] }

/-- The tracked state of an array after an array command has issued (R180). -/
def trackArray (c : Core) (w : Nat) (live : Fmt) (rs : List Region) : Core :=
  let a := cwQue w
  let id := c.issue.toNat
  let swapT := fun (s : ArrayState) => { s with tLive := s.tShadow, tShadow := s.tLive }
  let c1 := modArr c a (fun s =>
    match cwOpc w with
    | 0x23 => if aK w = 0 || aN w = 0 then s else { s with tShadow := fmtD (aXF w) }
    | 0x24 => swapT s
    | 0x25 => { s with tPend := none }
    | 0x26 => s
    | _ =>
      let s1 := if aSwap w && mmaLive w then swapT s else s
      if cwOpc w = 0x22 then
        let t : PendTile := { k := aK w, n := aN w, split := BitVec.ofNat 2 (aSplit w), pack := packOf (fmtD (aXF w)) }
        if mmaLive w then { s1 with tPend := some t } else s1
      else if aFuse w then
        { s1 with unpaired := s1.unpaired ++ [{ id := id, word := BitVec.ofNat 128 w, result := mmaResultFmt live, regions := rs }] }
      else s1)
  if cwMma w && aRing w then { c1 with ringSteps := mapPut c1.ringSteps a (mapGet 0 c1.ringSteps a + 1) } else c1

/-- An array command issues. -/
def issueArray (d : Dev) (v w : Nat) : Dev :=
  let c := coreOf d v
  let a := cwQue w
  let rs := regionsOf d v w (opndsOf d v w)
  let d1 := putFlight d v w (.array a) (fun i =>
    { i with liveFmt := trackedLive c w, step := mapGet 0 c.ringSteps a, shape := drainShape c w })
  modCore d1 v (fun x => trackArray x w (trackedLive c w) rs)

/-- A vector command issues: into the vector queue, or into the task pool with POST (R166, R181). -/
def issueVector (d : Dev) (v w : Nat) : Dev :=
  let c := coreOf d v
  let pair := if vFsrc w then (fusedMma c w).map (·.id) else none
  let d1 := putFlight d v w (if vPost w then .pool (vSlot w) else .vec) (fun i => { i with pair := pair })
  modCore d1 v (fun x =>
    let x1 := if vFsrc w then modArr x (vFarr w) (fun s => { s with unpaired := s.unpaired.drop 1 }) else x
    if vPost w then { x1 with vec := { x1.vec with posted := satAdd x1.vec.posted 1 } } else x1)

/-- STRM.GO issues: its list joins the stream engine's (R194, R204). -/
def issueGo (d : Dev) (v w : Nat) : Dev :=
  let c := coreOf d v
  let o := opndsOf d v w
  let l : BList :=
    { id := c.issue.toNat, base := winBase v + o.x, count := gCount w, evt := bits w 68 3,
      pri := BitVec.ofNat 2 (bits w 71 2), reloc := o.base }
  modCore (putFlight d v w .strm id) v (fun x => { x with strm := { x.strm with lists := x.strm.lists ++ [l] } })

/-- BELL.RING issues: its arrival is held until it can be sent; with DRN = 0 its value is read now (R162, R177, R232). -/
def issueRing (d : Dev) (v w : Nat) : Dev :=
  let c := coreOf d v
  let o := opndsOf d v w
  let h : HeldArrival :=
    { core := v, cmd := some c.issue.toNat, slot := none, op := BitVec.ofNat 3 (bits w 42 3),
      value := if bit w 65 then 0 else BitVec.ofNat 64 (leNat (winRead (seen d) v o.x 8)) }
  modBell (putFlight d v w .bell id) (bNum w) (fun b => { b with held := b.held ++ [h] })

/-- BELL.WAIT issues once its generation has completed, and writes the result when WRES is 1 (R165, R233). -/
def issueWait (d : Dev) (v w : Nat) : Dev :=
  let b := bNum w
  let g := bellWaited d b v
  let res := (((bellOf d b).results.find? (fun r => r.1 == g)).map (·.2)).getD 0
  let d1 := modBell d b (fun x => { x with waits := mapPut x.waits v (g + 1) })
  if bit w 62 then
    let d2 := raced d1 (fun e => winWrite e v (opndsOf d v w).x (leBytes 8 res.toNat))
    noteOver d2 (regionDiff d1 d2 v (regionsOf d v w (opndsOf d v w)))
  else d1

/-- The commands that the Proctor executes itself at issue. -/
def issueControl (c : Core) (w : Nat) : Core :=
  match cwOpc w with
  | 0x04 =>
    let n := bits w 32 4
    let r := aregOf c n
    let what := bits w 36 2
    let r1 := if what = 2 then r else { r with base := BitVec.ofNat 48 (bits w 38 48) }
    let r2 := if what = 1 then r1 else { r1 with stride := BitVec.ofNat 24 (bits w 86 24) }
    { c with areg := mapPut c.areg n r2 }
  | 0x05 =>
    let n := bits w 32 4
    let r := aregOf c n
    { c with areg := mapPut c.areg n { r with base := r.base + BitVec.ofNat 48 (bits w 36 48) } }
  | 0x07 =>
    let x : Comparator :=
      { mode := BitVec.ofNat 2 (bits w 35 2), ctag := BitVec.ofNat 8 (bits w 37 8), cval := BitVec.ofNat 48 (bits w 45 48) }
    { c with cmpr := mapPut c.cmpr (bits w 32 3) x }
  | 0x11 =>
    let e := bits w 32 3
    let left := eregOf c e - BitVec.ofNat 32 (bits w 35 16)
    -- a wait that leaves the counter at zero covers every list that has counted in it (R163)
    let covered := left == 0 && !(c.strm.lists.any (fun l => l.evt == e))
    { c with ereg := mapPut c.ereg e left
             strm := if covered then { c.strm with stale := c.strm.stale.filter (fun s => s.1 != e) } else c.strm }
  | _ => c

/-- LOOP (R171): the body is skipped, or a loop of n passes opens. -/
def issueLoop (c : Core) (w : Nat) : Core :=
  let n := (mapGet 0 c.lreg (bits w 32 3)).toNat
  let body := bits w 35 16
  let pc := c.pc.toNat
  let c1 := { c with issue := c.issue + 1, passBreak := false }
  if n = 0 then { c1 with pc := BitVec.ofNat 48 (pc + 16 * (body + 1)) }
  else { c1 with pc := c.pc + 16, loops := { start := pc + 16, stop := pc + 16 * body, left := n } :: c.loops }

/-- ENDLOOP (R171): back to the body, or on after the last pass. -/
def issueEndloop (c : Core) : Core :=
  let c1 := { c with issue := c.issue + 1, passBreak := false }
  match c.loops with
  | [] => c
  | l :: r =>
    if 1 < l.left then { c1 with pc := BitVec.ofNat 48 l.start, loops := { l with left := l.left - 1 } :: r }
    else { c1 with pc := c.pc + 16, loops := r }

/-- SETL (R162): from the immediate, or from the word at its operand. -/
def issueSetl (d : Dev) (v w : Nat) : Dev :=
  let x := if bit w 35 then winWord (seen d) v (opndsOf d v w).x else bits w 36 32
  modCore d v (fun c => { c with lreg := mapPut c.lreg (bits w 32 3) (BitVec.ofNat 32 x) })

/-- HALT (R167): issue stops, any open loop ends with it. -/
def issueHalt (c : Core) (w : Nat) : Core :=
  { c with stop := .halt (BitVec.ofNat 16 (bits w 32 16)), loops := [] }

/-- A command issues. -/
def issueCmd (d : Dev) (v w : Nat) : Dev :=
  match cwOpc w with
  | 0x02 => modCore d v (fun c => issueLoop c w)
  | 0x03 => modCore d v issueEndloop
  | _ =>
    let d1 :=
      if cwArray w then issueArray d v w
      else if cwVector w then issueVector d v w
      else match cwOpc w with
        | 0x01 => modCore d v (fun c => issueHalt c w)
        | 0x06 => issueSetl d v w
        | 0x0A => issueRing d v w
        | 0x0B => issueWait d v w
        | 0x10 => issueGo d v w
        | 0x12 => putFlight d v w .strm id
        | _ => modCore d v (fun c => issueControl c w)
    modCore d1 v (fun c => advance c w)

/-! ### Engines take up what has issued -/

/-- An issued command marked executed, with what its execution changed in its written regions. -/
def markDone (before after : Dev) (v : Nat) (i : Issued) : Dev :=
  let u := regionDiff before after v i.regions
  modCore (noteOver after u) v (fun c => { c with cmds := c.cmds.map (fun j => if j.id == i.id then { j with executed := true, undo := u } else j) })

/-- The first command of a queue that has not executed. -/
def nextOf (c : Core) (u : CUnit) : Option Issued := c.cmds.find? (fun i => i.unit == u && !i.executed)

/-- The rows that lie in the link behind a member of a ring: of the steps that it has injected or taken and the next member,
which is to take them, has not. -/
def linkRows (d : Dev) (r pos : Nat) : Nat :=
  let next := (pos + 1) % (ringMembers d r).length
  ((d.ttl.ringFlow.filter (fun f => f.ring == r && (f.head == pos || f.taken.contains pos) && f.head != next &&
    !f.taken.contains next)).map (·.m)).sum
/-- Array a of core v has sent on every row of its ring steps: they fit the link behind it (R136). -/
def ringSent (d : Dev) (v a : Nat) : Bool :=
  match ringOf d v a with
  | some (r, pos) => let n := linkRows d r pos; n == 0 || decide (n ≤ Config.ringLinkRows)
  | none => true
/-- The command can execute now: a ring command of another member than the head waits for ring-in (R133), the head's waits until
the rows of the steps before it are sent (R135, R136), a drain waits until the latches of the drain before it are empty (R124). -/
def arrayReady (d : Dev) (v a : Nat) (i : Issued) : Bool :=
  let w := i.word.toNat
  !(cwMma w && aRing w && !(aHead w && ringSent d v a)) && !(cwOpc w == 0x25 && !(arrOf (coreOf d v) a).latch.isEmpty)

/-- An array works through its queue. -/
def pumpArray : Nat → Dev → Nat → Nat → Dev
  | 0, d, _, _ => d
  | n + 1, d, v, a =>
    match nextOf (coreOf d v) (.array a) with
    | none => d
    | some i => if arrayReady d v a i then pumpArray n (markDone d (raced d (fun e => execArrayCmd e v a i)) v i) v a else d

/-- The vector queue works through its commands; a fused consumer waits for its rows (R243). -/
def pumpVec : Nat → Dev → Nat → Dev
  | 0, d, _ => d
  | n + 1, d, v =>
    match nextOf (coreOf d v) .vec with
    | none => d
    | some i =>
      let w := i.word.toNat
      if vFsrc w then
        let a := vFarr w
        match (arrOf (coreOf d v) a).fused.find? (fun f => some f.1 == i.pair) with
        | none => d
        | some f =>
          let d1 := raced d (fun e => execVecCmd e v i f.2)
          let d2 := modCore d1 v (fun c => modArr c a (fun s => { s with fused := s.fused.filter (fun g => g.1 != f.1) }))
          pumpVec n (markDone d d2 v i) v
      else pumpVec n (markDone d (raced d (fun e => execVecCmd e v i [])) v i) v

/-- Every queue of a core works as far as it can. -/
def pump (d : Dev) (v : Nat) : Dev :=
  let n := (coreOf d v).cmds.length + 1
  pumpVec n ((List.range 4).foldl (fun e a => pumpArray n e v a) d) v

/-! ### The command rows -/

/-- Core v attempts the command at PRC_PC, when it is one that the row stands for (R151, R179). -/
def attempt (d : Dev) (v : Nat) (row : Nat → Bool) : Dev :=
  let c := coreOf d v
  if !issuing c then d
  else match fetchWord d v with
    | none => d
    | some w =>
      if !row w then d
      else match cmpHit c w with
        | some n => setCore d v { c with stop := .brk n }
        | none =>
          match malformed d v w with
          | some (cause, detail) => setCore d v (stopFault c cause detail w)
          | none => if (unmet d v w).isSome then d else pump (issueCmd d v w) v

/-- The row of an opcode; a vector opcode without POST. -/
def rowOpc (o : Nat) (w : Nat) : Bool := cwOpc w == o && !(cwVector w && vPost w)
/-- TASK.POST: a vector command with POST = 1. -/
def rowPost (w : Nat) : Bool := cwVector w && vPost w

/-! ### START, RESUME, CLR_STALL (R148, R190, R191, R193) -/

/-- The Proctor and array stall counters cleared. -/
def clearStalls (c : Core) : Core :=
  { c with sbStall := 0, qfStall := 0, slotStall := 0, swaitStall := 0, bwaitStall := 0, tdrainStall := 0, haltStall := 0,
           fetchStall := 0,
           arrays := c.arrays.map (fun p => (p.1, { p.2 with feedStall := 0, ringStall := 0, resStall := 0, gbpStall := 0 })),
           strm := { c.strm with stalls := [] },
           vec := { c.vec with posted := 0, loc := 0, away := 0, stolen := 0, busy0 := 0, busy1 := 0, fwait := 0 } }

/-- START takes effect: the core is out of reset and idle, halted or faulted, and a Timetable is active (R148, R541). -/
def startable (d : Dev) (v : Nat) : Bool :=
  let s := (coreOf d v).state
  (pacerOf d (coreRegion d v)).released && ttActive d && (s == .idle || s == .halted || s == .faulted)

/-- The memory cells of a core's own scratchpad. -/
def scratchCells (d : Dev) (v : Nat) : List Host.Cell :=
  d.mem.filter (fun c => decide (winBase v ≤ c.1) && decide (c.1 < winBase v + 0x600000))
/-- PRC_CTL.START. -/
def startCore (d : Dev) (v : Nat) : Dev :=
  if !startable d v then d
  else
    let ok := fetchStartOk d v (coreOf d v).start.toNat
    modCore d v (fun c =>
      let c1 := clearStalls c
      { c1 with state := .running, stop := if ok then .issuing else .fault 0x0E 0 0 0 0 0, passBreak := false,
                haltCode := 0, issue := 0, loops := [], cmds := [], ereg := [], pc := c.start, fetchBuf := [], hostStop := false
                vec := { c1.vec with detail := 0, fn := 0 }
                code := if ok && decide (winBase 0 ≤ c.start.toNat) then scratchCells d v else []
                strm := { c1.strm with errCnt := 0, errCode := 0, errKind := 0, errEntry := 0, errAddr := 0 } })

/-- PRC_CTL.RESUME: in break the held command may issue (R190). -/
def resumeCore (c : Core) : Core :=
  if c.state = .brk then { c with state := .running, stop := .issuing, passBreak := true } else c

/-- PRC_CTL.HALT_REQ written by the host, which the completion record reports (R447). -/
def hostHalt (d : Dev) (v : Nat) : Dev := modCore (haltReqAt d v) v (fun c => { c with hostStop := true })

/-! ### What follows from stopping issue -/

/-- STOPPED: after HALT_REQ, once every issued command has completed. -/
def finishStopped (c : Core) : Core :=
  if c.state = .running && c.stop = .haltReq && drained c then { c with state := .stopped, stop := .issuing } else c

/-- HALTED: every earlier command, list and task has completed (R167). -/
def finishHalted (c : Core) : Core :=
  match c.stop with
  | .halt code =>
    if c.state = .running && drained c && c.strm.lists.isEmpty then
      { c with state := .halted, stop := .issuing, haltCode := code }
    else c
  | _ => c

/-- The next command is one that faults: it lies beyond its range, or it is malformed and no comparator holds it. -/
def noteFault (d : Dev) (v : Nat) : Dev :=
  let c := coreOf d v
  if !issuing c then d
  else if fetchBeyond d v then setCore d v (stopFault c 0x0E 0 0)
  else match fetchWord d v with
    | none => d
    | some w =>
      if (cmpHit c w).isSome then d
      else match malformed d v w with
        | some (cause, detail) => setCore d v (stopFault c cause detail w)
        | none => d

/-- FAULTED: once the issued commands have completed (R186). -/
def finishFault (d : Dev) (v : Nat) : Dev :=
  let c := coreOf d v
  match c.stop with
  | .fault cause opc que tag detail fn =>
    if c.state = .running && drained c then
      let c1 := { c with state := .faulted, stop := .issuing, cause := cause, faultOpc := opc, faultQue := que, faultTag := tag,
                         vec := if cause = 0x0C then { c.vec with detail := detail, fn := fn } else c.vec }
      let word := opc.toNat + 0x100 * que.toNat + 0x10000 * tag.toNat
      signal (logEvent (setCore d v c1) 0x0401 (coreBlock d v) v (le 4 word ++ by1 cause.toNat)) 14
    else d
  | _ => d

/-- The next command is held by a comparator. -/
def noteBreak (d : Dev) (v : Nat) : Dev :=
  let c := coreOf d v
  if !issuing c then d
  else match fetchWord d v with
    | none => d
    | some w =>
      match cmpHit c w with
      | some n => setCore d v { c with stop := .brk n }
      | none => d

/-- BREAK: once every issued command has completed (R190). -/
def finishBreak (d : Dev) (v : Nat) : Dev :=
  let c := coreOf d v
  match c.stop with
  | .brk n =>
    if c.state = .running && drained c then
      let c1 := { c with state := .brk, stop := .issuing, brkCmp := BitVec.ofNat 3 n }
      signal (logEvent (setCore d v c1) 0x0404 (coreBlock d v) v (by1 n ++ le 6 c.issue.toNat)) 14
    else d
  | _ => d

/-! ### Completion (R162, R177) -/

/-- The command has no size: it retires after every earlier command of its queue (R185). -/
def zeroSize (i : Issued) : Bool :=
  let w := i.word.toNat
  if cwVector w then !vLive w
  else if cwOpc w = 0x24 then false
  else if cwOpc w = 0x25 then i.shape.isNone
  else if cwOpc w = 0x26 then aM w == 0
  else !arrLive w

/-- Two array commands of one class complete in order: the products, and the Gradebook commands. -/
def sameClass (a b : Nat) : Bool :=
  (cwMma a && cwMma b) || ((cwOpc a == 0x25 || cwOpc a == 0x26) && (cwOpc b == 0x25 || cwOpc b == 0x26)) || cwOpc a == cwOpc b

/-- The command has reached its completion point as far as the model sees it. -/
def canComplete (c : Core) (i : Issued) : Bool :=
  let w := i.word.toNat
  let earlier := c.cmds.filter (fun j => j.unit == i.unit && decide (j.id < i.id))
  match i.unit with
  | .array a =>
    i.executed && (if zeroSize i then earlier.isEmpty else
      !earlier.any (fun j => sameClass j.word.toNat w)
        && !((arrOf c a).fused.any (fun f => f.1 == i.id)) && !((arrOf c a).unpaired.any (fun u => u.id == i.id))
        && !(c.cmds.any (fun j => j.pair == some i.id && !j.executed)))
  | .vec => i.executed && earlier.isEmpty
  | .pool _ => i.executed && !i.lost && i.taker.isSome
  | .strm => cwOpc w == 0x12 && !(c.strm.lists.any (fun l => decide (l.id < i.id)))
  | _ => false

/-- A command leaves its queue, and its regions leave the scoreboard. -/
def dropCmd (c : Core) (id : Nat) : Core := { c with cmds := c.cmds.filter (fun i => i.id != id) }

/-- The ring step that a command carries has left the member (R136): a later one that has executed could only start after it. -/
def stepSent (d : Dev) (v : Nat) (i : Issued) : Bool :=
  match i.unit with
  | .array a =>
    !isRingCmd i a || (coreOf d v).cmds.any (fun j => isRingCmd j a && j.executed && decide (i.id < j.id)) || ringSent d v a
  | _ => true

/-- The command completes when it can, and what waited behind it in its core goes on. -/
def completeAt (d : Dev) (v id : Nat) : Dev :=
  let c := coreOf d v
  match c.cmds.find? (fun i => i.id == id) with
  | none => d
  | some i =>
    if !canComplete c i || !stepSent d v i then d
    else
      let free := fun (x : Core) => { x with vec := { x.vec with hand := x.vec.hand.filter (fun h => h.2 != (v, id)) } }
      let d1 := modCore d v (fun x =>
        let x1 := free (dropCmd x id)
        match i.unit with
        | .array a => if cwOpc i.word.toNat = 0x25 then modArr x1 a (fun s => { s with latch := [] }) else x1
        | _ => x1)
      let d2 := match i.taker with
        | some (u, _) => modCore d1 u free
        | none => d1
      pump d2 v

/-- COMMAND_COMPLETE. The queues of the core first work as far as they can: a ring break takes away the command that others
waited behind (R137). -/
def completeCmd (d : Dev) (v id : Nat) : Dev := completeAt (pump d v) v id

/-! ### Tasks (R244, R245, R269, R270) -/

/-- The cores that core v may steal from, in order (R269). -/
def stealFrom (d : Dev) (v : Nat) : List Nat := mapGet [] ((d.ttl.active.map (·.steal)).getD []) v
/-- The oldest untaken task of a core's pool. -/
def oldestTask (c : Core) : Option Issued := c.cmds.find? (fun i => isTask i && i.taker.isNone && !i.lost)
/-- A command of the vector queue of which an engine has rows: group g of eight rows goes to engine g mod 2 (R241). -/
def queueWork (c : Core) (e : Nat) : Option Issued :=
  c.cmds.find? (fun i => i.unit == .vec && i.executed && decide (8 * e < vRows i.word.toNat))

/-- An engine of core v takes a task of core u: it executes on the posting core's window (R244, R270). -/
def takeTask (d : Dev) (v e u : Nat) (i : Issued) : Dev :=
  let d1 := modCore d u (fun c =>
    { c with cmds := c.cmds.map (fun j => if j.id == i.id then { j with taker := some (v, e) } else j) })
  let d2 := markDone d1 (raced d1 (fun e => execVecCmd e u i [])) u i
  let d3 := modCore d2 v (fun c => { c with vec := { c.vec with hand := mapPut c.vec.hand e (u, i.id) } })
  if u = v then modCore d3 v (fun c => { c with vec := { c.vec with loc := satAdd c.vec.loc 1 } })
  else
    modCore (modCore d3 u (fun c => { c with vec := { c.vec with away := satAdd c.vec.away 1 } })) v
      (fun c => { c with vec := { c.vec with stolen := satAdd c.vec.stolen 1 } })

/-- A core whose engines may take work: in the grid and not detained (R401). -/
def enginesLive (d : Dev) (v : Nat) : Bool := decide (v < gridCores d) && !isDetained d v
/-- The core's engines may steal: a Timetable is active and the core is not in block reset (R270). -/
def maySteal (d : Dev) (v : Nat) : Bool := ttActive d && !(d.rp.blockReset.any (fun b => b.block.toNat == coreBlock d v))
/-- Engine e waits for the rows of a fused consumer that comes next in the vector queue (R245). -/
def waitsFused (c : Core) (e : Nat) : Bool :=
  (nextOf c .vec).any (fun i => vFsrc i.word.toNat && decide (8 * e < vRows i.word.toNat))

/-- TASK_TAKE: an idle engine takes queued rows, its own core's oldest task, or a task of a STEAL neighbour, in that order. -/
def taskTakeAt (d : Dev) (v e : Nat) : Dev :=
  let c := coreOf d v
  if (mapGet? c.vec.hand e).isSome || !enginesLive d v || 1 < e then d
  else match queueWork c e with
    | some i => modCore d v (fun c => { c with vec := { c.vec with hand := mapPut c.vec.hand e (v, i.id) } })
    | none =>
      if waitsFused c e then d
      else match oldestTask c with
      | some i => takeTask d v e v i
      | none =>
        if !maySteal d v then d
        else match (stealFrom d v).find? (fun u => (oldestTask (coreOf d u)).isSome) with
          | some u =>
            match oldestTask (coreOf d u) with
            | some i => takeTask d v e u i
            | none => d
          | none => d

/-! ### Ring headers (R131, R132) -/

/-- The flow that next reaches a member: the oldest that it has not taken and that the member before it has. -/
def flowAt (d : Dev) (r m : Nat) : Option RingFlow :=
  let n := (ringMembers d r).length
  d.ttl.ringFlow.find? (fun f => f.ring == r && f.head != m && !f.taken.contains m &&
    (let p := (m + n - 1) % n; p == f.head || f.taken.contains p))

/-- The cause for which a member whose own command has a step, mode, M, pairing and HEAD breaks the ring on a header (R132, R570).
DESIGN CHOICE: of several, the first in this order. -/
def headerCause (f : RingFlow) (step : BitVec 16) (mode : MmaMode) (m : Nat) (pairing : Option Nat) (head : Bool) : Option Nat :=
  if step != f.step then some 1
  else if mode != f.mode then some 2
  else if m != f.m then some 3
  else if pairing != some f.pairing then some 4
  else if head then some 5
  else none
/-- The step of a header that the member itself has injected as its head, still on its way. -/
def ownFlow (d : Dev) (f : RingFlow) (m : Nat) : Option RingFlow :=
  d.ttl.ringFlow.find? (fun g => g.ring == f.ring && g.head == m && g.step == f.step)

/-- RING_HEADER: a member receives the head's header, compares it with its own ring command, and takes the step's rows. -/
def ringHeaderAt (d : Dev) (r m : Nat) : Dev :=
  match (ringMembers d r)[m]?, flowAt d r m with
  | some (v, a), some f =>
    if d.ttl.brokenRings.contains r then d
    else match (ownFlow d f m).bind (fun g => headerCause f g.step g.mode g.m (some g.pairing) true) with
    | some cause => breakRing d r v a cause
    | none =>
      match (coreOf d v).cmds.find? (fun i => isRingCmd i a && !i.executed) with
      | none => d
      | some i =>
        let w := i.word.toNat
        match headerCause f i.step (cwMode w) (aM w) (pairingOf (streamFmt w)) (aHead w) with
        | some cause => breakRing d r v a cause
        | none =>
          if nextOf (coreOf d v) (.array a) != some i || !ringSent d v a then d
          else
            let flows := (d.ttl.ringFlow.map (fun g =>
              if g.ring == f.ring && g.step == f.step then { g with taken := m :: g.taken } else g)).filter
                (fun g => decide (g.taken.length + 1 < (ringMembers d g.ring).length))
            let d1 := { d with ttl := { d.ttl with ringFlow := flows } }
            pump (markDone d (raced d1 (fun e => execMmaOn e v a i.id i.word.toNat i.ops f.fmt f.rows)) v i) v
  | _, _ => d

end Sys2Proof.Machine
end

