-- ==== Sys2Proof/Machine/Bell.lean ====
section
/-!
DEFINITION. The Bell rows (R232 to R236): sending a held arrival, arrivals and releases on the fabric, the completion of a
generation with what it brings about, and the Detention rows (R400, R402, R405).
-/
namespace Sys2Proof.Machine

/-- A generation of a Bell is released at this device: a freeze of the Copybook comes before the release, and what waits on a
system Bell follows it (R234, R376, R393, R419). -/
def releaseBell (d : Dev) (b : Nat) (op : BitVec 3) (v : Dword) : Dev :=
  let d1 := bellRelease (freezeOn d b (bellOf d b).done) b op v
  if b = 1016 then paceRelease d1
  else if 1017 ≤ b && b ≤ 1019 then agreeRelease d1 b v
  else if b = 1020 || b = 1021 then copyRelease d1 b v
  else if b = 1022 then startArrives d1
  else d1

/-- A generation may complete here: the Bell exists, this device is the root of its tree, and every source has arrived. Bell
1,016 has generations only while an epoch has been announced (R418). -/
def bellCompletes (d : Dev) (b : Nat) : Bool :=
  let epoch := match d.pace.phase with
    | .announced _ | .switched _ => true
    | _ => false
  bellLive d b && (bellTree d b).1.isNone && bellFull d b && (b != 1016 || epoch)
    && (b < 1017 || d.fab.rc == .complete)

/-- BELL_GENERATION_COMPLETE: the result is the reduction of the arrivals, zero on a mismatch (R234, R235). -/
def generationAt (d : Dev) (b : Nat) : Dev :=
  if !bellCompletes d b then d
  else
    let (op, v) := bellReduce (bellOf d b).arrivals
    releaseBell d b op v

/-- The first held arrival of a core at a Bell. -/
def heldOf (d : Dev) (b v : Nat) : Option HeldArrival := (bellOf d b).held.find? (fun h => h.core == v)
/-- The list without its first element for which a predicate holds. -/
def dropFirst {α : Type} (p : α → Bool) : List α → List α
  | [] => []
  | x :: r => if p x then r else x :: dropFirst p r
/-- The value of a held arrival as it is sent: with DRN = 1 the command reads it now (R177). -/
def heldValue (d : Dev) (h : HeldArrival) : Dword :=
  match h.cmd with
  | none => h.value
  | some id =>
    match (coreOf d h.core).cmds.find? (fun i => i.id == id) with
    | some i => if bit i.word.toNat 65 then BitVec.ofNat 64 (leNat (winRead (seen d) h.core i.ops.x 8)) else h.value
    | none => h.value
/-- The held arrival can be sent. -/
def heldReady (d : Dev) (b : Nat) (h : HeldArrival) : Bool :=
  arrivalReady d b h.core && (match h.cmd with
    | some id => ringDrained (coreOf d h.core) id
    | none => true)

/-- BELL_ARRIVAL_SENT: the oldest held arrival of a member is sent, and its BELL.RING or BELL transfer goes on (R232, R236). -/
def arrivalSentAt (d : Dev) (v b : Nat) : Dev :=
  match heldOf d b v with
  | none => d
  | some h =>
    if !heldReady d b h then d
    else
      let val := heldValue d h
      let d1 := modBell d b (fun x =>
        { x with held := dropFirst (fun y => y.core == v) x.held, sent := mapPut x.sent v (mapGet 0 x.sent v + 1) })
      let d2 := match h.cmd with
        | some id => modCore d1 v (fun c => dropCmd c id)
        | none =>
          match h.slot with
          | some s => modStrm d1 (.core v) (fun x =>
              { x with xfers := x.xfers.map (fun t => if t.slot == s then { t with bellHeld := false } else t) })
          | none => d1
      pump (bellArrive d2 b v h.op val) v

/-- The fields of a Bell flit (R341): Bell, generation, OP and value. -/
def bellFields (f : BitVec 256) : Nat × Nat × BitVec 3 × Dword :=
  let w := f.toNat
  (bits w 14 10, bits w 24 16, BitVec.ofNat 3 (bits w 40 3), BitVec.ofNat 64 (bits w 48 64))
/-- A Bell flit in its place in the sequence: once accepted, an arrival from a child port joins the current generation, and a release
from the parent port ends it (R234). -/
def bellIn (d : Dev) (p : Nat) (f : BitVec 256) : Dev :=
  let (d1, ok) := linkAccept d p f
  let (b, g, op, v) := bellFields f
  if ok && bellLive d1 b && b != 1016 && g == (bellOf d1 b).done % 65536 then
    if flitType f = 2 then (if (bellTree d1 b).2.contains p then bellArrive d1 b (srcPort p) op v else d1)
    else if (bellTree d1 b).1 == some p then releaseBell d1 b op v else d1
  else d1
/-- BELL_ARRIVAL: a good flit of another type does not belong to the row. -/
def bellArrivalAt (d : Dev) (p : Nat) (f : BitVec 256) : Dev := if flitOk f && flitType f != 2 then d else bellIn d p f
/-- BELL_RELEASE: a good flit of another type does not belong to the row. -/
def bellReleaseAt (d : Dev) (p : Nat) (f : BitVec 256) : Dev := if flitOk f && flitType f != 3 then d else bellIn d p f

/-! ### Detention (R400, R402, R405) -/

/-- A write of DET_CTL: VCORE takes the written value, and DCORE detains that core (R541). -/
def dcoreAt (d : Dev) (value : Nat) : Dev :=
  let d1 := { d with det := { d.det with vcore := BitVec.ofNat 8 (bits value 0 8) } }
  let d2 := if bit value 8 then detainCore d1 (bits value 0 8) 4 else d1
  if bit value 9 then detainDevice d2 4 else d2

/-- STATE is one in which R402 leaves a core alone. -/
def coreStopped (s : PState) : Bool :=
  match s with
  | .idle | .halted | .faulted | .stopped | .detained => true
  | .running | .brk => false
/-- WORK_STOP_TIMEOUT: 10 ms after a core's Detention the Registrar block-resets every core still running (R402). -/
def workStopAt (d : Dev) : Dev :=
  if !d.det.stopping then d
  else
    let vs := indices (gridCores d) (fun v => !coreStopped (coreOf d v).state)
    registrarResets { d with det := { d.det with stopping := false } } vs

end Sys2Proof.Machine
end

