-- ==== Sys2Proof/Machine/Fabric.lean ====
section
/-!
DEFINITION. The fabric's ports and control messages (R332, R333, R342 to R345, R355 to R374, R489, R490): training, replay,
Roll Call, Attendance, and reset requests.
-/
namespace Sys2Proof.Machine

/-! ### Ports (R332, R333, R345, R370) -/

/-- FAB_CTL.ROOT as it acts (R539). -/
def rootBit (d : Dev) : Bool := d.fab.root && !pfault d 0xB0004
/-- A request's transfer loses its outstanding messages to a device, with status 0x5 (R352, R371). -/
def failWaits (gone : Outstanding → Bool) (x : Xfer) : Xfer :=
  if x.waiting.any gone then
    { x with waiting := x.waiting.filter (fun o => !gone o), status := if x.status = 0 then 5 else x.status }
  else x
/-- Every transfer of the device put through `f`. -/
def mapXfers (d : Dev) (f : Xfer → Xfer) : Dev :=
  { d with cores := d.cores.map (fun p => (p.1, { p.2 with strm := { p.2.strm with xfers := p.2.strm.xfers.map f } })) }

/-- The width of a set of trained lanes (R332, and the note on A0). -/
def trainedWidth (a0 : Bool) (lanes : Nat) : Nat :=
  if lanes % 16 = 15 then 4
  else if !a0 && (bits lanes 0 2 == 3 || bits lanes 2 2 == 3) then 2
  else if lanes % 16 = 0 then 0 else 1

/-- The port's link comes up in a state: numbers, credits and buffers start afresh, and HELLO goes out (R355). The link no longer
counts as down at either end (R370). -/
def linkUp (d : Dev) (p : Nat) (s : PortState) (width : Nat) (rev : Bool) : Dev :=
  let d1 := modPort d p (fun q =>
    { en := q.en, chan := q.chan, txinv := q.txinv, state := s, lanes := BitVec.ofNat 3 width, rev := rev,
      replayCnt := q.replayCnt, fecc := q.fecc, fecu := q.fecu, miss := q.miss, child := q.child, doneRx := q.doneRx })
  let r := d1.fab.record
  let mine := fun (l : Nat × Nat) => l == (ownId d1, p) || l == (recNid r (ownId d1) p, recNport r (ownId d1) p)
  let d2 := { d1 with fab := { d1.fab with downLinks := d1.fab.downLinks.filter (fun l => !mine l) } }
  sendCtl d2 p 1 (d2.glb.serial.toNat + p * 2 ^ 64)

/-- LINK_DOWN reaches the root: the link is down at both of its ends; a device none of whose links is up is the answer (R370). -/
def noteDown (d : Dev) (dev port : Nat) : Dev :=
  let r := d.fab.record
  let far := recNid r dev port
  let ends := [(dev, port)] ++ (if far < recCount r then [(far, recNport r dev port)] else [])
  { d with fab := { d.fab with downLinks := d.fab.downLinks ++ ends.filter (fun e => !d.fab.downLinks.contains e) } }
/-- Every link that the record shows up for a device of the record is down. -/
def allDown (d : Dev) (dev : Nat) : Bool :=
  decide (dev < recCount d.fab.record) && (List.range 12).all (fun q => recState d.fab.record dev q != 1 || d.fab.downLinks.contains (dev, q))

/-- What every device does on ABSENT (R371, R372): requests to the device fail, and the system Bells, an agreement round and a
checkpoint round start again or end. -/
def absentApply (d : Dev) (dev : Nat) (tree : Byte) : Dev :=
  if d.fab.absentSet.contains dev then d
  else
    let d1 := { d with fab := { d.fab with absentSet := dev :: d.fab.absentSet, tree := tree } }
    let d2 := mapXfers d1 (failWaits (fun o => o.dev.toNat == dev))
    let d3 := roundNext (agreeDrop (copyStopRound (resetSystemBells d2) .restarted))
    if (copyCfg d3).isSome then cadence { d3 with copy := { d3.copy with lost := d3.copy.lost + 1 } } else d3
/-- The root declares a device absent, with the next tree epoch (R370); nothing is declared of the root itself (R374). -/
def declareAbsent (d : Dev) (dev : Nat) : Dev :=
  if dev = 0 || d.fab.absentSet.contains dev || !allDown d dev then d
  else
    let tree := d.fab.tree + 1
    let d1 := { d with fab := { d.fab with seenAbsent := (dev, d.fab.epoch.toNat) :: d.fab.seenAbsent } }
    absentApply (sendFlood d1 12 9 (dev + d1.fab.epoch.toNat * 2 ^ 16 + tree.toNat * 2 ^ 24)) dev tree
/-- The root takes a report of a link that went down. A root that is itself absent, in Detention or with all its links down,
declares no device absent (R374). -/
def rootLinkDown (d : Dev) (dev port nbr : Nat) : Dev :=
  if d.fab.rc != .complete then d
  else
    let d1 := noteDown d dev port
    if d1.det.device || allDown d1 0 then d1 else declareAbsent (declareAbsent d1 dev) nbr

/-- A chain delivery whose sending port goes down goes on from another port (R469). -/
def chainPortDown (d : Dev) (p : Nat) : Dev :=
  if d.prefect.bundle.any (fun b => b.port == p && !b.verified) then { d with prefect := { d.prefect with chainLost := true } } else d
/-- A request of this device that no port takes any more is dropped by its own router: it ends with status 0x5 (R353, R370), as a drain
write of the Copybook does (R396). -/
def dropOwn (d : Dev) (b : Bulk) : Dev :=
  let d1 := { d with fab := { d.fab with drop := satAdd d.fab.drop 1 } }
  if b.core = 0xFF then (if d1.copy.state = .frozen then
      drainFails { d1 with copy := { d1.copy with waits := d1.copy.waits.filter (fun w => w.1 != b.slot) } } 5 b.addr else d1)
  else
    let tag := BitVec.ofNat 48 (bits b.aux 12 48)
    let lost := fun (o : Outstanding) => o.dev.toNat == b.dst && (if b.op = 2 then o.read && o.rtag == tag else !o.read)
    modStrm d1 (.core b.core) (fun z => { z with xfers := z.xfers.map (fun x =>
      match (if x.slot = b.slot then x.waiting.find? lost else none) with
      | some o => { x with waiting := x.waiting.erase o, status := if x.status = 0 then 5 else x.status }
      | none => x) })
/-- A message of a port that went down takes another route, from the port and lane on which it came, or is dropped (R353, R370). -/
def resend (d : Dev) (t : TxFlit) : Dev :=
  let b := { bulkOf t.hdr with lane := t.lane }
  let (d1, ok) := routeOut d b t.data t.arr
  if ok then d1 else if !b.rsp && b.src == ownId d then dropOwn d b else dropBulk d b

/-- A port goes down (R370): LINK_DOWN goes up-tree, an event is logged and vector 15 signalled (R452; DEDUCED: a link that goes down is a
link event), and its bulk messages take another route. A port that trained
and has no link to lose goes down without either. -/
def portDown (d : Dev) (p : Nat) (held : Bool) : Dev :=
  let q := fabPort d p
  if q.state = .down || (q.state = .training && !q.retraining) then
    modPort d p (fun x => { x with state := .down, heldDown := x.heldDown || held, rcWait := false })
  else
    let msgs := (q.replay ++ q.txq).filter (fun t => isBulk t.hdr)
    let d1 := modPort d p (fun x =>
      { x with state := .down, lanes := 0, rev := false, retraining := false, heldDown := held, rcWait := false, replay := [],
               sending := none, rxMsg := none, rxFlit := none, rxHeld := [],
               txq := [], missRun := 0, replays := 0, unacked := 0, discarding := false })
    let d2 := chainPortDown (signal (logEvent d1 0x0801 srcRegistrar p (by1 p ++ le 2 q.nid.toNat)) 15) p
    let d3 := if isRoot d2 then rootLinkDown d2 (ownId d2) p q.nid.toNat
      else sendUp d2 8 (ownId d2 + p * 2 ^ 16 + q.nid.toNat * 2 ^ 20)
    msgs.foldl resend d3

/-- A retraining port gives up or comes back (R345). -/
def retrainDoneAt (d : Dev) (p : Nat) (ok : Bool) : Dev :=
  let q := fabPort d p
  if !q.retraining then d
  else if !ok then portDown d p false
  else
    let s := if syllActive d then PortState.up else .boot
    let d1 := modPort d p (fun x =>
      { x with state := s, retraining := false, rcWait := false, replays := 0, lanes := if x.lanes = 0 then (if s = .boot then 1 else 4) else x.lanes
               replayCnt := if x.replay.isEmpty then x.replayCnt else satAdd x.replayCnt 1 })
    txGo (replayAll d1 p) p

/-- Numbers that an acknowledgement covers, from the oldest held one. -/
def ackedCount (q : FabPort) (ack : BitVec 10) : Nat :=
  match q.replay.head? with
  | none => 0
  | some t =>
    let first := t.seq + BitVec.ofNat 10 t.acked
    let n := (ack + 1 - first).toNat
    if n ≤ (q.txSeq - first).toNat then n else 0
/-- The held messages after an acknowledgement of n numbers: those covered whole are gone, one covered in part keeps the rest. -/
def dropAcked : Nat → List TxFlit → List TxFlit
  | _, [] => []
  | n, t :: r => if txCount t - t.acked ≤ n then dropAcked (n - (txCount t - t.acked)) r else { t with acked := t.acked + n } :: r

/-- LINK_FLIT: acknowledgement, NAK and credits (R342, R344, R345). -/
def linkFlitAt (d : Dev) (p : Nat) (f : BitVec 256) : Dev :=
  let q := fabPort d p
  if !portOpen q || flitType f != 0 then d
  else if !flitOk f then framingError d p
  else
    let w := f.toNat
    let n := ackedCount q (BitVec.ofNat 10 (bits w 4 10))
    let left := dropAcked n q.replay
    let moved := decide (0 < n)
    let give := (List.range 6).map (fun i => bits w (16 + 8 * i) 8)
    let replays := if moved then 0 else q.replays
    let d1 := modPort d p (fun x =>
      { x with replay := left, replays := replays, credits := List.zipWith (· + ·) x.credits give })
    if bit w 14 && !left.isEmpty then
      if replays = 8 then
        modPort d1 p (fun x => { x with state := .training, retraining := true, rxFlit := none, rxHeld := [], rxNext := none })
      else
        let d2 := modPort d1 p (fun x => { x with replays := replays + 1, replayCnt := satAdd x.replayCnt 1 })
        txGo (replayAll d2 p) p
    else txGo d1 p

/-- ACK_DUE: 200 ns have passed with a flit unacknowledged (R344). -/
def ackDueAt (d : Dev) (p : Nat) : Dev :=
  let q := fabPort d p
  if portOpen q && q.unacked != 0 then sendAck d p false else d

/-- RESERVED_FLIT_TYPE: a framing error (R335, R344). -/
def reservedFlitAt (d : Dev) (p : Nat) (f : BitVec 256) : Dev :=
  if portOpen (fabPort d p) && !d.det.device && 6 ≤ flitType f then framingError d p else d

/-- FABRIC_REFCLK_STOP: the ports of the X-die go down (R563). -/
def refclkStopAt (d : Dev) (south : Bool) : Dev :=
  (List.range 6).foldl (fun e i => portDown e (if south then 6 + i else i) false) d

/-! ### Roll Call (R356 to R362) -/

/-- The device discards its active Timetable, as a reset does (R42, R361). -/
def dropTimetable (d : Dev) : Dev :=
  let d1 := copyStopRound d .restarted
  let lost := { d1 with
    mem := d1.mem.filter (fun c => !protectedAddr d1 c.1)
    badWords := d1.badWords.filter (fun w => !protectedAddr d1 (8 * w)) }
  let d2 := emptyCache (emptyCache lost 0) 1
  let d3 := { d2 with
    ttl := {}, copy := {}
    bells := d2.bells.filter (fun p => 1016 ≤ p.1)
    cores := d2.cores.map (fun c => (c.1, { c.2 with ringSteps := [] }))
    cxl := d2.cxl.map (fun c => (c.1, { c.2 with large := false, logBank := false })) }
  agreeDrop d3

/-- The state of a port in RC_REPORT: 0 down, 1 up, 2 disabled. -/
def reportState (q : FabPort) : Nat := if !q.en then 2 else if q.state = .up && q.helloSeen then 1 else 0
/-- This device's report of a port, as the root holds it. -/
def ownReport (d : Dev) (p : Nat) : RcPort :=
  let q := fabPort d p
  { state := BitVec.ofNat 2 (reportState q), nserial := if reportState q = 1 then q.nserial else 0,
    nport := if reportState q = 1 then q.nport else 0 }
/-- The body of RC_REPORT for a port. -/
def reportBody (d : Dev) (p : Nat) : Nat :=
  let r := ownReport d p
  ownId d + d.fab.epoch.toNat * 2 ^ 16 + p * 2 ^ 24 + r.state.toNat * 2 ^ 28 + r.nserial.toNat * 2 ^ 30 + r.nport.toNat * 2 ^ 94

/-- Roll Call fails with a cause; an ID of its epoch is used no longer (R360). -/
def rcFail (d : Dev) (cause : Nat) : Dev :=
  setRc { d with fab := { d.fab with id := if d.fab.awaitDone then 0xFFFF else d.fab.id, rcErr := BitVec.ofNat 4 cause, devs := [] } }
    .failed

/-- The body of RC_ASSIGN for a device of the numbering. -/
def assignBody (d : Dev) (x : RcDev) : Nat :=
  let route := (x.route.mapIdx (fun i r => r.toNat * 2 ^ (4 * i))).sum
  x.route.length + 1 * 2 ^ 6 + route * 2 ^ 12 + x.id * 2 ^ 180 + d.fab.epoch.toNat * 2 ^ 196
/-- The root sends RC_ASSIGN to a device. -/
def sendAssign (d : Dev) (x : RcDev) : Dev :=
  match x.route with
  | [] => d
  | p :: r =>
    let d1 := if r.isEmpty then modPort d p.toNat (fun q => { q with child := true }) else d
    sendCtl d1 p.toNat 3 (assignBody d1 x)

/-- The neighbours of a device that have no ID yet, in port order (R358 step 2). -/
def newDevices (devs : List RcDev) (x : RcDev) : List RcDev :=
  (List.range 12).foldl (fun l p =>
    match mapGet? x.ports p with
    | some r =>
      if r.state = 1 && !((devs ++ l).any (fun y => y.serial == r.nserial)) then
        l ++ [{ serial := r.nserial, id := devs.length + l.length, level := x.level + 1, parent := x.id,
                route := x.route ++ [BitVec.ofNat 4 p] }]
      else l
    | none => l) []
/-- The devices of the next level. -/
def nextLevel (devs : List RcDev) (level : Nat) : List RcDev :=
  ((devs.filter (fun x => x.level == level)).foldl (fun all x => all ++ newDevices all x) devs).drop devs.length

/-- The device of the numbering with a serial. -/
def devBySerial (devs : List RcDev) (s : Dword) : Option RcDev := devs.find? (fun x => x.serial == s)
/-- The neighbour and its port over an up link. -/
def linkTo (devs : List RcDev) (x : RcDev) (p : Nat) : Option (RcDev × Nat) :=
  match mapGet? x.ports p with
  | some r => if r.state = 1 then (devBySerial devs r.nserial).map (fun y => (y, r.nport.toNat)) else none
  | none => none
/-- The neighbour in the plus direction of a dimension; none also when its two copies differ. -/
def plusOf (devs : List RcDev) (x : RcDev) (k : Nat) : Option RcDev :=
  match linkTo devs x (4 * k), linkTo devs x (4 * k + 1) with
  | some (a, _), some (b, _) => if a.serial = b.serial then some a else none
  | some (a, _), none => some a
  | none, some (b, _) => some b
  | none, none => none
/-- The size of a dimension, by stepping from the root until it is met again. -/
def dimSize (devs : List RcDev) (root : RcDev) (k : Nat) : Nat → RcDev → Nat → Option Nat
  | 0, _, _ => none
  | f + 1, x, n =>
    match plusOf devs x k with
    | none => none
    | some y => if y.serial = root.serial then (if 1 ≤ n then some (n + 1) else none) else dimSize devs root k f y (n + 1)
/-- n steps in the plus direction. -/
def plusSteps (devs : List RcDev) (k : Nat) : Nat → RcDev → Option RcDev
  | 0, x => some x
  | n + 1, x => (plusSteps devs k n x).bind (fun y => plusOf devs y k)
/-- The device at coordinates, from the root. -/
def deviceAt (devs : List RcDev) (root : RcDev) (x y z : Nat) : Option RcDev :=
  ((plusSteps devs 0 x root).bind (plusSteps devs 1 y)).bind (plusSteps devs 2 z)
/-- The sizes of the torus that the fabric forms, none when it does not satisfy the convention (R362). -/
def torusSizes (devs : List RcDev) : Option (Nat × Nat × Nat) :=
  match devs.head? with
  | none => none
  | some root =>
    let cables := devs.all (fun x => (List.range 12).all (fun p =>
      match linkTo devs x p with
      | some (_, q) => q == p ^^^ 2
      | none => true))
    let size := fun k =>
      if devs.all (fun x => (List.range 4).all (fun i => (linkTo devs x (4 * k + i)).isNone)) then some 1
      else dimSize devs root k (devs.length + 1) root 0
    match size 0, size 1, size 2 with
    | some sx, some sy, some sz =>
      let all := (List.range sz).flatMap (fun z => (List.range sy).flatMap (fun y => (List.range sx).map (fun x => (x, y, z))))
      let at_ := fun (c : Nat × Nat × Nat) => (deviceAt devs root c.1 c.2.1 c.2.2).map (·.serial)
      let found := all.map at_
      let step := fun (c e : Nat × Nat × Nat) (k n : Nat) =>
        n == 1 || ((deviceAt devs root c.1 c.2.1 c.2.2).bind (fun x => plusOf devs x k)).map (·.serial) == at_ e
      let ok := cables && all.length == devs.length && found.all Option.isSome && found.eraseDups.length == found.length
        && all.all (fun c =>
            step c ((c.1 + 1) % sx, c.2.1, c.2.2) 0 sx && step c (c.1, (c.2.1 + 1) % sy, c.2.2) 1 sy
              && step c (c.1, c.2.1, (c.2.2 + 1) % sz) 2 sz)
      if ok then some (sx, sy, sz) else none
    | _, _, _ => none

/-- The topology record of a numbering (R359). -/
def recordOf (devs : List RcDev) (sizes : Option (Nat × Nat × Nat)) : List Byte :=
  let dims := match sizes with
    | some (x, y, z) => leBytes 2 x ++ leBytes 2 y ++ leBytes 2 z
    | none => zeros 6
  let byId := (List.range devs.length).filterMap (fun i => devs.find? (fun x => x.id == i))
  leBytes 2 devs.length ++ by1 (b2n sizes.isSome) ++ zeros 1 ++ dims ++ zeros 6 ++ byId.flatMap (fun x =>
    leBytes 8 x.serial.toNat ++ (List.range 12).flatMap (fun p =>
      let st := ((mapGet? x.ports p).map (fun r => r.state.toNat)).getD 0
      match linkTo devs x p with
      | some (y, q) => leBytes 2 y.id ++ by1 q ++ by1 st
      | none => [0xFF, 0xFF, 0] ++ by1 st))

/-- Roll Call is complete at this device: routes and the system-Bell tree are new (R359, R372). -/
def rcComplete (d : Dev) (record : List Byte) (count : Nat) (torus : Bool) (topo : Nat) : Dev :=
  let d1 := { d with fab := { d.fab with
    record := record, count := BitVec.ofNat 15 count, torus := torus, topo := BitVec.ofNat 64 topo, pieces := [], devs := [],
    absentSet := [], seenAbsent := [], downLinks := [], rcErr := 0, awaitDone := false } }
  let d2 := (List.range 12).foldl (fun e p =>
    modPort e p (fun q => { q with nid := BitVec.ofNat 16 (recNid record (ownId d1) p) })) d1
  agreeDrop (setRc (copyStopRound (resetSystemBells d2) .restarted) .complete)

/-- The root's numbering is complete: the record goes down-tree in pieces, then RC_DONE (R359). -/
def rcFinish (d : Dev) (sizes : Option (Nat × Nat × Nat)) : Dev :=
  let r := recordOf d.fab.devs sizes
  let topo := leAt (sha256 r) 0 8
  let n := d.fab.devs.length
  let e := d.fab.epoch.toNat
  let d1 := (List.range (cdiv r.length 20)).foldl (fun x i =>
    sendDown x 6 (e + 20 * i * 2 ^ 8 + leAt r (20 * i) 20 * 2 ^ 32)) d
  let d2 := sendDown d1 7 (e + n * 2 ^ 8 + b2n sizes.isSome * 2 ^ 23 + topo * 2 ^ 24)
  rcComplete d2 r n sizes.isSome topo

/-- The device's reports have all arrived. -/
def reported (x : RcDev) : Bool := x.ports.length == 12

/-- The root goes on numbering while every report of the current level has arrived (R358): the next level, or, when there is no
further device, the torus numbering of R362 and the end. -/
def numberOn (d : Dev) : Dev :=
  let f := d.fab
  if f.rc != .running || f.devs.isEmpty || !f.devs.all reported then d
  else
    let next := nextLevel f.devs f.level
    if 16384 < f.devs.length + next.length then rcFail d 4
    else if next.any (fun x => 42 < x.route.length) then rcFail d 3
    else if !next.isEmpty && !f.torus then
      next.foldl sendAssign { d with fab := { f with devs := f.devs ++ next, level := f.level + 1 } }
    else match torusSizes f.devs with
      | none => rcFinish d none
      | some (x, y, z) =>
        let root := f.devs.head?
        let ids := (List.range z).flatMap (fun k => (List.range y).flatMap (fun j => (List.range x).map (fun i =>
          (((root.bind (fun r => deviceAt f.devs r i j k)).map (·.serial)).getD 0, i + x * (j + y * k)))))
        let idOf := fun (v : RcDev) => ((ids.find? (fun p => p.1 == v.serial)).map (·.2)).getD v.id
        let same := f.devs.all (fun v => idOf v == v.id)
        if f.torus || same then rcFinish d (some (x, y, z))
        else
          let devs := f.devs.map (fun v => { v with
            id := idOf v, parent := ((f.devs.find? (fun u => u.id == v.parent)).map idOf).getD v.parent,
            ports := if v.route.isEmpty then v.ports else [], attempts := 1 })
          devs.foldl sendAssign { d with fab := { f with devs := devs, torus := true } }

/-- Numbering begins once the ports that Attendance took down have retrained (R358 step 1, R361, R369). -/
def rcBegin (d : Dev) : Dev :=
  if d.fab.rc != .running || !d.fab.devs.isEmpty || (List.range 12).any (fun p => (fabPort d p).rcWait) then d
  else
    let d1 := dropTimetable { d with fab := { d.fab with id := 0, parent := 12, awaitDone := true } }
    let d2 := (List.range 12).foldl (fun e p => modPort e p (fun q => { q with child := false })) d1
    let me : RcDev :=
      { serial := d2.glb.serial, id := 0, level := 0, parent := 0xFFFF, route := [],
        ports := (List.range 12).map (fun p => (p, ownReport d2 p)) }
    numberOn { d2 with fab := { d2.fab with devs := [me], level := 0, tree := 0, torus := false } }

/-- FAB_CTL.RCGO: on the root, Roll Call of the next epoch begins, and AG returns to none (R377); an active job makes it fail (R356,
R360). -/
def rcgoAt (d : Dev) : Dev :=
  if !rootBit d || !syllActive d then d
  else
    let d1 := agreeDrop { d with fab := { d.fab with epoch := d.fab.epoch + 1, devs := [], rcErr := 0 } }
    if jobActive d1 then rcFail d1 2
    else
      let d2 := (List.range 12).foldl (fun e p => modPort e p (fun q =>
        if q.heldDown && q.en then { q with heldDown := false, rcWait := true, state := .training } else q)) d1
      rcBegin (setRc d2 .running)

/-- RC_ASSIGN's or RC_REFUSE's hop entry i. -/
def hopEntry (f : BitVec 256) (i : Nat) : Nat := ctlField f (12 + 4 * i) 4
/-- The body with a hop entry and the hop index replaced. -/
def hopBody (f : BitVec 256) (i arr idx : Nat) : Nat := setBits (setBits (ctlField f 0 204) (12 + 4 * i) 4 arr) 6 6 idx

/-- RC_ASSIGN at its device: it is refused, or the device takes the ID and reports its ports (R358 step 3, R360, R361); a new epoch
returns AG to none (R377). DESIGN CHOICE: RC_ASSIGN names no root; of a device that waits for RC_DONE, the next epoch on its parent port
is its own root's, whose earlier epoch has failed, and any other new epoch a second root's. DESIGN CHOICE: ports held down by Attendance train
again once the device takes an ID of a new epoch (R369). -/
def takeAssign (d : Dev) (p : Nat) (f : BitVec 256) : Dev :=
  let hops := ctlField f 0 6
  let id := BitVec.ofNat 16 (ctlField f 180 16)
  let epoch := BitVec.ofNat 8 (ctlField f 196 8)
  let fresh := d.fab.id == 0xFFFF || d.fab.epoch != epoch
  let next := p == d.fab.parent && epoch == d.fab.epoch + 1
  let second := rootBit d || (d.fab.rc == .numbered && d.fab.epoch != epoch && !next)
  let refuse := fun reason =>
    sendCtl (if d.fab.epoch != epoch then agreeDrop d else d) p 5 (setBits (setBits (ctlField f 0 180) 6 6 (hops - 1)) 180 24 (reason + epoch.toNat * 2 ^ 4))
  if second then refuse 1
  else if fresh && jobActive d then refuse 2
  else
    let base := if fresh then
        let d1 := dropTimetable d
        let d2 := (List.range 12).foldl (fun e q => modPort e q (fun x => { x with
          child := false, heldDown := false, state := if x.heldDown && x.en then .training else x.state })) d1
        { d2 with fab := { d2.fab with epoch := epoch, tree := 0, pieces := [], absentSet := [] } }
      else d
    let d3 := setRc { base with fab := { base.fab with id := id, parent := p, awaitDone := true } } .numbered
    (List.range 12).foldl (fun e q => sendUp e 4 (reportBody e q)) d3
/-- RC_ASSIGN: forwarded along its route, or taken (R340, R357). -/
def assignAt (d : Dev) (p : Nat) (f : BitVec 256) : Dev :=
  let hops := ctlField f 0 6
  let idx := ctlField f 6 6
  if hops ≤ idx then takeAssign d p f
  else
    let out := hopEntry f idx
    let d1 := if idx + 1 = hops then modPort d out (fun q => { q with child := true }) else d
    sendCtl d1 out 3 (hopBody f idx p (idx + 1))

/-- RC_REPORT: forwarded up-tree, or taken by the root (R358 step 4). -/
def reportAt (d : Dev) (f : BitVec 256) : Dev :=
  if !rootBit d then sendUp d 4 (ctlField f 0 204)
  else
    let id := ctlField f 0 16
    if d.fab.rc != .running || ctlField f 16 8 != d.fab.epoch.toNat then d
    else
      let port := ctlField f 24 4
      let r : RcPort :=
        { state := BitVec.ofNat 2 (ctlField f 28 2), nserial := BitVec.ofNat 64 (ctlField f 30 64),
          nport := BitVec.ofNat 4 (ctlField f 94 4) }
      let devs := d.fab.devs.map (fun x => if x.id == id && port < 12 then { x with ports := mapPut x.ports port r } else x)
      numberOn { d with fab := { d.fab with devs := devs } }

/-- RC_REPORT_TIMEOUT: another attempt, and after three the failure (R360). -/
def reportTimeoutAt (d : Dev) (dev : Nat) : Dev :=
  match d.fab.devs.find? (fun x => x.id == dev) with
  | none => d
  | some x =>
    if d.fab.rc != .running || reported x then d
    else if 3 ≤ x.attempts then rcFail d 5
    else
      let y := { x with attempts := x.attempts + 1 }
      sendAssign { d with fab := { d.fab with devs := d.fab.devs.map (fun v => if v.id == dev then y else v) } } y

/-- RC_REFUSE: Roll Call of its epoch fails here; it goes on along the reverse route to the root (R340, R360). -/
def refuseAt (d : Dev) (p : Nat) (f : BitVec 256) : Dev :=
  let idx := ctlField f 6 6
  let reason := ctlField f 180 4
  let mine := ctlField f 184 8 == d.fab.epoch.toNat && (d.fab.rc == .running || d.fab.rc == .numbered)
  let d1 := if mine then rcFail d reason else d
  if idx = 0 then d1 else sendCtl d1 (hopEntry f idx) 5 (hopBody f idx p (idx - 1))

/-- RC_TOPO: a piece of the record, passed on down-tree (R357, R359). -/
def topoAt (d : Dev) (f : BitVec 256) : Dev :=
  if ctlField f 0 8 != d.fab.epoch.toNat || d.fab.rc != .numbered then d
  else
    let d1 := sendDown d 6 (ctlField f 0 204)
    { d1 with fab := { d1.fab with pieces := mapPut d1.fab.pieces (ctlField f 8 24) (BitVec.ofNat 160 (ctlField f 32 160)) } }
/-- The record from its pieces, for a number of devices. -/
def joinPieces (m : NMap (BitVec 160)) (count : Nat) : List Byte :=
  let n := 16 + 56 * count
  ((List.range (cdiv n 20)).flatMap (fun i => leBytes 20 (mapGet 0 m (20 * i)).toNat)).take n
/-- RC_DONE: Roll Call is complete at this device (R359). -/
def doneAt (d : Dev) (f : BitVec 256) : Dev :=
  if ctlField f 0 8 != d.fab.epoch.toNat || d.fab.rc != .numbered then d
  else
    let d1 := sendDown d 7 (ctlField f 0 204)
    let n := ctlField f 8 15
    rcComplete d1 (joinPieces d1.fab.pieces n) n (ctlField f 23 1 == 1) (ctlField f 24 64)

/-! ### Attendance (R369 to R371) -/

/-- HELLO (R355). -/
def helloAt (d : Dev) (p : Nat) (f : BitVec 256) : Dev :=
  modPort d p (fun q =>
    { q with helloSeen := true, nserial := BitVec.ofNat 64 (ctlField f 0 64), nport := BitVec.ofNat 4 (ctlField f 64 4) })
/-- HEARTBEAT: the window is not missed. -/
def heartbeatAt (d : Dev) (p : Nat) (f : BitVec 256) : Dev :=
  modPort d p (fun q => { q with hbSeen := true, missRun := 0, nid := BitVec.ofNat 16 (ctlField f 0 16) })
/-- HEARTBEAT_SEND: every up port sends a HEARTBEAT, unless the device is detained (R369, R373). -/
def heartbeatSendAt (d : Dev) : Dev :=
  if d.det.device then d
  else (List.range 12).foldl (fun e p =>
    if portUp (fabPort e p) then sendCtl e p 2 (ownId e + e.fab.epoch.toNat * 2 ^ 16 + b2n (rootBit e) * 2 ^ 24) else e) d
/-- HEARTBEAT_MISS: a 1 ms window of an up port ends; without a HEARTBEAT it is a miss, and the third in a row takes the port
down (R369). -/
def heartbeatMissAt (d : Dev) (p : Nat) : Dev :=
  let q := fabPort d p
  if !portUp q then d
  else if q.hbSeen then modPort d p (fun x => { x with hbSeen := false })
  else
    let d1 := modPort d p (fun x => { x with miss := satAdd x.miss 1, missRun := x.missRun + 1 })
    if 3 ≤ q.missRun + 1 then portDown d1 p true else d1
/-- LINK_DOWN: forwarded up-tree, or taken by the root. -/
def linkDownAt (d : Dev) (f : BitVec 256) : Dev :=
  if isRoot d then rootLinkDown d (ctlField f 0 16) (ctlField f 16 4) (ctlField f 20 16) else sendUp d 8 (ctlField f 0 204)
/-- ABSENT: the first copy is passed on, and takes effect if it is of this device's epoch (R357, R371). DESIGN CHOICE: the spec says of no
epoch but the current one what ABSENT does at a device. -/
def absentAt (d : Dev) (p : Nat) (f : BitVec 256) : Dev :=
  let dev := ctlField f 0 16
  let epoch := ctlField f 16 8
  if d.fab.seenAbsent.contains (dev, epoch) then d
  else
    let d1 := { d with fab := { d.fab with seenAbsent := (dev, epoch) :: d.fab.seenAbsent } }
    let d2 := sendFlood d1 p 9 (ctlField f 0 204)
    if epoch = d2.fab.epoch.toNat then absentApply d2 dev (BitVec.ofNat 8 (ctlField f 24 8)) else d2

/-! ### Reset requests (R489, R490, R523, R570) -/

/-- Why a RESET_REQ is refused, as R570 numbers the reasons; 0 when it is accepted. -/
def resetReqWhy (d : Dev) (f : BitVec 256) : Nat :=
  let src := ctlField f 16 16
  let kind := ctlField f 96 4
  if d.fab.ag != .agreed then 5
  else if ctlField f 32 64 != d.fab.fp.toNat then 6
  else if d.fab.count.toNat ≤ src || d.fab.absentSet.contains src then 7
  else if kind != 1 && kind != 2 then 8 else 0
/-- RESET_REQ: passed on by ID, or logged and, when accepted, carried out with cause 0x6. -/
def resetReqAt (d : Dev) (p : Nat) (f : BitVec 256) : Dev :=
  let dst := ctlField f 0 16
  let src := ctlField f 16 16
  if dst != ownId d then
    match nextHop d src dst 0 p with
    | some (q, _) => sendCtl d q 0x0A (ctlField f 0 204)
    | none => d
  else
    let why := resetReqWhy d f
    let kind := ctlField f 96 4
    let d1 := logEvent d 0x0805 srcRegistrar argNone (le 2 src ++ by1 kind ++ by1 (ctlField f 100 8) ++ by1 (b2n (why == 0)))
    if why = 0 then kindReset d1 (kind == 2) 6 src
    else logEvent d1 0x0105 0x103 argNone (by1 2 ++ by1 why ++ le 2 src)

/-! ### Training (R332, R333, R471) -/

/-- PORT_TRAINING: an enabled port trains in boot mode or at full rate; with no lane trained it stays down (R332, R333). No lane trains
unless the other end is set to the same channel mode (R330). A port that Attendance took down trains only for a Roll Call (R369): on the
root RCGO has released it; on another device `call` says that the other end trains for one (DESIGN CHOICE). -/
def portTrainingAt (d : Dev) (p : Nat) (full : Bool) (lanes0 : Nat) (rev : Bool) (far : BitVec 2) (call : Bool) : Dev :=
  let q := fabPort d p
  let free := !q.heldDown || (call && !rootBit d)
  let lanes := if far = q.chan then lanes0 else 0
  if 12 ≤ p || !q.en || pfault d (0xB1000 + 0x100 * p) || q.retraining || q.state == .up || !free || d.rp.step < 6 then d
  else if full then
    if !syllActive d then d
    else
      let w := trainedWidth (isA0 d) lanes
      let d1 := if w = 0 then portDown d p false else linkUp d p .up w rev
      rcBegin d1
  else if syllActive d || q.state == .boot then d
  else if bit lanes 0 then linkUp d p .boot 1 rev else d
/-- FULL_RATE_FALLBACK: a full-rate attempt against a neighbour in boot mode ends in boot mode (R471); Roll Call waits for the port
no longer. -/
def fallbackAt (d : Dev) (p : Nat) (far : BitVec 2) : Dev :=
  let q := fabPort d p
  if 12 ≤ p || !q.en || q.retraining || q.state != .training || !syllActive d || far != q.chan then d
  else rcBegin (linkUp d p .boot 1 q.rev)
/-- The bundle store is freed once activation has ended and no enabled port trains or is in boot mode (R471). -/
def freeStore (d : Dev) : Dev :=
  if d.prefect.bundle.any (·.verified) && d.prefect.boot != .activating && (List.range 12).all (fun p =>
    !(fabPort d p).en || (fabPort d p).state == .up || (fabPort d p).state == .down)
  then { d with prefect := { d.prefect with bundle := none } } else d
/-- A port is taken down: Roll Call waits for it no longer, and the bundle store may be free (R358, R471). -/
def portGone (d : Dev) (p : Nat) (held : Bool) : Dev := freeStore (rcBegin (portDown d p held))

/-- A control flit of a type is accepted and then takes effect. -/
def onCtl (d : Dev) (p : Nat) (f : BitVec 256) (ctype : Nat) (act : Dev → Dev) : Dev :=
  if flitOk f && !(flitType f == 1 && ctlType f == ctype) then d
  else
    let (d1, ok) := linkAccept d p f
    if ok then act d1 else d1

end Sys2Proof.Machine
end

