-- ==== Sys2Proof/Machine/Host.lean ====
section
/-!
DEFINITION. The host interface (R431, R436 to R452): contexts, the job aperture, jobs and their completion records, Function
Level Reset, the start of an HDMA list, and MSI-X.
-/
namespace Sys2Proof.Machine

/-- SRC of the host interface (R530). -/
def srcHost : Nat := 0x104
/-- A host access is refused: it is counted and logged with a cause of R570. -/
def hostRefuse (d : Dev) (addr cause : Nat) : Dev :=
  logEvent { d with host := { d.host with refused := satAdd d.host.refused 1 } } 0x0A01 srcHost argNone (le 8 addr ++ by1 cause)

/-! ### Contexts and the job aperture (R436, R439 to R442) -/

/-- Descriptors queued: TAIL − HEAD. -/
def pendCount (c : Ctx) : Nat := (c.tail - c.head).toNat
/-- CREDIT. -/
def creditOf (c : Ctx) : Nat := (16 + 0x10000 - pendCount c) % 0x10000
/-- A register word of context k is in parity fault (R539). -/
def ctxFault (d : Dev) (k : Nat) : Bool := d.glb.faulted.any (fun o => 0x60100 + 0x100 * k ≤ o && o < 0x60200 + 0x100 * k)

/-- DOORBELL: TAIL is accepted within the credit; otherwise the write is ignored, counted and logged (R433, R441). -/
def doorbellAt (d : Dev) (k value : Nat) : Dev :=
  let off := 0x10000 * k + 0x1000
  if 4 ≤ k then d
  else if d.host.d3hot then emit d (.unsupported off)
  else if !syllActive d then hostRefuse d off 0x01
  else
    let c := ctxOf d k
    let tail := BitVec.ofNat 16 value
    if !c.en then hostRefuse d off 0x0A
    else if 16 < (tail - c.head).toNat then hostRefuse d off 0x09
    else modCtx d k (fun x => { x with tail := tail })

/-- Bytes written to descriptor slots; a byte of a slot that a doorbell already covers may keep its old value (R439, R442). -/
def slotWrite (d : Dev) (k off : Nat) (bs : List Byte) : Dev :=
  let c := ctxOf d k
  let covered := fun a => decide (((a / 64 + 16 - c.head.toNat % 16) % 16) < pendCount c)
  let put := fun (m : NMap Byte) (p : Nat × Byte) =>
    if covered p.1 && Config.freeBit d.freeCtr p.1 then m else mapPut m p.1 p.2
  draw (modCtx d k (fun x => { x with slots := (bs.mapIdx (fun i b => (off + i, b))).foldl put x.slots }))

/-- HIF_CTXk_CORES: a legal write takes effect, any other is logged (R436). -/
def coresWriteAt (d : Dev) (k n value : Nat) : Dev :=
  if 4 ≤ k || 8 ≤ n then d
  else
    let c := ctxOf d k
    let mask := setBits c.cores.toNat (32 * n) 32 value
    let apart := (List.range 4).all (fun j => j == k || (ctxOf d j).cores.toNat &&& mask == 0)
    if c.job.isNone && pendCount c = 0 && apart && mask < 2 ^ gridCores d then
      modCtx d k (fun x => { x with cores := BitVec.ofNat 256 mask })
    else logEvent d 0x0A02 srcHost k (by1 k)

/-! ### Descriptors (R440, R443, R444) -/

/-- A field of the descriptor in a slot. -/
def descField (c : Ctx) (seq : BitVec 16) (off n : Nat) : Nat :=
  leNat ((List.range n).map (fun i => mapGet 0 c.slots (seq.toNat % 16 * 64 + off + i)))
/-- VEC names a vector or none. -/
def vecValid (v : Nat) : Bool := v < 16 || v == 0xFF
/-- The vector that a job's end signals (R445). -/
def jobVector (k vec : Nat) : Nat := if vec < 16 then vec else 3 + k
/-- The cores of a mask. -/
def coreList (m : BitVec 256) : List Nat := maskList 256 m.toNat
/-- STATE lets a core take a job. -/
def coreFree (s : PState) : Bool := s == .idle || s == .halted || s == .faulted

/-- The RESULT with which a descriptor is refused, in the order of R447; none when the job is accepted (R443). -/
def descRefusal (d : Dev) (c : Ctx) (seq : BitVec 16) : Option Nat :=
  let f := descField c seq
  let cores := f 0x20 32
  let inGrid := (coreList (BitVec.ofNat 256 cores)).filter (· < gridCores d)
  let zeros_ := f 6 2 == 0 && f 0x14 12 == 0 && f 5 1 / 2 == 0 && f 8 8 / 2 ^ 48 == 0
  if !ttActive d || d.ttl.loading.isSome then some 4
  else if d.fab.ag != .agreed then some 5
  else if inGrid.any (fun v => !(bit c.cores.toNat v) || !coreFree (coreOf d v).state) then some 6
  else if cores = 0 || 2 ^ gridCores d ≤ cores || !zeros_ || !vecValid (f 4 1) then some 7
  else none

/-! ### Completion records (R445 to R447) -/

/-- Why a completion record cannot be written, as R570 numbers the causes; 0 when it can. -/
def recordBlocked (d : Dev) (addr : Nat) : Nat :=
  if 2 ^ 46 < addr + 32 then 1 else if d.host.d3hot then 4 else if !d.host.busMaster then 5 else 0
/-- Why a record's host write failed, by the host's answer to the zero-length read behind it; 0 when it did not. -/
def replyCause : HostReply → Nat
  | .ok | .poisoned => 0
  | .refused => 2
  | .timeout => 3
/-- A completion record is written, or lost, and its vector signalled (R446). -/
def completion (d : Dev) (k : Nat) (seq : BitVec 16) (jobid vec result core halt : Nat) (reply : HostReply) : Dev :=
  let c := ctxOf d k
  let addr := c.cpl.toNat + seq.toNat % 16 * 32
  let rec_ := leBytes 4 jobid ++ by1 result ++ by1 core ++ leBytes 2 halt ++ leBytes 4 seq.toNat ++ leBytes 4 (creditOf c)
    ++ leBytes 8 d.glb.timeUs.toNat ++ zeros 8
  let blocked := recordBlocked d addr
  let why := if blocked = 0 then replyCause reply else blocked
  let d1 := if why = 0 then wrBytes d (0x400000000000 + addr) rec_
    else logEvent d 0x0A03 srcHost k (by1 k ++ le 4 seq.toNat ++ by1 why)
  signal d1 (jobVector k vec)

/-- DESCRIPTOR_TAKE: descriptor HEAD is taken; the job is accepted and its cores start, or it is refused with a record. -/
def descriptorTakeAt (d : Dev) (k : Nat) (reply : HostReply) : Dev :=
  let c := ctxOf d k
  if 4 ≤ k || !c.en || ctxFault d k || c.job.isSome || pendCount c = 0 then d
  else
    let seq := c.head
    let f := descField c seq
    let d1 := modCtx d k (fun x => { x with head := x.head + 1 })
    match descRefusal d c seq with
    | some r => completion d1 k seq (f 0 4) (f 4 1) r 0xFF 0 reply
    | none =>
      let cores := BitVec.ofNat 256 (f 0x20 32)
      let job : Job := { jobid := BitVec.ofNat 32 (f 0 4), vec := BitVec.ofNat 8 (f 4 1), seq := seq, cores := cores }
      let preset := bit (f 5 1) 0
      (coreList cores).foldl (fun e v =>
        let e1 := if preset then e
          else modCore e v (fun x => { x with start := BitVec.ofNat 48 (f 8 8 + v * f 0x10 4) })
        startCore e1 v) (modCtx d1 k (fun x => { x with job := some job }))

/-- A core of an active job has ended; one that STOP, FLR or R402 had block-reset has ended too. -/
def jobCoreOver (j : Job) (c : Core) : Bool :=
  match c.state with
  | .halted | .faulted | .stopped | .detained => true
  | .idle => j.stopReq || j.detained
  | .running | .brk => false
/-- The core ended with the ending that a RESULT gives. -/
def endedWith (result : Nat) (s : PState) : Bool :=
  match result with
  | 3 => s == .detained
  | 2 => s == .stopped || s == .idle
  | 1 => s == .faulted
  | _ => s == .halted
/-- RESULT of a job (R447). -/
def jobResult (d : Dev) (j : Job) : Nat :=
  let st := fun v => (coreOf d v).state
  let vs := coreList j.cores
  if j.detained then 3
  else if j.stopReq || vs.any (fun v => st v == .stopped && (coreOf d v).hostStop) then 2
  else if vs.any (fun v => st v == .faulted) then 1
  else if vs.all (fun v => st v == .halted) then 0 else 2
/-- JOB_END: every core of the job has ended; the record is written and the vector signalled. -/
def jobEndAt (d : Dev) (k : Nat) (reply : HostReply) : Dev :=
  match (ctxOf d k).job with
  | none => d
  | some j =>
    let vs := coreList j.cores
    if !vs.all (fun v => jobCoreOver j (coreOf d v)) then d
    else
      let r := jobResult d j
      let core := (vs.find? (fun v => endedWith r (coreOf d v).state)).getD (vs.headD 0xFF)
      let d1 := modCtx d k (fun x => { x with job := none })
      completion d1 k j.seq j.jobid.toNat j.vec.toNat r core (coreOf d core).haltCode.toNat reply

/-! ### STOP, EN and Function Level Reset (R441, R448, R449) -/

/-- A queued descriptor is discarded with RESULT 0x02, and its credit returns. -/
def discardOne (d : Dev) (k : Nat) (reply : HostReply) : Dev :=
  let c := ctxOf d k
  let d1 := modCtx d k (fun x => { x with head := x.head + 1 })
  completion d1 k c.head (descField c c.head 0 4) (descField c c.head 4 1) 2 0xFF 0 reply
/-- STOP: queued descriptors are discarded and HALT_REQ is written to the active job's cores. -/
def stopAt (d : Dev) (k : Nat) (reply : HostReply) : Dev :=
  if 4 ≤ k then d
  else
    let d1 := Nat.repeat (fun e => discardOne e k reply) (pendCount (ctxOf d k)) d
    match (ctxOf d1 k).job with
    | none => d1
    | some j =>
      let d2 := modCtx d1 k (fun x => { x with job := some { j with stopReq := true } })
      (coreList j.cores).foldl hostHalt d2
/-- STATE is one in which STOP leaves a core as it is (R448). -/
def stopSpares (s : PState) : Bool := s == .halted || s == .faulted || s == .stopped || s == .detained
/-- STOP_TIMEOUT: 10 ms after STOP, the device block-resets each core of the job that is not halted, faulted, stopped or detained. -/
def stopTimeoutAt (d : Dev) (k : Nat) : Dev :=
  match (ctxOf d k).job with
  | none => d
  | some j =>
    if !j.stopReq then d else registrarResets d ((coreList j.cores).filter (fun v => !stopSpares (coreOf d v).state))
/-- A write of HIF_CTXk_CTL: EN, FENCE and REMOTE take their values, setting EN clears HEAD and TAIL, and STOP acts. -/
def ctxCtlWrite (d : Dev) (k value : Nat) (reply : HostReply) : Dev :=
  if 4 ≤ k then d
  else
    let on := bit value 0
    let d1 := modCtx d k (fun x =>
      let set := on && !x.en
      { x with en := on, fence := bit value 1, remote := bit value 2, head := if set then 0 else x.head,
               tail := if set then 0 else x.tail })
    if bit value 3 then stopAt d1 k reply else d1

/-! ### HDMA lists (R451) -/

/-- Every entry of a channel's list has completed: BUSY clears and vector 7 + c is signalled. -/
def hdmaCheck (d : Dev) (c : Nat) : Dev :=
  let h := hdmaOf d c
  match h.strm.lists with
  | [] => d
  | l :: _ =>
    if h.busy && l.count ≤ l.next && h.strm.xfers.isEmpty then
      signal (modHdma d c (fun x => { x with busy := false, strm := { x.strm with lists := [] } })) (7 + c)
    else d
/-- A register word of channel c is in parity fault. -/
def hdmaFault (d : Dev) (c : Nat) : Bool := d.glb.faulted.any (fun o => 0x60800 + 0x40 * c ≤ o && o < 0x60840 + 0x40 * c)
/-- A write of HDMA_CTL: COUNT, CTX and PRI take their values, and GO starts the list unless the channel is busy. -/
def hdmaCtlWrite (d : Dev) (c value : Nat) : Dev :=
  if 4 ≤ c then d
  else
    let d1 := modHdma d c (fun h =>
      { h with count := BitVec.ofNat 16 (bits value 0 16), ctx := BitVec.ofNat 4 (bits value 16 4), pri := BitVec.ofNat 2 (bits value 20 2) })
    let h := hdmaOf d1 c
    if !bit value 22 || h.busy || hdmaFault d1 c then d1
    else
      let l : BList := { id := 0, base := h.list.toNat, count := h.count.toNat, pri := h.pri }
      hdmaCheck (modHdma d1 c (fun x => { x with busy := true, strm := { x.strm with lists := [l] } })) c
/-- An HDMA list is aborted: entries that have not started complete with status 0x1 (R449). -/
def hdmaAbort (d : Dev) (c : Nat) : Dev :=
  let h := hdmaOf d c
  match h.strm.lists with
  | [] => d
  | l :: _ =>
    let left := l.count - l.next
    let d1 := modHdma d c (fun x =>
      { x with errCnt := satAdd x.errCnt left, last := if left = 0 then x.last else 1, strm := { x.strm with lists := [{ l with next := l.count }] } })
    hdmaCheck d1 c

/-- FLR: STOP on every context, every HDMA list aborted, then HIF_CTXk_CTL and HEAD cleared (R449). -/
def flrAt (d : Dev) (reply : HostReply) : Dev :=
  let d1 := (List.range 4).foldl (fun e k => stopAt e k reply) d
  let d2 := (List.range 4).foldl hdmaAbort d1
  (List.range 4).foldl (fun e k => fixParity (modCtx e k (fun x =>
    { x with en := false, fence := false, remote := false, head := 0, tail := 0 })) (0x60100 + 0x100 * k)) d2

/-! ### D3hot and MSI-X (R431, R452) -/

/-- D3HOT: the function enters or leaves D3hot; jobs keep running. -/
def d3hotAt (d : Dev) (enter : Bool) : Dev := { d with host := { d.host with d3hot := enter } }
/-- MSIX_UNMASK: a pending vector's message is sent. -/
def msixUnmaskAt (d : Dev) (vec : Nat) : Dev :=
  if 16 ≤ vec then d
  else
    let m := BitVec.ofNat 16 (2 ^ vec)
    let d1 := { d with host := { d.host with msixMask := d.host.msixMask &&& ~~~m } }
    if d1.host.msixEn && !d1.host.msixAll && bit d1.host.msixPend.toNat vec then
      emit { d1 with host := { d1.host with msixPend := d1.host.msixPend &&& ~~~m } } (.msix vec)
    else d1

/-- The enables of configuration space: MSI-X, bus mastering, and the function mask of MSI-X, whose clearing sends the pending messages of
unmasked vectors (R450, R452). -/
def enablesWrite (d : Dev) (v : Nat) : Dev :=
  let d1 := { d with host := { d.host with msixEn := bit v 0, busMaster := bit v 1, msixAll := bit v 2 } }
  if bit v 2 then d1
  else (List.range 16).foldl (fun e i => if bit e.host.msixMask.toNat i then e else msixUnmaskAt e i) d1

end Sys2Proof.Machine
end

