-- ==== Sys2Proof/Machine/RegMail.lean ====
section
/-!
DEFINITION. The Registrar's mailbox commands (R550, R551), the hold-up sag (R504) and the settings write (R486, R487).
-/
namespace Sys2Proof.Machine

/-! ### INFO, LOG_READ, TOPO_READ, WATCHDOG and the reserved commands -/

/-- VERSION of a component of the active manifest. -/
def compVersion (d : Dev) (type : Nat) : Nat :=
  match d.prefect.active with
  | some m => ((m.comps.find? (fun c => c.type == type)).map (fun c => c.version.toNat)).getD 0
  | none => 0
/-- INFO: firmware version and watchdog period, both zero before the policy firmware runs. -/
def infoAt (d : Dev) : Dev :=
  if !regAsked d 1 then d
  else
    let gate := regGate d 0 true false true
    if gate != 0 then regRespond d gate []
    else regRespond d 0 (if d.reg.fw then leBytes 4 (compVersion d 2) ++ leBytes 4 d.reg.wdPeriod.toNat else zeros 8)

/-- The 32 bytes of an entry (R530). -/
def logBytes (e : LogEntry) : List Byte :=
  leBytes 8 e.time.toNat ++ leBytes 4 e.seq.toNat ++ leBytes 2 e.code.toNat ++ leBytes 1 e.sev.toNat ++ zeros 1
    ++ leBytes 2 e.src.toNat ++ leBytes 2 e.arg.toNat ++ slice e.data 0 12
/-- SEQ of the oldest entry held, or of the next entry when none is held. -/
def oldestSeq (d : Dev) : Word := d.reg.logSeq - BitVec.ofNat 32 d.reg.log.length
/-- The entries that a LOG_READ returns, oldest first; SEQ numbers are compared modulo 2^32. -/
def logFrom (d : Dev) (first : Word) (count : Nat) : List LogEntry :=
  let ahead := (first - oldestSeq d).toNat
  (d.reg.log.reverse.drop (if ahead < 2 ^ 31 then ahead else 0)).take count
/-- LOG_READ. -/
def logReadAt (d : Dev) : Dev :=
  if !regAsked d 3 then d
  else
    let count := mbField d.reg.mb 4 2
    let gate := regGate d 6 (1 ≤ count && count ≤ 127) false true
    if gate != 0 then regRespond d gate []
    else
      let es := logFrom d (BitVec.ofNat 32 (mbField d.reg.mb 0 4)) count
      regRespond d 0 (leBytes 4 (oldestSeq d).toNat ++ leBytes 4 es.length ++ es.flatMap logBytes)

/-- TOPO_READ: bytes of the topology record. -/
def topoReadAt (d : Dev) : Dev :=
  if !regAsked d 4 then d
  else
    let n := mbField d.reg.mb 4 2
    let gate := regGate d 6 (1 ≤ n && n ≤ 4064) true (d.fab.rc == .complete)
    if gate != 0 then regRespond d gate []
    else regRespond d 0 ((d.fab.record.drop (mbField d.reg.mb 0 4)).take n)

/-- WATCHDOG: the period (R507). -/
def watchdogSetAt (d : Dev) : Dev :=
  if !regAsked d 10 then d
  else
    let ms := mbField d.reg.mb 0 4
    let gate := regGate d 4 (10 ≤ ms && ms ≤ 60000) true true
    if gate != 0 then regRespond d gate []
    else regRespond { d with reg := { d.reg with wdPeriod := BitVec.ofNat 32 ms } } 0 []

/-- A command that R550 reserves. -/
def regReservedAt (d : Dev) : Dev :=
  let c := mbCmd d.reg.mb
  if regAsked d c && (c = 0 || 0xB ≤ c) then regRespond d 1 [] else d

/-! ### The pace target and the power states -/

/-- PACE_REQ: the policy firmware decides, which the manual leaves to it: it refuses, or it writes the target with a code of
its choice, of which R410 keeps a reserved one out. -/
def paceReqAt (d : Dev) : Dev :=
  if !regAsked d 5 then d
  else
    let gate := regGate d 1 (paceCodeOk (mbField d.reg.mb 0 1)) true true
    if gate != 0 then regRespond d gate []
    else
      let d1 := draw d
      if Config.freeBit d.freeCtr 0 then regRespond d1 4 []
      else
        let d2 := writeTgt d1 (Config.freeNat d.freeCtr 0 % 256)
        regRespond d2 0 (by1 d2.pace.tgt.toNat)

/-- PWR_STATUS.STATE as a code (R524). -/
def pwrCode : PwrState → Nat
  | .on => 0
  | .park => 1
  | .sleep => 2
  | .standby => 3
/-- POWER_STATE: park and sleep are entered after a running epoch ends; any request in sleep wakes the device (R524, R525). -/
def powerStateAt (d : Dev) : Dev :=
  if !regAsked d 6 then d
  else
    let want := mbField d.reg.mb 0 1
    let gate := regGate d 1 (want ≤ 2) true (powerAllowed d)
    if gate != 0 then regRespond d gate []
    else
      let reached := fun (e : Dev) => regRespond e 0 (by1 (pwrCode e.rp.pwr))
      match d.rp.pwr, want with
      | .on, 0 => reached d
      | .on, 1 => if d.pace.busy then d else reached (enterPower d .park)
      | .on, _ => if d.pace.busy then d else reached (enterPower d .sleep)
      | .park, 0 => reached (enterPower d .on)
      | .park, 1 => reached d
      | .park, _ => reached (enterPower d .sleep)
      | .sleep, 0 => reached (wakeUp d)
      | .sleep, 1 => reached (wakeUp d)
      | .sleep, _ => reached d
      | .standby, _ => reached d

/-! ### The hold-up sag (R504) -/

/-- The power that a sag draws: below 100 W the 150 W bleeder's. -/
def sagPower (mw : Nat) : Nat := if mw < 100000 then 150000 else mw
/-- HOLDUP: the command, or the Registrar's own request while a settings write waits for a measurement; the switch opens. -/
def holdupAt (d : Dev) (mw v1 : Nat) : Dev :=
  let begin := fun (e : Dev) =>
    { e with reg := { e.reg with sag := some { mw := sagPower mw, v1 := v1 } }
             rp := { e.rp with vinMv := BitVec.ofNat 16 v1 } }
  if d.reg.write.isSome && d.reg.sag.isNone && !d.rp.huValid && d.rp.vinGood then begin d
  else if !regAsked d 9 || d.reg.sag.isSome then d
  else
    let gate := regGate d 0 true false d.rp.vinGood
    if gate != 0 then regRespond d gate [] else begin d

/-! ### The settings write (R486 to R488) -/

/-- SETTINGS_READ. -/
def settingsReadAt (d : Dev) : Dev :=
  if !regAsked d 7 then d
  else
    let gate := regGate d 0 true true true
    if gate != 0 then regRespond d gate [] else regRespond d 0 (settingsBody d)

/-- The fields of a settings body hold no reserved value. -/
def settingsOk (b : List Byte) : Bool :=
  leAt b 0 2 == 1 && leAt b 2 2 == 0 && (slice b 0x14 44).all (· == 0)
/-- P of R487 in W: the highest window mean of the last 1 ms. -/
def recentPower (d : Dev) : Nat := d.pace.means.foldl max 0
/-- VIN lies within its operating range of 44 to 60 V (R487, R500). -/
def vinInRange (d : Dev) : Bool := decide (44000 ≤ d.rp.vinMv.toNat) && decide (d.rp.vinMv.toNat ≤ 60000)
/-- The energy check before a page: a valid measurement with E_h at least 2 P 3 ms, and no refusal of flash writes (R487, R505). -/
def energyOk (d : Dev) : Bool :=
  d.rp.huValid && decide (6 * recentPower d ≤ d.rp.ehMj.toNat) && !d.rp.pfail && d.rp.vinGood && vinInRange d
/-- The copy of the settings that is not in force, which a write replaces. -/
def spareCopy (d : Dev) : Nat := if copyInForce d setRegion = some setRegion.a then setRegion.b else setRegion.a
/-- The sequence number of the settings in force. -/
def settingsSeq (d : Dev) : Nat := ((copyInForce d setRegion).map (fun c => commitField d setRegion c 4)).getD 0
/-- The check before the next page of a settings write: when it passes the body is programmed, or after it the commit page, and then
the Registrar responds. -/
def flashCheck (d : Dev) : Dev :=
  match d.reg.write with
  | none => d
  | some w =>
    if !energyOk d then d
    else if !w.commit then
      let d1 := flashProgram d w.base w.body
      { d1 with reg := { d1.reg with write := some { w with commit := true } } }
    else
      let d1 := flashProgram d (commitAt setRegion w.base) (commitPage (settingsSeq d + 1) w.body)
      regRespond { d1 with reg := { d1.reg with write := none } } 0 []
/-- VIN as its monitor reads it now. -/
def readVin (d : Dev) (mv : BitVec 16) : Dev := { d with rp := { d.rp with vinMv := mv } }
/-- SETTINGS_WRITE: the copy that is not in force is erased, and its pages wait for the energy check. -/
def settingsWriteAt (d0 : Dev) (vinMv : BitVec 16) : Dev :=
  if !regAsked d0 8 || d0.reg.write.isSome then d0
  else
    let d := readVin d0 vinMv
    let body := mbBytes d.reg.mb 0 64
    let gate := regGate d 64 (settingsOk body) true (lifeCycle d.fuses != 3 && d.rp.vinGood && !d.rp.pfail && vinInRange d)
    if gate != 0 then regRespond d gate []
    else
      let base := spareCopy d
      let d1 := flashErase d base setRegion.size
      flashCheck { d1 with reg := { d1.reg with write := some { body := body, base := base } } }
/-- HOLDUP_RECHECK: the check is made again, or made for the next page. -/
def holdupRecheckAt (d : Dev) (vinMv : BitVec 16) : Dev :=
  if d.reg.write.isNone || d.reg.sag.isSome then d else flashCheck (readVin d vinMv)
/-- FLASH_WRITE_TIMEOUT: the write fails, the earlier copy stays in force, and the event names the settings region, E_h and P. -/
def flashTimeoutAt (d : Dev) : Dev :=
  match d.reg.write with
  | none => d
  | some _ =>
    let d1 := logEvent { d with reg := { d.reg with write := none } } 0x0203 srcRegistrar argNone
      (by1 2 ++ le 4 d.rp.ehMj.toNat ++ le 4 (recentPower d))
    regRespond d1 6 []

/-- SAG_END: C = 2 P t / (V1² − V2²) in µF and E_h = ½ C (V1² − 41²) in mJ, both rounded down; without a fall of V, or past the
register's 16 bits, the manual gives no result. -/
def sagEndAt (d : Dev) (v2 ns : Nat) : Dev :=
  match d.reg.sag with
  | none => d
  | some s =>
    if 20000 < ns || (ns < 20000 && s.v1 < v2 + 1000) then d
    else
      let den := s.v1 * s.v1 - v2 * v2
      let cap := 2 * s.mw * ns / den
      let eh := s.mw * ns * (s.v1 * s.v1 - 41000 * 41000) / (den * 1000000000)
      let put := fun (x at_ : Nat) => if den = 0 || 0x10000 ≤ x then freeWord d 16 at_ else BitVec.ofNat 16 x
      let d1 := draw d
      let d2 := { d1 with
        reg := { d1.reg with sag := none }
        rp := { d1.rp with capUf := put cap 0, ehMj := put eh 1, huValid := true } }
      let res := leBytes 4 d2.rp.capUf.toNat ++ leBytes 4 d2.rp.ehMj.toNat
      let d3 := logEvent d2 0x0202 srcRegistrar argNone res
      if d3.reg.write.isSome then flashCheck d3 else regRespond d3 0 res
/-- SAG_VIN_LOW: the switch closes and no result is written; the status of a HOLDUP that asked for it is not given. -/
def sagVinLowAt (d : Dev) : Dev :=
  match d.reg.sag with
  | none => d
  | some _ =>
    let d1 := { d with reg := { d.reg with sag := none } }
    if d1.reg.write.isSome then d1 else regRespond (draw d1) (freeWord d1 16 0).toNat []
/-- HOLDUP_MEASUREMENT_EXPIRY: 10 s after the measurement. -/
def huExpiryAt (d : Dev) : Dev := { d with rp := { d.rp with huValid := false } }

end Sys2Proof.Machine
end

