-- ==== Sys2Proof/Machine/Boot.lean ====
section
/-!
DEFINITION. The Syllabus: the checks on a bundle (R457 to R463), its delivery by the host (R464, R465) and along the fabric (R466
to R471), and its activation (R472, R475).
-/
namespace Sys2Proof.Machine

/-! ### The manifest (R458 to R463) -/

/-- A directory entry (R459). -/
def parseComp (m : List Byte) (i : Nat) : Component :=
  let p := 0x20 + 64 * i
  { type := leAt m p 2, first := leAt m (p + 4) 2, blocks := leAt m (p + 6) 2, length := leAt m (p + 8) 4,
    version := BitVec.ofNat 32 (leAt m (p + 12) 4), hash := BitVec.ofNat 256 (leAt m (p + 32) 32) }
/-- The largest LENGTH of a component type. -/
def compLimit (type : Nat) : Nat :=
  match type with
  | 1 => 0x200000
  | 2 => 0x400000
  | 3 => 0x100000
  | 4 => 0x400000
  | _ => 0x100000
/-- The directory is valid (R460). -/
def dirOk (m : List Byte) (nblk : Nat) : Bool :=
  let cs := (List.range 5).map (parseComp m)
  let rsv := fun i => leAt m (0x20 + 64 * i + 2) 2 == 0 && leAt m (0x20 + 64 * i + 16) 16 == 0
  [1, 2, 3, 4, 5].all (fun t => (cs.filter (fun c => c.type == t)).length == 1)
    && (List.range 5).all rsv
    && (slice m (0x20 + 320) 704).all (· == 0)
    && cs.all (fun c => 1 ≤ c.length && decide (c.length ≤ compLimit c.type) && c.blocks == cdiv c.length 65532)
    && (cs.map (·.blocks)).sum == nblk - 1
    && (List.range (nblk - 1)).all (fun j => (cs.filter (fun c => c.first ≤ j + 1 && j + 1 < c.first + c.blocks)).length == 1)
/-- The checks 2 to 6 of R463 on the data part of block 0, with the count that the delivery announced: the manifest, or the bundle
error. -/
def manifestCheck (d : Dev) (m : List Byte) (announced : Nat) : Except Nat Manifest :=
  let nblk := leAt m 6 2
  let svn := leAt m 8 4
  let vkey := leAt m 0xF 1
  let key := mapGet {} d.fuses.vendor vkey
  let mh := sha256 (m.take 0x5A0)
  let modulus := slice m 0x420 384
  if leAt m 0 4 != 0x314C5953 || leAt m 4 2 != 1 then .error 2
  else if leAt m 0xE 1 != 5 || bits (leAt m 0x10 1) 4 4 != 0 || leAt m 0x11 15 != 0 || !((m.drop 0x720).all (· == 0))
    || 64 < svn || !dirOk m nblk then .error 7
  else if nblk < 2 || 512 < nblk || nblk != announced then .error 0xA
  else if 3 < vkey || key.revoked || leNat (sha256 modulus) != key.hash.toNat then .error 3
  else if !pssVerify (beNat modulus) mh (slice m 0x5A0 384) then .error 4
  else if !bit (leAt m 0xC 1) d.fuses.grade.toNat || !bit (leAt m 0xD 1) d.fuses.step.toNat then .error 5
  else if svn < d.fuses.svnMin then .error 6
  else .ok {
    mdig := BitVec.ofNat 256 (leNat mh), nblk := nblk, svn := svn, vkey := vkey,
    revoke := BitVec.ofNat 4 (leAt m 0x10 1), comps := (List.range 5).map (parseComp m) }
/-- The bytes of a component (R460). -/
def compBytes (b : Bundle) (c : Component) : List Byte :=
  ((List.range c.blocks).flatMap (fun i => mapGet [] b.blocks (c.first + i))).take c.length
/-- Every block of a component has arrived. -/
def compWhole (b : Bundle) (c : Component) : Bool := (List.range c.blocks).all (fun i => (mapGet? b.blocks (c.first + i)).isSome)

/-! ### What a delivery comes to -/

/-- The Prefect's state with a change. -/
def setPrf (d : Dev) (f : Prefect → Prefect) : Dev := { d with prefect := f d.prefect }
/-- DONE goes out on a port (R466). -/
def sendDone (d : Dev) (p result cause : Nat) : Dev := sendCtl d p 0xE (result + cause * 2 ^ 4)
/-- The bundle is received or waited for in recovery mode. -/
def inRecovery (b : BootState) : Bool := b == .recWaiting || b == .recReceiving
/-- A bundle is being received. -/
def receiving (d : Dev) : Bool := d.prefect.boot == .receiving || d.prefect.boot == .recReceiving
/-- The waiting state that the device came from. -/
def waitAgain (b : BootState) : BootState := if inRecovery b then .recWaiting else .waiting
/-- A check fails: recovery mode, with the bundle error; a chain delivery is answered and its PREFIX remembered (R463, R470,
R475). -/
def bundleFails (d : Dev) (code : Nat) : Dev :=
  match d.prefect.bundle with
  | none => d
  | some b =>
    let d1 := setPrf d (fun p => { p with
      bundle := none, boot := .recWaiting, bundleErr := BitVec.ofNat 8 code, recCause := 2, chainLost := false
      rejected := if b.port < 12 then b.pfx :: p.rejected else p.rejected })
    if b.port < 12 then sendDone d1 b.port 1 code else d1
/-- A delivery is aborted (R465, R469). -/
def bundleAbort (d : Dev) : Dev :=
  setPrf d (fun p => { p with bundle := none, boot := waitAgain p.boot, bundleErr := 9, chainLost := false })

/-- OFFER on a port (R467). -/
def sendOffer (d : Dev) (b : Bundle) (p : Nat) : Dev :=
  match b.manifest with
  | some m => sendCtl d p 0xB (b.nblk + m.svn * 2 ^ 10 + (m.mdig.toNat % 2 ^ 128) * 2 ^ 42)
  | none => d
/-- OFFER on every port in boot mode that has not answered with DONE. -/
def offerAll (d : Dev) : Dev :=
  match d.prefect.bundle with
  | none => d
  | some b =>
    if !b.verified then d
    else (List.range 12).foldl (fun e p => if (fabPort e p).state == .boot && !(fabPort e p).doneRx then sendOffer e b p else e) d
/-- Every check has passed: offers and activation begin (step 6 of R455). -/
def bundleVerified (d : Dev) (b : Bundle) : Dev :=
  let d0 := setPrf d (fun p => { p with
    bundle := some { b with verified := true, chunks := [] }, boot := .activating, bundleErr := 0, chainLost := false })
  let d1 := (List.range 12).foldl (fun e p => modPort e p (fun q => { q with doneRx := false })) d0
  offerAll (if b.port < 12 then sendDone d1 b.port 0 0 else d1)

/-- A whole block of 65,536 bytes has arrived: its CRC, then checks 2 to 6 for block 0, then check 7 for each component that it
completes (R463). -/
def blockArrived (d : Dev) (n : Nat) (data : List Byte) : Dev :=
  match d.prefect.bundle with
  | none => d
  | some b =>
    let part := data.take 65532
    if crc32c part != leAt data 65532 4 then bundleFails d 1
    else
      let b1 := { b with blocks := mapPut b.blocks n part }
      let checked : Except Nat Bundle := if n = 0 then (match manifestCheck d part b.nblk with
        | .ok m => .ok { b1 with manifest := some m }
        | .error e => .error e) else .ok b1
      match checked with
      | .error e => bundleFails d e
      | .ok b2 =>
        match b2.manifest with
        | none => d
        | some m =>
          let bad := m.comps.any (fun c => c.first ≤ n && decide (n < c.first + c.blocks) && compWhole b2 c
            && leNat (sha256 (compBytes b2 c)) != c.hash.toNat)
          if bad then bundleFails d 8
          else if b2.blocks.length = b2.nblk then bundleVerified d b2
          else setPrf d (fun p => { p with bundle := some b2 })

/-! ### Delivery from the host (R464, R465) -/

/-- The host reads of block n: sixteen requests of 4,096 bytes. -/
def readBlock (d : Dev) (addr n : Nat) : Dev :=
  (List.range 16).foldl (fun e i => emit e (.hostRead (addr + 65536 * n + 4096 * i) 4096)) d
/-- A delivery by the host begins. -/
def deliverBegin (d : Dev) (addr nblk : Nat) : Dev :=
  readBlock (setPrf d (fun p => { p with
    bundle := some { port := 12, addr := BitVec.ofNat 64 addr, nblk := nblk }
    boot := if inRecovery p.boot then .recReceiving else .receiving })) addr 0
/-- BUNDLE_BLOCK: the next block that the host delivers. -/
def bundleBlockAt (d : Dev) (data : List Byte) : Dev :=
  match d.prefect.bundle with
  | none => d
  | some b =>
    if b.port != 12 || b.verified || !receiving d || data.length != 65536 then d
    else
      let n := b.blocks.length
      let d1 := blockArrived d n data
      if receiving d1 then readBlock d1 b.addr.toNat (n + 1) else d1
/-- HOST_READ_ERROR. -/
def hostReadErrorAt (d : Dev) : Dev :=
  if receiving d && d.prefect.bundle.any (fun b => b.port == 12) then bundleAbort d else d

/-! ### Chain delivery (R466 to R470) -/

/-- Blocks are pulled so that at most four are requested and not complete (R468). -/
def pullMore (d : Dev) : Dev :=
  match d.prefect.bundle with
  | none => d
  | some b =>
    let n := min (4 - (b.asked - b.blocks.length)) (b.nblk - b.asked)
    if n = 0 || b.verified then d
    else sendCtl (setPrf d (fun p => { p with bundle := some { b with asked := b.asked + n } })) b.port 0xC (b.asked + n * 2 ^ 10)
/-- An OFFER is taken: the device pulls from the port. -/
def takeOffer (d : Dev) (p nblk : Nat) (pfx : BitVec 128) : Dev :=
  pullMore (setPrf d (fun x => { x with
    bundle := some { port := p, nblk := nblk, pfx := pfx }, chainLost := false
    boot := if inRecovery x.boot then .recReceiving else .receiving }))
/-- The device would take an OFFER with this PREFIX: in a waiting state (R468, R475), or to go on with a delivery whose port went down
(R469). -/
def offerFits (d : Dev) (pfx : BitVec 128) : Bool :=
  let x := d.prefect
  match x.boot with
  | .waiting => x.source != .recovery
  | .recWaiting => x.recCause == 2 && x.source != .recovery && !x.rejected.contains pfx
  | .receiving => x.chainLost && x.bundle.any (fun b => b.pfx == pfx)
  | .recReceiving => x.chainLost && x.bundle.any (fun b => b.pfx == pfx)
  | _ => false
/-- The device holds a verified bundle or an active one, or is receiving this one from another port (R468). -/
def offerNotWanted (d : Dev) (pfx : BitVec 128) : Bool :=
  let x := d.prefect
  x.boot == .activating || x.boot == .active || x.bundle.any (fun b =>
    b.verified || (receiving d && decide (b.port < 12) && !x.chainLost && b.pfx == pfx))
/-- OFFER: answered with DONE 0x2, held for the end of its slow-clock period, or ignored (R464, R468, R469, R473, R475). -/
def offerAt (d : Dev) (p : Nat) (f : BitVec 256) : Dev :=
  let pfx := BitVec.ofNat 128 (ctlField f 42 128)
  if d.prefect.boot == .selfTest || d.prefect.boot == .error then d
  else if offerNotWanted d pfx then sendDone d p 2 0
  else if offerFits d pfx then setPrf d (fun x => { x with offers := x.offers ++ [(p, ctlField f 0 10, pfx)] })
  else d
/-- The delivery goes on from another port, with the blocks that are not complete (R469). -/
def continueFrom (d : Dev) (p : Nat) : Dev :=
  pullMore (setPrf d (fun y => { y with
    chainLost := false, bundle := y.bundle.map (fun b => { b with port := p, chunks := [], asked := b.blocks.length }) }))
/-- The slow-clock period ends: the OFFER of the lowest port is taken, and the others with its PREFIX are answered with DONE 0x2 (R468). -/
def takeOffers (d : Dev) : Dev :=
  let all := d.prefect.offers.filter (fun o => offerFits d o.2.2 && (fabPort d o.1).state == .boot)
  let d1 := setPrf d (fun x => { x with offers := [] })
  match (List.range 12).findSome? (fun p => all.find? (fun o => o.1 == p)) with
  | none => d1
  | some (p, nblk, pfx) =>
    let d2 := if receiving d1 then continueFrom d1 p else takeOffer d1 p nblk pfx
    (all.filter (fun o => o.1 != p && o.2.2 == pfx)).foldl (fun e o => sendDone e o.1 2 0) d2
/-- OFFER_REPEAT (R467). -/
def offerRepeatAt (d : Dev) : Dev := offerAll d
/-- PULL: every chunk of the requested blocks goes out, in order (R467). -/
def pullAt (d : Dev) (p : Nat) (f : BitVec 256) : Dev :=
  let first := ctlField f 0 10
  let count := ctlField f 10 3
  match d.prefect.bundle with
  | none => d
  | some b =>
    if !b.verified || count = 0 || 4 < count || b.nblk < first + count then d
    else (List.range count).foldl (fun e i =>
      let part := mapGet [] b.blocks (first + i)
      let whole := part ++ leBytes 4 (crc32c part)
      (List.range 4096).foldl (fun e c => sendCtl e p 0xD (first + i + c * 2 ^ 10 + leAt whole (16 * c) 16 * 2 ^ 22)) e) d
/-- The chunks of a block in order. -/
def chunkBytes (m : NMap (BitVec 128)) : List Byte := m.flatMap (fun x => leBytes 16 x.2.toNat)
/-- Blocks whose chunks have all arrived are taken, block 0 before any other. -/
def takeBlocks : Nat → Dev → Dev
  | 0, d => d
  | n + 1, d =>
    match d.prefect.bundle with
    | none => d
    | some b =>
      match b.chunks.find? (fun x => x.2.length == 4096 && (x.1 == 0 || b.manifest.isSome)) with
      | none => d
      | some (k, m) =>
        takeBlocks n (blockArrived (setPrf d (fun p => { p with bundle := some { b with chunks := mapDel b.chunks k } })) k (chunkBytes m))
/-- DATA: a chunk of a requested block (R468). -/
def dataAt (d : Dev) (p : Nat) (f : BitVec 256) : Dev :=
  let n := ctlField f 0 10
  let c := ctlField f 10 12
  match d.prefect.bundle with
  | none => d
  | some b =>
    if b.port != p || b.verified || b.asked ≤ n || (mapGet? b.blocks n).isSome || d.prefect.chainLost || !receiving d then d
    else
      let b1 := { b with chunks := mapMod [] b.chunks n (fun m => mapPut m c (BitVec.ofNat 128 (ctlField f 22 128))) }
      pullMore (takeBlocks 5 (setPrf d (fun x => { x with bundle := some b1 })))
/-- A rejection that a receiver reported is logged (R470). -/
def logDone (d : Dev) (x : Nat × Byte) : Dev := logEvent d 0x0804 0x101 x.1 (by1 x.1 ++ by1 x.2.toNat)
/-- DONE: offering on the port ends; a rejection is logged once the Registrar is active, and an active device tries full rate
again (R467, R470, R471). -/
def chainDoneAt (d : Dev) (p : Nat) (f : BitVec 256) : Dev :=
  let d1 := modPort d p (fun q => { q with
    doneRx := true, state := if syllActive d && q.state = .boot then .training else q.state })
  let e := (p, BitVec.ofNat 8 (ctlField f 4 8))
  if ctlField f 0 4 != 1 then d1
  else if d1.reg.fw then logDone d1 e
  else setPrf d1 (fun x => { x with doneLog := x.doneLog ++ [e] })
/-- CHAIN_TIMEOUT: no port offered the same PREFIX within 1 s (R469). -/
def chainTimeoutAt (d : Dev) : Dev := if receiving d && d.prefect.chainLost then bundleAbort d else d

/-! ### Activation (R472, R475) -/

/-- A CXL port once the Registrar's firmware starts: PERST# is released and the port trains (R307). -/
def cxlStart (d : Dev) (p : Nat) : Dev := modCxl d p (fun c => { c with perst := false, link := .training })
/-- A fabric port once the SerDes firmware is active: an enabled port retrains at full rate (R333, R471). -/
def portStart (d : Dev) (p : Nat) : Dev :=
  modPort d p (fun q => if q.en && (q.state == .boot || q.state == .down) && !pfault d (0xB1000 + 0x100 * p)
    then { q with state := .training, replay := [], sending := none, txq := [], retraining := false } else q)
/-- Every component runs: the Syllabus is active. -/
def activate (d : Dev) (m : Manifest) : Dev :=
  let d1 := setPrf d (fun p => { p with active := some m, boot := .active, doneLog := [] })
  let d2 := { d1 with
    host := { d1.host with syll := true }
    reg := { d1.reg with fw := true, wdPeriod := 1000 } }
  let d3 := (List.range 12).foldl (fun e c => modHbm e c (fun h => { h with state := .training })) d2
  let d4 := (List.range 12).foldl portStart (cxlStart (cxlStart d3 0) 1)
  let d5 := thermPolicy (writeTgt d4 0x7D)
  freeStore (d.prefect.doneLog.foldl logDone d5)
/-- The destination memories once every component is copied: a copy that fails leaves nothing, and `wrong` lists bytes that a memory does
not hold as they were written: type, offset and the bits that differ. -/
def copied (b : Bundle) (m : Manifest) (fails : List Nat) (wrong : List (Nat × Nat × Byte)) : NMap (List Byte) :=
  m.comps.foldl (fun t c =>
    let flips := wrong.filter (fun w => w.1 == c.type)
    mapPut t c.type (if fails.contains c.type then []
      else flips.foldl (fun bs w => listSet bs w.2.1 (bs.getD w.2.1 0 ^^^ w.2.2)) (compBytes b c))) []
/-- What is read back from every destination has its component's HASH. -/
def readBackOk (m : Manifest) (t : NMap (List Byte)) : Bool :=
  m.comps.all (fun c => leNat (sha256 (mapGet [] t c.type)) == c.hash.toNat)
/-- ACTIVATION: every component is copied to its destination and read back; all of them are released, or every destination is cleared
and recovery mode entered, with the verified bundle still offered. -/
def activationAt (d : Dev) (fails : List Nat) (wrong : List (Nat × Nat × Byte)) : Dev :=
  if d.prefect.boot != .activating then d
  else match d.prefect.bundle, d.prefect.bundle.bind (·.manifest) with
    | some b, some m =>
      let t := copied b m fails wrong
      if m.comps.all (fun c => !fails.contains c.type) && readBackOk m t
      then activate (setPrf d (fun p => { p with dest := t })) m
      else freeStore (setPrf d (fun p => { p with dest := [], boot := .recWaiting, bundleErr := 0xB, recCause := 3 }))
    | _, _ => d

end Sys2Proof.Machine
end

