-- ==== Sys2Proof/Machine/PrefectMail.lean ====
section
/-!
DEFINITION. The Prefect's mailbox commands (R474, R476, R477, R481 to R484, R496, R499), its error state (R497), and JTAG (R498).
-/
namespace Sys2Proof.Machine

/-- The Prefect responds, and vector 1 fires. -/
def prfRespond (d : Dev) (status : Nat) (payload : List Byte) : Dev :=
  signal (setPrf d (fun p => { p with mb := mbRespond p.mb status payload })) 1
/-- The Prefect has a request with this command before it. -/
def prfAsked (d : Dev) (cmd : Nat) : Bool :=
  d.prefect.mb.state == .busy && mbCmd d.prefect.mb == cmd && d.prefect.boot != .selfTest
/-- LEN of the Prefect's request. -/
def prfLen (d : Dev) : Nat := mbLen d.prefect.mb
/-- A field of the request. -/
def prfField (d : Dev) (off n : Nat) : Nat := mbField d.prefect.mb off n
/-- The status of a request before its command runs: the error state, LEN and reserved fields, and the boot state or life cycle. -/
def prfGate (d : Dev) (fields allowed : Bool) : Nat :=
  if d.prefect.boot = .error then 7 else if !fields then 2 else if !allowed then 3 else 0

/-! ### Error state (R497) -/

/-- ENTROPY_TEST_FAIL: a continuous test fails while the Prefect runs. -/
def entropyFailAt (d : Dev) : Dev := if d.prefect.boot = .error || d.prefect.boot = .selfTest then d else prefectError d
/-- SELFTEST. -/
def selftestAt (d : Dev) (pass : Bool) : Dev :=
  if !prfAsked d 2 then d
  else
    let gate := prfGate d (prfLen d == 0) true
    if gate != 0 then prfRespond d gate []
    else if pass then prfRespond d 0 [] else prfRespond (prefectError d) 7 []

/-! ### STATUS, DELIVER, NONCE and the reserved commands -/

/-- A boot state's code (R456). -/
def bootCode : BootState → Nat
  | .selfTest => 0 | .waiting => 1 | .receiving => 2 | .activating => 3 | .active => 4
  | .recWaiting => 5 | .recReceiving => 6 | .error => 7
/-- A boot source's code (R482). -/
def sourceCode : BootSource → Nat
  | .host => 0 | .chain => 1 | .recovery => 2
/-- The mask of owner slots with a property. -/
def ownerMask (f : Fuses) (p : KeySlot → Bool) : Nat := listMask (indices 8 (fun i => p (mapGet {} f.owner i)))
/-- The mask of revoked vendor slots. -/
def vendorMask (f : Fuses) : Nat := listMask (indices 4 (fun i => (mapGet {} f.vendor i).revoked))
/-- The scopes that a life cycle opens without unlock (R498). -/
def openByLife (life : Nat) : Nat := if life = 0 then 0xF else if life = 1 then 2 else 0
/-- The debug scopes open. -/
def scopesOpen (d : Dev) : Nat := openByLife (lifeCycle d.fuses) ||| d.prefect.scopes.toNat
/-- The record of STATUS (R482). -/
def statusRecord (d : Dev) : List Byte :=
  let f := d.fuses
  [bootCode d.prefect.boot, lifeCycle f, sourceCode d.prefect.source, d.prefect.bundleErr.toNat, f.svnMin,
    ownerMask f (·.used), ownerMask f (·.revoked), vendorMask f, scopesOpen d, d.prefect.recCause.toNat].flatMap by1
    ++ zeros 6 ++ leBytes 8 d.glb.serial.toNat ++ leBytes 4 ((d.prefect.active.map Manifest.svn).getD 0) ++ zeros 4
/-- STATUS, which the error state answers too. -/
def prfStatusAt (d : Dev) : Dev :=
  if !prfAsked d 1 then d else if prfLen d != 0 then prfRespond d 2 [] else prfRespond d 0 (statusRecord d)
/-- A command that R481 reserves. -/
def prfReservedAt (d : Dev) : Dev :=
  let c := mbCmd d.prefect.mb
  if !prfAsked d c || !(c = 0 || 0xA ≤ c) then d
  else prfRespond d (if d.prefect.boot = .error then 7 else 1) []
/-- DELIVER (R464, R473). -/
def deliverAt (d : Dev) : Dev :=
  if !prfAsked d 3 then d
  else
    let addr := prfField d 0 8
    let gate := prfGate d (prfLen d == 10 && addr % 4096 == 0) true
    if gate != 0 then prfRespond d gate []
    else if receiving d then prfRespond d 5 []
    else
      let ok := (d.prefect.boot == .recWaiting || (d.prefect.boot == .waiting && d.prefect.source == .host)) && d.host.busMaster
      if ok then prfRespond (deliverBegin d addr (prfField d 8 2)) 0 [] else prfRespond d 3 []
/-- NONCE: 32 bytes of the CTR_DRBG. -/
def nonceAt (d : Dev) : Dev :=
  if !prfAsked d 4 then d
  else
    let gate := prfGate d (prfLen d == 0) true
    if gate != 0 then prfRespond d gate []
    else
      let bs := randomBytes d 32
      prfRespond (setPrf (drbgUsed d 32) (fun p => { p with nonce := some (BitVec.ofNat 256 (leNat bs)) })) 0 bs

/-! ### Signed commands (R483) -/

/-- The key that a SLOT names, when it is usable: owner slots, and vendor slots where the command takes them. -/
def authKey (d : Dev) (slot : Nat) (vendorToo : Bool) : Option KeySlot :=
  if slot ≤ 7 then
    let k := mapGet {} d.fuses.owner slot
    if k.used && !k.revoked then some k else none
  else if vendorToo && 0x80 ≤ slot && slot ≤ 0x83 then
    let k := mapGet {} d.fuses.vendor (slot - 0x80)
    if k.revoked then none else some k
  else none
/-- The authentication block after a payload of `n` bytes verifies. -/
def authOk (d : Dev) (cmd n : Nat) (vendorToo : Bool) : Bool :=
  let blk := mbBytes d.prefect.mb n 772
  let modulus := slice blk 4 384
  match authKey d (leAt blk 0 1) vendorToo, d.prefect.nonce with
  | some k, some nonce =>
    let msg := leBytes 2 cmd ++ leBytes 8 d.glb.serial.toNat ++ leBytes 32 nonce.toNat ++ mbBytes d.prefect.mb 0 n ++ blk.take 388
    leNat (sha256 modulus) == k.hash.toNat && pssVerify (beNat modulus) (sha256 msg) (slice blk 388 384)
  | _, _ => false
/-- The reserved bytes of the block are zero. -/
def authRsv (d : Dev) (n : Nat) : Bool := prfField d (n + 1) 3 == 0
/-- The nonce is consumed. -/
def useNonce (d : Dev) : Dev := setPrf d (fun p => { p with nonce := none })
/-- The device's Prefect runtime is active. -/
def runtime (d : Dev) : Bool := d.prefect.boot == .active
/-- Owner slot i put through `f`. -/
def modOwner (d : Dev) (i : Nat) (f : KeySlot → KeySlot) : Dev :=
  { d with fuses := { d.fuses with owner := mapMod {} d.fuses.owner i f } }
/-- Vendor slot i is revoked. -/
def revokeVendor (d : Dev) (i : Nat) : Dev :=
  { d with fuses := { d.fuses with vendor := mapMod {} d.fuses.vendor i (fun k => { k with revoked := true }) } }

/-- ENROL (R477): without authentication in UNOWNED, with the owner's in OWNED. -/
def enrolAt (d : Dev) : Dev :=
  if !prfAsked d 5 then d
  else
    let life := lifeCycle d.fuses
    let signed := life != 1
    let slot := prfField d 0 1
    let d1 := if signed then useNonce d else d
    let fields := prfLen d == (if signed then 1160 else 388) && slot ≤ 7 && prfField d 1 3 == 0 && (!signed || authRsv d 388)
    let gate := prfGate d fields (life == 1 || life == 2)
    if gate != 0 then prfRespond d1 gate []
    else if signed && !authOk d 5 388 false then prfRespond d1 4 []
    else if (mapGet {} d.fuses.owner slot).used then prfRespond d1 6 []
    else
      let h := BitVec.ofNat 256 (leNat (sha256 (mbBytes d.prefect.mb 4 384)))
      prfRespond (modOwner d1 slot (fun k => { k with hash := h, used := true })) 0 []
/-- REVOKE (R477). -/
def revokeAt (d : Dev) : Dev :=
  if !prfAsked d 6 then d
  else
    let slot := prfField d 0 1
    let d1 := useNonce d
    let gate := prfGate d (prfLen d == 776 && slot ≤ 7 && prfField d 1 3 == 0 && authRsv d 4) true
    if gate != 0 then prfRespond d1 gate []
    else if !authOk d 6 4 false then prfRespond d1 4 []
    else prfRespond (modOwner d1 slot (fun k => { k with revoked := true })) 0 []
/-- COMMIT (R474): the security version, then the vendor slots that the active manifest revokes. -/
def commitSvnAt (d : Dev) : Dev :=
  if !prfAsked d 7 then d
  else
    let d1 := useNonce d
    let gate := prfGate d (prfLen d == 772 && authRsv d 0) (runtime d)
    if gate != 0 then prfRespond d1 gate []
    else if !authOk d 7 0 false then prfRespond d1 4 []
    else match d.prefect.active with
      | none => prfRespond d1 3 []
      | some m =>
        let d2 := { d1 with fuses := { d1.fuses with svnMin := max d1.fuses.svnMin m.svn } }
        prfRespond (((maskList 4 m.revoke.toNat).filter (· != m.vkey)).foldl revokeVendor d2) 0 []

/-- The scopes that a signer may unlock in a life cycle (R498). -/
def mayUnlock (life : Nat) (vendor : Bool) : Nat :=
  if vendor then (if life = 1 then 0b0011 else if life = 3 then 0b1111 else 0) else if life = 2 then 0b0111 else 0
/-- The unlocked scopes change; a change of the scopes open is logged. -/
def setScopes (d : Dev) (m : Nat) : Dev :=
  let d1 := setPrf d (fun p => { p with scopes := BitVec.ofNat 4 m })
  if scopesOpen d1 = scopesOpen d then d1 else logEvent d1 0x0B01 0x101 argNone (by1 (scopesOpen d1))
/-- UNLOCK (R499). -/
def unlockAt (d : Dev) : Dev :=
  if !prfAsked d 8 then d
  else
    let mask := prfField d 0 1
    let signed := mask != 0
    let d1 := if signed then useNonce d else d
    let fields := prfLen d == (if signed then 776 else 4) && mask ≤ 15 && prfField d 1 3 == 0 && (!signed || authRsv d 4)
    let gate := prfGate d fields (runtime d)
    if gate != 0 then prfRespond d1 gate []
    else if !signed then prfRespond (setScopes d1 0) 0 []
    else
      let may := mayUnlock (lifeCycle d.fuses) (bit (prfField d 4 1) 7)
      if authOk d 8 4 true && mask &&& may == mask then prfRespond (setScopes d1 (d.prefect.scopes.toNat ||| mask)) 0 []
      else prfRespond d1 4 []

/-- ZEROISE (R496): with PERMANENT the key-kill fuse burns, and the Prefect requests a security reset. -/
def zeroiseAt (d : Dev) : Dev :=
  if !prfAsked d 9 then d
  else
    let flags := prfField d 0 1
    let perm := flags == 1
    let d1 := if perm then useNonce d else d
    let fields := prfLen d == (if perm then 776 else 4) && flags ≤ 1 && prfField d 1 3 == 0 && (!perm || authRsv d 4)
    let gate := prfGate d fields true
    if gate != 0 then prfRespond d1 gate []
    else if !perm then prfRespond (zeroCsp d1) 0 []
    else if !authOk d 9 4 true then prfRespond d1 4 []
    else coldReset (prfRespond { zeroCsp d1 with fuses := { d1.fuses with keyKill := true } } 0 []) 8 noSrc

/-! ### JTAG (R498) -/

/-- The scope of an instruction: none for BYPASS and IDCODE. -/
def jtagScope : JtagInstr → Option Nat
  | .bypass => none
  | .idcode => none
  | .trace => some 0
  | .extest => some 1
  | .sample => some 1
  | .clamp => some 1
  | .highz => some 1
  | .debug => some 2
  | .prefect => some 3
/-- JTAG_INSTRUCTION: an instruction whose scope is closed acts as BYPASS. -/
def jtagAt (d : Dev) (i : JtagInstr) : Dev :=
  match jtagScope i with
  | none => emit d (.jtag i)
  | some s => if bit (scopesOpen d) s then emit d (.jtag i) else emit d (.jtag .bypass)

end Sys2Proof.Machine
end

