-- ==== Sys2Proof/Machine/Spdm.lean ====
section
/-!
DEFINITION. Attestation (R491, R492): the SPDM 1.2 responder. R491 names the messages, algorithms and error codes; their layouts
are those of DMTF DSP0274 1.2 (PRESUMED, notes/assumptions).
-/
namespace Sys2Proof.Machine

/-- The connection of a transport. -/
def spdmConn (d : Dev) (t : SpdmPort) : SpdmConn :=
  match t with
  | .pcie => d.prefect.spdmPcie
  | .smbus => d.prefect.spdmSmb
/-- The connection of a transport replaced. -/
def setSpdm (d : Dev) (t : SpdmPort) (c : SpdmConn) : Dev :=
  match t with
  | .pcie => setPrf d (fun p => { p with spdmPcie := c })
  | .smbus => setPrf d (fun p => { p with spdmSmb := c })
/-- The request code. -/
def spdmCode (req : List Byte) : Nat := leAt req 1 1
/-- The request codes that R491 lists. -/
def spdmCodes : List Nat := [0x84, 0xE1, 0xE3, 0x81, 0x82, 0x83, 0xE0]
/-- A response of a code, with its two parameters and body. -/
def spdmMsg (version code p1 p2 : Nat) (body : List Byte) : List Byte := [version, code, p1, p2].flatMap by1 ++ body
/-- An ERROR response. -/
def spdmError (d : Dev) (t : SpdmPort) (code extra : Nat) : Dev :=
  emit d (.spdm t (spdmMsg (if (spdmConn d t).version then 0x12 else 0x10) 0x7F code extra []))
/-- The responder serves requests: the Syllabus is active and no test has failed. -/
def spdmReady (d : Dev) : Bool := runtime d
/-- The life cycle is RETIRED: the identity key is unusable. -/
def spdmRetired (d : Dev) : Bool := lifeCycle d.fuses == 3

/-- A request of a code: Busy before activation and in the error state, UnexpectedRequest before its turn, VersionMismatch for
another version, InvalidRequest when it is short; else `act`. -/
def spdmServe (d : Dev) (t : SpdmPort) (req : List Byte) (code minLen : Nat) (turn : Bool) (act : Dev) : Dev :=
  if spdmCode req != code then d
  else if !spdmReady d then spdmError d t 3 0
  else if !turn then spdmError d t 4 0
  else if leAt req 0 1 != (if code = 0x84 then 0x10 else 0x12) then spdmError d t 0x41 0
  else if req.length < minLen || 4096 < req.length then spdmError d t 1 0
  else act
/-- The response goes out, and the connection changes. -/
def spdmReply (d : Dev) (t : SpdmPort) (c : SpdmConn) (resp : List Byte) : Dev := emit (setSpdm d t c) (.spdm t resp)

/-- GET_VERSION: 1.2 only; the connection starts afresh. -/
def getVersionAt (d : Dev) (t : SpdmPort) (req : List Byte) : Dev :=
  let resp := spdmMsg 0x10 0x04 0 0 ([0, 1].flatMap by1 ++ leBytes 2 0x1200)
  spdmServe d t req 0x84 4 true (spdmReply d t { version := true, vca := req ++ resp } resp)
/-- GET_CAPABILITIES: CERT_CAP, CHAL_CAP and MEAS_CAP with signature; messages of 4,096 bytes. -/
def getCapabilitiesAt (d : Dev) (t : SpdmPort) (req : List Byte) : Dev :=
  let c := spdmConn d t
  let resp := spdmMsg 0x12 0x61 0 0
    (zeros 1 ++ by1 Config.spdmCtExponent.toNat ++ zeros 2 ++ leBytes 4 0x16 ++ leBytes 4 4096 ++ leBytes 4 4096)
  spdmServe d t req 0xE1 20 (c.version && !c.caps && !c.algs) (spdmReply d t { c with caps := true, vca := c.vca ++ req ++ resp } resp)
/-- NEGOTIATE_ALGORITHMS: TPM_ALG_RSAPSS_3072, TPM_ALG_SHA_256 and the DMTF measurement specification, where they are offered. -/
def negotiateAt (d : Dev) (t : SpdmPort) (req : List Byte) : Dev :=
  let c := spdmConn d t
  let resp := spdmMsg 0x12 0x63 0 0
    (leBytes 2 36 ++ by1 (leAt req 6 1 &&& 1) ++ zeros 1 ++ leBytes 4 2 ++ leBytes 4 (leAt req 8 4 &&& 8)
      ++ leBytes 4 (leAt req 12 4 &&& 1) ++ zeros 16)
  spdmServe d t req 0xE3 32 (c.caps && !c.algs) (spdmReply d t { c with algs := true, vca := c.vca ++ req ++ resp } resp)

/-- The certificate chain of slot 0: the part of the identity region after the serial. -/
def certChain (d : Dev) : List Byte :=
  let body := (identityBody d).drop 8
  leBytes 2 (body.length + 4) ++ zeros 2 ++ body
/-- GET_DIGESTS: slot 0. -/
def getDigestsAt (d : Dev) (t : SpdmPort) (req : List Byte) : Dev :=
  let c := spdmConn d t
  let resp := spdmMsg 0x12 0x01 0 1 (sha256 (certChain d))
  spdmServe d t req 0x81 4 c.algs (spdmReply d t { c with transcript := c.transcript ++ req ++ resp, measTranscript := [] } resp)
/-- GET_CERTIFICATE: a portion of at most 1,024 bytes of the chain of slot 0. -/
def getCertificateAt (d : Dev) (t : SpdmPort) (req : List Byte) : Dev :=
  let c := spdmConn d t
  let chain := certChain d
  let off := leAt req 4 2
  let part := (chain.drop off).take (min 1024 (leAt req 6 2))
  let resp := spdmMsg 0x12 0x02 0 0 (leBytes 2 part.length ++ leBytes 2 (chain.length - off - part.length) ++ part)
  spdmServe d t req 0x82 8 c.algs
    (if leAt req 2 1 % 16 != 0 || chain.length ≤ off then spdmError d t 1 0
     else spdmReply d t { c with transcript := c.transcript ++ req ++ resp, measTranscript := [] } resp)

/-! ### Measurements (R492) -/

/-- The HASH of a component type of the active manifest. -/
def compHash (d : Dev) (type : Nat) : List Byte :=
  match d.prefect.active with
  | some m => leBytes 32 (((m.comps.find? (fun c => c.type == type)).map (fun c => c.hash.toNat)).getD 0)
  | none => zeros 32
/-- FAB_STATUS.AG as a code (R382). -/
def agCode : AgState → Nat
  | .none => 0 | .waiting => 1 | .agreed => 2 | .elsewhere => 3 | .here => 4
/-- The value of a measurement index, and whether it is raw. -/
def measurement (d : Dev) (i : Nat) : List Byte × Bool :=
  let f := d.fuses
  match i with
  | 1 => (leBytes 32 ((d.prefect.active.map Manifest.mdig).getD 0).toNat, false)
  | 7 => (leBytes 32 ((d.ttl.active.map Timetable.digest).getD 0).toNat, false)
  | 8 => ([lifeCycle f, f.svnMin, ownerMask f (·.used), ownerMask f (·.revoked), vendorMask f, scopesOpen d,
      sourceCode d.prefect.source, 0].flatMap by1, true)
  | 9 => (leBytes 8 d.fab.fp.toNat ++ by1 (agCode d.fab.ag), true)
  | i => (compHash d (i - 1), false)
/-- A measurement block. -/
def measBlock (d : Dev) (i : Nat) : List Byte :=
  let (v, raw) := measurement d i
  by1 i ++ by1 1 ++ leBytes 2 (v.length + 3) ++ by1 ((Config.measurementType i).toNat + b2n raw * 128) ++ leBytes 2 v.length ++ v
/-- Blocks of every index. -/
def measAll (d : Dev) : List Byte := (List.range 9).flatMap (fun i => measBlock d (i + 1))
/-- The ASCII bytes of a string. -/
def ascii (s : String) : List Byte := s.toList.map (fun c => BitVec.ofNat 8 c.toNat)
/-- A signature of SPDM 1.2 over a transcript, in a context, by the identity key (R461, R479). -/
def spdmSign (d : Dev) (context : String) (msgs : List Byte) : List Byte :=
  let c := ascii context
  let v := ascii "dmtf-spdm-v1.2.*"
  pssSign d.fuses.idMod d.fuses.idExp 384 (sha256 (v ++ v ++ v ++ v ++ zeros (36 - c.length) ++ c ++ sha256 msgs)) (randomBytes d 32)
/-- CHALLENGE: signed by the identity key; which measurements a TCB summary takes is not given. -/
def challengeAt (d : Dev) (t : SpdmPort) (req : List Byte) : Dev :=
  let c := spdmConn d t
  let want := leAt req 3 1
  let summary := if want = 0 then [] else if want = 0xFF then sha256 (measAll d)
    else (List.range 32).map (fun i => Config.freeByte d.freeCtr (128 + i))
  let body := spdmMsg 0x12 0x03 0 1 (sha256 (certChain d) ++ randomBytes d 32 ++ summary ++ zeros 2)
  let sig := spdmSign (drbgUsed d 32) "responder-challenge_auth signing" (c.vca ++ c.transcript ++ req ++ body)
  spdmServe d t req 0x83 36 c.algs
    (if spdmRetired d then spdmError d t 7 0x83
     else if leAt req 2 1 != 0 || !([0, 1, 0xFF].contains want) then spdmError d t 1 0
     else spdmReply (drbgUsed (drbgUsed (draw d) 32) 32) t { c with transcript := [], measTranscript := [] } (body ++ sig))
/-- GET_MEASUREMENTS: the count, all, or one index; signed where the request asks for it. -/
def getMeasurementsAt (d : Dev) (t : SpdmPort) (req : List Byte) : Dev :=
  let c := spdmConn d t
  let signed := bit (leAt req 2 1) 0
  let i := leAt req 3 1
  let blocks := if i = 0 then [] else if i = 0xFF then measAll d else measBlock d i
  let n := if i = 0 then 0 else if i = 0xFF then 9 else 1
  let body := spdmMsg 0x12 0x60 (if i = 0 then 9 else 0) 0 (by1 n ++ leBytes 3 blocks.length ++ blocks ++ randomBytes d 32 ++ zeros 2)
  let log := c.measTranscript ++ req ++ body
  spdmServe d t req 0xE0 (if signed then 37 else 4) c.algs
    (if signed && spdmRetired d then spdmError d t 7 0xE0
     else if (9 < i && i != 0xFF) || (signed && leAt req 36 1 % 16 != 0) then spdmError d t 1 0
     else if signed then
       spdmReply (drbgUsed (drbgUsed d 32) 32) t { c with measTranscript := [] } (body ++ spdmSign (drbgUsed d 32) "responder-measurements signing" (c.vca ++ log))
     else spdmReply (drbgUsed d 32) t { c with measTranscript := log } body)
/-- SPDM_UNSUPPORTED_REQUEST: any other request. -/
def spdmUnsupportedAt (d : Dev) (t : SpdmPort) (req : List Byte) : Dev :=
  if spdmCodes.contains (spdmCode req) then d
  else if !spdmReady d then spdmError d t 3 0 else spdmError d t 7 (spdmCode req)

end Sys2Proof.Machine
end

