-- ==== Sys2Proof/Machine/Grid.lean ====
section
/-!
DEFINITION. The networks between core sites (R24 to R31): neighbour paths, routes, and the distance table (R32 to R34).
-/
namespace Sys2Proof.Machine

/-- A core site's physical column and row. -/
abbrev Site := Nat × Nat

/-- The rows of a C-die as its west or east bridge lists them: the rows that are not dark, ascending, then the dark row (R27). -/
def bridgeRows (d : Dev) (die : Nat) : List Nat := (List.range 7).filter (fun r => r != darkRow d die) ++ [darkRow d die]
/-- The site that a steered link joins to a site of column 7 or 8. -/
def steered (d : Dev) (s : Site) : List Site :=
  let west := s.2 / 7 * 2
  let far := fun (a b : Nat) => 7 * (s.2 / 7) + (bridgeRows d b).getD ((bridgeRows d a).idxOf (s.2 % 7)) 0
  if s.1 = 7 then [(8, far west (west + 1))] else if s.1 = 8 then [(7, far (west + 1) west)] else []
/-- Sites one hop away: along the row on the die, over a steered link, then along the column (R19, R27). -/
def hopsFrom (d : Dev) (s : Site) : List Site :=
  (if s.1 % 8 = 0 then [] else [(s.1 - 1, s.2)]) ++ (if s.1 % 8 = 7 then [] else [(s.1 + 1, s.2)]) ++ steered d s
    ++ (if s.2 = 0 then [] else [(s.1, s.2 - 1)]) ++ (if s.2 = 13 then [] else [(s.1, s.2 + 1)])
/-- A path of exactly n hops that passes only through bypass cores. -/
def pathOf (d : Dev) (goal : Site) : Nat → Site → Option (List Site)
  | 0, s => if s = goal then some [s] else none
  | n + 1, s =>
    (hopsFrom d s).findSome? (fun q =>
      if q = goal || !siteEnabled d q.1 q.2 then (pathOf d goal n q).map (s :: ·) else none)
/-- The path between two virtual neighbours, of at most three hops (R26). -/
def neighbourPath (d : Dev) (u w : Nat) : List Site :=
  ((List.range 4).findSome? (fun n => pathOf d (physOf d w) n (physOf d u))).getD [physOf d u]
/-- Two virtual cores that differ by one in exactly one coordinate. -/
def virtNeighbours (u w : Nat) : Bool :=
  (u / 16 == w / 16 && (u % 16 + 1 == w % 16 || w % 16 + 1 == u % 16))
    || (u % 16 == w % 16 && (u / 16 + 1 == w / 16 || w / 16 + 1 == u / 16))
/-- The directed links of a path. -/
def linksOf (p : List Site) : List (Site × Site) := List.zip p (p.drop 1)
/-- A hop crosses a die bridge. -/
def isBridge (h : Site × Site) : Bool := dieOf h.1.1 h.1.2 != dieOf h.2.1 h.2.2

/-- The virtual cores that a route visits, x first and then y (R28). -/
def virtRoute (u w : Nat) : List Nat :=
  let ux := u % 16
  let wx := w % 16
  let uy := u / 16
  let wy := w / 16
  let nx := if ux ≤ wx then wx - ux else ux - wx
  let ny := if uy ≤ wy then wy - uy else uy - wy
  let row := (List.range (nx + 1)).map (fun i => 16 * uy + (if ux ≤ wx then ux + i else ux - i))
  let col := (List.range ny).map (fun i => 16 * (if uy ≤ wy then uy + i + 1 else uy - i - 1) + wx)
  row ++ col
/-- The sites of a route between two cores. -/
def routeSites (d : Dev) (u w : Nat) : List Site :=
  let vs := virtRoute u w
  physOf d u :: (List.zip vs (vs.drop 1)).flatMap (fun p => (neighbourPath d p.1 p.2).drop 1)

/-- The number of virtual rows. -/
def virtRows (d : Dev) : Nat := gridCores d / 16
/-- The gateway core of a die for a source (R30). -/
def gateway (d : Dev) (s n : Nat) : Nat :=
  let x := if n % 2 = 0 then 0 else 15
  let rows := indices (virtRows d) (fun y => let p := physOf d (16 * y + x); dieOf p.1 p.2 == n)
  let far := fun y => if y ≤ s / 16 then s / 16 - y else y - s / 16
  let best := rows.foldl (fun b y => match b with
    | none => some y
    | some z => if far y < far z then some y else b) none
  16 * best.getD 0 + x

/-- The core sites that a memory lane passes from a core to its die's controllers, along the core's row (R29). -/
def laneSites (s : Site) (die : Nat) : List Site :=
  let c := s.1 % 8
  if die % 2 = 0 then (List.range c).map (fun i => (s.1 - 1 - i, s.2)) else (List.range (7 - c)).map (fun i => (s.1 + 1 + i, s.2))

/-- An entry from the sites of its route, the sites counted for bypass, extra beats and lane hops (R33). DESIGN CHOICE: a route that
crosses more bridges than the "0 to 2" of R33 (four are possible where a virtual row changes its die row) wraps in the two
bits of BRIDGES, since only BYPASS is said to saturate. -/
def distPack (d : Dev) (sites inner : List Site) (extra lane : Nat) : Nat :=
  let hs := linksOf sites
  let bridges := hs.countP isBridge
  let bypass := inner.countP (fun s => !siteEnabled d s.1 s.2)
  let beats := 11 * bridges + 3 * (hs.length - bridges) + 2 * lane + extra
  (hs.length + lane) % 256 + bridges % 4 * 2 ^ 8 + min bypass 15 * 2 ^ 10 + beats % 65536 * 2 ^ 16

/-- The distance-table entry for source s and destination index t (R32, R33). -/
def distEntry (d : Dev) (s t : Nat) : Nat :=
  if !ttActive d || gridCores d ≤ s then 0
  else if t < 192 then
    if gridCores d ≤ t || t = s then 0
    else let p := routeSites d s t; distPack d p ((p.drop 1).dropLast) 0 0
  else if t < 204 then
    let n := (t - 192) / 3
    let here := physOf d s
    let p := if dieOf here.1 here.2 = n then [here] else routeSites d s (gateway d s n)
    let c := (p.getLastD here).1 % 8
    let inner := if p.length = 1 then [] else p.drop 1
    distPack d p (inner ++ laneSites (p.getLastD here) n) 8 (if n % 2 = 0 then c + 1 else 8 - c)
  else if t < 206 then
    let row := if t = 204 then 0 else virtRows d - 1
    let p := routeSites d s (16 * row + s % 16)
    let e := p.getLastD (0, 0)
    let tail := if t = 204 then (List.range e.2).map (fun i => (e.1, e.2 - 1 - i)) else (List.range (13 - e.2)).map (fun i => (e.1, e.2 + 1 + i))
    distPack d (p ++ tail) ((p ++ tail).drop 1) 10 0
  else 0

/-- The GRID section of the canonical mapping (R37). -/
def canonicalGrid (d : Dev) : List Byte :=
  (List.range 256).flatMap (fun v =>
    if v < gridCores d then
      let p := physOf d v
      leBytes 2 (p.1 % 8 + p.2 % 7 * 2 ^ 3 + dieOf p.1 p.2 * 2 ^ 6)
    else [0xFF, 0xFF])

end Sys2Proof.Machine
end

