-- ==== Sys2Proof/Machine/Timetable.lean ====
section
/-!
DEFINITION. The Timetable loader (R35 to R42, R478): the image, its checks in the order of R38, each section's own checks, and
the activation (R39, R322).
-/
namespace Sys2Proof.Machine

/-! ### The image (R35, R36) -/

/-- A directory entry with the bytes of its section. -/
structure Sect where
  type : Nat
  rsv : Nat
  crc : Nat
  data : List Byte
deriving DecidableEq, Repr

/-- The directory, none when an entry or a section lies outside the image. -/
def ttDir (img : List Byte) (size : Nat) : Option (List Sect) :=
  (List.range (leAt img 6 2)).mapM (fun i =>
    let p := 0x20 + 16 * i
    let off := leAt img (p + 4) 4
    let n := leAt img (p + 8) 4
    if p + 16 ≤ size && off + n ≤ size then
      some { type := leAt img p 2, rsv := leAt img (p + 2) 2, crc := leAt img (p + 12) 4, data := slice img off n }
    else none)
/-- The section of a type. -/
def sectOf (dir : List Sect) (t : Nat) : Option (List Byte) := (dir.find? (fun s => s.type == t)).map (·.data)

/-- Check 2: the trailer of R478. -/
def ttSigned (d : Dev) (img : List Byte) (size : Nat) : Bool :=
  let t := img.drop size
  let slot := leAt t 0 1
  let modulus := slice t 4 384
  let key := mapGet {} d.fuses.owner slot
  img.length == size + 772 && lifeCycle d.fuses == 2 && decide (slot ≤ 7) && leAt t 1 3 == 0 && key.used && !key.revoked
    && leNat (sha256 modulus) == key.hash.toNat
    && pssVerify (beNat modulus) (sha256 (img.take (size + 388))) (slice t 388 384)

/-- TTL_FUSE[12:0] (R41). -/
def ttlFuse (d : Dev) : Nat :=
  d.fuses.dark0.toNat + d.fuses.dark1.toNat * 2 ^ 3 + d.fuses.dark2.toNat * 2 ^ 6 + d.fuses.dark3.toNat * 2 ^ 9
    + b2n d.fuses.half * 2 ^ 12

/-! ### RING (R127, R128) -/

/-- The rings of a section, none when its length is not what its counts imply or a reserved field is not zero. -/
def parseRings : Nat → List Byte → Option (List (List (Nat × Nat)))
  | 0, bs => if bs.isEmpty then some [] else none
  | n + 1, bs =>
    let len := leAt bs 0 1
    if bs.length < 2 + 2 * len || leAt bs 1 1 != 0 || len < 2 || 64 < len then none
    else
      let ms := (List.range len).map (fun i => leAt bs (2 + 2 * i) 2)
      if ms.any (fun m => m / 2 ^ 10 != 0) then none
      else (parseRings n (bs.drop (2 + 2 * len))).map (fun r => ms.map (fun m => (bits m 0 8, bits m 8 2)) :: r)

/-- Consecutive members of a ring, the closing hop last. -/
def ringHops (r : List (Nat × Nat)) : List ((Nat × Nat) × (Nat × Nat)) := List.zip r (r.drop 1 ++ r.take 1)
/-- The members of a ring follow one another as R128 asks. -/
def ringOrder (r : List (Nat × Nat)) : Bool :=
  let one := r.all (fun m => m.1 == (r.headD (0, 0)).1)
  let hs := ringHops r
  (hs.mapIdx (fun i h =>
    if h.1.1 = h.2.1 then decide (h.1.2 < h.2.2) || (one && i + 1 == hs.length) else virtNeighbours h.1.1 h.2.1)).all id
/-- The directed ring links that a ring uses. -/
def ringLinks (d : Dev) (r : List (Nat × Nat)) : List (Site × Site) :=
  (ringHops r).flatMap (fun h => if h.1.1 = h.2.1 then [] else linksOf (neighbourPath d h.1.1 h.2.1))
/-- No element of a list lies in a later one of the lists. -/
def disjointLists {α : Type} [BEq α] : List (List α) → Bool
  | [] => true
  | l :: r => r.all (fun m => l.all (fun x => !m.contains x)) && disjointLists r
/-- The RING section passes its own checks. -/
def checkRings (d : Dev) (bs : List Byte) : Option (List (List (Nat × Nat))) :=
  let n := leAt bs 0 2
  if bs.length < 4 || 384 < n || leAt bs 2 2 != 0 then none
  else match parseRings n (bs.drop 4) with
    | none => none
    | some rs =>
      let all := rs.flatten
      let ok := all.all (fun m => decide (m.1 < gridCores d)) && all.eraseDups.length == all.length && rs.all ringOrder
        && disjointLists (rs.map (ringLinks d))
      if ok then some rs else none

/-! ### BELL (R228, R229) -/

/-- A tree table at an offset of the section. -/
def parseTree (bs : List Byte) (off : Nat) : Option (List (Nat × Nat × BitVec 12)) :=
  let n := leAt bs off 2
  if bs.length < off + 4 || bs.length < off + 4 + 8 * n || n = 0 || 16384 < n || leAt bs (off + 2) 2 != 0 then none
  else
    let es := (List.range n).map (fun i =>
      let p := off + 4 + 8 * i
      (leAt bs p 2, leAt bs (p + 2) 1, leAt bs (p + 3) 1, leAt bs (p + 4) 2, leAt bs (p + 6) 2))
    let ids := es.map (·.1)
    let ok := es.all (fun e =>
        (e.2.1 ≤ 11 || e.2.1 == 0xFF) && e.2.2.1 == 0 && e.2.2.2.2 == 0 && e.2.2.2.1 / 2 ^ 12 == 0
          && (e.2.1 == 0xFF || !bit e.2.2.2.1 e.2.1))
      && es.countP (fun e => e.2.1 == 0xFF) == 1 && ids.eraseDups.length == ids.length
    if ok then some (es.map (fun e => (e.1, e.2.1, BitVec.ofNat 12 e.2.2.2.1))) else none
/-- A Bell record. -/
def parseBell (d : Dev) (bs : List Byte) (i : Nat) : Option BellDef :=
  let p := 4 + 72 * i
  let num := leAt bs p 2
  let kind := leAt bs (p + 2) 1
  let off := leAt bs (p + 4) 4
  let ring := leAt bs (p + 8) 32
  let wait := leAt bs (p + 0x28) 32
  let ok := num < 1016 && kind ≤ 1 && leAt bs (p + 3) 1 == 0 && (kind == 1 || off == 0) && ring != 0 && ring &&& wait == wait
    && decide (ring < 2 ^ gridCores d)
  if !ok then none
  else if kind = 0 then some { num := num, fabric := false, ring := BitVec.ofNat 256 ring, wait := BitVec.ofNat 256 wait, tree := [] }
  else (parseTree bs off).map (fun t =>
    { num := num, fabric := true, ring := BitVec.ofNat 256 ring, wait := BitVec.ofNat 256 wait, tree := t })
/-- The numbers rise. -/
def rising : List Nat → Bool
  | a :: b :: r => decide (a < b) && rising (b :: r)
  | _ => true
/-- The BELL section passes its own checks. -/
def checkBells (d : Dev) (bs : List Byte) : Option (List BellDef) :=
  let n := leAt bs 0 2
  if bs.length < 4 + 72 * n || 1016 < n || leAt bs 2 2 != 0 then none
  else match (List.range n).mapM (parseBell d bs) with
    | none => none
    | some l => if rising (l.map (·.num)) then some l else none

/-! ### STEAL (R269), SEED (R78), TIER (R311, R312) -/

/-- The STEAL section passes its own checks. -/
def checkSteal (d : Dev) (bs : List Byte) : Option (NMap (List Nat)) :=
  let entry := fun v => (List.range 4).map (fun i => leAt bs (4 * v + i) 1)
  let named := fun v => (entry v).filter (· != 0xFF)
  let ok := bs.length == 1024 && (List.range 256).all (fun v =>
    if v < gridCores d then
      (named v).all (fun u => decide (u < gridCores d) && virtNeighbours v u) && (named v).eraseDups.length == (named v).length
    else (named v).isEmpty)
  if ok then some (((List.range 256).map (fun v => (v, named v))).filter (fun p => !p.2.isEmpty)) else none

/-- Areas (base and length) do not overlap. -/
def areasApart : List (Nat × Nat) → Bool
  | [] => true
  | a :: r => r.all (fun b => !(a.1 < b.1 + b.2 && b.1 < a.1 + a.2)) && areasApart r
/-- The HBM areas that a TIER section names. -/
def tierAreas (d : Dev) (t : TierCfg) : List (Nat × Nat) :=
  if !t.large then []
  else (List.range 2).flatMap (fun p =>
    (if tierSize t p = 0 then [] else [(tierCbase t p, tierSize t p * 0x40000000)])
      ++ (if (cxlOf d p).cap = 0 then [] else [(tierLbase t p, 0x800000)]))
/-- The TIER section passes its own checks. -/
def checkTier (d : Dev) (bs : List Byte) : Option TierCfg :=
  let t : TierCfg :=
    { large := leAt bs 0 1 == 1, keepWays := leAt bs 1 1, size0 := leAt bs 2 1, size1 := leAt bs 3 1, cbase0 := leAt bs 8 8,
      cbase1 := leAt bs 16 8, lbase0 := leAt bs 24 8, lbase1 := leAt bs 32 8 }
  let cap := fun p => (cxlOf d p).cap.toNat
  let ok := bs.length == 40 && decide (leAt bs 0 1 ≤ 1) && leAt bs 4 4 == 0 &&
    (if !t.large then leNat (bs.drop 1) == 0
    else decide (t.keepWays ≤ 7) && decide (t.size0 ≤ 16) && decide (t.size1 ≤ 16) && decide (2048 < cap 0 + cap 1)
      && (List.range 2).all (fun p =>
          if cap p = 0 then tierSize t p == 0 && tierCbase t p == 0 && tierLbase t p == 0
          else tierLbase t p % 0x800000 == 0 && (tierSize t p == 0 || tierCbase t p % 0x40000000 == 0))
      && (tierAreas d t).all (fun a => decide (a.1 + a.2 ≤ hbmCap d)) && areasApart (tierAreas d t))
  if ok then some t else none

/-! ### ROUTE (R366, R367) -/

/-- The little-endian 32-bit words of some bytes. -/
def words32 : List Byte → List Nat
  | a :: b :: c :: e :: r => leNat [a, b, c, e] :: words32 r
  | _ => []
/-- The ports that the topology record shows up for this device. -/
def upMask (d : Dev) : Nat := listMask (indices 12 (fun q => recState d.fab.record (ownId d) q == 1 && decide (ownId d < recCount d.fab.record)))
/-- The ROUTE section passes its own checks. -/
def checkRoute (d : Dev) (devices : Nat) (bs : List Byte) : Option RouteCfg :=
  let torus := leAt bs 0 1 == 1
  let sw := leAt bs 2 2
  let x := leAt bs 0x30 2
  let y := leAt bs 0x32 2
  let z := leAt bs 0x34 2
  let es := if torus then [] else words32 (bs.drop 0x38)
  let up := upMask d
  let sub := fun m => m &&& up == m
  let r := d.fab.record
  let ok := decide (leAt bs 0 1 ≤ 1) && bs.length == (if torus then 56 else 65592) && leAt bs 1 1 == 0 && leAt bs 4 4 == 0
    && leAt bs 0x36 2 == 0 && leAt bs 8 8 == d.fab.topo.toNat &&
    (if torus then sw == 0 && recTorus r && x == recDim r 0 && y == recDim r 1 && z == recDim r 2
    else sw / 4096 == 0 && sub sw && x == 0 && y == 0 && z == 0
      && (es.mapIdx (fun i e => decide (e < 2 ^ 24) && sub (e % 4096) && sub (e / 4096)
            && ((i != ownId d && decide (i < devices)) || e == 0))).all id)
  if ok then
    some { torus := torus, switch := BitVec.ofNat 12 sw, topo := d.fab.topo, plan := slice bs 0x10 32, x := x, y := y, z := z,
           entries := ((es.mapIdx (fun i e => (i, BitVec.ofNat 32 e))).filter (fun p => p.2 != 0)) }
  else none

/-! ### COPY (R383, R384) -/

/-- The COPY section's fields. -/
def parseCopy (bs : List Byte) : CopyCfg :=
  { partner := leAt bs 0 2, destBoard := leAt bs 2 1 == 1, stepBell := leAt bs 4 2, hostFor := leAt bs 6 2, slotBase := leAt bs 8 8,
    slotSize := leAt bs 0x10 8, work := leAt bs 0x18 8, hostBase := leAt bs 0x20 8, hostSize := leAt bs 0x28 8,
    elapsed0 := leAt bs 0x30 8, mtbf0 := leAt bs 0x38 4, fail0 := leAt bs 0x3C 4, fixed := leAt bs 0x40 4,
    ranges := (List.range (leAt bs 3 1)).map (fun i =>
      let p := 0x48 + 24 * i
      { base := leAt bs p 8, pages := leAt bs (p + 8) 4, shadow := leAt bs (p + 16) 8 }) }
/-- The work area's size. -/
def workSize (c : CopyCfg) : Nat :=
  let hbm := ((c.ranges.filter (fun r => !boardRange r)).map (·.pages)).sum
  cdiv (0x1000000 + 0x1000 * hbm + 0x800000 * c.ranges.countP boardRange) 0x200000 * 0x200000
/-- A range lies where R384 allows it, and so does its shadow. -/
def rangeOk (d : Dev) (large : Bool) (r : CopyRange) : Bool :=
  let n := rangeLen r
  let mult := fun a => a % 0x200000 == 0
  decide (1 ≤ r.pages) && mult r.base && mult r.shadow &&
    (if boardRange r then
      large && r.shadow == 0 && (List.range 2).any (fun p =>
        decide (boardBase p ≤ r.base) && decide (r.base + n ≤ boardBase p + boardCap d p))
    else
      let s := hbmSlice d
      decide (r.base + n ≤ hbmCap d) && decide (r.shadow + n ≤ hbmCap d) && r.base / s == r.shadow / s
        && (r.base + n - 1) / s == r.base / s && (r.shadow + n - 1) / s == r.base / s
        && (max r.base r.shadow - min r.base r.shadow) % 0x600000 == 0)
/-- The COPY section passes its own checks. -/
def checkCopy (d : Dev) (devices : Nat) (bells : List BellDef) (t : TierCfg) (bs : List Byte) : Option CopyCfg :=
  let c := parseCopy bs
  let nr := leAt bs 3 1
  let peer := fun id => id == 0xFFFF || (id != ownId d && decide (id < devices))
  let mult := fun a => a % 0x200000 == 0
  let hbm := ((c.ranges.filter (fun r => !boardRange r)).map (·.pages)).sum
  let total := (c.ranges.map (·.pages)).sum
  let areas := c.ranges.map (fun r => (r.base, rangeLen r))
    ++ (c.ranges.filter (fun r => !boardRange r)).map (fun r => (r.shadow, rangeLen r))
    ++ [(c.work, workSize c), (c.hostBase, c.hostSize)] ++ tierAreas d t
  let ok := bs.length == 0x48 + 24 * nr && decide (nr ≤ 64) && decide (leAt bs 2 1 ≤ 1) && leAt bs 0x44 4 == 0
    && (List.range nr).all (fun i => leAt bs (0x48 + 24 * i + 12) 4 == 0)
    && peer c.partner && peer c.hostFor
    && bells.any (fun b => b.num == c.stepBell && b.fabric && b.tree.any (fun e => e.1 == ownId d))
    && mult c.work && mult c.hostBase && mult c.slotBase
    && c.ranges.all (rangeOk d t.large) && decide (hbm ≤ 16384) && c.slotSize == 0x200000 * (1 + total)
    && decide (c.work + workSize c ≤ hbmCap d) && areasApart (areas.filter (fun a => a.2 != 0))
  if ok then some c else none

/-! ### The checks in order (R38) -/

/-- A section that is absent has its empty value; a present one must pass its checks. -/
def sectOr {α : Type} (dir : List Sect) (t : Nat) (dflt : α) (f : List Byte → Option α) : Option α :=
  match sectOf dir t with
  | none => some dflt
  | some bs => f bs

/-- Check 6: the header's fields, the directory's types, and each section's own checks. -/
def ttSections (d : Dev) (img : List Byte) (dir : List Sect) : Option Timetable :=
  let devices := leAt img 0x10 4
  let types := dir.map (·.type)
  let ok := decide (1 ≤ dir.length) && decide (dir.length ≤ 16) && leAt img 0x0F 1 == 0 && leNat (slice img 0x14 12) == 0
    && decide (1 ≤ devices) && decide (devices ≤ 16384) && types.all (fun t => 1 ≤ t && t ≤ 8)
    && types.eraseDups.length == types.length && dir.all (fun s => s.rsv == 0)
  if !ok then none
  else do
    let rings ← sectOr dir 2 [] (checkRings d)
    let route ← sectOr dir 3 none (fun bs => (checkRoute d devices bs).map some)
    let bells ← sectOr dir 4 [] (checkBells d)
    let steal ← sectOr dir 5 [] (checkSteal d)
    let tier ← sectOr dir 6 {} (checkTier d)
    let seed ← sectOr dir 7 0 (fun bs => if bs.length = 8 then some (BitVec.ofNat 64 (leNat bs)) else none)
    let copy ← sectOr dir 8 none (fun bs => (checkCopy d devices bells tier bs).map some)
    return { digest := BitVec.ofNat 256 (leNat (sha256 img)), devices := devices, rings := rings, bells := bells, steal := steal,
             seed := seed, tier := tier, route := route, copy := copy }

/-- The checks of R38: the Timetable, or the code of TTL_STATUS.ERR. DESIGN CHOICE: an image without a GRID section, one whose
header lists no section among them, fails with code 0x05, as one whose GRID section differs does; R38 names no code for it. -/
def ttCheck (d : Dev) (img : List Byte) : Except Nat Timetable :=
  let size := leAt img 8 4
  if img.length < 0x20 || leAt img 0 4 != 0x3154544C || leAt img 4 2 != 1 then .error 1
  else if size < 0x20 || !ttSigned d img size then .error 2
  else if leAt img 0x0C 1 != d.fuses.grade.toNat then .error 3
  else if leAt img 0x0D 2 != ttlFuse d then .error 4
  else match ttDir img size with
    | none => .error 5
    | some dir =>
      if !dir.all (fun s => crc32c s.data == s.crc) || sectOf dir 1 != some (canonicalGrid d) then .error 5
      else match ttSections d img dir with
        | none => .error 6
        | some t => .ok t

/-! ### The load (R38 to R40, R322, R550, R551) -/

/-- TTL_STATUS.STATE as a code (R41). -/
def ttlStateCode : TtlState → Nat
  | .none => 0
  | .loading => 1
  | .active => 2
  | .failed => 3
/-- TTL_ID.TTID (R41). -/
def ttId (d : Dev) : Nat := ((d.ttl.active.map Timetable.digest).getD 0).toNat % 2 ^ 32
/-- The payload of a TT_LOAD response. -/
def ttPayload (d : Dev) : List Byte := by1 d.ttl.err.toNat ++ by1 (ttlStateCode d.ttl.state) ++ zeros 2 ++ leBytes 4 (ttId d)
/-- A load fails with an error code; what was active stays (R39). -/
def ttFail (d : Dev) (err status : Nat) : Dev :=
  let d1 := { d with ttl := { d.ttl with state := .failed, err := BitVec.ofNat 8 err, loading := none } }
  regRespond d1 status (ttPayload d1)

/-- Both CXL ports have been enumerated, or are down (R307). -/
def cxlSettled (d : Dev) : Bool := (List.range 2).all (fun p => (cxlOf d p).link != .training && !(cxlOf d p).waitActive)
/-- TT_LOAD, once both CXL ports are enumerated (R307): the request is checked, then the image in the order of R38; a Timetable that passes begins to be applied, which
begins with the fold (R389). -/
def ttLoadAt (d : Dev) : Dev :=
  if !regAsked d 2 || d.ttl.loading.isSome || !cxlSettled d then d
  else
    let addr := mbField d.reg.mb 0 8
    let n := mbField d.reg.mb 8 4
    let gate := regGate d 12 (addr % 64 == 0 && decide (addr + n ≤ hbmCap d)) true true
    if gate != 0 then regRespond d gate []
    else if jobActive d then ttFail d 7 3
    else match rdBad d addr n with
      | some g => ttFail (ueEvent d g none) 2 7
      | none =>
        match ttCheck d (rdBytes d addr n) with
        | .error e => ttFail d e 7
        | .ok t => foldCopy { d with ttl := { d.ttl with state := .loading, err := 0, loading := some t } }

/-- The tier of a port takes the mode of the new Timetable; in large mode bank 0 of its dirty log is zeroed and active (R325). -/
def activateTier (d : Dev) (p : Nat) : Dev :=
  let t := tierCfg d
  let log := t.large && (cxlOf d p).cap != 0
  let d1 := if log then wipe d (tierLbase t p) 0x400000 else d
  modCxl d1 p (fun c => { c with large := t.large, hasLog := log, logBank := false, logBusy := false, hit := 0, miss := 0, wb := 0 })

/-- TIMETABLE_ACTIVE: the tier caches have been written back and emptied; every section takes effect at once, the Bells and ring
counts start from zero, and a round of agreement starts (R39, R232, R322, R376). -/
def ttActivateAt (d : Dev) : Dev :=
  match d.ttl.loading with
  | none => d
  | some t =>
    let d1 := flushAndEmpty (flushAndEmpty d 0) 1
    let d2 := { d1 with
      ttl := { state := .active, err := 0, active := some t }
      cores := d1.cores.map (fun c => (c.1, { c.2 with ringSteps := [] })) }
    let d3 := activateCopy (activateTier (activateTier (resetUserBells d2) 0) 1)
    let d4 := agreeStart d3
    regRespond d4 0 (ttPayload d4)

end Sys2Proof.Machine
end

