-- ==== Sys2Proof/Machine/Flags.lean ====
section
/-!
DEFINITION. The status words: what a read of each device register returns (R41, R193, R239, R240, R274, R327, R328, R382, R405,
R429, R454, R544 to R548). Each function takes the device now, for fields that are read directly, and the shadow copy, for SHD
and LVL fields and for the blocks of the compute dies (R535).
-/
namespace Sys2Proof.Machine

/-! ### Global, reset and power, pacing and mailboxes (R545 to R548) -/

/-- The block bit of GLB_PFMAP that a word belongs to. -/
def pfBlock (off : Nat) : Nat :=
  if off < 0x20000 then 0 else if off < 0x30000 then 1 else if off < 0x70000 then 2 else if off < 0xA0000 then 3
  else if off < 0xC0000 then 4 else 5
/-- The low or high half of a 64-bit value. -/
def half (x i : Nat) : Nat := x / 2 ^ (32 * i) % 2 ^ 32
/-- The global block. -/
def globalWord (l s : Dev) (o : Nat) : Nat :=
  match o with
  | 0x00 => l.fuses.grade.toNat + l.fuses.step.toNat * 2 ^ 4 + 0x100
  | 0x04 => half l.glb.serial.toNat 0
  | 0x08 => half l.glb.serial.toNat 1
  | 0x0C => l.glb.scratch.toNat
  | 0x10 => half s.glb.timeUs.toNat 0
  | 0x14 => half s.glb.timeUs.toNat 1
  | 0x20 => listMask ((s.glb.faulted.map pfBlock).eraseDups)
  | 0x24 => s.glb.pfAddr.toNat
  | 0x28 => s.glb.pfCnt.toNat
  | 0x2C => s.glb.badAcc.toNat
  | 0x30 => s.glb.syncTo.toNat
  | _ => 0
/-- The reset and power block. -/
def resetWord (l s : Dev) (o : Nat) : Nat :=
  let r := s.rp
  match o with
  | 0x00 => b2n l.rp.swKind * 2 + b2n l.rp.keepHbm * 4
  | 0x04 => b2n r.done + b2n r.trimV * 2 + b2n r.trimDef * 4 + b2n r.blockReset.isSome * 8 + r.strap.toNat * 16
  | 0x08 => l.rp.blk.toNat + b2n r.honoured * 2 ^ 9
  | 0x0C => l.rp.blkTo.toNat
  | 0x10 => rstLast s
  | 0x80 => pwrCode r.pwr + b2n r.vinGood * 2 ^ 4 + b2n r.pfail * 2 ^ 5 + b2n r.thold * 2 ^ 6 + b2n r.huValid * 2 ^ 7
  | 0x84 => r.vinMv.toNat + r.vinW.toNat * 2 ^ 16
  | 0x88 => r.capUf.toNat + r.ehMj.toNat * 2 ^ 16
  | 0x8C => r.dieTemp.toNat + r.auxTemp.toNat * 2 ^ 8
  | o => if 0x44 ≤ o && o ≤ 0x70 then (mapGet (0 : BitVec 16) r.cnt ((o - 0x40) / 4)).toNat else 0
/-- The global part of the pacing block. -/
def paceWord (l s : Dev) (o : Nat) : Nat :=
  let p := s.pace
  match o with
  | 0x04 => p.tgt.toNat
  | 0x08 => p.cur.toNat + p.ceil.toNat * 2 ^ 8 + p.epoch.toNat * 2 ^ 16 + b2n p.busy * 2 ^ 24 + b2n p.pstr * 2 ^ 25
  | 0x0C => p.therm.toNat
  | 0x10 => l.pace.limit.toNat + l.pace.fast.toNat * 2 ^ 12
  | _ => 0
/-- A mailbox block: the buffer reads zero while the mailbox is busy (R549). -/
def mailWord (m : Mailbox) (o : Nat) : Nat :=
  let st := match m.state with
    | .idle => 0 | .busy => 1 | .ready => 2
  if o = 4 then st + m.count.toNat * 2 ^ 8
  else if 0x1000 ≤ o && o < 0x2000 && m.state != .busy then leNat (mbRead m (o - 0x1000) 4)
  else 0

/-! ### Host interface (R454) and MSI-X (R452) -/

/-- A context's registers. -/
def ctxWord (l s : Dev) (k o : Nat) : Nat :=
  let c := ctxOf l k
  let z := ctxOf s k
  match o with
  | 0x00 => b2n c.en + b2n c.fence * 2 + b2n c.remote * 4
  | 0x04 => b2n z.job.isSome + pendCount z % 32 * 2 + z.head.toNat * 2 ^ 16
  | 0x08 => half c.cpl.toNat 0
  | 0x0C => half c.cpl.toNat 1
  | o =>
    if 0x20 ≤ o && o < 0x40 then half c.cores.toNat ((o - 0x20) / 4)
    else if 0x40 ≤ o && o < 0xC0 then
      let f := mapGet {} c.fences ((o - 0x40) / 16)
      match o % 16 with
      | 0 => half f.base.toNat 0
      | 4 => half f.base.toNat 1
      | 8 => f.size.toNat
      | _ => 0
    else 0
/-- An HDMA channel's registers. -/
def hdmaWord (l s : Dev) (c o : Nat) : Nat :=
  let h := hdmaOf l c
  let z := hdmaOf s c
  match o with
  | 0x00 => half h.list.toNat 0
  | 0x04 => half h.list.toNat 1
  | 0x08 => h.count.toNat + h.ctx.toNat * 2 ^ 16 + h.pri.toNat * 2 ^ 20
  | 0x0C => b2n z.busy + z.last.toNat * 2
  | 0x10 => z.errCnt.toNat
  | _ => 0
/-- The host-interface block. -/
def hostWord (l s : Dev) (o : Nat) : Nat :=
  if o = 0x00 then s.host.rate.toNat + s.host.width.toNat * 2 ^ 3 + b2n s.host.syll * 2 ^ 8
  else if o = 0x0C then l.host.winHi.toNat * 2 ^ 4
  else if o = 0x10 then s.host.refused.toNat
  else if 0x100 ≤ o && o < 0x500 then ctxWord l s ((o - 0x100) / 0x100) (o % 0x100)
  else if 0x800 ≤ o && o < 0x900 then hdmaWord l s ((o - 0x800) / 0x40) (o % 0x40)
  else 0
/-- The MSI-X table and the Pending Bit Array. -/
def msixWord (l : Dev) (o : Nat) : Nat :=
  if o < 0x100 then
    if o % 16 = 12 then b2n (bit l.host.msixMask.toNat (o / 16)) else (mapGet (0 : Word) l.host.msixTable (o / 4)).toNat
  else if o = 0x800 then l.host.msixPend.toNat
  else 0

/-! ### Timetable loader (R33, R41), HBM (R327), CXL and tier (R328) -/

/-- The Timetable loader. -/
def ttlWord (l s : Dev) (o : Nat) : Nat :=
  match o with
  | 0 => ttlFuse l
  | 4 => ttlStateCode s.ttl.state + b2n (ttActive s) * 4 + b2n (ttActive s) * 8 + s.ttl.err.toNat * 2 ^ 8
  | 8 => ttId s
  | _ => 0
/-- The distance table, while a Timetable is active. -/
def distWord (l : Dev) (o : Nat) : Nat := if ttActive l then distEntry l (o / 0x400) (o % 0x400 / 4) else 0
/-- The registers of an HBM controller. -/
def hbmWord (l s : Dev) (c o : Nat) : Nat :=
  let h := hbmOf s c
  let st := match h.state with
    | .off => 0 | .training => 1 | .ready => 2 | .failed => 3
  match o with
  | 0x00 => st + b2n h.refHot * 4 + b2n h.throt * 8 + h.temp.toNat * 2 ^ 4
  | 0x04 => h.ceCnt.toNat
  | 0x08 => h.ueCnt.toNat
  | 0x0C => half h.ueAddr.toNat 0 / 64 * 64
  | 0x10 => half h.ueAddr.toNat 1
  | 0x14 => b2n (hbmOf l c).scrubEn + (hbmOf l c).scrubPeriod.toNat * 2 ^ 8
  | _ => 0
/-- The registers of a CXL port and its tier manager. -/
def cxlWord (s : Dev) (p o : Nat) : Nat :=
  let c := cxlOf s p
  let lk := match c.link with
    | .down => 0 | .training => 1 | .up64 => 2 | .up32 => 3
  match o with
  | 0x00 => lk + c.lanes.toNat * 4 + b2n c.active * 2 ^ 7
  | 0x04 => c.cap.toNat
  | 0x0C => b2n c.large + b2n c.flushing * 2 + b2n c.logBusy * 4 + b2n c.logBank * 8
  | 0x10 => c.hit.toNat
  | 0x14 => c.miss.toNat
  | 0x18 => c.wb.toNat
  | 0x1C => c.ueCnt.toNat
  | 0x20 => c.retry.toNat
  | _ => 0

/-! ### Fabric (R382), Copybook and Detention (R405) -/

/-- FAB_STATUS. -/
def fabStatus (s : Dev) : Nat :=
  let rc := match s.fab.rc with
    | .none => 0 | .running => 1 | .numbered => 2 | .complete => 3 | .failed => 4
  let isolated := (List.range 12).all (fun p => (fabPort s p).state == .down)
  rc + agCode s.fab.ag * 2 ^ 3 + b2n isolated * 2 ^ 6 + s.fab.rcErr.toNat * 2 ^ 8 + s.fab.count.toNat * 2 ^ 16
/-- The global fabric registers. -/
def fabWord (l s : Dev) (o : Nat) : Nat :=
  match o with
  | 0x00 => s.fab.id.toNat
  | 0x04 => b2n l.fab.root * 4
  | 0x08 => fabStatus s
  | 0x10 => half s.fab.topo.toNat 0
  | 0x14 => half s.fab.topo.toNat 1
  | 0x18 => half s.fab.fp.toNat 0
  | 0x1C => half s.fab.fp.toNat 1
  | 0x20 => s.fab.epoch.toNat + s.fab.tree.toNat * 2 ^ 8
  | 0x24 => l.fab.timeout.toNat
  | 0x28 => s.fab.late.toNat
  | 0x2C => s.fab.drop.toNat
  | _ => 0
/-- The registers of a fabric port. -/
def portWord (l s : Dev) (p o : Nat) : Nat :=
  let q := fabPort l p
  let z := fabPort s p
  let st := match z.state with
    | .down => 0 | .training => 1 | .up => 2 | .boot => 3
  match o with
  | 0x00 => b2n q.en + q.chan.toNat * 2 + q.txinv.toNat * 2 ^ 3
  | 0x04 => st + z.lanes.toNat * 4 + b2n z.rev * 2 ^ 5 + z.nport.toNat * 2 ^ 8 + z.nid.toNat * 2 ^ 16
  | 0x08 => z.replayCnt.toNat
  | 0x0C => z.fecc.toNat
  | 0x10 => z.fecu.toNat
  | 0x14 => z.miss.toNat
  | _ => 0
/-- The Copybook and Detention registers. -/
def copyWord (l s : Dev) (o : Nat) : Nat :=
  let c := s.copy
  let st := match c.state with
    | .noSection => 0 | .idle => 1 | .opened => 2 | .frozen => 3
  let last := match c.last with
    | .none => 0 | .committed => 1 | .drainFailed => 2 | .restarted => 3 | .aborted => 4
  match o with
  | 0x00 => b2n l.copy.arm
  | 0x04 => st + b2n c.hold * 4 + last * 2 ^ 4
  | 0x08 => half l.copy.seq.toNat 0
  | 0x0C => half l.copy.seq.toNat 1
  | 0x10 => c.t.toNat
  | 0x14 => c.c.toNat
  | 0x18 => c.m.toNat
  | 0x1C => c.fail.toNat
  | 0x40 => b2n s.det.device + s.det.cause.toNat * 2 + s.det.core.toNat * 2 ^ 8
  | 0x64 => l.det.vcore.toNat
  | o => if 0x44 ≤ o && o ≤ 0x60 then listMask (indices 32 (fun b => isDetained s ((o - 0x44) / 4 * 32 + b))) else 0

/-! ### Pacer regions (R429) and the cores (R193, R239, R240, R274) -/

/-- The registers of a pacer region. -/
def pacerWord (s : Dev) (r o : Nat) : Nat :=
  let p := pacerOf s r
  let st := match p.state with
    | .inReset => 0 | .trimming => 1 | .stable => 2 | .failed => 3
  match o with
  | 0x00 => st + p.level.toNat * 4 + p.delay.toNat * 2 ^ 4 + b2n (s.pace.pstr && pacerRuns s r) * 2 ^ 14
  | 0x04 => p.beats.toNat
  | 0x08 => p.str1.toNat
  | 0x0C => p.str2.toNat
  | 0x10 => p.strp.toNat
  | _ => 0
/-- PRC_STATUS. -/
def prcStatus (c : Core) : Nat :=
  let st := match c.state with
    | .idle => 0 | .running => 1 | .halted => 2 | .brk => 3 | .faulted => 4 | .stopped => 5 | .detained => 6
  st + b2n (draining c) * 2 ^ 3 + c.brkCmp.toNat * 2 ^ 4 + c.cause.toNat * 2 ^ 8 + c.haltCode.toNat * 2 ^ 16
/-- PRC_OCC. -/
def prcOcc (c : Core) : Nat := sbUsed c + queued c .vec * 2 ^ 7 + strmQueued c * 2 ^ 13 + pooled c * 2 ^ 19
/-- The stall counters of R191. -/
def prcStall (c : Core) (i : Nat) : Nat :=
  match i with
  | 0 => c.sbStall.toNat
  | 1 => c.qfStall.toNat
  | 2 => c.slotStall.toNat
  | 3 => c.swaitStall.toNat
  | 4 => c.bwaitStall.toNat
  | 5 => c.tdrainStall.toNat
  | 6 => c.haltStall.toNat
  | _ => c.fetchStall.toNat
/-- The core registers. -/
def coreWord (s : Dev) (v o : Nat) : Nat :=
  let c := coreOf s v
  match o with
  | 0x04 => prcStatus c
  | 0x08 => half c.start.toNat 0
  | 0x0C => half c.start.toNat 1
  | 0x10 => half c.pc.toNat 0
  | 0x14 => half c.pc.toNat 1
  | 0x18 => half c.issue.toNat 0
  | 0x1C => half c.issue.toNat 1
  | 0x20 => c.faultOpc.toNat + c.faultQue.toNat * 2 ^ 8 + c.faultTag.toNat * 2 ^ 16
  | 0x24 => prcOcc c
  | o =>
    if 0x100 ≤ o && o < 0x200 then
      let a := mapGet {} c.areg ((o - 0x100) / 16)
      match o % 16 with
      | 0 => half a.base.toNat 0
      | 4 => half a.base.toNat 1
      | 8 => a.stride.toNat
      | _ => 0
    else if 0x200 ≤ o && o < 0x220 then (mapGet (0 : Word) c.lreg ((o - 0x200) / 4)).toNat
    else if 0x220 ≤ o && o < 0x240 then (mapGet (0 : Word) c.ereg ((o - 0x220) / 4)).toNat
    else if 0x240 ≤ o && o < 0x2C0 then
      let k := mapGet {} c.cmpr ((o - 0x240) / 16)
      match o % 16 with
      | 0 => k.mode.toNat + k.ctag.toNat * 2 ^ 8
      | 4 => half k.cval.toNat 0
      | 8 => half k.cval.toNat 1
      | _ => 0
    else if 0x300 ≤ o && o < 0x320 then prcStall c ((o - 0x300) / 4)
    else if 0x320 ≤ o && o < 0x360 then
      let a := arrOf c ((o - 0x320) / 16)
      match o % 16 with
      | 0 => a.feedStall.toNat
      | 4 => a.ringStall.toNat
      | 8 => a.resStall.toNat
      | _ => a.gbpStall.toNat
    else 0
/-- The stream registers. -/
def strmWord (s : Dev) (v o : Nat) : Nat :=
  let t := (coreOf s v).strm
  match o with
  | 0x00 => t.xfers.length + (t.lists.map (·.buf.length)).sum * 2 ^ 11
  | 0x04 => t.errCnt.toNat
  | 0x08 => t.errCode.toNat + t.errKind.toNat * 2 ^ 4 + t.errEntry.toNat * 2 ^ 16
  | 0x0C => half t.errAddr.toNat 0
  | 0x10 => half t.errAddr.toNat 1
  | o => if 0x40 ≤ o && o ≤ 0x6C then (mapGet (0 : Word) t.stalls o).toNat else 0
/-- The vector registers. -/
def vecWord (s : Dev) (v o : Nat) : Nat :=
  let x := (coreOf s v).vec
  match o with
  | 0x00 => x.detail.toNat + x.fn.toNat * 2 ^ 8
  | 0x04 => x.posted.toNat
  | 0x08 => x.loc.toNat
  | 0x0C => x.away.toNat
  | 0x10 => x.stolen.toNat
  | 0x14 => x.busy0.toNat
  | 0x18 => x.busy1.toNat
  | 0x1C => x.fwait.toNat
  | _ => 0

/-! ### The register map (R544) -/

/-- The offset lies in a block that is served before the Syllabus is active (R433). -/
def earlyBlock (o : Nat) : Bool :=
  o < 0x1000 || (0x10000 ≤ o && o < 0x11000) || (0x30000 ≤ o && o < 0x32000) || (0x40000 ≤ o && o < 0x42000)
    || (0x60000 ≤ o && o < 0x70000)
/-- What a read of the aligned word at a BAR0 offset returns. -/
def regWord (l s : Dev) (o : Nat) : Nat :=
  let grid := gridCores l
  if !syllActive l && !earlyBlock o then 0
  else if o < 0x1000 then globalWord l s o
  else if 0x10000 ≤ o && o < 0x11000 then resetWord l s (o % 0x10000)
  else if 0x20000 ≤ o && o < 0x21000 then paceWord l s (o % 0x10000)
  else if 0x30000 ≤ o && o < 0x32000 then (if l.reg.running then mailWord l.reg.mb (o % 0x10000) else 0)
  else if 0x40000 ≤ o && o < 0x42000 then (if l.prefect.boot != .selfTest then mailWord l.prefect.mb (o % 0x10000) else 0)
  else if 0x60000 ≤ o && o < 0x6F000 then hostWord l s (o % 0x10000)
  else if 0x6F000 ≤ o && o < 0x70000 then msixWord l (o % 0x1000)
  else if 0x70000 ≤ o && o < 0x71000 then ttlWord l s (o % 0x10000)
  else if 0x90000 ≤ o && o < 0x90C00 then hbmWord l s ((o - 0x90000) / 0x100) (o % 0x100)
  else if 0xA0000 ≤ o && o < 0xA2000 then cxlWord s ((o - 0xA0000) / 0x1000) (o % 0x1000)
  else if 0xB0000 ≤ o && o < 0xB1000 then fabWord l s (o % 0x1000)
  else if 0xB1000 ≤ o && o < 0xB1C00 then portWord l s ((o - 0xB1000) / 0x100) (o % 0x100)
  else if 0xC0000 ≤ o && o < 0xC1000 then copyWord l s (o % 0x1000)
  else if 0xE0000 ≤ o && o < 0xE3B00 then pacerWord s ((o - 0xE0000) / 0x40) (o % 0x40)
  else if 0x800000 ≤ o && o < 0x830000 then distWord l (o - 0x800000)
  else if 0xC00000 ≤ o && o < 0xC00000 + 0x1000 * grid then coreWord s ((o - 0xC00000) / 0x1000) (o % 0x1000)
  else if 0xD00000 ≤ o && o < 0xD00000 + 0x100 * grid then strmWord s ((o - 0xD00000) / 0x100) (o % 0x100)
  else if 0xD80000 ≤ o && o < 0xD80000 + 0x100 * grid then vecWord s ((o - 0xD80000) / 0x100) (o % 0x100)
  else 0

end Sys2Proof.Machine
end

