-- ==== Sys2Proof/Machine/RegWrite.lean ====
section
/-!
DEFINITION. Register writes (R532 to R543): each field by its access type, writes to compute-die blocks that wait for the next
slow-clock edge (R535), parity (R538, R539), and the slow-clock edge itself.
-/
namespace Sys2Proof.Machine

/-- The word with its half i replaced. -/
def setHalf (x i v : Nat) : Nat := setBits x (32 * i) 32 v

/-! ### Writes outside the compute dies -/

/-- RST_CTL: SWKIND and KEEP_HBM, then CLRCNT and SWRST with the values just written (R510, R527, R541). -/
def rstCtlWrite (d : Dev) (v : Nat) : Dev :=
  let d1 := { d with rp := { d.rp with swKind := bit v 1, keepHbm := bit v 2 } }
  let d2 := if bit v 3 then { d1 with rp := { d1.rp with cnt := [] } } else d1
  if bit v 0 then kindReset d2 d2.rp.swKind 5 noSrc else d2
/-- RST_BLOCK: BLK, then GO with the block just written (R519). -/
def rstBlockWrite (d : Dev) (v : Nat) : Dev :=
  let d1 := { d with rp := { d.rp with blk := BitVec.ofNat 8 (bits v 0 8) } }
  if bit v 8 then blockStart d1 (bits v 0 8) 0 else d1
/-- The reset and power block. -/
def resetWrite (d : Dev) (o v : Nat) : Dev :=
  match o with
  | 0x00 => rstCtlWrite d v
  | 0x08 => rstBlockWrite d v
  | 0x0C => { d with rp := { d.rp with blkTo := BitVec.ofNat 16 (bits v 0 16) } }
  | _ => d
/-- The pacing block: CLRCNT, and PACE_PWR. DESIGN CHOICE: LIMIT and FAST hold and read back the value written; R426 and R428 bound them
where they act (`limitW`, `fastW`). -/
def paceWrite (d : Dev) (o v : Nat) : Dev :=
  match o with
  | 0x00 => if bit v 0 then clearPacers d else d
  | 0x10 => { d with pace := { d.pace with limit := BitVec.ofNat 12 (bits v 0 12), fast := BitVec.ofNat 12 (bits v 12 12) } }
  | _ => d
/-- A SYNC access that ends at the 4 µs point (R536). -/
def syncLate (d : Dev) : Dev := { d with glb := { d.glb with syncTo := satAdd d.glb.syncTo 1 } }
/-- The Registrar's mailbox block; its processor may be in reset (R536, R548, R549). -/
def regMailWrite (d : Dev) (o v : Nat) : Dev :=
  if o = 0 then (if bit v 0 && d.reg.running then { d with reg := { d.reg with mb := mbGo d.reg.mb } } else d)
  else if 0x1000 ≤ o then
    (if d.reg.running then { d with reg := { d.reg with mb := mbWrite d.reg.mb (o - 0x1000) (leBytes 4 v) } } else syncLate d)
  else d
/-- The Prefect's mailbox block. -/
def prfMailWrite (d : Dev) (o v : Nat) : Dev :=
  let up := d.prefect.boot != .selfTest
  if o = 0 then (if bit v 0 && up then setPrf d (fun p => { p with mb := mbGo p.mb }) else d)
  else if 0x1000 ≤ o then
    (if up then setPrf d (fun p => { p with mb := mbWrite p.mb (o - 0x1000) (leBytes 4 v) }) else syncLate d)
  else d
/-- A context's registers (R436, R437, R454). -/
def ctxWrite (d : Dev) (k o v : Nat) : Dev :=
  match o with
  | 0x00 => ctxCtlWrite d k v .ok
  | 0x08 => modCtx d k (fun c => { c with cpl := BitVec.ofNat 64 (setHalf c.cpl.toNat 0 v) })
  | 0x0C => modCtx d k (fun c => { c with cpl := BitVec.ofNat 64 (setHalf c.cpl.toNat 1 v) })
  | o =>
    if 0x20 ≤ o && o < 0x40 then coresWriteAt d k ((o - 0x20) / 4) v
    else if 0x40 ≤ o && o < 0xC0 then
      let i := (o - 0x40) / 16
      let put := fun (f : FenceReg → FenceReg) => modCtx d k (fun c => { c with fences := mapMod {} c.fences i f })
      match o % 16 with
      | 0 => put (fun f => { f with base := BitVec.ofNat 48 (setHalf f.base.toNat 0 v) })
      | 4 => put (fun f => { f with base := BitVec.ofNat 48 (setHalf f.base.toNat 1 v) })
      | 8 => put (fun f => { f with size := BitVec.ofNat 32 v })
      | _ => d
    else d
/-- An HDMA channel's registers. -/
def hdmaWrite (d : Dev) (c o v : Nat) : Dev :=
  match o with
  | 0x00 => modHdma d c (fun h => { h with list := BitVec.ofNat 48 (setHalf h.list.toNat 0 v) })
  | 0x04 => modHdma d c (fun h => { h with list := BitVec.ofNat 48 (setHalf h.list.toNat 1 v) })
  | 0x08 => hdmaCtlWrite d c v
  | _ => d
/-- The host-interface block. -/
def hostWrite (d : Dev) (o v : Nat) : Dev :=
  if o = 0x0C then { d with host := { d.host with winHi := BitVec.ofNat 12 (bits v 4 12) } }
  else if 0x100 ≤ o && o < 0x500 then ctxWrite d ((o - 0x100) / 0x100) (o % 0x100) v
  else if 0x800 ≤ o && o < 0x900 then hdmaWrite d ((o - 0x800) / 0x40) (o % 0x40) v
  else d
/-- The MSI-X table: clearing a mask bit sends a pending message (R452). -/
def msixWrite (d : Dev) (o v : Nat) : Dev :=
  if 0x100 ≤ o then d
  else if o % 16 = 12 then
    if bit v 0 then { d with host := { d.host with msixMask := d.host.msixMask ||| BitVec.ofNat 16 (2 ^ (o / 16)) } }
    else msixUnmaskAt d (o / 16)
  else { d with host := { d.host with msixTable := mapPut d.host.msixTable (o / 4) (BitVec.ofNat 32 v) } }
/-- TIER_CTL of a port. -/
def tierWrite (d : Dev) (p v : Nat) : Dev :=
  let d1 := if bit v 0 then flushStart d p else d
  if bit v 1 then logSwapAt d1 p else d1
/-- The global fabric registers: ROOT, then RCGO and AGREE. -/
def fabWrite (d : Dev) (o v : Nat) : Dev :=
  match o with
  | 0x04 =>
    let d1 := { d with fab := { d.fab with root := bit v 2 } }
    let d2 := if bit v 0 then rcgoAt d1 else d1
    if bit v 1 then agreeStart d2 else d2
  | 0x24 => { d with fab := { d.fab with timeout := BitVec.ofNat 16 (bits v 0 16) } }
  | _ => d
/-- FAB_PCFG of a port: a port that is disabled goes down (R332). -/
def pcfgWrite (d : Dev) (p v : Nat) : Dev :=
  let d1 := modPort d p (fun q =>
    { q with en := bit v 0, chan := BitVec.ofNat 2 (bits v 1 2), txinv := BitVec.ofNat 4 (bits v 3 4) })
  if bit v 0 then d1 else portGone d1 p false
/-- COPY_SEQ: it takes effect while ARM is 0 and the Copybook is idle (R404). -/
def seqWrite (d : Dev) (i v : Nat) : Dev :=
  if d.copy.arm || d.copy.state != .idle then d
  else { d with copy := { d.copy with seq := BitVec.ofNat 64 (setHalf d.copy.seq.toNat i v) } }
/-- The Copybook and Detention registers. -/
def copyRegWrite (d : Dev) (o v : Nat) : Dev :=
  match o with
  | 0x00 =>
    let d1 := { d with copy := { d.copy with arm := bit v 0 } }
    let d2 := if bit v 1 then roundDue d1 else d1
    if bit v 2 then roundAbort d2 else d2
  | 0x08 => seqWrite d 0 v
  | 0x0C => seqWrite d 1 v
  | 0x64 => dcoreAt d v
  | _ => d
/-- A write of an aligned word outside the compute-die blocks takes effect. -/
def liveWrite (d : Dev) (o v : Nat) : Dev :=
  if o = 0x0C then { d with glb := { d.glb with scratch := BitVec.ofNat 32 v } }
  else if 0x10000 ≤ o && o < 0x11000 then resetWrite d (o % 0x10000) v
  else if 0x20000 ≤ o && o < 0x21000 then paceWrite d (o % 0x10000) v
  else if 0x30000 ≤ o && o < 0x32000 then regMailWrite d (o % 0x10000) v
  else if 0x40000 ≤ o && o < 0x42000 then prfMailWrite d (o % 0x10000) v
  else if 0x60000 ≤ o && o < 0x6F000 then hostWrite d (o % 0x10000) v
  else if 0x6F000 ≤ o && o < 0x70000 then msixWrite d (o % 0x1000) v
  else if 0x90000 ≤ o && o < 0x90C00 && o % 0x100 = 0x14 then
    modHbm d ((o - 0x90000) / 0x100) (fun h => { h with scrubEn := bit v 0, scrubPeriod := BitVec.ofNat 8 (bits v 8 8) })
  else if o = 0xA0008 then tierWrite d 0 v
  else if o = 0xA1008 then tierWrite d 1 v
  else if 0xB0000 ≤ o && o < 0xB1000 then fabWrite d (o % 0x1000) v
  else if 0xB1000 ≤ o && o < 0xB1C00 && o % 0x100 = 0 then pcfgWrite d ((o - 0xB1000) / 0x100) v
  else if 0xC0000 ≤ o && o < 0xC1000 then copyRegWrite d (o % 0x1000) v
  else d

/-! ### Writes to the core registers (R193, R535) -/

/-- PRC_CTL: its actions in the order of its bits. -/
def prcCtlWrite (d : Dev) (v w : Nat) (host : Bool) : Dev :=
  let d1 := if bit w 0 then startCore d v else d
  let d2 := if bit w 1 then (if host then hostHalt d1 v else haltReqAt d1 v) else d1
  let d3 := if bit w 2 then modCore d2 v resumeCore else d2
  if bit w 3 then modCore d3 v clearStalls else d3
/-- A core register that software sets; while STATE is running nothing changes. -/
def coreSet (c : Core) (o v : Nat) : Core :=
  if c.state = .running then c
  else if o = 0x08 then { c with start := BitVec.ofNat 48 (setHalf c.start.toNat 0 (v / 16 * 16)) }
  else if o = 0x0C then { c with start := BitVec.ofNat 48 (setHalf c.start.toNat 1 v) }
  else if 0x100 ≤ o && o < 0x200 then
    let put := fun (f : AReg → AReg) => { c with areg := mapMod {} c.areg ((o - 0x100) / 16) f }
    match o % 16 with
    | 0 => put (fun a => { a with base := BitVec.ofNat 48 (setHalf a.base.toNat 0 v) })
    | 4 => put (fun a => { a with base := BitVec.ofNat 48 (setHalf a.base.toNat 1 v) })
    | 8 => put (fun a => { a with stride := BitVec.ofNat 24 v })
    | _ => c
  else if 0x200 ≤ o && o < 0x220 then { c with lreg := mapPut c.lreg ((o - 0x200) / 4) (BitVec.ofNat 32 v) }
  else if 0x220 ≤ o && o < 0x240 then { c with ereg := mapPut c.ereg ((o - 0x220) / 4) (BitVec.ofNat 32 v) }
  else if 0x240 ≤ o && o < 0x2C0 then
    let put := fun (f : Comparator → Comparator) => { c with cmpr := mapMod {} c.cmpr ((o - 0x240) / 16) f }
    match o % 16 with
    | 0 => put (fun k => { k with mode := BitVec.ofNat 2 (bits v 0 2), ctag := BitVec.ofNat 8 (bits v 8 8) })
    | 4 => put (fun k => { k with cval := BitVec.ofNat 48 (setHalf k.cval.toNat 0 v) })
    | 8 => put (fun k => { k with cval := BitVec.ofNat 48 (setHalf k.cval.toNat 1 v) })
    | _ => c
  else c
/-- A write that a slow-clock edge lets through: a core in reset takes none, and a detained core's registers are readable only. The
offset of a write by a stream engine has bit 24 set (MODEL). -/
def edgeApply (d : Dev) (x : Nat × Word) : Dev :=
  let off := x.1 % 0x1000000
  let v := (off - 0xC00000) / 0x1000
  let o := off % 0x1000
  if !(pacerOf d (coreRegion d v)).released || isDetained d v then d
  else if o = 0 then prcCtlWrite d v x.2.toNat (x.1 < 0x1000000)
  else modCore d v (fun c => coreSet c o x.2.toNat)

/-! ### The register port (R538, R539, R541, R542) -/

/-- A 4-byte write at an aligned BAR0 offset; `host` is false for a stream engine. -/
def regWrite (d : Dev) (o v : Nat) (host : Bool) : Dev :=
  if !syllActive d && !earlyBlock o then d
  else if 0xC00000 ≤ o && o < 0xC00000 + 0x1000 * gridCores d then
    { d with edgeWrites := d.edgeWrites ++ [(if host then o else o + 0x1000000, BitVec.ofNat 32 v)] }
  else liveWrite (clearFault d o) o v
/-- An access that R542 does not accept. -/
def badAccess (d : Dev) : Dev := { d with glb := { d.glb with badAcc := satAdd d.glb.badAcc 1 } }
/-- A host write within BAR0: of 4 or 8 bytes, naturally aligned. -/
def bar0Write (d : Dev) (o size v : Nat) : Dev :=
  if d.host.d3hot then emit d (.unsupported o)
  else if size = 4 && o % 4 = 0 then regWrite d o (v % 2 ^ 32) true
  else if size = 8 && o % 8 = 0 then regWrite (regWrite d o (v % 2 ^ 32) true) (o + 4) (v / 2 ^ 32) true
  else badAccess d
/-- The 4-byte read of a stream engine at an aligned offset; a mailbox whose processor is in reset reads zero and counts. -/
def regRead (d s : Dev) (o : Nat) : Dev × Nat :=
  let late := (0x30000 ≤ o && o < 0x32000 && !d.reg.running) || (0x40000 ≤ o && o < 0x42000 && d.prefect.boot == .selfTest)
  (if late then syncLate d else d, regWord d s o)

/-- An access of the host to page k of BAR2, of any size: descriptor slots, and DOORBELL with CREDIT (R431, R433, R439). -/
def apertureAt (d : Dev) (k o len : Nat) (wr : Option (List Byte)) : Dev :=
  let b := 0x10000 * k + o
  let answer := fun (e : Dev) (v : List Byte) => if wr.isSome then e else emit e (.readData b v)
  if 4 ≤ k || len = 0 || 0x10000 < o + len || (wr.map (·.length)).getD len != len then d
  else if d.host.d3hot then emit d (.unsupported b)
  else if !syllActive d then (if wr.isSome then hostRefuse d b 0x01 else emit (hostRefuse d b 0x01) (.completerAbort b))
  else if o + len ≤ 0x400 then
    (match wr with
    | some bs => slotWrite d k o bs
    | none => answer d (zeros len))
  else if o < 0x1008 && 0x1000 < o + len then
    if o = 0x1000 && (len = 4 || len = 8) then
      (match wr with
      | some bs => doorbellAt d k (leAt bs 0 4)
      | none => answer d (slice (zeros 4 ++ leBytes 4 (creditOf (ctxOf d k))) 0 len))
    else if o = 0x1004 && len = 4 then answer d (leBytes 4 (creditOf (ctxOf d k)))
    else answer (badAccess d) (zeros len)
  else answer d (zeros len)
/-- The words of configuration space that identify the function (R430), by their PCI Express offsets. -/
def configWord (d : Dev) (o : Nat) : Nat :=
  let c := d.host.cfg
  match o with
  | 0x00 => c.vendor.toNat + c.device.toNat * 2 ^ 16
  | 0x08 => c.revision.toNat + c.classCode.toNat * 2 ^ 8
  | 0x2C => c.subVendor.toNat + c.subId.toNat * 2 ^ 16
  | _ => 0
/-- A host read within BAR0: of 4 or 8 bytes, naturally aligned. -/
def bar0Read (d s : Dev) (o size : Nat) : Dev :=
  if d.host.d3hot then emit d (.unsupported o)
  else if size = 4 && o % 4 = 0 then
    let (d1, v) := regRead d s o
    emit d1 (.readData o (leBytes 4 v))
  else if size = 8 && o % 8 = 0 then
    let (d1, v) := regRead d s o
    let (d2, w) := regRead d1 s (o + 4)
    emit d2 (.readData o (leBytes 4 v ++ leBytes 4 w))
  else emit (badAccess d) (.readData o (zeros size))
/-- REGISTER_WRITE, or, with no value, a read of the same register. Offsets below 16 MiB are BAR0; 0x0100_0000 + o is offset o of
configuration space, where a write at 0 stands for the enables of MSI-X, of bus mastering and of the function mask, in bits 0 to 2;
0x0200_0000 + b is offset b of BAR2 (MODEL, notes/assumptions). -/
def registerWriteAt (d s : Dev) (o size : Nat) (value : Option Nat) : Dev :=
  if size = 0 then d
  else if o < 0x1000000 then
    (match value with
    | some v => bar0Write d o size v
    | none => bar0Read d s o size)
  else if o < 0x1001000 then
    (match value with
    | some v => if o = 0x1000000 then enablesWrite d v else d
    | none => emit d (.readData o (leBytes 4 (configWord d (o - 0x1000000)))))
  else if 0x2000000 ≤ o && o < 0x2040000 then
    apertureAt d ((o - 0x2000000) / 0x10000) (o % 0x10000) size (value.map (fun v => leBytes size v))
  else d

/-! ### The slow-clock edge (R407, R535, R538, R539) -/

/-- A word whose parity check fails enters its fault, with what the function that it configures does at once. -/
def parityFails (d : Dev) (o : Nat) : Dev :=
  let d1 : Dev := { d with glb := { d.glb with
    faulted := o :: d.glb.faulted, pfAddr := BitVec.ofNat 24 o, pfCnt := satAdd d.glb.pfCnt 1 } }
  if o = 0x20010 then paceFall { d1 with pace := { d1.pace with ceil := 0x28 } }
  else if 0xB1000 ≤ o && o < 0xB1C00 then portGone d1 ((o - 0xB1000) / 0x100) false
  else d1
/-- The parity check of every word. -/
def parityCheck (d : Dev) : Dev :=
  (d.glb.parityWrong.filter (fun o => !d.glb.faulted.contains o)).foldl parityFails { d with glb := { d.glb with parityWrong := [] } }
/-- SLOW_CLOCK_EDGE: the time base counts, the shadow copies are refreshed, waiting writes take effect, the pacers take their step,
parity is checked and the OFFERs of the period are weighed. -/
def slowEdge (s : State) : State :=
  let d := { s.dev with glb := { s.dev.glb with timeUs := if s.dev.rp.vauxOk then s.dev.glb.timeUs + 1 else s.dev.glb.timeUs } }
  let d1 := d.edgeWrites.foldl edgeApply { d with edgeWrites := [] }
  { s with dev := takeOffers (parityCheck (trimPacers d1)), shadow := d }

end Sys2Proof.Machine
end

