-- ==== Sys2Proof/Machine/Access.lean ====
section
/-!
DEFINITION. Access checks (R49, R50, R314, R320, R385, R401, R435, R437, R450), raced bytes (R163, R212, R219, R276), reductions and
record additions at their destination (R210, R211, R214, R286), and the requests of other devices (R350, R351).
-/
namespace Sys2Proof.Machine

/-- Who issues an access: a core of this device, an HDMA channel or another device, and the context whose fences apply. -/
structure Who where
  core : Option Nat := none
  hdma : Bool := false
  ctx : Option Nat := none
  /-- The access is a bulk write with CORE = 0xFF, a Copybook's, and it comes from the device whose images this one holds (R391). -/
  copybook : Bool := false
  sender : Bool := false
deriving DecidableEq, Repr

/-- The context whose mask holds a core (R436). -/
def coreCtx (d : Dev) (v : Nat) : Option Nat := (List.range 4).find? (fun k => bit (ctxOf d k).cores.toNat v)
/-- The issuer of an engine's transfers. -/
def whoOf (d : Dev) : Engine → Who
  | .core v => { core := some v, ctx := coreCtx d v }
  | .hdma c => { hdma := true, ctx := if (hdmaOf d c).ctx.toNat < 4 then some (hdmaOf d c).ctx.toNat else none }

/-! ### Ranges (R320, R385, R391, R437) -/

/-- Two byte ranges meet. -/
def meets (a n b m : Nat) : Bool := n != 0 && m != 0 && decide (a < b + m) && decide (b < a + n)
/-- The range meets a tier cache (R320). -/
def inTierCache (d : Dev) (a n : Nat) : Bool :=
  let t := tierCfg d
  t.large && (List.range 2).any (fun p => meets a n (tierCbase t p) (tierSize t p * 0x40000000))
/-- The range meets a dirty log (R320). -/
def inDirtyLog (d : Dev) (a n : Nat) : Bool :=
  let t := tierCfg d
  t.large && (List.range 2).any (fun p => (cxlOf d p).hasLog && meets a n (tierLbase t p) 0x800000)
/-- The range meets a shadow frame or the work area (R385). -/
def inShadowOrWork (d : Dev) (a n : Nat) : Bool :=
  (copyCfg d).any (fun c =>
    let hbmPages := ((c.ranges.filter (fun r => decide (r.base < 0x100000000000))).map (·.pages)).sum
    let boards := c.ranges.countP (fun r => decide (0x100000000000 ≤ r.base))
    let work := cdiv (0x1000000 + 0x1000 * hbmPages + 0x800000 * boards) 0x200000 * 0x200000
    meets a n c.work work || c.ranges.any (fun r => r.base < 0x100000000000 && meets a n r.shadow (rangeLen r)))
/-- The range meets the hosted area (R385). -/
def inHosted (d : Dev) (a n : Nat) : Bool := (copyCfg d).any (fun c => meets a n c.hostBase c.hostSize)
/-- A range lies wholly in the hosted area. -/
def allHosted (d : Dev) (a n : Nat) : Bool := (copyCfg d).any (fun c => c.hostBase ≤ a && a + n ≤ c.hostBase + c.hostSize)
/-- The hosted area takes writes from its sender's Copybook alone, and a Copybook's write goes nowhere else (R385, R391). -/
def hostedRefuses (d : Dev) (w : Who) (a n : Nat) (wr : Bool) : Bool :=
  (wr && inHosted d a n && !(w.copybook && w.sender)) || (w.copybook && !(w.sender && allHosted d a n))

/-- Every byte of a range lies in a fence of context k (R437); `f` bounds the search. -/
def fenced (d : Dev) (k : Nat) : Nat → Nat → Nat → Bool
  | 0, _, n => n == 0
  | f + 1, a, n =>
    n == 0 || match (List.range 8).find? (fun i =>
        let r := mapGet {} (ctxOf d k).fences i
        r.base.toNat ≤ a && a < r.base.toNat + r.size.toNat * 0x200000) with
      | some i =>
        let r := mapGet {} (ctxOf d k).fences i
        let stop := r.base.toNat + r.size.toNat * 0x200000
        fenced d k f stop (a + n - stop)
      | none => false

/-- The fences of the issuer's context refuse a global address range (R437). -/
def fenceRefuses (d : Dev) (w : Who) (ga n : Nat) : Bool :=
  match w.ctx with
  | none => false
  | some k =>
    let c := ctxOf d k
    let a := ga % 2 ^ 48
    let remote := !isSelf d (ga / 2 ^ 48)
    let plain := decide (a < 0x200000000000) || (0x400000000000 ≤ a && a < 0x800000000000)
    c.fence && ((remote && !c.remote)
      || (plain && !fenced d k 9 a n)
      || (0x200000000000 ≤ a && a < 0x300000000000 && !(bit c.cores.toNat ((a - 0x200000000000) / 0x1000000)))
      || (0x300000000000 ≤ a && a < 0x400000000000))

/-! ### The status of an access on this device -/

/-- The status that an access to a local range produces before any byte moves: 0x0, 0x1 or 0x4. Core registers and the
device-register range give 0x1 here; register transfers are checked by R543. A device in Detention takes no HDMA write (R403). -/
def localStatus (d : Dev) (w : Who) (a n : Nat) (wr : Bool) : Nat :=
  if n = 0 then 0
  else if w.hdma && wr && d.det.device then 1
  else match addrKind d a with
    | .hbm =>
      if hbmCap d < a + n || inTierCache d a n || (wr && inDirtyLog d a n) || inShadowOrWork d a n
        || hostedRefuses d w a n wr then 1 else 0
    | .board p =>
      if boardBase p + boardCap d p < a + n || hostedRefuses d w a n wr then 1
      else if wr && !tierLarge d then 4 else 0
    | .window v off =>
      let c := coreOf d v
      if w.copybook then 1 else
      let stops := if w.hdma then
          (c.state == .running || c.state == .brk) || (wr && c.state == .detained)
        else c.state == .detained
      if !inWin off n || stops then 1 else 0
    | .host _ => if d.host.d3hot || !d.host.busMaster || 0x800000000000 < a + n then 1 else 0
    | .reg _ => 1
    | .none => 1

/-- The status of an access to a global range before it starts (R50, R353, R437). -/
def globalStatus (d : Dev) (w : Who) (ga n : Nat) (wr : Bool) : Nat :=
  let a := ga % 2 ^ 48
  let dev := ga / 2 ^ 48
  if n = 0 then 0
  else if fenceRefuses d w ga n then 1
  else if isSelf d dev then localStatus d w a n wr
  else if w.hdma then 3
  else if 0x300000000000 ≤ a || (0x200000000000 ≤ a && 0xF00000 ≤ a % 0x1000000) then 1
  else if unreachable d dev then 5 else 0

/-! ### Raced bytes (R212, R219, R276) -/

/-- The transfers in flight other than one. -/
def otherXfers (d : Dev) (e : Engine) (slot : Nat) : List Xfer :=
  (engines d).flatMap (fun x => (strmOf d x).xfers.filter (fun t => !(x == e && t.slot == slot)))

/-- The Gradebook commands in progress in cores other than one. -/
def busyCmds (d : Dev) (me : Option Nat) : List (Nat × Issued) :=
  (List.range (gridCores d)).flatMap (fun u =>
    if me == some u then []
    else ((coreOf d u).cmds.filter (fun i => (cwOpc i.word.toNat == 0x25 || cwOpc i.word.toNat == 0x26) && !i.undo.isEmpty)).map
      (fun i => (u, i)))
/-- A Gradebook element whose update a transfer meets as still to come: its address, its value before the update, and the command. -/
structure Before where
  addr : Nat
  old : List Byte
  core : Nat
  cmd : Issued
deriving DecidableEq, Repr
/-- The value that an update of GB.DRAIN or GB.CLEAR gives an element that holds `w` (R122, R125). -/
def updateAgain (d : Dev) (b : Before) (w : Nat) : Nat :=
  let x := b.cmd.word.toNat
  if cwOpc x = 0x26 then 0
  else
    let a := cwQue x
    let el := (b.addr - winBase b.core - gbTile a (aTile x)) / 4
    let t := (b.cmd.shape.map (·.pack)).getD 1
    drainElem d b.core a b.cmd.id (aTile x) t (arrOf (coreOf d b.core) a).latch (el / 64, el % 64) w
/-- Each element that such a command has updated, and that lies in some ranges, is met before or after its update, by a free
choice (R276): those met before it. -/
def metBefore (d : Dev) (me : Option Nat) (rs : List (Nat × Nat)) : List Before :=
  (busyCmds d me).flatMap (fun p =>
    (((p.2.undo.map (fun c => c.1 / 4 * 4)).eraseDups).filter (fun x =>
        rs.any (fun r => x < r.1 + r.2 && r.1 < x + 4) && Config.freeBit d.freeCtr (x + 2 ^ 50))).map (fun x =>
      let byte := fun i => ((p.2.undo.find? (fun c => c.1 == x + i)).map (·.2)).getD (rdByte d (x + i))
      { addr := x, old := (List.range 4).map byte, core := p.1, cmd := p.2 }))
/-- The device with such elements at their values before the updates. -/
def turnBack (d : Dev) (bs : List Before) : Dev := bs.foldl (fun e b => wrBytes e b.addr b.old) d
/-- The updates follow. -/
def turnOn (d : Dev) (bs : List Before) : Dev :=
  bs.foldl (fun e b => wrBytes e b.addr (leBytes 4 (updateAgain e b (leNat (rdBytes e b.addr 4))))) d

/-- What a transfer that has still to write has gathered for a byte of a plain COPY. -/
def gatheredFor (t : Xfer) (x : Nat) : Option Byte :=
  if t.kind != 0 || bit t.entryBits.toNat 248 then none
  else ((t.writes.foldl (fun (p : Nat × Option Nat) r =>
      (p.1 + r.2, if r.1 ≤ x && x < r.1 + r.2 then some (p.1 + (x - r.1)) else p.2)) (0, none)).2).bind (mapGet? t.gathered)

/-- The core of an engine. -/
def engineCore : Engine → Option Nat
  | .core v => some v
  | .hdma _ => none

/-- Bytes read by a transfer: a byte that another transfer in flight has changed reads old or new, one whose new value has arrived
and is still to be written too, and one that a command has overwritten since its list began, by free choices (R163, R219). A
Gradebook element in progress reads as before or after its update (R276). What other transfers and commands write later, before
the transfer completes, `revisit` settles. -/
def raceRead (d : Dev) (e : Engine) (slot a n : Nat) (stale : List Host.Cell) : List Byte :=
  let others := otherXfers d e slot
  let cells := stale ++ (others.filter (fun t => !xPending t)).flatMap (·.undo)
  let near := cells.filter (fun c => a ≤ c.1 && c.1 < a + n)
  let base := rdBytes (turnBack d (metBefore d (engineCore e) [(a, n)])) a n
  let bs := (near.mapIdx (fun i c => (i, c))).foldl (fun bs p =>
    if Config.freeBit d.freeCtr (p.1 * 2 ^ 48 + p.2.1) then bs.set (p.2.1 - a) p.2.2 else bs) base
  let later := others.filter (fun t => xPending t && t.writes.any (fun r => meets r.1 r.2 a n))
  if later.isEmpty then bs
  else bs.mapIdx (fun i b =>
    match later.findSome? (fun t => gatheredFor t (a + i)) with
    | some g => if Config.freeBit (d.freeCtr + 1) (a + i) then g else b
    | none => b)

/-- The bytes that a transfer's write leaves: where another transfer in flight has written the byte too, its value or the new one;
where another one has reduced into the element, which the manual leaves open, a free value. -/
def raceWrite (d : Dev) (others : List Xfer) (a : Nat) (bs : List Byte) : List Byte :=
  let done := others.filter (fun t => !xPending t)
  let ranges := done.flatMap (·.writes)
  let elems := done.flatMap (fun t => t.adds.map (fun u => (u.addr, 4)))
  if ranges.isEmpty then bs
  else bs.mapIdx (fun i b =>
    if inRanges elems (a + i) then freeWord d 8 (a + i)
    else if inRanges ranges (a + i) && Config.freeBit d.freeCtr (a + i) then rdByte d (a + i) else b)

/-! ### Element updates at the destination (R210, R211, R286) -/

/-- What a transfer does at a destination address. -/
inductive WOp where
  /-- Stores bytes. -/
  | put (bs : List Byte)
  /-- Reduces elements of a format into FP32 or INT32 elements: 5 add, 6 min, 7 max. -/
  | red (op : Nat) (f : Fmt) (codes : List Nat)
  /-- Adds the decoded record of one block: top-k or sign, NCNT, COL, LEN and DPITCH (R339). -/
  | record (top : Bool) (ncnt col len dpitch : Nat) (bytes : List Byte)
deriving DecidableEq, Repr

/-- The new code of a destination element (R210). -/
def redElem (op : Nat) (f : Fmt) (old code : Nat) : Nat :=
  if f = .int32 then
    let a := int32 old
    let b := int32 code
    if op = 5 then int32Code (a + b) else if op = 6 then twos 32 (min a b) else twos 32 (max a b)
  else
    let a := numDecode .fp32 old
    let b := numDecode f code
    if op = 5 then numRound .fp32 .rne (numAdd false a b)
    else if op = 6 then numRound .fp32 .rne (numMin a b) else numRound .fp32 .rne (numMax a b)

/-- An FP32 code with a NaN in its canonical form (R55). -/
def quiet32 (c : Nat) : Nat := if numIsNan (numDecode .fp32 c) then 0x7FC00000 else c

/-- The destination elements that a decoded record adds to: positions of the block and FP32 codes (R286). -/
def recordValues (top : Bool) (ncnt : Nat) (bytes : List Byte) : List (Nat × Nat) :=
  if top then
    let idx := leNat (slice bytes (2 * ncnt) (cdiv (10 * ncnt) 8))
    (List.range ncnt).map (fun j => (bits idx (10 * j) 10, quiet32 (leAt bytes (2 * j) 2 * 0x10000)))
  else
    let s := leAt bytes 0 4
    let signs := leNat (slice bytes 4 (cdiv ncnt 8))
    (List.range ncnt).map (fun i => (i, quiet32 (if bit signs i then s ^^^ 0x80000000 else s)))

/-- The address of the element at a position of a block whose first element is element COL of the row at `a - 4 col`. -/
def recordAddr (a col len dpitch pos : Nat) : Nat :=
  let pitch := if dpitch = 0 then len * 4 else dpitch * 64
  let p := col + pos
  a - 4 * col + p / len * pitch + 4 * (p % len)

/-- The local ranges that an operation writes. -/
def wopRanges (a : Nat) : WOp → List (Nat × Nat)
  | .put bs => [(a, bs.length)]
  | .red _ _ codes => [(a, 4 * codes.length)]
  | .record top ncnt col len dp bytes => if len = 0 then [] else (recordValues top ncnt bytes).map (fun p => (recordAddr a col len dp p.1, 4))

/-- The element updates of an operation at an address. -/
def updatesOf (a : Nat) : WOp → List Update
  | .put _ => []
  | .red op f codes => codes.mapIdx (fun i c => { addr := a + 4 * i, op := op, fmt := f, code := c })
  | .record top ncnt col len dp bytes =>
    if len = 0 then []
    else (recordValues top ncnt bytes).map (fun p => { addr := recordAddr a col len dp p.1, op := 5, fmt := .fp32, code := p.2 })

/-- An update put into a list of updates at an open place. -/
def insertAt (us : List Update) (n : Nat) (u : Update) : List Update := us.take n ++ u :: us.drop n
/-- Updates of one element in an open order. -/
def anyOrder (d : Dev) (us : List Update) : List Update :=
  us.foldl (fun l u => insertAt l (Config.freeNat d.freeCtr (u.addr * 64 + l.length) % (l.length + 1)) u) []
/-- The value of an element before the updates that transfers in flight have made to it. -/
def baseElem (d : Dev) (others : List Xfer) (a : Nat) : Nat :=
  let cells := others.flatMap (·.undo)
  leNat ((List.range 4).map (fun i => ((cells.find? (fun c => c.1 == a + i)).map (·.2)).getD (rdByte d (a + i))))
/-- The new value of an element. Where other transfers in flight have updated it, the updates take place in an open order, and none
is lost (R211, R212); where another one stores to it, which the manual leaves open, a free value. -/
def updateElem (d : Dev) (others : List Xfer) (u : Update) : Nat :=
  let near := others.filter (fun t => inRanges t.writes u.addr)
  let before := near.flatMap (fun t => t.adds.filter (fun x => x.addr == u.addr))
  if near.any (fun t => !xPending t && !(t.adds.any (fun x => x.addr == u.addr))) then (freeWord d 32 u.addr).toNat
  else if before.isEmpty then redElem u.op u.fmt (leNat (rdBytes d u.addr 4)) u.code
  else (anyOrder d (before ++ [u])).foldl (fun w x => redElem x.op x.fmt w x.code) (baseElem d near u.addr)
/-- Element updates, one after another. The answer holds the granule of an uncorrectable error, at which the updates end. -/
def updateElems (d : Dev) (others : List Xfer) (plc : Nat) : List Update → Dev × Option Nat
  | [] => (d, none)
  | u :: r =>
    let d0 := heal d u.addr 4 false
    match rdBad d0 u.addr 4 with
    | some g => (d0, some g)
    | none => updateElems (storeBytes d0 u.addr (leBytes 4 (updateElem d0 others u)) plc) others plc r

/-- An operation performed on this device by the owner of its address (R211): the device after it, and the granule of an
uncorrectable error. -/
def performOp (d : Dev) (others : List Xfer) (plc a : Nat) (w : WOp) : Dev × Option Nat :=
  match w with
  | .put bs =>
    let d0 := heal d a bs.length true
    let out := raceWrite d0 others a bs
    match badMerge d0 a bs.length with
    | some (stop, g) => (storeBytes d0 a (out.take (stop - a)) plc, some g)
    | none => (storeBytes d0 a out plc, none)
  | _ => updateElems d others plc (updatesOf a w)
/-- The same beside Gradebook commands in progress in cores other than the issuer's (R276). -/
def performBeside (d : Dev) (me : Option Nat) (others : List Xfer) (plc a : Nat) (w : WOp) : Dev × Option Nat :=
  let bs := metBefore d me (wopRanges a w)
  if bs.isEmpty then performOp d others plc a w
  else
    let r := performOp (turnBack d bs) others plc a w
    (turnOn r.1 bs, r.2)

/-! ### Requests of other devices (R339, R350, R351) -/

/-- The operation of a request message, with the bytes of its data. -/
def requestOp (b : Bulk) (data : List (BitVec 2048)) : WOp :=
  let n := bits b.aux 0 12
  if b.op = 1 then .put (messageBytes data n)
  else if 5 ≤ b.op && b.op ≤ 7 then
    let f := (fmtOf b.fmt).getD .fp32
    .red b.op f (unpackRow f (n / (fmtBits f / 8)) (messageBytes data n))
  else
    .record (b.op == 8) n (bits b.aux 12 24) (bits b.aux 36 24) (bits b.aux 60 20) (messageBytes data (data.length * 252))

/-- The formats that a reduction accepts (R210). -/
def redFmtOk (code : Nat) : Bool := code == 0 || code == 1 || code == 2 || fmtOf code == some .int32

/-- The issuer of a request from another device. -/
def requestWho (d : Dev) (b : Bulk) : Who :=
  { copybook := b.op == 1 && b.core == 0xFF, sender := (copyCfg d).any (fun c => c.hostFor == b.src) }

/-- The status of a request before it is performed. -/
def requestStatus (d : Dev) (b : Bulk) (w : WOp) : Nat :=
  let who := requestWho d b
  let rs := wopRanges b.addr w
  if b.op = 2 then localStatus d who b.addr (bits b.aux 0 12) false
  else if 5 ≤ b.op && b.op ≤ 7 && !redFmtOk b.fmt then 2
  else if rs.any (fun r => localStatus d who r.1 r.2 true == 1) || 0x400000000000 ≤ b.addr then 1
  else if rs.any (fun r => localStatus d who r.1 r.2 true == 4) then 4 else 0

/-- The destination device performs a request and answers it: one read response or one status message (R350, R351). -/
def serveRequest (d : Dev) (b : Bulk) (data : List (BitVec 2048)) : Dev :=
  let w := requestOp b data
  let st := requestStatus d b w
  let reply := fun (e : Dev) (s : Nat) => sendBulk e (statusFor e b s) [] 12
  if st != 0 then reply d st
  else if b.op = 2 then
    let n := bits b.aux 0 12
    let d1 := touchRead d b.addr n 0
    match rdBad d1 b.addr n with
    | some g => reply (ueEvent d1 g none) 6
    | none =>
      let rsp := { statusFor d b 0 with op := 3, addr := bits b.aux 12 48, aux := n }
      sendBulk d1 rsp (dataFlits 17 (rdBytes d1 b.addr n)) 12
  else
    match performBeside (draw d) none ((engines d).flatMap (fun x => (strmOf d x).xfers)) 0 b.addr w with
    | (d1, some g) => reply (ueEvent d1 g none) 6
    | (d1, none) => reply d1 0

end Sys2Proof.Machine
end

