-- ==== Sys2Proof/Machine/Xfer.lean ====
section
/-!
DEFINITION. One transfer (R199 to R215, R280 to R286): the fields of its entry and extension, its checks in the order of R221,
what it reads and writes, and the messages of a remote transfer (R349).
-/
namespace Sys2Proof.Machine

/-! ### Checks (R209, R213, R221, R224, R236, R451) -/

/-- The skew rules of R209. A transfer without rows or elements has no address to check (R224), and a reserved format, which is a
descriptor error, no layout. -/
def txSkewBad (t : Tx) : Bool :=
  let a := t.dst % 2 ^ 48
  let off := (a - 0x200000000000) % 0x1000000
  let inPad := 0x200000000000 ≤ a && a < 0x300000000000 && inScratch off
  !t.conv || t.kind != 0 || (!txZero t && (!inPad || a % 64 != 0)) || (t.role && decide (64 < t.len))
    || (fmtOf (dFmt t.ddesc)).any (fun f =>
      (t.dpitch != 0 && decide (t.dpitch * 64 < skewLen t)) || f == .fp32 || f == .int32 || f == .e8m0
        || (t.role && fmtBits f < 8) || decide ((if t.role then 64 else 64 * packOf f) < t.len))

/-- The rules of a BELL transfer (R224, R231, R236). -/
def bellEntryBad (d : Dev) (e : Engine) (t : Tx) : Bool :=
  let zero := t.rows == 0 && t.len == 0 && t.spitch == 0 && t.dpitch == 0 && t.sdesc == 0 && t.ddesc == 0 && t.plc == 0
    && !t.skw && !t.conv && !t.role
  let defined := match e with
    | .core v => bellRings d (bits t.dst 0 10) v
    | .hdma _ => false
  !zero || t.ext || bits t.dst 10 3 == 7 || bits t.dst 13 51 != 0 || !defined

/-- An entry error (status 0x3). `missing` says that EXT stands on the last entry of the list. -/
def entryBad (d : Dev) (e : Engine) (ent x : Nat) (missing : Bool) (t : Tx) : Bool :=
  let hdma := match e with
    | .hdma _ => true
    | .core _ => false
  let rows := t.kind == 0 || isReduce t || isCompress t
  let drows := (t.kind == 0 && !t.skw) || t.kind == 1 || isReduce t || isExpand t || (isCompress t && t.arr)
  0xA ≤ t.kind || 4 ≤ t.plc || bits ent 254 2 != 0 || (t.ext && bits x 209 47 != 0) || missing
    || (hdma && (1 < t.kind || t.conv || t.skw || t.ext || bit ent 249 || bit ent 250
        || !isSelf d (t.dst / 2 ^ 48) || (t.kind == 0 && !isSelf d (t.src / 2 ^ 48))))
    || (t.kind == 9 && bellEntryBad d e t)
    || (t.kind == 1 && t.conv)
    || (rows && t.spitch != 0 && decide (t.spitch * 64 < srcRow t))
    || (drows && t.dpitch != 0 && decide (t.dpitch * 64 < dstRow t))
    || (t.skw && txSkewBad t)
    || (isCompress t && (!t.ext || !t.conv || dFmt t.sdesc != 0 || dFmt t.ddesc != 0))
    || (isTop t && !(8 ≤ t.k && t.k ≤ 256))

/-- A descriptor error (status 0x2). An invalid descriptor (R60) is one in every kind that has descriptors. -/
def descBad (t : Tx) : Bool :=
  let s := sFmt t
  let f := ddFmt t
  let invalid := descReserved t.sdesc || descReserved t.ddesc || dMid t.sdesc != 0 || dMid t.ddesc != 0
  if t.kind = 0 && t.conv then
    invalid || !castOk s f
      || (fmtNarrow f && dScl t.ddesc && (s != f || dBlk t.sdesc != dBlk t.ddesc || dDir t.sdesc != dDir t.ddesc))
      || ((fmtNarrow s || fmtNarrow f) && !t.ext)
  else if isReduce t then
    invalid || !((f == .fp32 && (s == .fp32 || s == .bf16 || s == .fp16)) || (f == .int32 && s == .int32))
  else t.kind != 9 && invalid

/-! ### Registers and statuses -/

/-- Some address of the transfer names the device registers, or the core registers of a window, of this device. -/
def regAddr (d : Dev) (ga : Nat) : Option Nat :=
  if !isSelf d (ga / 2 ^ 48) then none
  else
    let a := ga % 2 ^ 48
    match addrKind d a with
    | .reg off => some off
    | .window v off => if 0xF00000 ≤ off then some (0xC00000 + v * 0x1000 + (off - 0xF00000)) else none
    | _ => none
/-- A core-register offset of a window beyond the 4 KiB of R192. -/
def regBeyond (d : Dev) (ga : Nat) : Bool :=
  match addrKind d (ga % 2 ^ 48) with
  | .window _ off => 0xF01000 ≤ off
  | _ => false

/-- An access of a register transfer: the range lies in registers, or it has the status of any other range (R543). -/
def regStatus (d : Dev) (w : Who) (ga n : Nat) (wr : Bool) : Nat :=
  match regAddr d ga with
  | some off =>
    let stops := match addrKind d (ga % 2 ^ 48) with
      | .window v _ =>
        let st := (coreOf d v).state
        if w.hdma then st == .running || st == .brk || (wr && st == .detained) else st == .detained
      | _ => false
    if fenceRefuses d w ga n || (0x1000000 < off + n) || ga % 4 != 0 || stops then 1 else 0
  | none => globalStatus d w ga n wr
/-- The transfer addresses registers of this device. -/
def isRegXfer (d : Dev) (t : Tx) : Bool :=
  !txZero t && t.kind != 9 && ((t.kind != 1 && (regAddr d t.src).isSome) || (regAddr d t.dst).isSome)
/-- The transfer may address registers: a COPY with CONV = 0 and LEN and both addresses multiples of 4 (R543). -/
def regForm (t : Tx) : Bool := t.kind == 0 && !t.conv && t.len % 4 == 0 && t.src % 4 == 0 && t.dst % 4 == 0

/-- RES must name HBM of this device (R201). -/
def resBad (d : Dev) (t : Tx) : Bool :=
  isCompress t && !txZero t && !(isSelf d (t.res / 2 ^ 48) && t.res % 2 ^ 48 + 4 * t.rows * t.len ≤ hbmCap d)

/-- The status of a transfer before any access: the first kind of rule that it breaks, in the order of R221. -/
def txStatus (d : Dev) (e : Engine) (ent x : Nat) (missing : Bool) (t : Tx) : Nat :=
  if entryBad d e ent x missing t then 3
  else if descBad t then 2
  else
    let w := whoOf d e
    let st := fun (r : Nat × Nat) (wr : Bool) => if isRegXfer d t then regStatus d w r.1 r.2 wr else globalStatus d w r.1 r.2 wr
    let all := (txReads t).map (fun r => st r false) ++ (txWrites t).map (fun r => st r true)
    if (isRegXfer d t && !regForm t) || resBad d t || all.contains 1 then 1
    else if all.contains 5 then 5 else if all.contains 4 then 4 else 0

/-! ### Conversion (R206 to R208) -/

/-- The rows of element codes of the source, from the bytes of its rows. -/
def txCodes (t : Tx) (rows : List (List Byte)) : List (List Nat) := rows.map (unpackRow (sFmt t) t.len)
/-- The values of the source, decoded with its scale area. -/
def txNums (t : Tx) (rows : List (List Byte)) (scales : List Byte) : List (List Num) :=
  let f := sFmt t
  (txCodes t rows).mapIdx (fun i r => r.mapIdx (fun j c =>
    if f = .int32 then numInt (int32 c)
    else
      let s := if fmtNarrow f then leAt scales (scaleIndex (blkSize (dBlk t.sdesc)) (dDir t.sdesc) t.len i j) 1 else 0x7F
      numDecoded f c s))

/-- The codes and the scale area that a converting COPY writes (R86, R206, R207). -/
def txConvert (t : Tx) (rows : List (List Byte)) (scales : List Byte) : List (List Nat) × List Byte :=
  let f := ddFmt t
  let r := (rndOf (dRnd t.ddesc)).getD .rne
  let b := blkSize (dBlk t.ddesc)
  if fmtNarrow f && dScl t.ddesc then (txCodes t rows, scales)
  else if fmtNarrow f then
    let (sc, out) := writeTensor f r none b (dDir t.ddesc) (txNums t rows scales) t.len
    (out, sc.map (BitVec.ofNat 8))
  else if f = .int32 then
    if sFmt t = .int32 then (txCodes t rows, [])
    else if fmtInt (sFmt t) then ((txCodes t rows).map (fun l => l.map (fun c => twos 32 (sext (fmtBits (sFmt t)) c))), [])
    else ((txNums t rows scales).map (fun l => l.map (numToInt32 r)), [])
  else if f = .e8m0 then (txCodes t rows, [])
  else ((txNums t rows scales).map (fun l => l.map (numRound f r)), [])

/-- The stored rows of a destination with codes: skewed images or packed rows. -/
def txRowBytes (t : Tx) (codes : List (List Nat)) : List (List Byte) :=
  codes.mapIdx (fun i r => if t.skw then skewImage (ddFmt t) t.role i r else packRow (ddFmt t) r)

/-! ### Compression (R280 to R286) -/

/-- An FP32 code of a list of bytes. -/
def fpAt (bs : List Byte) (i : Nat) : Nat := leAt bs (4 * i) 4
/-- The corrected values of a block as FP32 codes. -/
def corrected (src res : List Byte) (n : Nat) : List Nat :=
  (List.range n).map (fun i =>
    numRound .fp32 .rne (numAdd false (numDecode .fp32 (fpAt src i)) (numDecode .fp32 (fpAt res i))))
/-- The rank key of a corrected value: a NaN above every number, then by magnitude. -/
def topKey (c : Nat) : Nat := if numIsNan (numDecode .fp32 c) then 0x80000000 else c % 0x80000000
/-- The kept positions, ascending (R280). -/
def topKeep (cs : List Nat) (k : Nat) : List Nat :=
  let keys := cs.map topKey
  let idx := keys.mapIdx (fun i x => (i, x))
  (idx.filter (fun p => decide (idx.countP (fun q => decide (p.2 < q.2) || (q.2 == p.2 && decide (q.1 < p.1))) < min k cs.length))).map (·.1)
/-- Bytes padded with zero bits to a multiple of 4. -/
def pad4 (bs : List Byte) : List Byte := slice bs 0 (cdiv bs.length 4 * 4)
/-- A finite FP32 code. -/
def finite32 (c : Nat) : Bool := numIsFin (numDecode .fp32 c)

/-- The record and the new residual of a top-k block. -/
def topBlock (cs : List Nat) (k : Nat) : List Byte × List Nat :=
  let keep := topKeep cs k
  let val := fun i => numRound .bf16 .rne (numDecode .fp32 (cs.getD i 0))
  let vals := keep.map val
  let idxBits := keep.foldr (fun i acc => acc * 1024 + i) 0
  let bytes := vals.flatMap (leBytes 2) ++ leBytes (cdiv (10 * keep.length) 8) idxBits
  let res := cs.mapIdx (fun i c =>
    if !keep.contains i then (if finite32 c then c else 0)
    else
      let v := val i
      if !finite32 c || !numIsFin (numDecode .bf16 v) then 0
      else numRound .fp32 .rne (numAdd false (numDecode .fp32 c) (numNegate (numDecode .bf16 v))))
  (pad4 bytes, res)

/-- The record and the new residual of a sign block. -/
def signBlock (cs : List Nat) : List Byte × List Nat :=
  let n := cs.length
  let s := numRound .fp32 .rne (numDiv (laneSum (cs.map (fun c => numAbs (numDecode .fp32 c)))) (numInt n))
  let neg := fun c => decide (0x80000000 ≤ c)
  let signs := (cs.mapIdx (fun i c => if neg c then 2 ^ i else 0)).sum
  let res := cs.map (fun c =>
    if !finite32 c || !finite32 s then 0
    else
      let dv := numDecode .fp32 (if neg c then s ^^^ 0x80000000 else s)
      numRound .fp32 .rne (numAdd false (numDecode .fp32 c) (numNegate dv)))
  (pad4 (leBytes 4 s ++ leBytes (cdiv n 8) signs), res)

/-- The records and new residuals of every block of a compression. -/
def compress (t : Tx) (src res : List Byte) : List (List Byte × List Nat) :=
  (txBlocks t).mapIdx (fun j n =>
    let cs := corrected (src.drop (4096 * j)) (res.drop (4096 * j)) n
    if isTop t then topBlock cs t.k else signBlock cs)

/-- NCNT of a block's record (R339). -/
def blockCount (t : Tx) (n : Nat) : Nat := if isTop t then min t.k n else n

/-- Where each record of an expansion starts. -/
def recordStarts (t : Tx) : List Nat := (txBlocks t).foldl (fun l n => l ++ [l.getLastD 0 + recordLen t n]) [0]

/-- The FP32 codes of an expanded tensor: positions that no record names are +0 (R286). -/
def expandAll (t : Tx) (bytes : List Byte) : List Nat :=
  ((txBlocks t).mapIdx (fun j n =>
    let vals := recordValues (isTop t) (blockCount t n) (bytes.drop ((recordStarts t).getD j 0))
    (List.range n).map (fun i => ((vals.find? (fun p => p.1 == i)).map (·.2)).getD 0))).flatten

/-- The operations that add each block's record at its place (R214). -/
def recordOps (t : Tx) (recs : List (List Byte)) : List (Nat × WOp) :=
  (List.zip (txBlocks t) recs).mapIdx (fun j p =>
    let idx := 1024 * j
    (elemAddr t idx, .record (isTop t) (blockCount t p.1) (idx % t.len) t.len t.dpitch p.2))

/-! ### The writes of a transfer -/

/-- What a transfer writes, in order, from the bytes of the ranges that it reads. -/
def txOps (t : Tx) (data : List (List Byte)) : List (Nat × WOp) :=
  let at_ := fun i => t.dst + i * dstPitch t
  if txZero t then []
  else if t.kind = 0 then
    if t.conv then
      let rows := data.take t.rows
      let (codes, sc) := txConvert t rows (data.getD t.rows [])
      (txRowBytes t codes).mapIdx (fun i r => (at_ i, .put r)) ++ (if fmtNarrow (ddFmt t) then [(t.dscl, .put sc)] else [])
    else data.mapIdx (fun i r => (at_ i, .put r))
  else if t.kind = 1 then
    let row := (List.range t.len).map (fun i => BitVec.ofNat 8 (bits t.src (8 * (i % 8)) 8))
    (List.range t.rows).map (fun i => (at_ i, .put row))
  else if isReduce t then (txCodes t data).mapIdx (fun i r => (at_ i, .red (t.kind + 3) (sFmt t) r))
  else if isCompress t then
    let src := (data.take t.rows).flatten
    let blocks := compress t src (data.getD t.rows [])
    let res := (blocks.flatMap (·.2)).flatMap (leBytes 4)
    (if t.arr then recordOps t (blocks.map (·.1)) else [(t.dst, .put (blocks.flatMap (·.1)))]) ++ [(t.res, .put res)]
  else if isExpand t then
    let bytes := data.getD 0 []
    if t.arr then recordOps t ((txBlocks t).mapIdx (fun j n => slice bytes ((recordStarts t).getD j 0) (recordLen t n)))
    else
      let codes := expandAll t bytes
      (List.range t.rows).map (fun i => (at_ i, .put ((slice (codes.flatMap (leBytes 4)) (4 * t.len * i) (4 * t.len)))))
  else []

/-! ### Messages of a remote transfer (R349) -/

/-- A range cut at 4 KiB boundaries into pieces of at most `m` bytes, `n` pieces at most. -/
def cutRange (m : Nat) : Nat → Nat → Nat → List (Nat × Nat)
  | 0, _, _ => []
  | n + 1, a, len =>
    if len = 0 then []
    else
      let k := min (min len m) (0x1000 - a % 0x1000)
      (a, k) :: cutRange m n (a + k) (len - k)
/-- A run of 4-byte elements cut so that no piece crosses a 4 KiB boundary and each holds whole elements. DESIGN CHOICE: an element that
itself lies across a boundary, at an address that is no multiple of 4, goes alone. -/
def cutElems (m : Nat) : Nat → Nat → Nat → List (Nat × Nat)
  | 0, _, _ => []
  | n + 1, a, len =>
    if len = 0 then []
    else
      let k := max 4 (min (min len m) ((0x1000 - a % 0x1000) / 4 * 4))
      (a, k) :: cutElems m n (a + k) (len - k)

/-- The request header of a transfer's message. -/
def requestHdr (d : Dev) (v slot cls dev op addr : Nat) (f aux : Nat) : Bulk :=
  { cls := cls, dst := dev, src := ownId d, op := op, fmt := f, core := v, slot := slot, addr := addr, aux := aux }

/-- The request messages of an operation at an address of another device. -/
def opMessages (d : Dev) (v slot cls ga : Nat) : WOp → List (Bulk × List (BitVec 2048))
  | .put bs =>
    let a := ga % 2 ^ 48
    (cutRange 4032 (bs.length / 4032 + bs.length / 4096 + 3) a bs.length).map (fun r =>
      (requestHdr d v slot cls (ga / 2 ^ 48) 1 r.1 0 r.2, dataFlits 17 ((bs.drop (r.1 - a)).take r.2)))
  | .red op f codes =>
    let a := ga % 2 ^ 48
    let es := fmtBits f / 8
    (cutElems (4032 / es * 4) (codes.length / 250 + 3) a (4 * codes.length)).map (fun r =>
      let part := (codes.drop ((r.1 - a) / 4)).take (r.2 / 4)
      (requestHdr d v slot cls (ga / 2 ^ 48) op r.1 (fmtCode f) (part.length * es), dataFlits 17 (packRow f part)))
  | .record top ncnt col len dp bytes =>
    [(requestHdr d v slot cls (ga / 2 ^ 48) (if top then 8 else 9) (ga % 2 ^ 48) 0
        (ncnt + col * 2 ^ 12 + len * 2 ^ 36 + dp * 2 ^ 60), dataFlits 17 bytes)]

/-- The result of moving a transfer's data: the device, the status, the local ranges written, the bytes changed with their
earlier values, and the messages that wait for a response. -/
structure Moved where
  dev : Dev
  status : Nat := 0
  writes : List (Nat × Nat) := []
  undo : List Host.Cell := []
  adds : List Update := []
  seen : List (Nat × List Byte) := []
  waiting : List Outstanding := []
  host : Bool := false
  /-- The words that a register transfer has read for a destination on another device. -/
  words : List Byte := []
deriving DecidableEq, Repr

/-- The bytes of some ranges that differ between two devices, with the values in the first. -/
def changedIn (before after : Dev) (rs : List (Nat × Nat)) : List Host.Cell :=
  rs.flatMap (fun r => (List.range r.2).filterMap (fun i =>
    let o := rdByte before (r.1 + i)
    if o = rdByte after (r.1 + i) then none else some (r.1 + i, o)))

/-- One operation of a transfer: performed here, or sent to the device that its address names. -/
def moveOp (e : Engine) (slot cls plc : Nat) (m : Moved) (ga : Nat) (w : WOp) : Moved :=
  if m.status != 0 then m
  else
    let d := m.dev
    if isSelf d (ga / 2 ^ 48) then
      let a := ga % 2 ^ 48
      let rs := wopRanges a w
      let host := decide (0x400000000000 ≤ a)
      match performBeside d (engineCore e) (otherXfers d e slot) plc a w with
      | (d1, bad) =>
        let d2 := match bad with
          | some g => ueEvent d1 g (engineCore e)
          | none => d1
        { m with dev := d2, status := if bad.isSome then 6 else 0, writes := m.writes ++ rs,
                 undo := m.undo ++ changedIn d d1 rs, adds := m.adds ++ updatesOf a w, host := m.host || host }
    else
      let v := (engineCore e).getD 0
      (opMessages d v slot cls ga w).foldl (fun m x =>
        { m with dev := sendBulk m.dev x.1 x.2 12, waiting := m.waiting ++ [{ dev := BitVec.ofNat 16 (ga / 2 ^ 48), rtag := 0, len := 0 }] }) m

/-- A transfer's writes, in order. -/
def moveOps (e : Engine) (slot cls plc : Nat) (m : Moved) (ops : List (Nat × WOp)) : Moved :=
  ops.foldl (fun m p => moveOp e slot cls plc m p.1 p.2) m

/-- The read requests for the remote ranges of a transfer: each piece with its offset in the bytes to be gathered. -/
def readMessages (d : Dev) (v slot cls : Nat) (off ga len : Nat) : List (Bulk × Outstanding) :=
  let a := ga % 2 ^ 48
  let dev := ga / 2 ^ 48
  (cutRange 4032 (len / 4032 + len / 4096 + 3) a len).map (fun r =>
    let tag := off + (r.1 - a)
    (requestHdr d v slot cls dev 2 r.1 0 (r.2 + tag * 2 ^ 12),
     { dev := BitVec.ofNat 16 dev, rtag := BitVec.ofNat 48 tag, len := r.2, dest := [tag], read := true }))

/-- The ranges with the offset at which each one's bytes are gathered. -/
def withOffsets (rs : List (Nat × Nat)) : List (Nat × Nat × Nat) :=
  (rs.foldl (fun (p : Nat × List (Nat × Nat × Nat)) r => (p.1 + r.2, p.2 ++ [(p.1, r.1, r.2)])) (0, [])).2

/-- A gathered range. -/
def gatheredBytes (g : NMap Byte) (off n : Nat) : List Byte := (List.range n).map (fun i => mapGet 0 g (off + i))

end Sys2Proof.Machine
end

