-- ==== Sys2Proof/Machine/Stream.lean ====
section
/-!
DEFINITION. The stream engine and the HDMA channels at work (R194 to R240, R349 to R353, R450, R451, R543): reading lists,
starting transfers in their order, moving their data, and completing them. An engine is a core's or an HDMA channel; `s` is
the shadow copy, which register reads return.
-/
namespace Sys2Proof.Machine

/-! ### Lists and the list buffer (R195) -/

/-- The next `k` entries of a list. -/
def listEntries (d : Dev) (l : BList) (k : Nat) : List (BitVec 256) :=
  (List.range k).map (fun i => BitVec.ofNat 256 (leNat (rdBytes d (l.base + 32 * (l.nread + i)) 32)))
/-- Lists read in order into a buffer with some room. -/
def fillLists (d : Dev) : Nat → List BList → List BList
  | _, [] => []
  | room, l :: r =>
    let k := min room (l.count - l.nread)
    let l1 := { l with buf := l.buf ++ listEntries d l k, nread := l.nread + k }
    l1 :: (if l1.nread < l.count then r else fillLists d (room - k) r)
/-- The 256-entry list buffer of an engine takes what it has room for. -/
def fillBuf (d : Dev) (e : Engine) : Dev :=
  modStrm d e (fun x => { x with lists := fillLists d (256 - (x.lists.map (·.buf.length)).sum) x.lists })

/-- A list of an engine. -/
def listOf (d : Dev) (e : Engine) (id : Nat) : Option BList := (strmOf d e).lists.find? (fun l => l.id == id)
/-- A list put through `f`. -/
def modList (d : Dev) (e : Engine) (id : Nat) (f : BList → BList) : Dev :=
  modStrm d e (fun x => { x with lists := x.lists.map (fun l => if l.id == id then f l else l) })
/-- A transfer in flight. -/
def xferOf (d : Dev) (e : Engine) (slot : Nat) : Option Xfer := (strmOf d e).xfers.find? (fun x => x.slot == slot)
/-- A transfer in flight put through `f`. -/
def modXfer (d : Dev) (e : Engine) (slot : Nat) (f : Xfer → Xfer) : Dev :=
  modStrm d e (fun x => { x with xfers := x.xfers.map (fun t => if t.slot == slot then f t else t) })

/-- The STRM.GO that the engine has in hand: the oldest one in the stream queue. -/
def goInHand (c : Core) : Option Issued := c.cmds.find? (fun i => i.unit == .strm && cwOpc i.word.toNat == 0x10)
/-- The list is done: it is read, and its transfers have all completed; an empty one waits until its STRM.GO has left the queue and
every earlier STRM.GO has incremented its counter (R185). -/
def listDone (c : Core) (l : BList) : Bool :=
  decide (l.count ≤ l.nread) && decide (l.count ≤ l.next) && !(c.strm.xfers.any (fun t => t.list == l.id))
    && !(l.count == 0 && (c.cmds.any (fun i => i.id == l.id) || c.strm.lists.any (fun m => decide (m.id < l.id))))
/-- A list leaves, and its event counter advances (R198). -/
def endList (c : Core) (l : BList) : Core :=
  dropCmd { c with strm := { c.strm with lists := c.strm.lists.filter (fun m => m.id != l.id) }
                   ereg := mapPut c.ereg l.evt (satAdd (eregOf c l.evt) 1) } l.id
/-- Empty lists that waited for earlier ones end in their order. -/
def endEmpty : Nat → Core → Core
  | 0, c => c
  | n + 1, c =>
    match c.strm.lists.find? (fun l => l.count == 0 && listDone c l) with
    | some l => endEmpty n (endList c l)
    | none => c
/-- A list that is done leaves, and so do the empty ones that waited for it (R185, R195, R198). HDMA lists end by R451. -/
def finishList (d : Dev) (e : Engine) (id : Nat) : Dev :=
  match e with
  | .hdma c => hdmaCheck d c
  | .core v =>
    match listOf d e id with
    | none => d
    | some l =>
      if !listDone (coreOf d v) l then d
      else pump (modCore d v (fun c => endEmpty c.strm.lists.length (endList c l))) v
/-- LIST_READ_COMPLETE: the engine has read the last entry of the list in hand, and its STRM.GO completes. -/
def listReadAt (d : Dev) (v : Nat) : Dev :=
  match goInHand (coreOf d v) with
  | none => d
  | some i =>
    let d1 := fillBuf d (.core v)
    match listOf d1 (.core v) i.id with
    | none => d
    | some l =>
      if l.nread < l.count then d1
      else finishList (pump (modCore d1 v (fun c => dropCmd c i.id)) v) (.core v) i.id

/-! ### The start of a transfer (R196, R197, R216, R217, R224) -/

/-- An entry at the head of a list's buffer with its extension: how many entries it takes, and whether the extension is
missing because EXT stands on the last entry. -/
structure Pick where
  ent : BitVec 256
  ext : BitVec 256
  missing : Bool
  n : Nat
deriving DecidableEq, Repr

/-- The next entry of a list, once the buffer holds it whole. -/
def pickEntry (l : BList) : Option Pick :=
  match l.buf with
  | [] => none
  | a :: r =>
    if !tExt a.toNat then some { ent := a, ext := 0, missing := false, n := 1 }
    else if l.next + 1 = l.count then some { ent := a, ext := 0, missing := true, n := 1 }
    else match r with
      | [] => none
      | b :: _ => some { ent := a, ext := b, missing := false, n := 2 }

/-- The row under which an entry starts: its KIND; a KIND without a row for the engine starts under COPY. -/
def rowKind (e : Engine) (k : Nat) : Nat :=
  match e with
  | .core _ => if k ≤ 9 then k else 0
  | .hdma _ => if k ≤ 8 then k else 0

/-- Every earlier list of the class has started all its transfers (R197). -/
def classReady (x : StreamState) (l : BList) : Bool :=
  (x.lists.takeWhile (fun m => m.id != l.id)).all (fun m => m.pri != l.pri || decide (m.count ≤ m.next))
/-- An earlier STRM.FENCE holds the list (R216). -/
def fenceHolds (c : Core) (l : BList) : Bool :=
  c.cmds.any (fun i => cwOpc i.word.toNat == 0x12 && decide (i.id < l.id) && c.strm.lists.any (fun m => decide (m.id < i.id)))
/-- The blocks of the fetch window that are not held: the first of the eight from PRC_PC on that lie within HBM (R149). DESIGN CHOICE:
blocks lie at multiples of 2 KiB, so that the first may hold bytes before PRC_START. -/
def missingBlocks (d : Dev) (c : Core) : List Nat :=
  let base := c.pc.toNat / 2048 * 2048
  ((List.range 8).map (fun i => base + 2048 * i)).filter (fun a => (mapGet? c.fetchBuf a).isNone && a + 2048 ≤ hbmCap d)
/-- The command fetches in flight: while the core runs from HBM, each block of the window that is not held is being fetched (R149). -/
def fetchFlight (d : Dev) (v : Nat) : Nat :=
  let c := coreOf d v
  if c.state == .running && decide (c.start.toNat < winBase 0) then (missingBlocks d c).length else 0
/-- The command fetches in flight beside an engine's transfers. -/
def fetchBeside (d : Dev) : Engine → Nat
  | .core v => fetchFlight d v
  | .hdma _ => 0
/-- The in-flight limits of R196, with `n` command fetches in flight. -/
def slotsFull (x : StreamState) (l : BList) (n : Nat) : Bool :=
  let low := fun (t : Xfer) => (x.lists.find? (fun m => m.id == t.list)).any (fun m => decide (2 ≤ m.pri.toNat))
  decide (1024 ≤ x.xfers.length + x.heldSlots.length + n) || (decide (2 ≤ l.pri.toNat) && decide (960 ≤ x.xfers.countP low))
/-- The lowest free slot. -/
def freeSlot (x : StreamState) : Nat :=
  ((List.range (x.xfers.length + x.heldSlots.length + 1)).find? (fun s =>
    !(x.xfers.any (fun t => t.slot == s)) && !x.heldSlots.contains s)).getD 0
/-- An earlier transfer of the list holds this one (R216). -/
def ordHolds (x : StreamState) (l : BList) (ent : Nat) : Bool := (tOrd ent || tKind ent == 9) && x.xfers.any (fun t => t.list == l.id)

/-- The granules of the issuing core's own scratchpad and Gradebook that a transfer accesses. -/
def ownRegions (d : Dev) (v : Nat) (t : Tx) : List Region :=
  let own := fun (r : Nat × Nat) (wr : Bool) =>
    let a := r.1 % 2 ^ 48
    if isSelf d (r.1 / 2 ^ 48) && winBase v ≤ a && a < winBase v + 0xF00000 && r.2 != 0 then
      [{ lo := (a - winBase v) / 64, hi := (a - winBase v + r.2 - 1) / 64, rd := !wr || isReduce t, wr := wr : Region }]
    else []
  (txReads t).flatMap (fun r => own r false) ++ (txWrites t).flatMap (fun r => own r true)
/-- The scoreboard guard holds the transfer (R217). -/
def guardHolds (d : Dev) (v : Nat) (l : BList) (t : Tx) : Bool :=
  let early := ((coreOf d v).cmds.filter (fun i => decide (i.id < l.id))).flatMap (·.regions)
  !early.isEmpty && (ownRegions d v t).any (fun r => early.any (regionConflict r))

/-- The status that reading an HDMA entry itself gives: its list address must be HBM or host memory that can be read. -/
def entryReadStatus (d : Dev) (e : Engine) (a : Nat) : Nat :=
  match e with
  | .core _ => 0
  | .hdma _ =>
    let place := match addrKind d a with
      | .hbm => true
      | .host _ => true
      | _ => false
    if !place || a % 32 != 0 || localStatus d { hdma := true } a 32 false != 0 then 1
    else if (rdBad d a 32).isSome then 6 else 0

/-! ### Moving the data -/

/-- The range lies in host memory of this device. -/
def hostRange (d : Dev) (ga : Nat) : Bool := isSelf d (ga / 2 ^ 48) && 0x400000000000 ≤ ga % 2 ^ 48
/-- The transfer reads or writes host memory (R450). -/
def touchesHost (d : Dev) (t : Tx) : Bool := (txReads t ++ txWrites t).any (fun r => hostRange d r.1)
/-- The local ranges that a transfer may write. -/
def localWrites (d : Dev) (t : Tx) : List (Nat × Nat) := localRanges d (txWrites t)
/-- Each written row depends on its own source row, and its scales, alone. -/
def rowWise (t : Tx) : Bool := (t.kind == 0 && (!t.conv || !(fmtNarrow (ddFmt t)))) || isReduce t
/-- The first row of a transfer that an uncorrectable error in a range that it reads concerns, the scale area of a narrow source
included; `bad` says which bytes, counted from the range, are bad. -/
def firstBadRow (t : Tx) (i : Nat) (bad : Nat → Bool) : Nat :=
  if i < t.rows then i
  else ((List.range t.rows).find? (fun r => (List.range t.len).any (fun j =>
    bad (scaleIndex (blkSize (dBlk t.sdesc)) (dDir t.sdesc) t.len r j)))).getD t.rows

/-- What a transfer that completed with an error leaves in its engine's registers and in the event log, with the 48-bit address of
its entry in scratchpad (R222, R239, R451). -/
def recordError (d : Dev) (e : Engine) (x : Xfer) : Dev :=
  match e with
  | .hdma c => modHdma d c (fun h => { h with errCnt := satAdd h.errCnt 1, last := x.status })
  | .core v =>
    let d1 := modStrm d e (fun t =>
      { t with errCnt := satAdd t.errCnt 1, errCode := x.status, errKind := x.kind, errEntry := BitVec.ofNat 16 x.entry,
               errAddr := BitVec.ofNat 48 x.entryAddr })
    let word := x.status.toNat + x.kind.toNat * 2 ^ 4 + x.entry % 2 ^ 16 * 2 ^ 16
    logEvent d1 0x0501 (coreBlock d v) v (le 4 word ++ le 6 x.entryAddr)

/-- Transfers that have still to write a byte that is being written now remember the byte: the order of the two writes is open
(R219). -/
def noteRaces (d : Dev) (e : Engine) (slot : Nat) (rs : List (Nat × Nat)) : Dev :=
  let note := fun (d : Dev) (y : Engine) =>
    if (strmOf d y).xfers.any (fun t => xPending t && !(y == e && t.slot == slot)) then
      modStrm d y (fun x => { x with xfers := x.xfers.map (fun t =>
        if xPending t && !(y == e && t.slot == slot) && !(2 ≤ t.kind.toNat && t.kind.toNat ≤ 4) then
          let cells := rs.flatMap (fun r => (List.range r.2).filterMap (fun i =>
            if t.writes.any (fun w => w.1 ≤ r.1 + i && r.1 + i < w.1 + w.2) then some (r.1 + i, rdByte d (r.1 + i)) else none))
          { t with undo := t.undo ++ cells }
        else t) })
    else d
  (engines d).foldl note d
/-- At the write of a transfer that had such bytes, each keeps the other value or takes the new one. -/
def settleRaces (d : Dev) (cells : List Host.Cell) : Dev :=
  cells.foldl (fun e c => if Config.freeBit d.freeCtr c.1 then wrBytes e c.1 [c.2] else e) d

/-- A 4-byte read of a register transfer (R543); no word when an uncorrectable error is met (R223). -/
def regXferRead (s d : Dev) (e : Engine) (slot : Nat) (g : NMap Byte) (plc ga off : Nat) : Dev × Except Nat Nat :=
  if !isSelf d (ga / 2 ^ 48) then (d, .ok (leNat (gatheredBytes g off 4)))
  else match regAddr d ga with
    | some o => if regBeyond d ga then (d, .ok 0) else let r := regRead d s o; (r.1, .ok r.2)
    | none =>
      let d1 := touchRead d (ga % 2 ^ 48) 4 plc
      match rdBad d1 (ga % 2 ^ 48) 4 with
      | some g => (d1, .error g)
      | none => (d1, .ok (leNat (raceRead d1 e slot (ga % 2 ^ 48) 4 [])))
/-- The words of a register transfer: source, destination and offset in the gathered bytes. -/
def regWords (t : Tx) : List (Nat × Nat × Nat) :=
  (List.range t.rows).flatMap (fun i => (List.range (t.len / 4)).map (fun j =>
    (t.src + i * srcPitch t + 4 * j, t.dst + i * dstPitch t + 4 * j, i * t.len + 4 * j)))
/-- One word of a register transfer: it is read, and written where its destination lies, a register or memory of this device or of
another one (R543). A word that cannot be read ends the transfer with status 0x6. -/
def regMoveWord (s : Dev) (e : Engine) (slot cls : Nat) (g : NMap Byte) (t : Tx) (m : Moved) (w : Nat × Nat × Nat) : Moved :=
  if m.status != 0 then m
  else match regXferRead s m.dev e slot g t.plc w.1 w.2.2 with
    | (d1, .error bad) => { m with status := 6, dev := ueEvent d1 bad (engineCore e) }
    | (d1, .ok v) =>
      match (if isSelf d1 (w.2.1 / 2 ^ 48) then regAddr d1 w.2.1 else none) with
      | some o => { m with dev := if regBeyond d1 w.2.1 then d1 else regWrite d1 o v false }
      | none =>
        if isSelf d1 (w.2.1 / 2 ^ 48) then moveOp e slot cls t.plc { m with dev := d1 } w.2.1 (.put (leBytes 4 v))
        else { m with dev := d1, words := m.words ++ leBytes 4 v }
/-- A register transfer: each word is read and written in turn; a remote destination is sent its rows. -/
def regMove (s : Dev) (m : Moved) (e : Engine) (slot cls : Nat) (g : NMap Byte) (t : Tx) : Moved :=
  let m1 := (regWords t).foldl (regMoveWord s e slot cls g t) m
  if isSelf m.dev (t.dst / 2 ^ 48) then m1
  else
    let rows := if m1.status = 0 then t.rows else m1.words.length / t.len
    let m2 := moveOps e slot cls t.plc { m1 with status := 0 }
      ((List.range rows).map (fun i => (t.dst + i * dstPitch t, .put (slice m1.words (i * t.len) t.len))))
    { m2 with status := m1.status }

/-- The fields of a transfer in flight. -/
def xferTx (d : Dev) (e : Engine) (x : Xfer) : Tx :=
  txOf x.entryBits.toNat x.extBits.toNat ((listOf d e x.list).map (·.reloc.toNat) |>.getD 0)

/-- The bytes of the ranges that a transfer reads: what lies on this device, with `local` giving its bytes, and what has arrived
from others. -/
def xferData (d : Dev) (g : NMap Byte) (rs : List (Nat × Nat × Nat)) (here : Nat → Nat → List Byte) : List (List Byte) :=
  rs.map (fun r => if isSelf d (r.2.1 / 2 ^ 48) then here (r.2.1 % 2 ^ 48) r.2.2 else gatheredBytes g r.1 r.2.2)

/-- A transfer reads what lies on this device, takes what has arrived from others, and writes. An uncorrectable error ends it
with what an open number of whole rows before the error have written (R301); the core that issued it enters Detention, so the
transfer is complete at once. -/
def runXfer (s d : Dev) (e : Engine) (slot : Nat) : Dev :=
  match xferOf d e slot with
  | none => d
  | some x =>
    let t := xferTx d e x
    let l := listOf d e x.list
    let cls := (l.map (fun l => l.pri.toNat)).getD 2
    let stale := (l.map (·.stale)).getD []
    let rs := withOffsets (txReads t)
    let here := fun (r : Nat × Nat × Nat) => isSelf d (r.2.1 / 2 ^ 48)
    let d0 := rs.foldl (fun e r => if here r then touchRead e (r.2.1 % 2 ^ 48) r.2.2 t.plc else e) (draw (draw d))
    let m0 : Moved := { dev := d0 }
    let m :=
      if isRegXfer d t then regMove s m0 e slot cls x.gathered t
      else
        let badAt := fun (r : Nat × Nat × Nat) => if here r then rdBad d0 (r.2.1 % 2 ^ 48) r.2.2 else none
        let data := xferData d x.gathered rs (fun a n => raceRead d0 e slot a n stale)
        let ops := txOps t data
        match rs.find? (fun r => (badAt r).isSome) with
        | none =>
          let m1 := moveOps e slot cls t.plc m0 ops
          { m1 with seen := (List.zip rs data).filterMap (fun p => if here p.1 then some (p.1.2.1 % 2 ^ 48, p.2) else none) }
        | some r =>
          let rows := (List.range rs.length).map (fun i =>
            let q := rs.getD i (0, 0, 0)
            if (badAt q).isSome then firstBadRow t i (fun k => (rdBad d0 (q.2.1 % 2 ^ 48 + k) 1).isSome) else t.rows)
          let k := if rowWise t then Config.freeNat d0.freeCtr slot % (rows.foldl min t.rows + 1) else 0
          let m1 := moveOps e slot cls t.plc m0 (ops.take k)
          if m1.status != 0 then m1
          else { m1 with status := 6, dev := ueEvent m1.dev ((badAt r).getD 0) (engineCore e) }
    let d1 := settleRaces m.dev x.undo
    let d2 := modXfer (noteRaces (draw d1) e slot m.writes) e slot (fun y =>
      { y with status := BitVec.ofNat 4 m.status, writes := m.writes, undo := m.undo, seen := m.seen, adds := m.adds,
               waiting := y.waiting ++ m.waiting, hostWait := false, guard := false })
    match e with
    | .hdma _ => d2
    | .core _ => if m.status = 6 then recordError d2 e { x with status := 6 } else d2

/-- The operations of a transfer on this device, with no other agent beside it. -/
def redo (d : Dev) (plc : Nat) (ops : List (Nat × WOp)) : Dev :=
  ops.foldl (fun d o => if isSelf d (o.1 / 2 ^ 48) then (performOp d [] plc (o.1 % 2 ^ 48) o.2).1 else d) d
/-- A transfer that completes: each byte that it has read and that a command or another transfer has overwritten since then was old
or new, by a free choice, and so is what it has written with it, where that still stands (R163, R219). What it has sent to
another device stays as it was read first (DESIGN CHOICE). -/
def revisit (d : Dev) (e : Engine) (x : Xfer) : Dev :=
  if x.status != 0 || x.seen.all (fun r => rdBytes d r.1 r.2.length == r.2) then d
  else
    let t := xferTx d e x
    let rs := withOffsets (txReads t)
    let was := fun (a : Nat) => (x.seen.findSome? (fun r => if r.1 ≤ a then r.2[a - r.1]? else none)).getD (rdByte d a)
    let first := xferData d x.gathered rs (fun a n => (List.range n).map (fun i => was (a + i)))
    let mixed := xferData d x.gathered rs (fun a n => (List.range n).map (fun i =>
      if Config.freeBit d.freeCtr (a + i) then rdByte d (a + i) else was (a + i)))
    let back := x.undo.foldl (fun d c => wrBytes d c.1 [c.2]) d
    let d1 := redo back t.plc (txOps t first)
    let d2 := redo back t.plc (txOps t mixed)
    draw (x.writes.foldl (fun d r => (List.range r.2).foldl (fun d i =>
      let a := r.1 + i
      if rdByte d a == rdByte d1 a && rdByte d1 a != rdByte d2 a then wrBytes d a [rdByte d2 a] else d) d) d)

/-- The read requests of a transfer for what lies on other devices (R349). -/
def readRequests (d : Dev) (e : Engine) (slot cls : Nat) (t : Tx) : List (Bulk × Outstanding) :=
  let v := (engineCore e).getD 0
  (withOffsets (txReads t)).flatMap (fun r =>
    if isSelf d (r.2.1 / 2 ^ 48) then [] else readMessages d v slot cls r.1 r.2.1 r.2.2)

/-- The guard of an engine's transfer: only a core's scoreboard guards (R217). -/
def guardWaits (d : Dev) (e : Engine) (l : BList) (t : Tx) : Bool :=
  match e with
  | .core v => guardHolds d v l t
  | .hdma _ => false
/-- The scoreboard guard still holds a transfer in flight. -/
def stillGuarded (d : Dev) (e : Engine) (x : Xfer) : Bool :=
  x.guard && (listOf d e x.list).any (fun l => guardWaits d e l (xferTx d e x))

/-- A transfer enters flight: a failed one or an empty one does nothing more; a BELL transfer holds its arrival; a transfer that
reads other devices sends its requests; one that touches host memory, or that the scoreboard guards, waits; any other moves its
data. -/
def launchXfer (s d : Dev) (e : Engine) (l : BList) (p : Pick) (slot status : Nat) (t : Tx) : Dev :=
  let pending := status = 0 && !txZero t && t.kind != 9
  let reads := if pending then readRequests d e slot l.pri.toNat t else []
  let x : Xfer :=
    { slot := slot, list := l.id, entry := l.next, entryAddr := l.base + 32 * l.next, kind := BitVec.ofNat 4 t.kind,
      status := BitVec.ofNat 4 status, writes := if pending then localWrites d t else [], waiting := reads.map (·.2),
      bellHeld := t.kind == 9 && status = 0, hostWait := pending && touchesHost d t,
      guard := pending && guardWaits d e l t, entryBits := p.ent, extBits := p.ext }
  let d1 := modStrm d e (fun y => { y with xfers := y.xfers ++ [x] })
  if status != 0 then d1
  else if t.kind = 9 then
    match e with
    | .core v =>
      let h : HeldArrival := { core := v, cmd := none, slot := some slot, op := BitVec.ofNat 3 (bits t.dst 10 3), value := BitVec.ofNat 64 t.src }
      modBell d1 (bits t.dst 0 10) (fun b => { b with held := b.held ++ [h] })
    | .hdma _ => d1
  else if txZero t then d1
  else if !reads.isEmpty then reads.foldl (fun e r => sendBulk e r.1 [] 12) d1
  else if x.hostWait || x.guard then d1
  else runXfer s d1 e slot

/-- What keeps a picked entry of a list from starting: the stall counters of R240 that count it (R196, R216). -/
def startHeld (d : Dev) (e : Engine) (l : BList) (p : Pick) : List Nat :=
  let x := strmOf d e
  let held := match e with
    | .core v => (if slotsFull x l (fetchBeside d e) then [0x40] else []) ++ (if fenceHolds (coreOf d v) l then [0x48] else [])
    | .hdma _ => []
  held ++ (if ordHolds x l p.ent.toNat then [0x44] else [])

/-- The status of a picked entry before any access, its fields, and its own reading. -/
def pickStatus (d : Dev) (e : Engine) (l : BList) (p : Pick) : Nat × Tx :=
  let t := txOf p.ent.toNat p.ext.toNat l.reloc.toNat
  let rd := entryReadStatus d e (l.base + 32 * l.next)
  (if rd != 0 then rd else txStatus d e p.ent.toNat p.ext.toNat p.missing t, t)

/-- The next transfer of a list may start: its list is next in its class, and nothing holds it (R196, R197, R216). -/
def listReady (d : Dev) (e : Engine) (l : BList) : Bool :=
  match pickEntry l with
  | none => false
  | some p => classReady (strmOf d e) l && (startHeld d e l p).isEmpty && decide (l.next < l.count)
/-- The list whose transfer has the next grant: the oldest that is ready in the highest class, and at every 16th grant the oldest
of any class (R197, R225, R226). -/
def startGrant (d : Dev) (e : Engine) : Option BList :=
  let x := strmOf d e
  let ready := x.lists.filter (listReady d e)
  if x.grants = 15 then ready.head?
  else ((List.range 4).findSome? (fun c => ready.find? (fun l => l.pri.toNat == c)))

/-! ### Completion (R198, R218, R222, R451) -/

/-- A transfer leaves flight: an error is recorded, its list goes on, and an error that another device reported as uncorrectable
detains the issuing core (R301). -/
def completeXfer (d : Dev) (e : Engine) (x : Xfer) : Dev :=
  let evt := (listOf d e x.list).map (·.evt)
  let left := x.undo.filter (fun c => inWindows c.1)
  let d1 := modStrm (revisit d e x) e (fun y =>
    { y with xfers := y.xfers.filter (fun t => t.slot != x.slot)
             stale := match e, evt with
               | .core _, some n => if left.isEmpty then y.stale else y.stale ++ [(n, left)]
               | _, _ => y.stale })
  let d2 := if x.status = 0 then d1 else recordError d1 e x
  let d3 := finishList d2 e x.list
  match engineCore e with
  | some v => if x.status = 6 then detainCore d3 v 0x1 else d3
  | none => d3

/-- What a transfer that ends with status 0x5 or 0x6 leaves in the bytes that it would have written here (R221, R301): each byte, and
each element of a reduction as a whole, is old or new by a free choice. New are those that it has written, or that it can write
with what has arrived: whole rows, of a transfer that writes row by row. -/
def leaveOpen (d : Dev) (e : Engine) (x : Xfer) : Dev :=
  let t := xferTx d e x
  let unit := fun a => if isReduce t || t.arr then a / 4 * 4 else a
  if !xPending x then undoUnits d unit x.undo
  else if x.writes.isEmpty || x.hostWait || !rowWise t then d
  else
    let rs := withOffsets (txReads t)
    let whole := fun (r : Nat × Nat × Nat) => isSelf d (r.2.1 / 2 ^ 48) || (List.range r.2.2).all (fun i => (mapGet? x.gathered (r.1 + i)).isSome)
    let scales := (rs.drop t.rows).all whole
    let ops := txOps t (xferData d x.gathered rs (rdBytes d))
    let d1 := redo d t.plc (((List.zip ops (rs.take t.rows)).filter (fun p => scales && whole p.2)).map (·.1))
    undoUnits d1 unit (changedIn d d1 x.writes)
/-- TRANSFER_COMPLETE: nothing of the transfer is outstanding. One that touches host memory, or that the scoreboard has guarded,
moves its data now. -/
def transferCompleteAt (s d : Dev) (e : Engine) (slot : Nat) : Dev :=
  match xferOf d e slot with
  | none => d
  | some x =>
    if x.bellHeld || !x.waiting.isEmpty || (x.status == 0 && stillGuarded d e x) then d
    else
      let d1 := if (x.hostWait || x.guard) && x.status = 0 then runXfer s d e slot else d
      match xferOf d1 e slot with
      | none => d1
      | some y => if y.waiting.isEmpty then completeXfer (if x.status = 5 then leaveOpen d1 e y else d1) e y else d1

/-- A transfer row: the next transfer of a list starts, when it is of the row's KIND and has the grant. An empty transfer
completes in the beat in which it starts (R224). -/
def startXfer (s d : Dev) (e : Engine) (list row : Nat) : Dev :=
  let d0 := fillBuf d e
  match startGrant d0 e with
  | none => d
  | some l =>
    match pickEntry l with
    | none => d
    | some p =>
      let (status, t) := pickStatus d0 e l p
      if l.id != list || rowKind e t.kind != row then d
      else
        let slot := freeSlot (strmOf d0 e)
        let d1 := modStrm (modList d0 e list (fun m => { m with next := m.next + p.n, buf := m.buf.drop p.n })) e
          (fun x => { x with grants := (x.grants + 1) % 16 })
        let d2 := fillBuf (launchXfer s d1 e l p slot status t) e
        if status = 0 && txZero t && t.kind != 9 then transferCompleteAt s d2 e slot else d2

/-! ### Responses and timeouts (R350 to R352, R450) -/

/-- The data of a read response joins what a transfer gathers. -/
def gatherAt (x : Xfer) (off : Nat) (bs : List Byte) : Xfer :=
  { x with gathered := (bs.mapIdx (fun i b => (off + i, b))).foldl (fun m p => mapPut m p.1 p.2) x.gathered }

/-- The outstanding request that a response answers, by CORE and SLOT (R352), one of the device that sent it first, since a router on
the way may have sent a status (R353): a read response by its RTAG, a status of success the first request of the
device that is no read, any other status the first such request or else the first read. -/
def answeredBy (x : Xfer) (b : Bulk) (n : Nat) : Option Outstanding :=
  let from_ := x.waiting.filter (fun o => o.dev.toNat == b.src)
  let of := if from_.isEmpty then x.waiting else from_
  if b.op = 3 then of.find? (fun o => o.read && o.rtag.toNat == b.addr && o.len == n)
  else
    let plain := of.find? (fun o => !o.read)
    if bits b.aux 0 4 = 0 then plain else plain.or (of.find? (·.read))
/-- A list without its first element equal to one given. -/
def eraseWait : List Outstanding → Outstanding → List Outstanding
  | [], _ => []
  | a :: r, o => if a = o then r else a :: eraseWait r o

/-- A response for this device: it answers its request, or is counted in FAB_LATE (R352). When the last read response has
arrived, the transfer goes on. -/
def responseAt (s d : Dev) (b : Bulk) (data : List (BitVec 2048)) : Dev :=
  let late : Dev := { d with fab := { d.fab with late := satAdd d.fab.late 1 } }
  let e := Engine.core b.core
  let n := bits b.aux 0 12
  let st := bits b.aux 0 4
  match xferOf d e b.slot with
  | none => late
  | some x =>
    match answeredBy x b n with
    | none => late
    | some o =>
      let y := { x with waiting := eraseWait x.waiting o }
      let z := if b.op = 3 then gatherAt y o.rtag.toNat (messageBytes data n)
        else if x.status = 0 then { y with status := BitVec.ofNat 4 st } else y
      let d1 := modXfer (if b.op != 3 && st == 6 then leaveOpen d e x else d) e b.slot (fun _ => z)
      if z.status = 0 && b.op = 3 && !(z.waiting.any (·.read)) && !z.hostWait && !stillGuarded d1 e z then runXfer s d1 e b.slot else d1

/-- FAB_TIMEOUT: the outstanding requests of a transfer fail with status 0x5; the transfer completes, and its slot is held for a
further period (R352). -/
def fabTimeoutAt (d : Dev) (v slot : Nat) : Dev :=
  let e := Engine.core v
  match xferOf d e slot with
  | none => d
  | some x =>
    if x.waiting.isEmpty then d
    else
      let y := { x with waiting := [], status := if x.status = 0 then 5 else x.status }
      modStrm (completeXfer (modXfer (leaveOpen d e x) e slot (fun _ => y)) e y) e (fun z =>
        if isDetained d v then z else { z with heldSlots := z.heldSlots ++ [slot] })
/-- SLOT_REUSE: the period has passed. -/
def slotReuseAt (d : Dev) (v slot : Nat) : Dev :=
  modStrm d (.core v) (fun z => { z with heldSlots := z.heldSlots.filter (· != slot) })
/-- HOST_COMPLETION_TIMEOUT: the host does not complete a request of a transfer that waits for host memory. On a timeout, or on
Unsupported Request or Completer Abort, the transfer fails with status 0x1; on a poisoned completion with status 0x6, which is logged, and its
core enters Detention (R221, R301, R450). It writes nothing. -/
def hostTimeoutAt (d : Dev) (e : Engine) (slot : Nat) (reply : HostReply) : Dev :=
  match xferOf d e slot with
  | none => d
  | some x =>
    if !x.hostWait || x.status != 0 || reply = .ok then d
    else
      let bad := reply == .poisoned
      let d1 := modXfer d e slot (fun y => { y with status := if bad then 6 else 1, hostWait := false })
      if !bad then d1
      else
        let at_ := ((txReads (xferTx d e x)).map (fun r => r.1 % 2 ^ 48)).find? (fun a => decide (0x400000000000 ≤ a))
        let d2 := logEvent d1 0x0601 0x104 argNone (le 6 (at_.getD 0) ++ by1 ((engineCore e).getD 0xFF))
        match engineCore e with
        | some v => detainCore d2 v 0x1
        | none => d2

/-! ### Transfers in flight that meet a poisoned response or a link that goes down (R309, R310) -/

/-- A transfer in flight ends with status 0x6 for an error at an address: a core enters Detention, so its transfer is complete at
once; bytes that it has written are old or new. -/
def failXfer (d : Dev) (e : Engine) (x : Xfer) (a : Nat) : Dev :=
  match e with
  | .core v => recordError (draw (ueEvent d (a / 64 * 64) (some v))) e { x with status := 6 }
  | .hdma _ => undoBytes (modXfer (ueEvent d (a / 64 * 64) none) e x.slot (fun y =>
      { y with status := 6, hostWait := false, guard := false, undo := [] })) x.undo
/-- The transfer reads the 64-byte line of an address on this device. -/
def readsLine (d : Dev) (t : Tx) (a : Nat) : Bool :=
  (txReads t).any (fun r => isSelf d (r.1 / 2 ^ 48) && meets (r.1 % 2 ^ 48) r.2 (a / 64 * 64) 64)
/-- POISONED_RESPONSE: a poisoned MemRd response is an uncorrectable error of the access that reads the line, with the status that
R301 gives its reader (R309): a transfer in flight ends with 0x6, a request of another device is answered with 0x6, and another
access of a core or of none only counts and detains. -/
def poisonedAt (d : Dev) (by_ : Reader) (a : Nat) : Dev :=
  match addrKind d a with
  | .board _ =>
    match by_ with
    | .core v => ueEvent d (a / 64 * 64) (some v)
    | .none => ueEvent d (a / 64 * 64) none
    | .xfer e slot =>
      (match xferOf d e slot with
      | some x => if x.status = 0 && readsLine d (xferTx d e x) a then failXfer d e x a else d
      | none => d)
    | .request hdr =>
      let b := bulkOf hdr
      if b.op = 2 && requestStatus d b (.put []) = 0 && meets b.addr (bits b.aux 0 12) (a / 64 * 64) 64 then
        sendBulk (ueEvent d (a / 64 * 64) none) (statusFor d b 6) [] 12
      else d
  | _ => d

/-- The first address that a transfer reads or writes in a port's board range. -/
def boardHit (d : Dev) (p : Nat) (t : Tx) : Option Nat :=
  ((txReads t ++ txWrites t).find? (fun r => isSelf d (r.1 / 2 ^ 48) && boardPort (r.1 % 2 ^ 48) == some p)).map (·.1 % 2 ^ 48)
/-- A transfer whose ranges meet a part that fails has an access in flight there, or by a free choice has none any more. -/
def failOne (hit : Tx → Option Nat) (e : Engine) (d : Dev) (slot : Nat) : Dev :=
  match xferOf d e slot with
  | none => d
  | some x =>
    match hit (xferTx d e x) with
    | none => d
    | some a => if x.status = 0 && Config.freeBit d.freeCtr a then failXfer (draw d) e x a else draw d
/-- Every transfer in flight put through `f`. -/
def eachXfer (d : Dev) (f : Engine → Dev → Nat → Dev) : Dev :=
  (engines d).foldl (fun d e => ((strmOf d e).xfers.map (·.slot)).foldl (f e) d) d
/-- A transfer that has not yet moved its data finds the range of a port that went down unpopulated; another one has an access in
flight or none. -/
def failBoardOne (p : Nat) (e : Engine) (d : Dev) (slot : Nat) : Dev :=
  match xferOf d e slot with
  | none => d
  | some x =>
    if x.status = 0 && xPending x && (boardHit d p (xferTx d e x)).isSome then
      modXfer d e slot (fun y => { y with status := 1 })
    else failOne (boardHit d p) e d slot
/-- The transfers in flight when port p goes down. -/
def failBoard (d : Dev) (p : Nat) : Dev := eachXfer d (failBoardOne p)
/-- CXL_LINK_DOWN. -/
def cxlLinkDownAt (d : Dev) (p : Nat) : Dev := if 2 ≤ p || !cxlUp d p then d else cxlGone (failBoard d p) p

/-- The first granule of some local HBM ranges that a controller serves. -/
def ctlHit (d : Dev) (c : Nat) (t : Tx) : Option Nat :=
  (localRanges d (txReads t ++ txWrites t)).findSome? (fun r =>
    if hbmCap d ≤ r.1 || r.2 = 0 then none
    else ((List.range (r.2 / 256 + 2)).map (fun i => r.1 / 256 * 256 + 256 * i)).find? (fun a =>
      decide (a < r.1 + r.2) && decide (a < hbmCap d) && hbmCtlOf d a == c))
/-- The transfers in flight when HBM controller c is reset by force (R521). -/
def failCtl (d : Dev) (c : Nat) : Dev := eachXfer d (failOne (ctlHit d c))

end Sys2Proof.Machine
end

