-- ==== Sys2Proof/Machine/Meaning.lean ====
section
/-!
DEFINITION. What the meanings share: lifting an effect on the device to an answer, the conditions under which a core, an HDMA
channel, a port or a register takes part at all, and the three operations that only one row uses (a command fetch and the two
ends of a block reset).
-/
namespace Sys2Proof.Machine

/-- What a meaning answers. -/
abbrev Answer := Host.Outcome State Fault Refusal

/-- The next state has this device. -/
def ran (s : State) (d : Dev) : Answer := .next { s with dev := d }
/-- An effect on the device. -/
def onDev (s : State) (f : Dev → Dev) : Answer := ran s (f s.dev)
/-- An effect of the beats of the compute dies: none while the pacers are stopped, in park, sleep or standby (R406, R524). -/
def onClock (s : State) (f : Dev → Dev) : Answer := onDev s (fun d => if d.rp.pwr = .on then f d else d)
/-- An effect of a core's beats, for a virtual core of the grid (R25). -/
def onCore (s : State) (v : Nat) (f : Dev → Dev) : Answer := onClock s (fun d => if v < gridCores d then f d else d)
/-- An effect of a stream engine: a core's, or an HDMA channel's. -/
def onEngine (s : State) (e : Engine) (f : Dev → Dev) : Answer :=
  match e with
  | .core v => onCore s v f
  | .hdma c => onDev s (fun d => if c < 4 then f d else d)
/-- A memory request of the host at an offset of BAR0: in D3hot the port refuses it with Unsupported Request (R431). -/
def onHost (s : State) (off : Nat) (f : Dev → Dev) : Answer :=
  onDev s (fun d => if d.host.d3hot then emit d (.unsupported off) else f d)
/-- A PRC_CTL action of a core out of reset and out of Detention, in a block that is served once the Syllabus is active (R192,
R401, R433). -/
def onPrc (s : State) (v : Nat) (f : Dev → Dev) : Answer :=
  onHost s (0xC00000 + 0x1000 * v) (fun d =>
    if v < gridCores d && syllActive d && (pacerOf d (coreRegion d v)).released && !isDetained d v then f d else d)
/-- An effect at a fabric port. -/
def onPort (s : State) (p : Nat) (f : Dev → Dev) : Answer := onDev s (fun d => if p < 12 then f d else d)
/-- A write in a block that is served once the Syllabus is active (R433). -/
def onLate (s : State) (off : Nat) (f : Dev → Dev) : Answer := onHost s off (fun d => if syllActive d then f d else d)
/-- A write of a whole word of such a block: it clears the word's parity fault, and then acts (R539). -/
def onWord (s : State) (off : Nat) (f : Dev → Dev) : Answer := onLate s off (fun d => f (clearFault d off))
/-- A write of a whole word of a block that is served at once. -/
def onEarly (s : State) (off : Nat) (f : Dev → Dev) : Answer := onHost s off (fun d => f (clearFault d off))

/-! ### Command fetch (R149) -/

/-- The next block to fetch: the first of the fetch window that is not held. -/
def nextBlock (d : Dev) (v : Nat) : Option Nat := (missingBlocks d (coreOf d v)).head?
/-- The fetch buffer with a block added: a block outside the eight from PRC_PC on makes room (16 KiB). -/
def putBlock (c : Core) (a : Nat) (bs : List Byte) : Core :=
  let base := c.pc.toNat / 2048 * 2048
  let near := c.fetchBuf.filter (fun b => base ≤ b.1 && b.1 < base + 8 * 2048)
  { c with fetchBuf := mapPut (if c.fetchBuf.length < 8 then c.fetchBuf else near) a bs }
/-- FETCH_BLOCK: a running core whose commands lie in HBM reads the next block, within its limit of transfers in flight. A block
that cannot be fetched faults nothing; an uncorrectable error is one of the core's stream engine, in an open word of the
block. -/
def fetchBlockAt (d : Dev) (v : Nat) (ecc : Ecc) : Dev :=
  let c := coreOf d v
  let full := decide (1024 ≤ c.strm.xfers.length + c.strm.heldSlots.length)
  if c.state != .running || winBase 0 ≤ c.start.toNat || full then d
  else match nextBlock d v with
    | none => d
    | some a =>
      let w := a / 8 + Config.freeNat d.freeCtr a % 256
      let (d0, bad) := match ecc with
        | .uncorrectable => ({ d with badWords := w :: d.badWords.filter (· != w) }, some (8 * w))
        | _ => (d, rdBad d a 2048)
      if localStatus d { core := some v } a 2048 false != 0 then d
      else match bad with
        | some g => draw (ueEvent d0 (g / 64 * 64) (some v))
        | none =>
          let d1 := match ecc with
            | .single => modHbm d (hbmCtlOf d (placeOf d a)) (fun h => { h with ceCnt := satAdd h.ceCnt 1 })
            | _ => d
          modCore d1 v (fun x => putBlock x a (rdBytes d a 2048))

/-! ### The ends of a block reset (R519 to R521) -/

/-- What a block reset meets in flight: at an HBM controller that is reset by force, accesses that end with status 0x6 (R521). -/
def beforeReset (d : Dev) (blk : Nat) (honoured : Bool) : Dev :=
  if !honoured && decide (0xE0 ≤ blk) && decide (blk < 0xEC) then failCtl d (blk - 0xE0) else d
/-- The running block reset takes place when a condition holds, and the shadow copies of the block take their Block values. -/
def blockEnds (s : State) (now : BlockReset → Bool) (honoured : Bool) : Answer :=
  match s.dev.rp.blockReset with
  | some b => if now b then .next { s with dev := blockDone (beforeReset s.dev b.block.toNat honoured) honoured, shadow := shadowReset s.shadow b.block.toNat } else .next s
  | none => .next s
/-- RST_BLKTO in µs as it acts: 0 acts as 1, and 100 stands in its place while the word is in parity fault (R539, R546). -/
def blockTimeout (d : Dev) : Nat := if pfault d 0x1000C then 100 else max 1 d.rp.blkTo.toNat

end Sys2Proof.Machine
end

