-- ==== Sys2Proof/Machine/ArrayRows.lean ====
section
/-!
DEFINITION. The array rows (R93 to R140): each attempts the command at PRC_PC, which issues into its array queue.
-/
namespace Sys2Proof.Machine

/-- MMA.F, attempted at PRC_PC (R97, R179). -/
def execMmaF (v : Nat) (s : State) : Answer := onCore s v (fun d => attempt d v (rowOpc 0x20))

/-- MMA.T, attempted at PRC_PC (R98, R179). -/
def execMmaT (v : Nat) (s : State) : Answer := onCore s v (fun d => attempt d v (rowOpc 0x21))

/-- MMA.O, attempted at PRC_PC (R99, R179). -/
def execMmaO (v : Nat) (s : State) : Answer := onCore s v (fun d => attempt d v (rowOpc 0x22))

/-- WLOAD, attempted at PRC_PC (R109, R110, R179). -/
def execWload (v : Nat) (s : State) : Answer := onCore s v (fun d => attempt d v (rowOpc 0x23))

/-- WSWAP, attempted at PRC_PC (R111, R179). -/
def execWswap (v : Nat) (s : State) : Answer := onCore s v (fun d => attempt d v (rowOpc 0x24))

/-- GB.DRAIN, attempted at PRC_PC (R122 to R124, R179). -/
def execGbDrain (v : Nat) (s : State) : Answer := onCore s v (fun d => attempt d v (rowOpc 0x25))

/-- GB.CLEAR, attempted at PRC_PC (R125, R179). -/
def execGbClear (v : Nat) (s : State) : Answer := onCore s v (fun d => attempt d v (rowOpc 0x26))

/-- RING_HEADER (R131, R132). -/
def execRingHeader (ring member : Nat) (s : State) : Answer := onClock s (fun d => ringHeaderAt d ring member)

end Sys2Proof.Machine
end

