-- ==== Sys2Proof/Machine/BellRows.lean ====
section
/-!
DEFINITION. The Bell rows (R232 to R236) and the Timetable rows (R38, R39).
-/
namespace Sys2Proof.Machine

/-- BELL_ARRIVAL_SENT (R232). -/
def execBellArrivalSent (v bell : Nat) (s : State) : Answer := onCore s v (fun d => arrivalSentAt d v bell)

/-- BELL_ARRIVAL (R234, R341). -/
def execBellArrival (port : Nat) (flit : BitVec 256) (s : State) : Answer := onPort s port (fun d => bellArrivalAt d port flit)

/-- BELL_RELEASE (R234, R341). -/
def execBellRelease (port : Nat) (flit : BitVec 256) (s : State) : Answer := onPort s port (fun d => bellReleaseAt d port flit)

/-- BELL_GENERATION_COMPLETE (R234, R235). -/
def execBellGenerationComplete (bell : Nat) (s : State) : Answer := onDev s (fun d => generationAt d bell)

/-- TT_LOAD (R38). -/
def execTtLoad (s : State) : Answer := onDev s (fun d => ttLoadAt d)

/-- TIMETABLE_ACTIVE (R39). -/
def execTimetableActive (s : State) : Answer := onDev s (fun d => ttActivateAt d)

end Sys2Proof.Machine
end

