-- ==== Sys2Proof/Machine/BootRows.lean ====
section
/-!
DEFINITION. The rows of boot and security (R455 to R499): bundles, chain delivery, the Prefect mailbox, SPDM and JTAG.
-/
namespace Sys2Proof.Machine

/-- DELIVER (R464, R473). -/
def execDeliver (s : State) : Answer := onDev s (fun d => deliverAt d)

/-- BUNDLE_BLOCK (R463). -/
def execBundleBlock (data : List Byte) (s : State) : Answer := onDev s (fun d => bundleBlockAt d data)

/-- HOST_READ_ERROR (R465). -/
def execHostReadError (s : State) : Answer := onDev s (fun d => hostReadErrorAt d)

/-- ACTIVATION (R472). -/
def execActivation (fails : List Nat) (s : State) (wrong : List (Nat × Nat × Byte) := []) : Answer :=
  onDev s (fun d => activationAt d fails wrong)

/-- OFFER (R467, R468). -/
def execOffer (port : Nat) (flit : BitVec 256) (s : State) : Answer :=
  onPort s port (fun d => onCtl d port flit 0xB (fun e => offerAt e port flit))

/-- OFFER_REPEAT (R467). -/
def execOfferRepeat (s : State) : Answer := onDev s (fun d => offerRepeatAt d)

/-- PULL (R467). -/
def execPull (port : Nat) (flit : BitVec 256) (s : State) : Answer :=
  onPort s port (fun d => onCtl d port flit 0xC (fun e => pullAt e port flit))

/-- DATA (R468). -/
def execData (port : Nat) (flit : BitVec 256) (s : State) : Answer :=
  onPort s port (fun d => onCtl d port flit 0xD (fun e => dataAt e port flit))

/-- DONE (R470, R471). -/
def execDone (port : Nat) (flit : BitVec 256) (s : State) : Answer :=
  onPort s port (fun d => onCtl d port flit 0xE (fun e => freeStore (chainDoneAt e port flit)))

/-- CHAIN_TIMEOUT (R469). -/
def execChainTimeout (s : State) : Answer := onDev s (fun d => chainTimeoutAt d)

/-- STATUS (R482). -/
def execStatus (s : State) : Answer := onDev s (fun d => prfStatusAt d)

/-- SELFTEST (R455, R497). -/
def execSelftest (pass : Bool) (s : State) : Answer := onDev s (fun d => selftestAt d pass)

/-- ENTROPY_TEST_FAIL (R497). -/
def execEntropyTestFail (s : State) : Answer := onDev s (fun d => entropyFailAt d)

/-- NONCE (R481). -/
def execNonce (s : State) : Answer := onDev s (fun d => nonceAt d)

/-- ENROL (R477). -/
def execEnrol (s : State) : Answer := onDev s (fun d => enrolAt d)

/-- REVOKE (R477). -/
def execRevoke (s : State) : Answer := onDev s (fun d => revokeAt d)

/-- COMMIT (R474). -/
def execCommit (s : State) : Answer := onDev s (fun d => commitSvnAt d)

/-- UNLOCK (R499). -/
def execUnlock (s : State) : Answer := onDev s (fun d => unlockAt d)

/-- ZEROISE (R496). -/
def execZeroise (s : State) : Answer := onDev s (fun d => zeroiseAt d)

/-- PREFECT_RESERVED_COMMAND (R481). -/
def execPrefectReservedCommand (s : State) : Answer := onDev s (fun d => prfReservedAt d)

/-- GET_VERSION (R491, R492). -/
def execGetVersion (t : SpdmPort) (req : List Byte) (s : State) : Answer := onDev s (fun d => getVersionAt d t req)

/-- GET_CAPABILITIES (R491, R492). -/
def execGetCapabilities (t : SpdmPort) (req : List Byte) (s : State) : Answer := onDev s (fun d => getCapabilitiesAt d t req)

/-- NEGOTIATE_ALGORITHMS (R491, R492). -/
def execNegotiateAlgorithms (t : SpdmPort) (req : List Byte) (s : State) : Answer := onDev s (fun d => negotiateAt d t req)

/-- GET_DIGESTS (R491, R492). -/
def execGetDigests (t : SpdmPort) (req : List Byte) (s : State) : Answer := onDev s (fun d => getDigestsAt d t req)

/-- GET_CERTIFICATE (R491, R492). -/
def execGetCertificate (t : SpdmPort) (req : List Byte) (s : State) : Answer := onDev s (fun d => getCertificateAt d t req)

/-- CHALLENGE (R491, R492). -/
def execChallenge (t : SpdmPort) (req : List Byte) (s : State) : Answer := onDev s (fun d => challengeAt d t req)

/-- GET_MEASUREMENTS (R491, R492). -/
def execGetMeasurements (t : SpdmPort) (req : List Byte) (s : State) : Answer := onDev s (fun d => getMeasurementsAt d t req)

/-- SPDM_UNSUPPORTED_REQUEST (R491, R492). -/
def execSpdmUnsupportedRequest (t : SpdmPort) (req : List Byte) (s : State) : Answer :=
  onDev s (fun d => spdmUnsupportedAt d t req)

/-- JTAG_INSTRUCTION (R498, R499). -/
def execJtagInstruction (instr : JtagInstr) (s : State) : Answer := onDev s (fun d => jtagAt d instr)

end Sys2Proof.Machine
end

