-- ==== Sys2Proof/Machine/CopyRows.lean ====
section
/-!
DEFINITION. The Copybook rows (R393 to R404) and the Detention rows (R400 to R403).
-/
namespace Sys2Proof.Machine

/-- CHECKPOINT_DUE (R396, R397). -/
def execCheckpointDue (s : State) : Answer := onDev s (fun d => if cadenceDue d then roundDue d else d)

/-- CADENCE_RECOMPUTE (R397 to R399). -/
def execCadenceRecompute (s : State) : Answer := onDev s (fun d => cadence d)

/-- NOW (R393). -/
def execNow (s : State) : Answer := onWord s 0xC0000 (fun d => roundDue d)

/-- ROUND_START (R393, R404). -/
def execRoundStart (s : State) (ready : Bool := true) : Answer := onDev s (fun d => roundStartAt d ready)

/-- DRAIN_COMPLETE (R388, R393). -/
def execDrainComplete (ok : Bool) (s : State) : Answer := onDev s (fun d => drainEnd d ok)

/-- ABORT (R396). -/
def execAbort (s : State) : Answer := onWord s 0xC0000 (fun d => roundAbort d)

/-- ARM (R404). -/
def execArm (on : Bool) (s : State) : Answer := onWord s 0xC0000 (fun d => { d with copy := { d.copy with arm := on } })

/-- COPY_SEQ_WRITE (R404). -/
def execCopySeqWrite (hi : Bool) (value : Word) (s : State) : Answer :=
  onWord s (if hi then 0xC000C else 0xC0008) (fun d => seqWrite d (if hi then 1 else 0) value.toNat)

/-- DCORE: a write of DET_CTL (R400, R405, R541). -/
def execDcore (value : Word) (s : State) : Answer := onWord s 0xC0064 (fun d => dcoreAt d value.toNat)

/-- DDEV (R403). -/
def execDdev (s : State) : Answer := onWord s 0xC0064 (fun d => detainDevice d 4)

/-- WORK_STOP_TIMEOUT (R402). -/
def execWorkStopTimeout (s : State) : Answer := onDev s (fun d => workStopAt d)

end Sys2Proof.Machine
end

