-- ==== Sys2Proof/Machine/FabData.lean ====
section
/-!
DEFINITION. What arrives on a fabric port in codewords (R334, R337 to R339, R343, R344, R347, R350 to R353): slots, the flits and
bulk messages that they make up, and what an accepted message does: it is performed here, matched to the request that it
answers, or passed on by the router.
-/
namespace Sys2Proof.Machine

/-! ### Accepted messages (R350 to R353) -/

/-- A response to the Copybook's sequencer, whose messages carry CORE = 0xFF: it answers the write with its SLOT; a failed write of a drain
ends the round without a commit (R352, R391, R396). -/
def copyResponse (d : Dev) (b : Bulk) : Dev :=
  match (if b.op = 4 then d.copy.waits.find? (fun w => w.1 == b.slot) else none) with
  | some w =>
    let d1 := { d with copy := { d.copy with waits := d.copy.waits.erase w } }
    if bits b.aux 0 4 = 0 || d1.copy.state != .frozen then d1 else drainFails d1 (bits b.aux 0 4) w.2
  | none => { d with fab := { d.fab with late := satAdd d.fab.late 1 } }

/-- An accepted message for this device. -/
def deliverBulk (s d : Dev) (b : Bulk) (data : List (BitVec 2048)) : Dev :=
  if !b.rsp then serveRequest d b data
  else if b.core = 0xFF then copyResponse d b
  else responseAt s d b data

/-- A message received whole is performed here or forwarded on its route. -/
def takeBulk (s d : Dev) (p : Nat) (hdr : BitVec 256) (data : List (BitVec 2048)) : Dev :=
  let b := bulkOf hdr
  if b.dst = ownId d then deliverBulk s d b data else forwardBulk d b data p

/-- The data flits that a bulk header announces (R338). -/
def bulkCount (hdr : BitVec 256) : Nat := bits hdr.toNat 56 5

/-! ### Flits (R335 to R347) -/

/-- What an accepted control flit does, by its type (R340). -/
def ctlActs (d : Dev) (p : Nat) (f : BitVec 256) : Dev :=
  match ctlType f with
  | 0x1 => helloAt d p f
  | 0x2 => heartbeatAt d p f
  | 0x3 => assignAt d p f
  | 0x4 => reportAt d f
  | 0x5 => refuseAt d p f
  | 0x6 => topoAt d f
  | 0x7 => doneAt d f
  | 0x8 => linkDownAt d f
  | 0x9 => absentAt d p f
  | 0xA => resetReqAt d p f
  | 0xB => offerAt d p f
  | 0xC => pullAt d p f
  | 0xD => dataAt d p f
  | 0xE => freeStore (chainDoneAt d p f)
  | _ => d

/-- A bulk header: once accepted, its message is complete, or its data flits follow (R337). -/
def headerIn (s d : Dev) (p : Nat) (f : BitVec 256) : Dev :=
  let (d1, ok) := linkAccept d p f
  if !ok then d1
  else if bulkCount f = 0 then takeBulk s d1 p f []
  else modPort d1 p (fun q => { q with rxMsg := some { hdr := f } })

/-- A slot whose tag is 1 begins a flit of 32 bytes. -/
def flitIn (s d : Dev) (p : Nat) (f : BitVec 256) : Dev :=
  match flitType f with
  | 0 => linkFlitAt d p f
  | 1 =>
    let (d1, ok) := linkAccept d p f
    if ok then ctlActs d1 p f else d1
  | 2 => bellIn d p f
  | 3 => bellIn d p f
  | 4 => headerIn s d p f
  | 5 => headerIn s d p f
  | _ => (linkAccept d p f).1

/-- The message being received is complete once its last data flit is accepted. -/
def messageEnds (s d : Dev) (p : Nat) : Dev :=
  match (fabPort d p).rxMsg with
  | some m =>
    if m.data.length < bulkCount m.hdr then d
    else takeBulk s (modPort d p (fun q => { q with rxMsg := none })) p m.hdr m.data
  | none => d

/-- A slot whose tag is 0 goes on with the bulk message in progress: every eighth completes a data flit, behind which the Bell flits
inserted into it take their turn. -/
def dataSlotIn (s d : Dev) (p : Nat) (x : BitVec 256) : Dev :=
  let q := fabPort d p
  let (num, have_) := q.rxFlit.getD (q.rxNext, [])
  let begun1 : FabPort := if q.rxFlit.isNone then { q with rxNext := q.rxNext.map (· + 1) } else q
  let got := have_ ++ [x]
  if got.length < 8 then modPort d p (fun _ => { begun1 with rxFlit := some (num, got) })
  else
    let d1 := modPort d p (fun _ => { begun1 with rxFlit := none, rxHeld := [] })
    let d2 := messageEnds s (dataAccept d1 p num (slotsData got)) p
    q.rxHeld.foldl (fun e f => bellIn e p f) d2

/-- One slot of a codeword. -/
def slotIn (s : Dev) (p : Nat) (d : Dev) (x : Slot) : Dev :=
  if x.begins then flitIn s d p x.body
  else if flitRefused d p ((fabPort d p).rxMsg.elim 0 (·.hdr)) then d
  else dataSlotIn s d p x.body

/-- One codeword: a corrected one is counted; one beyond correction is counted, and its slots are lost, with the number of the next
flit and the data flit under way (R382). DEDUCED: what follows is out of sequence until a flit shows its number. -/
def codewordIn (s : Dev) (p : Nat) (d : Dev) (w : Codeword) : Dev :=
  match w.fec with
  | .clean => (slotsOf w.word).foldl (slotIn s p) d
  | .corrected => (slotsOf w.word).foldl (slotIn s p) (modPort d p (fun q => { q with fecc := satAdd q.fecc 1 }))
  | .lost => modPort d p (fun q => { q with fecu := satAdd q.fecu 1, rxNext := none, rxFlit := none, rxHeld := [] })

/-- The good bulk headers in codewords that can be read. -/
def headersIn (words : List Codeword) : List (BitVec 256) :=
  ((words.filter (fun w => w.fec != .lost)).flatMap (fun w => slotsOf w.word)).filterMap (fun x =>
    if x.begins && isBulk x.body && flitOk x.body then some x.body else none)

/-- Codewords that carry bulk messages of an operation, whole or in part, with what is inserted into them; codewords with a good header
of another operation do not belong to the row. `start` gives the number of the data flit that the first slot begins where a replay
resumes inside a message: DESIGN CHOICE, since a data flit shows no number and the order before it implies another (R343, R344). -/
def bulkAt (s : State) (op p : Nat) (start : Option (BitVec 10)) (words : List Codeword) : Dev :=
  let d := s.dev
  let mine := (headersIn words).all (fun h => (bulkOf h).op == op && (bulkOf h).rsp == (op == 3 || op == 4))
  if 12 ≤ p || !portOpen (fabPort d p) || !mine then d
  else
    let d1 := match start with
      | some n => modPort d p (fun q => { q with rxNext := some n, rxFlit := none })
      | none => d
    words.foldl (codewordIn s.shadow p) d1

end Sys2Proof.Machine
end

