-- ==== Sys2Proof/Machine/FabricRows.lean ====
section
/-!
DEFINITION. The rows of the fabric: links, Roll Call, Attendance, bulk messages, agreement and reset requests (R329 to R378, R489).
-/
namespace Sys2Proof.Machine

/-- PORT_TRAINING (R332, R333). -/
def execPortTraining (port : Nat) (full : Bool) (lanes : BitVec 4) (rev : Bool) (s : State) (far : BitVec 2 := 2)
    (call : Bool := false) : Answer :=
  onDev s (fun d => freeStore (portTrainingAt d port full lanes.toNat rev far call))

/-- FULL_RATE_FALLBACK (R471). -/
def execFullRateFallback (port : Nat) (s : State) (far : BitVec 2 := 2) : Answer := onDev s (fun d => freeStore (fallbackAt d port far))

/-- LINK_FLIT (R342, R344, R345). -/
def execLinkFlit (port : Nat) (flit : BitVec 256) (s : State) : Answer := onPort s port (fun d => linkFlitAt d port flit)

/-- RETRAIN_DONE (R345). -/
def execRetrainDone (port : Nat) (ok : Bool) (s : State) : Answer :=
  onPort s port (fun d => freeStore (rcBegin (retrainDoneAt d port ok)))

/-- ACK_DUE (R344). -/
def execAckDue (port : Nat) (s : State) : Answer := onPort s port (fun d => ackDueAt d port)

/-- HELLO (R355). -/
def execHello (port : Nat) (flit : BitVec 256) (s : State) : Answer :=
  onPort s port (fun d => onCtl d port flit 0x1 (fun e => helloAt e port flit))

/-- HEARTBEAT (R369). -/
def execHeartbeat (port : Nat) (flit : BitVec 256) (s : State) : Answer :=
  onPort s port (fun d => onCtl d port flit 0x2 (fun e => heartbeatAt e port flit))

/-- HEARTBEAT_SEND (R369, R373). -/
def execHeartbeatSend (s : State) : Answer := onDev s (fun d => heartbeatSendAt d)

/-- HEARTBEAT_MISS (R369, R370). -/
def execHeartbeatMiss (port : Nat) (s : State) : Answer := onPort s port (fun d => freeStore (rcBegin (heartbeatMissAt d port)))

/-- RCGO (R356, R358, R360). -/
def execRcgo (s : State) : Answer := onWord s 0xB0004 (fun d => rcgoAt d)

/-- RC_ASSIGN (R357, R358, R360, R361). -/
def execRcAssign (port : Nat) (flit : BitVec 256) (s : State) : Answer :=
  onPort s port (fun d => onCtl d port flit 0x3 (fun e => assignAt e port flit))

/-- RC_REPORT (R357, R358). -/
def execRcReport (port : Nat) (flit : BitVec 256) (s : State) : Answer :=
  onPort s port (fun d => onCtl d port flit 0x4 (fun e => reportAt e flit))

/-- RC_REPORT_TIMEOUT (R360). -/
def execRcReportTimeout (dev : Nat) (s : State) : Answer := onDev s (fun d => reportTimeoutAt d dev)

/-- RC_REFUSE (R360). -/
def execRcRefuse (port : Nat) (flit : BitVec 256) (s : State) : Answer :=
  onPort s port (fun d => onCtl d port flit 0x5 (fun e => refuseAt e port flit))

/-- RC_TOPO (R359). -/
def execRcTopo (port : Nat) (flit : BitVec 256) (s : State) : Answer :=
  onPort s port (fun d => onCtl d port flit 0x6 (fun e => topoAt e flit))

/-- RC_DONE (R359, R361, R372). -/
def execRcDone (port : Nat) (flit : BitVec 256) (s : State) : Answer :=
  onPort s port (fun d => onCtl d port flit 0x7 (fun e => doneAt e flit))

/-- LINK_DOWN (R370). -/
def execLinkDown (port : Nat) (flit : BitVec 256) (s : State) : Answer :=
  onPort s port (fun d => onCtl d port flit 0x8 (fun e => linkDownAt e flit))

/-- ABSENT (R357, R371, R372). -/
def execAbsent (port : Nat) (flit : BitVec 256) (s : State) : Answer :=
  onPort s port (fun d => onCtl d port flit 0x9 (fun e => absentAt e port flit))

/-- RESET_REQ (R489, R490). -/
def execResetReq (port : Nat) (flit : BitVec 256) (s : State) : Answer :=
  onPort s port (fun d => onCtl d port flit 0xA (fun e => resetReqAt e port flit))

/-- FAB_WRITE (R334, R337, R339, R343, R344, R350 to R353). -/
def execFabWrite (port : Nat) (start : Option (BitVec 10)) (words : List Codeword) (s : State) : Answer :=
  ran s (bulkAt s 1 port start words)

/-- FAB_READ_REQUEST (R334, R337, R339, R343, R344, R350 to R353). -/
def execFabReadRequest (port : Nat) (start : Option (BitVec 10)) (words : List Codeword) (s : State) : Answer :=
  ran s (bulkAt s 2 port start words)

/-- FAB_READ_RESPONSE (R334, R337, R339, R343, R344, R350 to R353). -/
def execFabReadResponse (port : Nat) (start : Option (BitVec 10)) (words : List Codeword) (s : State) : Answer :=
  ran s (bulkAt s 3 port start words)

/-- FAB_STATUS_RESPONSE (R334, R337, R339, R343, R344, R350 to R353). -/
def execFabStatusResponse (port : Nat) (start : Option (BitVec 10)) (words : List Codeword) (s : State) : Answer :=
  ran s (bulkAt s 4 port start words)

/-- FAB_REDUCE_ADD (R334, R337, R339, R343, R344, R350 to R353). -/
def execFabReduceAdd (port : Nat) (start : Option (BitVec 10)) (words : List Codeword) (s : State) : Answer :=
  ran s (bulkAt s 5 port start words)

/-- FAB_REDUCE_MIN (R334, R337, R339, R343, R344, R350 to R353). -/
def execFabReduceMin (port : Nat) (start : Option (BitVec 10)) (words : List Codeword) (s : State) : Answer :=
  ran s (bulkAt s 6 port start words)

/-- FAB_REDUCE_MAX (R334, R337, R339, R343, R344, R350 to R353). -/
def execFabReduceMax (port : Nat) (start : Option (BitVec 10)) (words : List Codeword) (s : State) : Answer :=
  ran s (bulkAt s 7 port start words)

/-- FAB_TOPK_RECORDS (R334, R337, R339, R343, R344, R350 to R353). -/
def execFabTopkRecords (port : Nat) (start : Option (BitVec 10)) (words : List Codeword) (s : State) : Answer :=
  ran s (bulkAt s 8 port start words)

/-- FAB_SIGN_RECORDS (R334, R337, R339, R343, R344, R350 to R353). -/
def execFabSignRecords (port : Nat) (start : Option (BitVec 10)) (words : List Codeword) (s : State) : Answer :=
  ran s (bulkAt s 9 port start words)

/-- RESERVED_FLIT_TYPE (R335, R344). -/
def execReservedFlitType (port : Nat) (flit : BitVec 256) (s : State) : Answer :=
  onPort s port (fun d => reservedFlitAt d port flit)

/-- FABRIC_REFCLK_STOP (R563). -/
def execFabricRefclkStop (south : Bool) (s : State) : Answer := onDev s (fun d => freeStore (rcBegin (refclkStopAt d south)))

/-- AGREE (R376, R378). -/
def execAgree (s : State) : Answer := onWord s 0xB0004 (fun d => agreeStart d)

end Sys2Proof.Machine
end

