-- ==== Sys2Proof/Machine/Window.lean ====
section
/-!
DEFINITION. The host's window BAR4 (R315, R434, R435, R403): each access is served, or refused by the first row of the table of
R435 that applies, and counted and logged.
-/
namespace Sys2Proof.Machine

/-- The row of the table of R435 that refuses an access within one 4 KiB page, 0 when it is served. -/
def windowCause (d : Dev) (a n : Nat) (wr : Bool) : Nat :=
  match addrKind d a with
  | .none => 1
  | .reg _ => 2
  | .host _ => 2
  | .window v _ =>
    let st := (coreOf d v).state
    if st == .running || st == .brk then 3 else if wr && st == .detained then 4 else 0
  | .board _ =>
    if wr && !tierLarge d && jobActive d then 5
    else if wr && inHosted d a n then 6
    else if !wr && (rdBad d a n).isSome then 7 else 0
  | .hbm =>
    if wr && (inShadowOrWork d a n || inHosted d a n) then 6
    else if !wr && (rdBad d a n).isSome then 7 else 0

/-- The host's bytes at an address of the window, or a core register (R192): `s` is the shadow copy. -/
def windowRead (d s : Dev) (a n : Nat) : Dev :=
  match addrKind d a with
  | .window v off =>
    if 0xF00000 ≤ off then
      let o := off - 0xF00000
      if 0x1000 ≤ o then emit d (.readData a (zeros n))
      else if (n = 4 && o % 4 = 0) || (n = 8 && o % 8 = 0) then
        let word := fun i => leBytes 4 (regWord d s (0xC00000 + 0x1000 * v + o + 4 * i))
        emit d (.readData a ((List.range (n / 4)).flatMap word))
      else emit (badAccess d) (.readData a (zeros n))
    else emit d (.readData a (rdBytes d a n))
  | _ =>
    let d1 := touchRead d a n 0
    emit d1 (.readData a (rdBytes d1 a n))

/-- The host's bytes stored through the window. -/
def windowWrite (d : Dev) (a : Nat) (bs : List Byte) : Dev :=
  match addrKind d a with
  | .window v off =>
    if 0xF00000 ≤ off then
      let o := off - 0xF00000
      if 0x1000 ≤ o then d else bar0Write d (0xC00000 + 0x1000 * v + o) bs.length (leNat bs)
    else wrBytes d a bs
  | _ =>
    let d0 := heal d a bs.length true
    match badMerge d0 a bs.length with
    | some (stop, g) => ueEvent (storeBytes d0 a (bs.take (stop - a)) 0) g none
    | none => storeBytes d0 a bs 0

/-- An access within one 4 KiB page. -/
def windowPage (s d : Dev) (a n : Nat) (wr : Option (List Byte)) : Dev :=
  let refuse := fun (e : Dev) (cause : Nat) =>
    let r := hostRefuse e a cause
    if wr.isSome then r else emit r (.completerAbort a)
  if !syllActive d || pfault d 0x6000C then refuse d 1
  else
    let d0 := match boardPort a with
      | some p => if wr.isSome then d else healClean d p a n false
      | none => d
    match windowCause d0 a n wr.isSome with
    | 0 =>
      match wr with
      | none => windowRead d0 s a n
      | some bs => if d0.det.device then d0 else windowWrite d0 a bs
    | 7 => refuse (ueEvent d0 (((rdBad d0 a n).getD a)) none) 7
    | cause => refuse d0 cause

/-- WINDOW_ACCESS: byte `off` of BAR4 is local address HIF_WIN + off; an access that crosses a 4 KiB boundary is made page by
page. A poisoned write is discarded, counted and logged, and AER reports it (R435, R452). -/
def windowAt (s : State) (off len : Nat) (wr : Option (List Byte)) (poisoned : Bool) : Dev :=
  let d := s.dev
  let a := d.host.winHi.toNat * 2 ^ 36 + off
  let fits := len != 0 && off + len ≤ 2 ^ 36 && (wr.map (·.length)).getD len == len
  if !fits then d
  else if d.host.d3hot then emit d (.unsupported a)
  else if poisoned && wr.isSome then signal (hostRefuse d a 8) 15
  else (cutRange 0x1000 (len / 0x1000 + 2) a len).foldl (fun e r =>
    windowPage s.shadow e r.1 r.2 (wr.map (fun bs => (bs.drop (r.1 - a)).take r.2))) d

end Sys2Proof.Machine
end

