-- ==== Sys2Proof/Machine/HostRows.lean ====
section
/-!
DEFINITION. The host-interface rows (R431 to R454), register writes (R532 to R542) and PERST#.
-/
namespace Sys2Proof.Machine

/-- DOORBELL: an access to a page of the job aperture (R433, R439, R441). -/
def execDoorbell (k off : Nat) (s : State) (len : Nat := 4) (wr : Option (List Byte) := none) : Answer :=
  onDev s (fun d => apertureAt d k off len wr)

/-- DESCRIPTOR_TAKE (R443, R444). -/
def execDescriptorTake (k : Nat) (s : State) (reply : HostReply := .ok) : Answer := onDev s (fun d => descriptorTakeAt d k reply)

/-- JOB_END (R445 to R447). -/
def execJobEnd (k : Nat) (s : State) (reply : HostReply := .ok) : Answer := onDev s (fun d => jobEndAt d k reply)

/-- STOP (R448). -/
def execStop (k : Nat) (s : State) (reply : HostReply := .ok) : Answer := onEarly s (0x60100 + 0x100 * k) (fun d => stopAt d k reply)

/-- STOP_TIMEOUT (R448). -/
def execStopTimeout (k : Nat) (s : State) : Answer := onDev s (fun d => stopTimeoutAt d k)

/-- EN: a write of HIF_CTXk_CTL (R441, R454). -/
def execEn (k : Nat) (value : Word) (s : State) (reply : HostReply := .ok) : Answer :=
  onEarly s (0x60100 + 0x100 * k) (fun d => ctxCtlWrite d k value.toNat reply)

/-- CORES_WRITE (R436). -/
def execCoresWrite (k n : Nat) (value : Word) (s : State) : Answer :=
  onEarly s (0x60120 + 0x100 * k + 4 * n) (fun d => coresWriteAt d k n value.toNat)

/-- FLR (R449). -/
def execFlr (s : State) (reply : HostReply := .ok) : Answer := onDev s (fun d => flrAt d reply)

/-- WINDOW_ACCESS (R434, R435). -/
def execWindowAccess (off len : Nat) (wr : Option (List Byte)) (s : State) (poisoned : Bool := false) : Answer :=
  ran s (windowAt s off len wr poisoned)

/-- HDMA_GO: a write of HDMA_CTL (R451). -/
def execHdmaGo (c : Nat) (value : Word) (s : State) : Answer :=
  onEarly s (0x60808 + 0x40 * c) (fun d => hdmaCtlWrite d c value.toNat)

/-- D3HOT (R431). -/
def execD3hot (enter : Bool) (s : State) : Answer := onDev s (fun d => d3hotAt d enter)

/-- MSIX_UNMASK: a write of the vector's mask bit (R431, R452). -/
def execMsixUnmask (vec : Nat) (s : State) : Answer := onHost s (0x6F00C + 16 * vec) (fun d => msixUnmaskAt d vec)

/-- PERST (R431, R510). -/
def execPerst (asserted : Bool) (s : State) : Answer := onDev s (fun d => perstAt d asserted)

/-- REGISTER_WRITE (R532 to R542). -/
def execRegisterWrite (off size : Nat) (value : Option Dword) (s : State) : Answer :=
  onDev s (fun d => registerWriteAt d s.shadow off size (value.map (·.toNat)))

end Sys2Proof.Machine
end

