-- ==== Sys2Proof/Machine/MemoryRows.lean ====
section
/-!
DEFINITION. The rows of the HBM controllers, the CXL ports and the tier managers (R294 to R326).
-/
namespace Sys2Proof.Machine

/-- HBM_ACCESS (R299 to R302, R386, R387). -/
def execHbmAccess (core : Option Nat) (addr len : Nat) (wr : Option (List Byte)) (ecc : Ecc) (s : State) : Answer :=
  onDev s (fun d => hbmAccessAt d core addr len wr ecc)

/-- REFRESH (R297). -/
def execRefresh (ctl : Nat) (s : State) : Answer := onDev s (fun d => if ctl < 12 then refreshAt d ctl else d)

/-- TEMPERATURE_REPORT (R297, R298). -/
def execTemperatureReport (ctl : Nat) (celsius : BitVec 8) (s : State) : Answer :=
  onDev s (fun d => if ctl < 12 then temperatureAt d ctl celsius else d)

/-- SCRUB (R303, R326). -/
def execScrub (ctl : Nat) (found : Option (Nat × Ecc)) (s : State) : Answer :=
  onDev s (fun d => if ctl < 12 then scrubAt d ctl found else d)

/-- HBM_TRAINING (R304). -/
def execHbmTraining (ctl : Nat) (ok : Bool) (s : State) : Answer := onDev s (fun d => trainHbm d ctl ok)

/-- CXL_ENUMERATE (R307). -/
def execCxlEnumerate (port : Nat) (rate : CxlRate) (lanes : Nat) (memCapable : Bool) (hdmCount : Nat) (s : State) : Answer :=
  onDev s (fun d => cxlEnumerateAt d port rate lanes memCapable hdmCount)

/-- MEMORY_ACTIVE (R307, R308). -/
def execMemoryActive (port capacity : Nat) (s : State) : Answer := onDev s (fun d => memoryActiveAt d port capacity)

/-- MEMORY_ACTIVE_TIMEOUT (R307). -/
def execMemoryActiveTimeout (port : Nat) (s : State) : Answer := onDev s (fun d => memoryTimeoutAt d port)

/-- POISONED_RESPONSE (R309). -/
def execPoisonedResponse (by_ : Reader) (addr : Nat) (s : State) : Answer := onDev s (fun d => poisonedAt d by_ addr)

/-- EVENT_RECORD_POLL (R309). -/
def execEventRecordPoll (port : Nat) (records : List (List Byte)) (s : State) : Answer :=
  onDev s (fun d => eventPollAt d port records)

/-- LINK_RETRY (R310). -/
def execLinkRetry (port : Nat) (s : State) : Answer := onDev s (fun d => linkRetryAt d port)

/-- CXL_LINK_DOWN (R310). -/
def execCxlLinkDown (port : Nat) (s : State) : Answer := onDev s (fun d => cxlLinkDownAt d port)

/-- TIER_ACCESS (R316 to R318, R324). -/
def execTierAccess (core : Option Nat) (addr len : Nat) (wr : Option (List Byte)) (plc : BitVec 3) (ecc : Ecc) (s : State) : Answer :=
  onDev s (fun d => tierAccessAt d core addr len wr plc.toNat ecc)

/-- PAGE_FILL (R317, R318). -/
def execPageFill (port page : Nat) (s : State) : Answer := onDev s (fun d => if port < 2 then finishFill d port page else d)

/-- WRITE_BACK (R317, R326). -/
def execWriteBack (port page : Nat) (ecc : Ecc) (s : State) : Answer :=
  onDev s (fun d => if port < 2 then writeBackAt d port page ecc else d)

/-- FLUSH (R321). -/
def execFlush (port : Nat) (s : State) : Answer := onLate s (0xA0008 + 0x1000 * port) (fun d => if port < 2 then flushStart d port else d)

/-- FLUSH_DONE (R321). -/
def execFlushDone (port : Nat) (s : State) : Answer := onDev s (fun d => if port < 2 then flushEnd d port else d)

/-- LOGSWAP (R325). -/
def execLogswap (port : Nat) (s : State) : Answer := onLate s (0xA0008 + 0x1000 * port) (fun d => if port < 2 then logSwapAt d port else d)

/-- LOGSWAP_DONE (R325). -/
def execLogswapDone (port : Nat) (s : State) : Answer := onDev s (fun d => if port < 2 then logSwapEnd d port else d)

end Sys2Proof.Machine
end

