-- ==== Sys2Proof/Machine/Beat.lean ====
section
/-!
DEFINITION. One beat of a region (R139, R146, R191, R240, R274, R429): what its counters count. A wait that the model sees (a
scoreboard conflict, a full queue, a list order) counts when it holds; a wait for a port, a link or a unit, whose beats the
model does not follow, counts by a free choice while the unit has work.
-/
namespace Sys2Proof.Machine

/-- A free choice of this beat, numbered within it. -/
def beatFree (d : Dev) (v k : Nat) : Bool := Config.freeBit d.freeCtr (v * 64 + k)
/-- A counter that advances when its cause holds. -/
def countIf (b : Bool) (c : Word) : Word := if b then satAdd c 1 else c

/-- The Proctor's cause of waiting, by its place in R191: HALT is 6 and FETCH 7. -/
def proctorWait (d : Dev) (v : Nat) : Option Nat :=
  let c := coreOf d v
  if c.state != .running then none
  else match c.stop with
    | .halt _ => some 6
    | .issuing =>
      match fetchWord d v with
      | none => if fetchBeyond d v then none else some 7
      | some w => if (cmpHit c w).isSome || (malformed d v w).isSome then none else unmet d v w
    | _ => none
/-- The Proctor's stall counters after a beat. -/
def proctorBeat (c : Core) (why : Option Nat) : Core :=
  { c with
    sbStall := countIf (why == some 0) c.sbStall, qfStall := countIf (why == some 1) c.qfStall
    slotStall := countIf (why == some 2) c.slotStall, swaitStall := countIf (why == some 3) c.swaitStall
    bwaitStall := countIf (why == some 4) c.bwaitStall, tdrainStall := countIf (why == some 5) c.tdrainStall
    haltStall := countIf (why == some 6) c.haltStall, fetchStall := countIf (why == some 7) c.fetchStall }

/-- The array waits on ring-in: its next command is a ring command of a member that is not the head. -/
def ringWait (c : Core) (a : Nat) : Bool :=
  match nextOf c (.array a) with
  | some i => cwMma i.word.toNat && aRing i.word.toNat && !aHead i.word.toNat
  | none => false
/-- The array has a command that has executed and not completed: its ports may be waiting. -/
def arrayBusy (c : Core) (a : Nat) : Bool := c.cmds.any (fun i => i.unit == .array a && i.executed)
/-- The stall counters of an array after a beat. -/
def arrayBeat (d : Dev) (v : Nat) (c : Core) (a : Nat) : Core :=
  let busy := arrayBusy c a
  let ring := ringWait c a
  modArr c a (fun s =>
    { s with
      feedStall := countIf (busy && beatFree d v (4 * a)) s.feedStall
      ringStall := countIf (ring || (busy && beatFree d v (4 * a + 1))) s.ringStall
      resStall := countIf (busy && beatFree d v (4 * a + 2)) s.resStall
      gbpStall := countIf (busy && beatFree d v (4 * a + 3)) s.gbpStall })

/-- Why the next entries of a core's lists, and its transfers in flight, wait: counter offsets of R240. -/
def listWaits (d : Dev) (v : Nat) : List Nat :=
  let x := (coreOf d v).strm
  (x.lists.filter (fun l => decide (l.next < l.count) && classReady x l)).flatMap (fun l =>
    match pickEntry l with
    | none => [0x6C]
    | some p => startHeld d (.core v) l p) ++
  (if x.xfers.any (stillGuarded d (.core v)) then [0x4C] else []) ++
  (if x.xfers.any (fun t => t.bellHeld && !arrivalReady d (bits t.entryBits.toNat 64 10) v) then [0x68] else [])
/-- The stream stall counters after a beat. -/
def streamBeat (d : Dev) (v : Nat) (c : Core) : Core :=
  let waits := listWaits d v
  let data := c.strm.xfers.any (fun t => !t.bellHeld && t.status == 0)
  let held := fun o => waits.contains o
    || ([0x50, 0x54, 0x58, 0x5C, 0x60, 0x64].contains o && data && beatFree d v (16 + (o - 0x40) / 4))
  let put := fun (m : NMap Word) (o : Nat) => if held o then mapPut m o (satAdd (mapGet 0 m o) 1) else m
  let offs := (List.range 12).map (fun i => 0x40 + 4 * i)
  { c with strm := { c.strm with stalls := offs.foldl put c.strm.stalls } }

/-- A fused consumer at the head of the vector queue waits for rows (R243). -/
def fusedWait (c : Core) : Bool :=
  match nextOf c .vec with
  | some i => vFsrc i.word.toNat && !((arrOf c (vFarr i.word.toNat)).fused.any (fun f => some f.1 == i.pair))
  | none => false
/-- The vector counters after a beat. -/
def vectorBeat (c : Core) : Core :=
  let x := c.vec
  { c with vec := { x with
    busy0 := countIf (mapGet? x.hand 0).isSome x.busy0, busy1 := countIf (mapGet? x.hand 1).isSome x.busy1
    fwait := countIf (fusedWait c) x.fwait } }

/-- The counters of the core in a region after a beat. -/
def coreBeat (d : Dev) (v : Nat) : Dev :=
  let why := proctorWait d v
  modCore d v (fun c =>
    vectorBeat (streamBeat d v ((List.range 4).foldl (arrayBeat d v) (proctorBeat c why))))

/-- BEAT: one beat of a region whose pacer runs. -/
def beatAt (d : Dev) (r : Nat) : Dev :=
  if 236 ≤ r || !pacerRuns d r then d
  else
    let d1 := modPacer d r (countBeat (isA0 d) d.pace.pstr)
    match regionCore d r with
    | some v => if (pacerOf d r).released then draw (coreBeat d1 v) else d1
    | none => d1

end Sys2Proof.Machine
end

