-- ==== Sys2Proof/Machine/PacingRows.lean ====
section
/-!
DEFINITION. The clock and pacing rows (R406 to R429, R535, R536).
-/
namespace Sys2Proof.Machine

/-- SLOW_CLOCK_EDGE (R407, R535, R539). -/
def execSlowClockEdge (s : State) : Answer := .next (slowEdge s)

/-- PACER_STABLE_TIMEOUT (R408). -/
def execPacerStableTimeout (region : Nat) (s : State) : Answer := onDev s (fun d => pacerTimeoutAt d region)

/-- PACE_EPOCH (R419). -/
def execPaceEpoch (s : State) : Answer := onDev s (fun d => paceEpochAt d)

/-- RAILS_SETTLED (R419). -/
def execRailsSettled (s : State) : Answer := onDev s (fun d => railsSettledAt d)

/-- RAIL_SETTLE_TIMEOUT (R420). -/
def execRailSettleTimeout (s : State) : Answer := onDev s (fun d => railTimeoutAt d)

/-- MARGIN_STRETCH (R413, R414). -/
def execMarginStretch (region : Nat) (level : BitVec 2) (s : State) : Answer := onDev s (fun d => marginAt d region level)

/-- CRITICAL_LEVEL (R416). -/
def execCriticalLevel (region : Nat) (s : State) : Answer := onDev s (fun d => if region < 236 then criticalAt d region else d)

/-- POWER_WINDOW (R426 to R428). -/
def execPowerWindow (watts : Nat) (s : State) : Answer := onDev s (fun d => powerWindowAt d watts)

/-- POWER_STRETCH (R428). -/
def execPowerStretch (watts : Nat) (s : State) : Answer := onDev s (fun d => powerStretchAt d watts)

/-- CLRCNT (R429). -/
def execClrcnt (s : State) : Answer := onLate s 0x20000 (fun d => clearPacers d)

/-- BEAT (R406, R191, R240, R429). -/
def execBeat (region : Nat) (s : State) : Answer := onDev s (fun d => beatAt d region)

/-- SYNC_TIMEOUT (R536): the read returns zero, or the write is discarded, which the flag tells apart and the state does not. -/
def execSyncTimeout (_write : Bool) (s : State) : Answer := onDev s (fun d => syncLate d)

end Sys2Proof.Machine
end

