-- ==== Sys2Proof/Machine/PowerRows.lean ====
section
/-!
DEFINITION. The rows of power, reset and the Registrar mailbox (R500 to R531, R548 to R551).
-/
namespace Sys2Proof.Machine

/-- POWER_ON (R510, R529). -/
def execPowerOn (s : State) : Answer := onDev s (fun d => powerOnReset d)

/-- VAUX_LOSS (R526). -/
def execVauxLoss (vbakOk : Bool) (s : State) : Answer := onDev s (fun d => vauxLossAt d vbakOk)

/-- VIN_GOOD (R503). -/
def execVinGood (s : State) : Answer := onDev s (fun d => vinGoodAt d)

/-- POWER_FAIL (R505). -/
def execPowerFail (mv : BitVec 16) (s : State) : Answer := onDev s (fun d => powerFailAt d mv.toNat)

/-- POWER_FAIL_CLEAR (R505). -/
def execPowerFailClear (s : State) : Answer := onDev s (fun d => powerFailClearAt d)

/-- VIN_LOSS (R505). -/
def execVinLoss (s : State) : Answer := onDev s (fun d => vinLossAt d)

/-- VIN_OVERVOLTAGE (R506). -/
def execVinOvervoltage (mv : BitVec 32) (s : State) : Answer := onDev s (fun d => overvoltAt d mv.toNat)

/-- OVERVOLTAGE_CLEAR (R506). -/
def execOvervoltageClear (s : State) : Answer := onDev s (fun d => overvoltClearAt d)

/-- RAIL_FAULT (R502). -/
def execRailFault (s : State) : Answer := onDev s (fun d => railFaultAt d)

/-- THERMAL_TRIP (R511). -/
def execThermalTrip (celsius : BitVec 8) (s : State) : Answer := onDev s (fun d => thermalTripAt d celsius.toNat)

/-- THERMAL_HOLD_END (R511). -/
def execThermalHoldEnd (s : State) : Answer := onDev s (fun d => thermalHoldEndAt d)

/-- THERMAL_WARNING (R411, R531). -/
def execThermalWarning (sensor celsius : BitVec 8) (s : State) : Answer :=
  onDev s (fun d => if celsius.toNat < 105 then d else thermPolicy (thermalWarningAt d sensor.toNat celsius.toNat))

/-- WATCHDOG_EXPIRY (R507). -/
def execWatchdogExpiry (s : State) : Answer := onDev s (fun d => watchdogAt d)

/-- RESET_IN (R510). -/
def execResetIn (asserted : Bool) (s : State) : Answer := onDev s (fun d => resetInAt d asserted)

/-- SWRST: a write of RST_CTL (R510, R541). -/
def execSwrst (value : Word) (s : State) : Answer := onEarly s 0x10000 (fun d => rstCtlWrite d value.toNat)

/-- RST_CLRCNT (R527). -/
def execRstClrcnt (s : State) : Answer := onEarly s 0x10000 (fun d => { d with rp := { d.rp with cnt := [] } })

/-- RELEASE_STEP (R424, R512 to R515). -/
def execReleaseStep (strapMv : List Nat) (testsPass : Bool) (s : State) (crossings : List Crossing := []) : Answer :=
  onDev s (fun d => releaseStepAt d strapMv testsPass crossings)

/-- TRIM_LOAD_DONE (R515). -/
def execTrimLoadDone (fromFlash : Bool) (s : State) : Answer := onDev s (fun d => trimLoaded d fromFlash)

/-- BLOCK_RESET_GO: a write of RST_BLOCK (R519). -/
def execBlockResetGo (value : Word) (s : State) : Answer := onEarly s 0x10008 (fun d => rstBlockWrite d value.toNat)

/-- BLOCK_IDLE (R519, R520). -/
def execBlockIdle (s : State) : Answer := blockEnds s (fun b => blockIsIdle s.dev b.block.toNat) true

/-- BLOCK_RESET_TIMEOUT (R519, R521). -/
def execBlockResetTimeout (s : State) : Answer := blockEnds s (fun b => b.since + blockTimeout s.dev ≤ nowUs s.dev) false

/-- HOLDUP (R504). -/
def execHoldup (mw v1mv : Nat) (s : State) : Answer := onDev s (fun d => holdupAt d mw v1mv)

/-- SAG_END (R504). -/
def execSagEnd (v2mv ns : Nat) (s : State) : Answer := onDev s (fun d => sagEndAt d v2mv ns)

/-- SAG_VIN_LOW (R504). -/
def execSagVinLow (s : State) : Answer := onDev s (fun d => sagVinLowAt d)

/-- HOLDUP_MEASUREMENT_EXPIRY (R504). -/
def execHoldupMeasurementExpiry (s : State) : Answer := onDev s (fun d => huExpiryAt d)

/-- SETTINGS_WRITE (R486). -/
def execSettingsWrite (s : State) (vinMv : BitVec 16 := 48000) : Answer := onDev s (fun d => settingsWriteAt d vinMv)

/-- HOLDUP_RECHECK (R487). -/
def execHoldupRecheck (s : State) (vinMv : BitVec 16 := 48000) : Answer := onDev s (fun d => holdupRecheckAt d vinMv)

/-- FLASH_WRITE_TIMEOUT (R487). -/
def execFlashWriteTimeout (s : State) : Answer := onDev s (fun d => flashTimeoutAt d)

/-- POWER_STATE (R524, R525). -/
def execPowerState (s : State) : Answer := onDev s (fun d => powerStateAt d)

/-- INFO (R550). -/
def execInfo (s : State) : Answer := onDev s (fun d => infoAt d)

/-- LOG_READ (R550). -/
def execLogRead (s : State) : Answer := onDev s (fun d => logReadAt d)

/-- TOPO_READ (R550). -/
def execTopoRead (s : State) : Answer := onDev s (fun d => topoReadAt d)

/-- PACE_REQ (R411, R550). -/
def execPaceReq (s : State) : Answer := onDev s (fun d => paceReqAt d)

/-- SETTINGS_READ (R550). -/
def execSettingsRead (s : State) : Answer := onDev s (fun d => settingsReadAt d)

/-- WATCHDOG (R507, R550). -/
def execWatchdog (s : State) : Answer := onDev s (fun d => watchdogSetAt d)

/-- REGISTRAR_RESERVED_COMMAND (R550). -/
def execRegistrarReservedCommand (s : State) : Answer := onDev s (fun d => regReservedAt d)

end Sys2Proof.Machine
end

