-- ==== Sys2Proof/Machine/ProctorRows.lean ====
section
/-!
DEFINITION. The Proctor rows (R148 to R193): the writes of PRC_CTL, the fetch of command blocks, and the commands that the Proctor
executes itself.
-/
namespace Sys2Proof.Machine

/-- PRC_START (R148). -/
def execPrcStart (v : Nat) (s : State) : Answer := onPrc s v (fun d => startCore d v)

/-- HALT_REQ (R193): issue stops at the next command boundary. -/
def execHaltReq (v : Nat) (s : State) : Answer := onPrc s v (fun d => hostHalt d v)

/-- STOPPED (R193). -/
def execStopped (v : Nat) (s : State) : Answer := onCore s v (fun d => modCore d v finishStopped)

/-- RESUME (R190): it does nothing outside break. -/
def execResume (v : Nat) (s : State) : Answer := onPrc s v (fun d => modCore d v resumeCore)

/-- CLR_STALL (R191, R239, R274). -/
def execClrStall (v : Nat) (s : State) : Answer := onPrc s v (fun d => modCore d v clearStalls)

/-- FETCH_BLOCK (R149). -/
def execFetchBlock (v : Nat) (ecc : Ecc) (s : State) : Answer := onCore s v (fun d => fetchBlockAt d v ecc)

/-- HALT, attempted at PRC_PC (R167, R179). -/
def execHalt (v : Nat) (s : State) : Answer := onCore s v (fun d => attempt d v (rowOpc 0x01))

/-- LOOP, attempted at PRC_PC (R171, R172, R179). -/
def execLoop (v : Nat) (s : State) : Answer := onCore s v (fun d => attempt d v (rowOpc 0x02))

/-- ENDLOOP, attempted at PRC_PC (R171, R174, R179). -/
def execEndloop (v : Nat) (s : State) : Answer := onCore s v (fun d => attempt d v (rowOpc 0x03))

/-- SETA, attempted at PRC_PC (R168, R179). -/
def execSeta (v : Nat) (s : State) : Answer := onCore s v (fun d => attempt d v (rowOpc 0x04))

/-- ADDA, attempted at PRC_PC (R168, R179). -/
def execAdda (v : Nat) (s : State) : Answer := onCore s v (fun d => attempt d v (rowOpc 0x05))

/-- SETL, attempted at PRC_PC (R162, R172, R179). -/
def execSetl (v : Nat) (s : State) : Answer := onCore s v (fun d => attempt d v (rowOpc 0x06))

/-- CMP, attempted at PRC_PC (R189, R179). -/
def execCmp (v : Nat) (s : State) : Answer := onCore s v (fun d => attempt d v (rowOpc 0x07))

/-- TAG, attempted at PRC_PC (R162, R179). -/
def execTag (v : Nat) (s : State) : Answer := onCore s v (fun d => attempt d v (rowOpc 0x08))

/-- TASK.DRAIN, attempted at PRC_PC (R166, R179). -/
def execTaskDrain (v : Nat) (s : State) : Answer := onCore s v (fun d => attempt d v (rowOpc 0x09))

/-- BELL.RING, attempted at PRC_PC (R177, R232, R179). -/
def execBellRing (v : Nat) (s : State) : Answer := onCore s v (fun d => attempt d v (rowOpc 0x0A))

/-- BELL.WAIT, attempted at PRC_PC (R165, R233, R179). -/
def execBellWait (v : Nat) (s : State) : Answer := onCore s v (fun d => attempt d v (rowOpc 0x0B))

/-- STRM.GO, attempted at PRC_PC (R194, R204, R179). -/
def execStrmGo (v : Nat) (s : State) : Answer := onCore s v (fun d => attempt d v (rowOpc 0x10))

/-- STRM.WAIT, attempted at PRC_PC (R164, R179). -/
def execStrmWait (v : Nat) (s : State) : Answer := onCore s v (fun d => attempt d v (rowOpc 0x11))

/-- STRM.FENCE, attempted at PRC_PC (R195, R216, R179). -/
def execStrmFence (v : Nat) (s : State) : Answer := onCore s v (fun d => attempt d v (rowOpc 0x12))

/-- HALTED (R167). -/
def execHalted (v : Nat) (s : State) : Answer := onCore s v (fun d => modCore d v finishHalted)

/-- FAULTED (R186, R187): a malformed next command stops issue, and STATE becomes faulted once the issued commands have completed. -/
def execFaulted (v : Nat) (s : State) : Answer := onCore s v (fun d => finishFault (noteFault d v) v)

/-- BREAK (R190). -/
def execBrk (v : Nat) (s : State) : Answer := onCore s v (fun d => finishBreak (noteBreak d v) v)

/-- COMMAND_COMPLETE (R162, R176). -/
def execCommandComplete (v id : Nat) (s : State) : Answer := onCore s v (fun d => completeCmd d v id)

end Sys2Proof.Machine
end

