-- ==== Sys2Proof/Machine/StreamRows.lean ====
section
/-!
DEFINITION. The stream rows (R194 to R240, R451): reading lists, starting a transfer of each KIND, and completing transfers.
-/
namespace Sys2Proof.Machine

/-- LIST_READ_COMPLETE (R195). -/
def execListReadComplete (v : Nat) (s : State) : Answer := onCore s v (fun d => listReadAt d v)

/-- COPY: the next transfer of a list starts (R200, R205 to R209). -/
def execCopy (e : Engine) (list : Nat) (s : State) : Answer := onEngine s e (fun d => startXfer s.shadow d e list 0)

/-- FILL: the next transfer of a list starts (R200). -/
def execFill (e : Engine) (list : Nat) (s : State) : Answer := onEngine s e (fun d => startXfer s.shadow d e list 1)

/-- REDUCE.ADD: the next transfer of a list starts (R210). -/
def execReduceAdd (e : Engine) (list : Nat) (s : State) : Answer := onEngine s e (fun d => startXfer s.shadow d e list 2)

/-- REDUCE.MIN: the next transfer of a list starts (R210). -/
def execReduceMin (e : Engine) (list : Nat) (s : State) : Answer := onEngine s e (fun d => startXfer s.shadow d e list 3)

/-- REDUCE.MAX: the next transfer of a list starts (R210). -/
def execReduceMax (e : Engine) (list : Nat) (s : State) : Answer := onEngine s e (fun d => startXfer s.shadow d e list 4)

/-- TOPK: the next transfer of a list starts (R213, R280). -/
def execTopk (e : Engine) (list : Nat) (s : State) : Answer := onEngine s e (fun d => startXfer s.shadow d e list 5)

/-- SIGN: the next transfer of a list starts (R213, R282). -/
def execSign (e : Engine) (list : Nat) (s : State) : Answer := onEngine s e (fun d => startXfer s.shadow d e list 6)

/-- EXPAND.TOPK: the next transfer of a list starts (R215, R286). -/
def execExpandTopk (e : Engine) (list : Nat) (s : State) : Answer := onEngine s e (fun d => startXfer s.shadow d e list 7)

/-- EXPAND.SIGN: the next transfer of a list starts (R215, R286). -/
def execExpandSign (e : Engine) (list : Nat) (s : State) : Answer := onEngine s e (fun d => startXfer s.shadow d e list 8)

/-- BELL: the next transfer of a list starts, and its arrival is held (R236). -/
def execBellTransfer (v list : Nat) (s : State) : Answer := onCore s v (fun d => startXfer s.shadow d (.core v) list 9)

/-- TRANSFER_COMPLETE (R218, R222). -/
def execTransferComplete (e : Engine) (slot : Nat) (s : State) : Answer :=
  onEngine s e (fun d => transferCompleteAt s.shadow d e slot)

/-- HOST_COMPLETION_TIMEOUT (R450). -/
def execHostCompletionTimeout (e : Engine) (slot : Nat) (s : State) (reply : HostReply := .timeout) : Answer :=
  onEngine s e (fun d => hostTimeoutAt d e slot reply)

/-- SLOT_REUSE (R352). -/
def execSlotReuse (v slot : Nat) (s : State) : Answer := onCore s v (fun d => slotReuseAt d v slot)

/-- FAB_TIMEOUT (R352). -/
def execFabTimeout (v slot : Nat) (s : State) : Answer := onCore s v (fun d => fabTimeoutAt d v slot)

end Sys2Proof.Machine
end

