-- ==== Sys2Proof/Machine/VectorRows.lean ====
section
/-!
DEFINITION. The vector rows (R241 to R274): each attempts the command at PRC_PC, which issues into the vector queue or the task pool;
and the rows of the task pool.
-/
namespace Sys2Proof.Machine

/-- VOP, attempted at PRC_PC (R250, R179). -/
def execVop (v : Nat) (s : State) : Answer := onCore s v (fun d => attempt d v (rowOpc 0x30))

/-- VRED, attempted at PRC_PC (R255 to R257, R179). -/
def execVred (v : Nat) (s : State) : Answer := onCore s v (fun d => attempt d v (rowOpc 0x31))

/-- VNORM, attempted at PRC_PC (R259, R179). -/
def execVnorm (v : Nat) (s : State) : Answer := onCore s v (fun d => attempt d v (rowOpc 0x32))

/-- VNORM.B, attempted at PRC_PC (R260, R261, R179). -/
def execVnormB (v : Nat) (s : State) : Answer := onCore s v (fun d => attempt d v (rowOpc 0x33))

/-- VSMAX, attempted at PRC_PC (R264, R179). -/
def execVsmax (v : Nat) (s : State) : Answer := onCore s v (fun d => attempt d v (rowOpc 0x34))

/-- VSMAX.B, attempted at PRC_PC (R265, R179). -/
def execVsmaxB (v : Nat) (s : State) : Answer := onCore s v (fun d => attempt d v (rowOpc 0x35))

/-- VCAST, attempted at PRC_PC (R253, R179). -/
def execVcast (v : Nat) (s : State) : Answer := onCore s v (fun d => attempt d v (rowOpc 0x36))

/-- VUPD, attempted at PRC_PC (R266 to R268, R179). -/
def execVupd (v : Nat) (s : State) : Answer := onCore s v (fun d => attempt d v (rowOpc 0x37))

/-- VCOUNT.NF, attempted at PRC_PC (R254, R179). -/
def execVcountNf (v : Nat) (s : State) : Answer := onCore s v (fun d => attempt d v (rowOpc 0x38))

/-- TASK_POST (R166, R244): a vector command with POST = 1. -/
def execTaskPost (v : Nat) (s : State) : Answer := onCore s v (fun d => attempt d v rowPost)

/-- TASK_TAKE (R245, R270). -/
def execTaskTake (v engine : Nat) (s : State) : Answer := onCore s v (fun d => taskTakeAt d v engine)

end Sys2Proof.Machine
end

