-- ==== Sys2Proof/Machine/Dispatch.lean ====
section
/-!
DEFINITION. The one meaning of each command: an arm per constructor, each a direct call.
-/
namespace Sys2Proof.Machine

/-- The effect of a command on everything but the queue. -/
def exec (i : Instr) (s : State) : Host.Outcome State Fault Refusal :=
  match i with
  | .prcStart v => Sys2Proof.Machine.execPrcStart v s
  | .haltReq v => Sys2Proof.Machine.execHaltReq v s
  | .stopped v => Sys2Proof.Machine.execStopped v s
  | .resume v => Sys2Proof.Machine.execResume v s
  | .clrStall v => Sys2Proof.Machine.execClrStall v s
  | .fetchBlock v ecc => Sys2Proof.Machine.execFetchBlock v ecc s
  | .halt v => Sys2Proof.Machine.execHalt v s
  | .halted v => Sys2Proof.Machine.execHalted v s
  | .loop v => Sys2Proof.Machine.execLoop v s
  | .endloop v => Sys2Proof.Machine.execEndloop v s
  | .seta v => Sys2Proof.Machine.execSeta v s
  | .adda v => Sys2Proof.Machine.execAdda v s
  | .setl v => Sys2Proof.Machine.execSetl v s
  | .cmp v => Sys2Proof.Machine.execCmp v s
  | .tag v => Sys2Proof.Machine.execTag v s
  | .taskDrain v => Sys2Proof.Machine.execTaskDrain v s
  | .bellRing v => Sys2Proof.Machine.execBellRing v s
  | .bellWait v => Sys2Proof.Machine.execBellWait v s
  | .strmGo v => Sys2Proof.Machine.execStrmGo v s
  | .strmWait v => Sys2Proof.Machine.execStrmWait v s
  | .strmFence v => Sys2Proof.Machine.execStrmFence v s
  | .mmaF v => Sys2Proof.Machine.execMmaF v s
  | .mmaT v => Sys2Proof.Machine.execMmaT v s
  | .mmaO v => Sys2Proof.Machine.execMmaO v s
  | .wload v => Sys2Proof.Machine.execWload v s
  | .wswap v => Sys2Proof.Machine.execWswap v s
  | .gbDrain v => Sys2Proof.Machine.execGbDrain v s
  | .gbClear v => Sys2Proof.Machine.execGbClear v s
  | .vop v => Sys2Proof.Machine.execVop v s
  | .vred v => Sys2Proof.Machine.execVred v s
  | .vnorm v => Sys2Proof.Machine.execVnorm v s
  | .vnormB v => Sys2Proof.Machine.execVnormB v s
  | .vsmax v => Sys2Proof.Machine.execVsmax v s
  | .vsmaxB v => Sys2Proof.Machine.execVsmaxB v s
  | .vcast v => Sys2Proof.Machine.execVcast v s
  | .vupd v => Sys2Proof.Machine.execVupd v s
  | .vcountNf v => Sys2Proof.Machine.execVcountNf v s
  | .taskPost v => Sys2Proof.Machine.execTaskPost v s
  | .faulted v => Sys2Proof.Machine.execFaulted v s
  | .brk v => Sys2Proof.Machine.execBrk v s
  | .commandComplete v id => Sys2Proof.Machine.execCommandComplete v id s
  | .ringHeader ring member => Sys2Proof.Machine.execRingHeader ring member s
  | .listReadComplete v => Sys2Proof.Machine.execListReadComplete v s
  | .copy e list => Sys2Proof.Machine.execCopy e list s
  | .fill e list => Sys2Proof.Machine.execFill e list s
  | .reduceAdd e list => Sys2Proof.Machine.execReduceAdd e list s
  | .reduceMin e list => Sys2Proof.Machine.execReduceMin e list s
  | .reduceMax e list => Sys2Proof.Machine.execReduceMax e list s
  | .topk e list => Sys2Proof.Machine.execTopk e list s
  | .sign e list => Sys2Proof.Machine.execSign e list s
  | .expandTopk e list => Sys2Proof.Machine.execExpandTopk e list s
  | .expandSign e list => Sys2Proof.Machine.execExpandSign e list s
  | .bellTransfer v list => Sys2Proof.Machine.execBellTransfer v list s
  | .transferComplete e slot => Sys2Proof.Machine.execTransferComplete e slot s
  | .bellArrivalSent v bell => Sys2Proof.Machine.execBellArrivalSent v bell s
  | .bellArrival port flit => Sys2Proof.Machine.execBellArrival port flit s
  | .bellRelease port flit => Sys2Proof.Machine.execBellRelease port flit s
  | .bellGenerationComplete bell => Sys2Proof.Machine.execBellGenerationComplete bell s
  | .taskTake v engine => Sys2Proof.Machine.execTaskTake v engine s
  | .ttLoad => Sys2Proof.Machine.execTtLoad s
  | .timetableActive => Sys2Proof.Machine.execTimetableActive s
  | .hbmAccess core addr len wr ecc => Sys2Proof.Machine.execHbmAccess core addr len wr ecc s
  | .refresh ctl => Sys2Proof.Machine.execRefresh ctl s
  | .temperatureReport ctl celsius => Sys2Proof.Machine.execTemperatureReport ctl celsius s
  | .scrub ctl found => Sys2Proof.Machine.execScrub ctl found s
  | .hbmTraining ctl ok => Sys2Proof.Machine.execHbmTraining ctl ok s
  | .cxlEnumerate port rate lanes memCapable hdmCount => Sys2Proof.Machine.execCxlEnumerate port rate lanes memCapable hdmCount s
  | .memoryActive port capacity => Sys2Proof.Machine.execMemoryActive port capacity s
  | .memoryActiveTimeout port => Sys2Proof.Machine.execMemoryActiveTimeout port s
  | .poisonedResponse by_ addr => Sys2Proof.Machine.execPoisonedResponse by_ addr s
  | .eventRecordPoll port records => Sys2Proof.Machine.execEventRecordPoll port records s
  | .linkRetry port => Sys2Proof.Machine.execLinkRetry port s
  | .cxlLinkDown port => Sys2Proof.Machine.execCxlLinkDown port s
  | .tierAccess core addr len wr plc ecc => Sys2Proof.Machine.execTierAccess core addr len wr plc ecc s
  | .pageFill port page => Sys2Proof.Machine.execPageFill port page s
  | .writeBack port page ecc => Sys2Proof.Machine.execWriteBack port page ecc s
  | .flush port => Sys2Proof.Machine.execFlush port s
  | .flushDone port => Sys2Proof.Machine.execFlushDone port s
  | .logswap port => Sys2Proof.Machine.execLogswap port s
  | .logswapDone port => Sys2Proof.Machine.execLogswapDone port s
  | .portTraining port full lanes rev far call => Sys2Proof.Machine.execPortTraining port full lanes rev s far call
  | .fullRateFallback port far => Sys2Proof.Machine.execFullRateFallback port s far
  | .linkFlit port flit => Sys2Proof.Machine.execLinkFlit port flit s
  | .retrainDone port ok => Sys2Proof.Machine.execRetrainDone port ok s
  | .ackDue port => Sys2Proof.Machine.execAckDue port s
  | .hello port flit => Sys2Proof.Machine.execHello port flit s
  | .heartbeat port flit => Sys2Proof.Machine.execHeartbeat port flit s
  | .heartbeatSend => Sys2Proof.Machine.execHeartbeatSend s
  | .heartbeatMiss port => Sys2Proof.Machine.execHeartbeatMiss port s
  | .rcgo => Sys2Proof.Machine.execRcgo s
  | .rcAssign port flit => Sys2Proof.Machine.execRcAssign port flit s
  | .rcReport port flit => Sys2Proof.Machine.execRcReport port flit s
  | .rcReportTimeout dev => Sys2Proof.Machine.execRcReportTimeout dev s
  | .rcRefuse port flit => Sys2Proof.Machine.execRcRefuse port flit s
  | .rcTopo port flit => Sys2Proof.Machine.execRcTopo port flit s
  | .rcDone port flit => Sys2Proof.Machine.execRcDone port flit s
  | .linkDown port flit => Sys2Proof.Machine.execLinkDown port flit s
  | .absent port flit => Sys2Proof.Machine.execAbsent port flit s
  | .resetReq port flit => Sys2Proof.Machine.execResetReq port flit s
  | .fabWrite port start words => Sys2Proof.Machine.execFabWrite port start words s
  | .fabReadRequest port start words => Sys2Proof.Machine.execFabReadRequest port start words s
  | .fabReadResponse port start words => Sys2Proof.Machine.execFabReadResponse port start words s
  | .fabStatusResponse port start words => Sys2Proof.Machine.execFabStatusResponse port start words s
  | .fabReduceAdd port start words => Sys2Proof.Machine.execFabReduceAdd port start words s
  | .fabReduceMin port start words => Sys2Proof.Machine.execFabReduceMin port start words s
  | .fabReduceMax port start words => Sys2Proof.Machine.execFabReduceMax port start words s
  | .fabTopkRecords port start words => Sys2Proof.Machine.execFabTopkRecords port start words s
  | .fabSignRecords port start words => Sys2Proof.Machine.execFabSignRecords port start words s
  | .fabTimeout v slot => Sys2Proof.Machine.execFabTimeout v slot s
  | .agree => Sys2Proof.Machine.execAgree s
  | .checkpointDue => Sys2Proof.Machine.execCheckpointDue s
  | .cadenceRecompute => Sys2Proof.Machine.execCadenceRecompute s
  | .now => Sys2Proof.Machine.execNow s
  | .roundStart ready => Sys2Proof.Machine.execRoundStart s ready
  | .drainComplete ok => Sys2Proof.Machine.execDrainComplete ok s
  | .commit => Sys2Proof.Machine.execCommit s
  | .abort => Sys2Proof.Machine.execAbort s
  | .arm on => Sys2Proof.Machine.execArm on s
  | .copySeqWrite hi value => Sys2Proof.Machine.execCopySeqWrite hi value s
  | .dcore value => Sys2Proof.Machine.execDcore value s
  | .ddev => Sys2Proof.Machine.execDdev s
  | .workStopTimeout => Sys2Proof.Machine.execWorkStopTimeout s
  | .slowClockEdge => Sys2Proof.Machine.execSlowClockEdge s
  | .pacerStableTimeout region => Sys2Proof.Machine.execPacerStableTimeout region s
  | .paceEpoch => Sys2Proof.Machine.execPaceEpoch s
  | .railsSettled => Sys2Proof.Machine.execRailsSettled s
  | .railSettleTimeout => Sys2Proof.Machine.execRailSettleTimeout s
  | .marginStretch region level => Sys2Proof.Machine.execMarginStretch region level s
  | .criticalLevel region => Sys2Proof.Machine.execCriticalLevel region s
  | .powerWindow watts => Sys2Proof.Machine.execPowerWindow watts s
  | .powerStretch watts => Sys2Proof.Machine.execPowerStretch watts s
  | .clrcnt => Sys2Proof.Machine.execClrcnt s
  | .doorbell k off len wr => Sys2Proof.Machine.execDoorbell k off s len wr
  | .descriptorTake k reply => Sys2Proof.Machine.execDescriptorTake k s reply
  | .jobEnd k reply => Sys2Proof.Machine.execJobEnd k s reply
  | .stop k reply => Sys2Proof.Machine.execStop k s reply
  | .stopTimeout k => Sys2Proof.Machine.execStopTimeout k s
  | .en k value reply => Sys2Proof.Machine.execEn k value s reply
  | .coresWrite k n value => Sys2Proof.Machine.execCoresWrite k n value s
  | .flr reply => Sys2Proof.Machine.execFlr s reply
  | .windowAccess off len wr poisoned => Sys2Proof.Machine.execWindowAccess off len wr s poisoned
  | .hdmaGo c value => Sys2Proof.Machine.execHdmaGo c value s
  | .d3hot enter => Sys2Proof.Machine.execD3hot enter s
  | .msixUnmask vec => Sys2Proof.Machine.execMsixUnmask vec s
  | .perst asserted => Sys2Proof.Machine.execPerst asserted s
  | .deliver => Sys2Proof.Machine.execDeliver s
  | .bundleBlock data => Sys2Proof.Machine.execBundleBlock data s
  | .hostReadError => Sys2Proof.Machine.execHostReadError s
  | .activation fails wrong => Sys2Proof.Machine.execActivation fails s wrong
  | .offer port flit => Sys2Proof.Machine.execOffer port flit s
  | .offerRepeat => Sys2Proof.Machine.execOfferRepeat s
  | .pull port flit => Sys2Proof.Machine.execPull port flit s
  | .data port flit => Sys2Proof.Machine.execData port flit s
  | .done port flit => Sys2Proof.Machine.execDone port flit s
  | .chainTimeout => Sys2Proof.Machine.execChainTimeout s
  | .status => Sys2Proof.Machine.execStatus s
  | .selftest pass => Sys2Proof.Machine.execSelftest pass s
  | .entropyTestFail => Sys2Proof.Machine.execEntropyTestFail s
  | .nonce => Sys2Proof.Machine.execNonce s
  | .enrol => Sys2Proof.Machine.execEnrol s
  | .revoke => Sys2Proof.Machine.execRevoke s
  | .unlock => Sys2Proof.Machine.execUnlock s
  | .zeroise => Sys2Proof.Machine.execZeroise s
  | .prefectReservedCommand => Sys2Proof.Machine.execPrefectReservedCommand s
  | .getVersion t req => Sys2Proof.Machine.execGetVersion t req s
  | .getCapabilities t req => Sys2Proof.Machine.execGetCapabilities t req s
  | .negotiateAlgorithms t req => Sys2Proof.Machine.execNegotiateAlgorithms t req s
  | .getDigests t req => Sys2Proof.Machine.execGetDigests t req s
  | .getCertificate t req => Sys2Proof.Machine.execGetCertificate t req s
  | .challenge t req => Sys2Proof.Machine.execChallenge t req s
  | .getMeasurements t req => Sys2Proof.Machine.execGetMeasurements t req s
  | .spdmUnsupportedRequest t req => Sys2Proof.Machine.execSpdmUnsupportedRequest t req s
  | .powerOn => Sys2Proof.Machine.execPowerOn s
  | .vauxLoss vbakOk => Sys2Proof.Machine.execVauxLoss vbakOk s
  | .vinGood => Sys2Proof.Machine.execVinGood s
  | .powerFail mv => Sys2Proof.Machine.execPowerFail mv s
  | .powerFailClear => Sys2Proof.Machine.execPowerFailClear s
  | .vinLoss => Sys2Proof.Machine.execVinLoss s
  | .vinOvervoltage mv => Sys2Proof.Machine.execVinOvervoltage mv s
  | .overvoltageClear => Sys2Proof.Machine.execOvervoltageClear s
  | .railFault => Sys2Proof.Machine.execRailFault s
  | .thermalTrip celsius => Sys2Proof.Machine.execThermalTrip celsius s
  | .thermalHoldEnd => Sys2Proof.Machine.execThermalHoldEnd s
  | .thermalWarning sensor celsius => Sys2Proof.Machine.execThermalWarning sensor celsius s
  | .watchdogExpiry => Sys2Proof.Machine.execWatchdogExpiry s
  | .resetIn asserted => Sys2Proof.Machine.execResetIn asserted s
  | .swrst value => Sys2Proof.Machine.execSwrst value s
  | .rstClrcnt => Sys2Proof.Machine.execRstClrcnt s
  | .releaseStep strapMv testsPass crossings => Sys2Proof.Machine.execReleaseStep strapMv testsPass s crossings
  | .trimLoadDone fromFlash => Sys2Proof.Machine.execTrimLoadDone fromFlash s
  | .blockResetGo value => Sys2Proof.Machine.execBlockResetGo value s
  | .blockIdle => Sys2Proof.Machine.execBlockIdle s
  | .blockResetTimeout => Sys2Proof.Machine.execBlockResetTimeout s
  | .holdup mw v1mv => Sys2Proof.Machine.execHoldup mw v1mv s
  | .sagEnd v2mv ns => Sys2Proof.Machine.execSagEnd v2mv ns s
  | .settingsWrite vinMv => Sys2Proof.Machine.execSettingsWrite s vinMv
  | .holdupRecheck vinMv => Sys2Proof.Machine.execHoldupRecheck s vinMv
  | .flashWriteTimeout => Sys2Proof.Machine.execFlashWriteTimeout s
  | .powerState => Sys2Proof.Machine.execPowerState s
  | .info => Sys2Proof.Machine.execInfo s
  | .logRead => Sys2Proof.Machine.execLogRead s
  | .topoRead => Sys2Proof.Machine.execTopoRead s
  | .paceReq => Sys2Proof.Machine.execPaceReq s
  | .settingsRead => Sys2Proof.Machine.execSettingsRead s
  | .watchdog => Sys2Proof.Machine.execWatchdog s
  | .registrarReservedCommand => Sys2Proof.Machine.execRegistrarReservedCommand s
  | .registerWrite off size value => Sys2Proof.Machine.execRegisterWrite off size value s
  | .syncTimeout write => Sys2Proof.Machine.execSyncTimeout write s
  | .beat region => Sys2Proof.Machine.execBeat region s
  | .reservedFlitType port flit => Sys2Proof.Machine.execReservedFlitType port flit s
  | .slotReuse v slot => Sys2Proof.Machine.execSlotReuse v slot s
  | .hostCompletionTimeout e slot reply => Sys2Proof.Machine.execHostCompletionTimeout e slot s reply
  | .holdupMeasurementExpiry => Sys2Proof.Machine.execHoldupMeasurementExpiry s
  | .sagVinLow => Sys2Proof.Machine.execSagVinLow s
  | .fabricRefclkStop south => Sys2Proof.Machine.execFabricRefclkStop south s
  | .jtagInstruction instr => Sys2Proof.Machine.execJtagInstruction instr s

end Sys2Proof.Machine
end

