-- ==== Sys2Proof/Machine/Pins.lean ====
section
/-!
DEFINITION. The output pins that follow from the state (R505, R511, R556 to R558); a pin whose name ends in N is low when its
condition holds.
-/
namespace Sys2Proof.Machine

/-- Levels of the output balls: high is true. -/
structure Pins where
  thermtripN : Bool
  pwrfailN : Bool
  ready : Bool
  cxl0PerstN : Bool
  cxl1PerstN : Bool
  /-- TRACE_CLK and TRACE_D0 to TRACE_D3 may toggle; the device drives them low otherwise (R557). -/
  traceOpen : Bool
deriving DecidableEq, Repr

/-- The pins of a device. -/
def pinsOf (d : Dev) : Pins :=
  { thermtripN := !d.rp.thold, pwrfailN := !d.rp.pfail, ready := d.rp.done,
    cxl0PerstN := !(cxlOf d 0).perst, cxl1PerstN := !(cxlOf d 1).perst, traceOpen := bit (scopesOpen d) 0 }

end Sys2Proof.Machine
end

