-- ==== Sys2Proof/Safety.lean ====
section
/-!
DEFINITION. The terms in which statements are made: what counts as a safe run, when a core's commands take place, what the next
command of a core does, and which parts of two devices agree.
-/
namespace Sys2Proof.Safety
open Sys2Proof.Machine

/-- A step that goes on. -/
def goesOn (s : State) : Prop := ∃ t, step s = .next t
/-- The memory of the device and of the shadow copy is in canonical form. -/
def memOk (s : State) : Prop := memWf s.dev.mem = true ∧ memWf s.shadow.mem = true
/-- A safe run of n steps. -/
def safeRun : Nat → State → Prop
  | 0, s => memOk s
  | n + 1, s => memOk s ∧ ∃ t, step s = .next t ∧ safeRun n t

/-- The answer that goes on with another device; shadow copies and queue stay. -/
def goes (s : State) (d : Dev) : Answer := .next { s with dev := d }

/-- Core v exists and its beats run (R25, R406, R524). -/
def running (s : State) (v : Nat) : Prop := s.dev.rp.pwr = .on ∧ v < gridCores s.dev
/-- The beats of a core's stream engine run; an HDMA channel has its own clock. -/
def engineRuns (s : State) (e : Engine) : Prop :=
  match e with
  | .core v => running s v
  | .hdma c => c < 4
/-- The transfer rows of an engine and a list. -/
def transferRows (e : Engine) (list : Nat) : List Instr :=
  [.copy e list, .fill e list, .reduceAdd e list, .reduceMin e list, .reduceMax e list, .topk e list, .sign e list,
   .expandTopk e list, .expandSign e list] ++ (match e with
    | .core v => [.bellTransfer v list]
    | .hdma _ => [])
/-- Word w is the next command of core v and issues: the Proctor issues commands, w lies at PRC_PC, no comparator holds it, it
is well formed, and every condition of R179 is met. -/
def issues (d : Dev) (v w : Nat) : Bool :=
  issuing (coreOf d v) && fetchWord d v == some w && (cmpHit (coreOf d v) w).isNone && (malformed d v w).isNone
    && (unmet d v w).isNone
/-- Every command that core v has put into a queue has had its turn. -/
def quiet (d : Dev) (v : Nat) : Bool :=
  (List.range 4).all (fun a => (nextOf (coreOf d v) (.array a)).isNone) && (nextOf (coreOf d v) .vec).isNone
/-- The function is not in D3hot, where it refuses every memory request of the host (R431). -/
def awake (s : State) : Prop := s.dev.host.d3hot = false
/-- The offset at which a row is a memory request of the host, which D3hot refuses (R431); none for other rows, and for a request that
addresses nothing. -/
def requestOffset (d : Dev) (i : Instr) : Option Nat :=
  match i with
  | .prcStart v | .haltReq v | .resume v | .clrStall v => some (0xC00000 + 0x1000 * v)
  | .now | .abort | .arm _ => some 0xC0000
  | .copySeqWrite hi _ => some (if hi then 0xC000C else 0xC0008)
  | .dcore _ | .ddev => some 0xC0064
  | .rcgo | .agree => some 0xB0004
  | .flush p | .logswap p => some (0xA0008 + 0x1000 * p)
  | .clrcnt => some 0x20000
  | .swrst _ | .rstClrcnt => some 0x10000
  | .blockResetGo _ => some 0x10008
  | .stop k _ | .en k _ _ => some (0x60100 + 0x100 * k)
  | .coresWrite k n _ => some (0x60120 + 0x100 * k + 4 * n)
  | .hdmaGo c _ => some (0x60808 + 0x40 * c)
  | .msixUnmask vec => some (0x6F00C + 16 * vec)
  | .doorbell k off len wr =>
    if k < 4 ∧ 0 < len ∧ off + len ≤ 0x10000 ∧ (∀ bs ∈ wr, bs.length = len) then some (0x10000 * k + off) else none
  | .windowAccess off len wr _ =>
    if 0 < len ∧ off + len ≤ 2 ^ 36 ∧ (∀ bs ∈ wr, bs.length = len) then some (d.host.winHi.toNat * 2 ^ 36 + off) else none
  | .registerWrite off size _ => if 0 < size ∧ off < 0x1000000 then some off else none
  | _ => none
/-- The blocks that wait for the Syllabus are served to the host (R431, R433). -/
def served (s : State) : Prop := awake s ∧ syllActive s.dev = true

/-- The flit is accepted in sequence at port p, which leaves the device d (R344). -/
def accepted (s : State) (p : Nat) (f : BitVec 256) (d : Dev) : Prop := p < 12 ∧ linkAccept s.dev p f = (d, true)
/-- The flit is a control message of a type (R340). -/
def ctlIs (f : BitVec 256) (k : Nat) : Prop := flitType f = 1 ∧ ctlType f = k
/-- The rows of control messages, each with the type of its messages (R340). -/
def ctlRows (p : Nat) (f : BitVec 256) : List (Nat × Instr) :=
  [(0x1, .hello p f), (0x2, .heartbeat p f), (0x3, .rcAssign p f), (0x4, .rcReport p f), (0x5, .rcRefuse p f), (0x6, .rcTopo p f),
   (0x7, .rcDone p f), (0x8, .linkDown p f), (0x9, .absent p f), (0xA, .resetReq p f), (0xB, .offer p f), (0xC, .pull p f),
   (0xD, .data p f), (0xE, .done p f)]
/-- The row of bulk messages of an operation (R339). -/
def bulkRow (op p : Nat) (start : Option (BitVec 10)) (words : List Codeword) : Instr :=
  match op with
  | 1 => .fabWrite p start words
  | 2 => .fabReadRequest p start words
  | 3 => .fabReadResponse p start words
  | 4 => .fabStatusResponse p start words
  | 5 => .fabReduceAdd p start words
  | 6 => .fabReduceMin p start words
  | 7 => .fabReduceMax p start words
  | 8 => .fabTopkRecords p start words
  | _ => .fabSignRecords p start words

end Sys2Proof.Safety
end

