-- ==== Sys2Proof/Certificates/Slice0/Obligations.lean ====
section
/-!
DEFINITION. The statements about the model, each formalising rules of the spec that its docstring names. A statement that rests on
a choice of the model says so and names the assumption.
-/
open Sys2Proof Sys2Proof.Machine Sys2Proof.Safety


/-! ### The step and the whole machine -/

/-- The step of a state with command i at the front of its queue is the effect of i on the state with the rest of the queue; the word
interface of a table without bits spells no command. With an empty queue the block idles (the model's choice, assumption 1): a
message that is being sent on a fabric port leaves whole, and with none being sent nothing changes. The model's own choices that
it rests on: log entries 1, 128. -/
def Obligations.StepRunsFrontCommand : Prop :=
  ((∀ (s : State) (i : Instr) (r : List Instr), s.pending = i :: r → step s = exec i { s with pending := r }) ∧
  (∀ (s : State) (i : Instr), step (s.push i) = exec i s) ∧
  (∀ (s : State) (nbits w : Nat), Sys2Proof.decodeTableWord nbits w = none ∧ s.withFetchWord nbits w = s)) ∧
  (∀ s : State, s.pending = [] → step s = goes s (txSettle s.dev) ∧
    ((∀ p, p < 12 → (fabPort s.dev p).sending = none) → step s = .next s))

/-- What every command leaves alone: whatever it is, it ends in a next state, it does not touch the queue, and the shadow copies
(R533, R535) change only at SLOW_CLOCK_EDGE and at the end of a block reset. A run of n commands takes n steps, ends with an empty
queue, and never stops. The model's own choices that it rests on: log entry 3. -/
def Obligations.EveryCommandGoesOn : Prop :=
  (∀ (i : Instr) (s : State), ∃ t, exec i s = .next t ∧ t.pending = s.pending ∧
    (i ≠ .slowClockEdge → i ≠ .blockIdle → i ≠ .blockResetTimeout → t.shadow = s.shadow)) ∧
  (∀ (s : State), ∃ t, Sys2Proof.core.run s.pending.length s = .next t ∧ t.pending = [])

/-! ### The Proctor: commands that it executes itself -/

/-- SETA and ADDA (R168, R162): SETA writes BASE, STRIDE or both of A[n] as WHAT says; ADDA adds its 48-bit immediate to BASE modulo
2^48; each takes one issue, PRC_PC goes on by one command of 16 bytes, and nothing else of the device changes but for what the
core's queues then go on to do. The Proctor goes on (R157): each register that a command auto-increments has its STRIDE, as a
signed number, added to its BASE once, modulo 2^48, even when two operands name it; every other register, and every stride, stays;
PRC_PC goes on by 16 and the issue counter by 1. -/
def Obligations.AddressRegisters : Prop :=
  (∀ (s : State) (v w : Nat), running s v → issues s.dev v w = true →
    (cwOpc w = 0x04 → exec (.seta v) s = goes s (pump (modCore s.dev v (fun c =>
      { c with areg := mapPut c.areg (bits w 32 4)
                 { base := if bits w 36 2 = 2 then (aregOf c (bits w 32 4)).base else BitVec.ofNat 48 (bits w 38 48),
                   stride := if bits w 36 2 = 1 then (aregOf c (bits w 32 4)).stride else BitVec.ofNat 24 (bits w 86 24) },
               pc := c.pc + 16, issue := c.issue + 1, passBreak := false })) v)) ∧
    (cwOpc w = 0x05 → exec (.adda v) s = goes s (pump (modCore s.dev v (fun c =>
      { c with areg := mapPut c.areg (bits w 32 4)
                 { aregOf c (bits w 32 4) with base := (aregOf c (bits w 32 4)).base + BitVec.ofNat 48 (bits w 36 48) },
               pc := c.pc + 16, issue := c.issue + 1, passBreak := false })) v))) ∧
  (∀ (c : Machine.Core) (w n : Nat),
    aregOf (advance c w) n =
      (if n ∈ incRegs w then { base := (aregOf c n).base + BitVec.ofInt 48 (aregOf c n).stride.toInt, stride := (aregOf c n).stride }
       else aregOf c n) ∧
    (advance c w).pc = c.pc + 16 ∧ (advance c w).issue = c.issue + 1 ∧ (advance c w).cmds = c.cmds ∧
    (advance c w).state = c.state ∧ (advance c w).loops = c.loops ∧ (advance c w).lreg = c.lreg ∧ (advance c w).cmpr = c.cmpr)

/-- CMP and TAG (R189, R162): CMP programs comparator C[n] with MODE, CTAG and CVAL; TAG does nothing but issue. LOOP and ENDLOOP
(R171, R172): LOOP with a count of 0 skips the body and its ENDLOOP; with a count n it opens a loop of n passes; ENDLOOP goes back
to the body while passes are left and otherwise closes the loop; SETL gives L[n] its 32-bit immediate, or the word of its operand,
whose register then advances when the operand says so. -/
def Obligations.LoopsComparatorsAndTags : Prop :=
  (∀ (s : State) (v w : Nat), running s v → issues s.dev v w = true →
    (cwOpc w = 0x07 → exec (.cmp v) s = goes s (pump (modCore s.dev v (fun c =>
      { c with cmpr := mapPut c.cmpr (bits w 32 3)
                 { mode := BitVec.ofNat 2 (bits w 35 2), ctag := BitVec.ofNat 8 (bits w 37 8),
                   cval := BitVec.ofNat 48 (bits w 45 48) },
               pc := c.pc + 16, issue := c.issue + 1, passBreak := false })) v)) ∧
    (cwOpc w = 0x08 → exec (.tag v) s = goes s (pump (modCore s.dev v (fun c =>
      { c with pc := c.pc + 16, issue := c.issue + 1, passBreak := false })) v))) ∧
  (∀ (s : State) (v w : Nat), running s v → issues s.dev v w = true →
    (cwOpc w = 0x02 → exec (.loop v) s = goes s (pump (modCore s.dev v (fun c =>
      let n := (mapGet 0 c.lreg (bits w 32 3)).toNat
      if n = 0 then { c with issue := c.issue + 1, passBreak := false,
                             pc := BitVec.ofNat 48 (c.pc.toNat + 16 * (bits w 35 16 + 1)) }
      else { c with issue := c.issue + 1, passBreak := false, pc := c.pc + 16,
                    loops := { start := c.pc.toNat + 16, stop := c.pc.toNat + 16 * bits w 35 16, left := n } :: c.loops })) v)) ∧
    (cwOpc w = 0x03 → ∀ l r, (coreOf s.dev v).loops = l :: r →
      exec (.endloop v) s = goes s (pump (modCore s.dev v (fun c =>
        if 1 < l.left then { c with issue := c.issue + 1, passBreak := false, pc := BitVec.ofNat 48 l.start,
                                    loops := { l with left := l.left - 1 } :: r }
        else { c with issue := c.issue + 1, passBreak := false, pc := c.pc + 16, loops := r })) v)) ∧
    (cwOpc w = 0x06 → bit w 35 = false → exec (.setl v) s = goes s (pump (modCore s.dev v (fun c =>
      { c with lreg := mapPut c.lreg (bits w 32 3) (BitVec.ofNat 32 (bits w 36 32)),
               pc := c.pc + 16, issue := c.issue + 1, passBreak := false })) v)) ∧
    (cwOpc w = 0x06 → bit w 35 = true → exec (.setl v) s = goes s (pump (modCore s.dev v (fun c =>
      advance { c with lreg := (mapPut c.lreg (bits w 32 3)
        (BitVec.ofNat 32 (leNat (rdBytes (seen s.dev) (winBase v + oprValue c (bits w 36 20)) 4)))) } w)) v)))

/-- The waits (R164 to R166): STRM.WAIT issues once its event counter has reached its count and takes the count off; BELL.WAIT issues
once the generation that the core next waits for has completed, counts it, and writes the result when WRES is 1; TASK.DRAIN issues
once the core's pool is empty. Until then each leaves the whole device as it is. BELL.WAIT with WRES = 1 writes the 8-byte result
of the generation it waited for at its operand (R165, R233). The model's own choices that it rests on: log entries 32, 33. -/
def Obligations.WaitCommands : Prop :=
  (∀ (s : State) (v w : Nat), running s v → issuing (coreOf s.dev v) = true → fetchWord s.dev v = some w →
    cmpHit (coreOf s.dev v) w = none → malformed s.dev v w = none →
    (cwOpc w = 0x11 → (mapGet 0 (coreOf s.dev v).ereg (bits w 32 3)).toNat < bits w 35 16 →
      exec (.strmWait v) s = goes s s.dev) ∧
    (cwOpc w = 0x11 → bits w 35 16 ≤ (mapGet 0 (coreOf s.dev v).ereg (bits w 32 3)).toNat →
      exec (.strmWait v) s = goes s (pump (modCore s.dev v (fun c =>
        { c with ereg := mapPut c.ereg (bits w 32 3) (mapGet 0 c.ereg (bits w 32 3) - BitVec.ofNat 32 (bits w 35 16)),
                 pc := c.pc + 16, issue := c.issue + 1, passBreak := false })) v)) ∧
    (cwOpc w = 0x0B → (bellOf s.dev (bits w 32 10)).done ≤ bellWaited s.dev (bits w 32 10) v →
      exec (.bellWait v) s = goes s s.dev) ∧
    (cwOpc w = 0x0B → bit w 62 = false → bellWaited s.dev (bits w 32 10) v < (bellOf s.dev (bits w 32 10)).done →
      exec (.bellWait v) s = goes s (pump (modCore (modBell s.dev (bits w 32 10) (fun x =>
        { x with waits := mapPut x.waits v (bellWaited s.dev (bits w 32 10) v + 1) })) v (fun c =>
        { c with pc := c.pc + 16, issue := c.issue + 1, passBreak := false })) v)) ∧
    (cwOpc w = 0x09 → pooled (coreOf s.dev v) ≠ 0 → exec (.taskDrain v) s = goes s s.dev) ∧
    (cwOpc w = 0x09 → pooled (coreOf s.dev v) = 0 → exec (.taskDrain v) s = goes s (pump (modCore s.dev v (fun c =>
      { c with pc := c.pc + 16, issue := c.issue + 1, passBreak := false })) v))) ∧
  (∀ (s : State) (v w : Nat) (x : Dword), running s v → issues s.dev v w = true → cwOpc w = 0x0B → bit w 62 = true →
    (bellOf s.dev (bits w 32 10)).results.find? (fun r => r.1 == bellWaited s.dev (bits w 32 10) v)
      = some (bellWaited s.dev (bits w 32 10) v, x) →
    exec (.bellWait v) s = goes s (pump (modCore
      (raced (modBell s.dev (bits w 32 10) (fun y => { y with waits := mapPut y.waits v (bellWaited s.dev (bits w 32 10) v + 1) }))
        (fun e => winWrite e v (oprValue (coreOf s.dev v) (bits w 42 20)) (leBytes 8 x.toNat))) v (fun c => advance c w)) v))

/-- HALT, STRM.GO, STRM.FENCE and BELL.RING (R162, R167, R177, R194, R204, R232): HALT stops issue with its code and ends every open
loop; STRM.GO hands a list of COUNT entries to the stream engine with its priority, event counter and relocation base, and stays
in the stream queue, as does STRM.FENCE; BELL.RING holds an arrival with its OP and, with DRN = 0, the 8-byte value of its operand
as it is now. The registers that their operands name advance (R157), PRC_PC goes on by 16 and the issue counter by 1. The model's
own choices that it rests on: log entries 32, 33, 51. -/
def Obligations.QueueingControlCommands : Prop :=
  ∀ (s : State) (v w : Nat), running s v → issues s.dev v w = true →
    let rs := regionsOf s.dev v w (opndsOf s.dev v w)
    let entry : Issued := { id := (coreOf s.dev v).issue.toNat, word := BitVec.ofNat 128 w, unit := .strm,
                            ops := opndsOf s.dev v w, regions := if cwOpc w = 0x12 then [] else rs }
    (cwOpc w = 0x01 → exec (.halt v) s = goes s (pump (modCore s.dev v (fun c =>
      { c with stop := .halt (BitVec.ofNat 16 (bits w 32 16)), loops := [],
               pc := c.pc + 16, issue := c.issue + 1, passBreak := false })) v)) ∧
    (cwOpc w = 0x10 → exec (.strmGo v) s = goes s (pump (modCore s.dev v (fun c =>
      advance { c with cmds := c.cmds ++ [entry],
                       strm := { c.strm with lists := c.strm.lists ++ [
                       { id := c.issue.toNat,
                         base := winBase v + (opndsOf s.dev v w).x, count := bits w 52 16, evt := bits w 68 3,
                         pri := BitVec.ofNat 2 (bits w 71 2),
                         reloc := if bit w 77 then (aregOf c (bits w 73 4)).base else 0 }] } } w)) v)) ∧
    (cwOpc w = 0x12 → exec (.strmFence v) s = goes s (pump (modCore s.dev v (fun c =>
      advance { c with cmds := c.cmds ++ [entry] } w)) v)) ∧
    (cwOpc w = 0x0A → exec (.bellRing v) s = goes s (pump (modCore (modBell (modCore s.dev v (fun c =>
      { c with cmds := c.cmds ++ [{ entry with unit := .bell, regions := if bit w 65 then rs else [] }] }))
        (bits w 32 10) (fun b => { b with held := b.held ++ [
        { core := v, cmd := some (coreOf s.dev v).issue.toNat,
          slot := none, op := BitVec.ofNat 3 (bits w 42 3),
          value := if bit w 65 then 0 else
            BitVec.ofNat 64 (leNat (rdBytes (seen s.dev) (winBase v + oprValue (coreOf s.dev v) (bits w 45 20)) 8)) }] }))
      v (fun c => advance c w)) v))

/-- What does not issue (R179, R186, R190): a comparator that matches the next command stops issue before any check of the command; a
malformed command stops issue with its cause, OPC, QUE and TAG; a command whose conditions are not met, one that is not the row's,
and any command of a Proctor that does not issue, leave the whole device as it is. When nothing in a core's array queues and
vector queue waits for its turn, letting the queues work changes nothing: what the statements above name as the effect of an issue
is then the whole effect. The model's own choices that it rests on: log entry 39. -/
def Obligations.CommandHeldBack : Prop :=
  (∀ (d : Dev) (v w : Nat) (row : Nat → Bool),
    (issuing (coreOf d v) = false → attempt d v row = d) ∧
    (issuing (coreOf d v) = true → fetchWord d v = some w →
      (row w = false → attempt d v row = d) ∧
      (row w = true → ∀ n, cmpHit (coreOf d v) w = some n →
        attempt d v row = modCore d v (fun c => { c with stop := .brk n })) ∧
      (row w = true → cmpHit (coreOf d v) w = none →
        (∀ cause detail, malformed d v w = some (cause, detail) →
          attempt d v row = modCore d v (fun c => 
            { c with stop := StopWhy.fault (BitVec.ofNat 8 cause) (BitVec.ofNat 8 (bits w 0 8))
                               (BitVec.ofNat 3 (bits w 8 3)) (BitVec.ofNat 8 (bits w 12 8)) (BitVec.ofNat 8 detail)
                               (BitVec.ofNat 8 (bits w 32 8)) })) ∧
        (malformed d v w = none → (unmet d v w).isSome = true → attempt d v row = d)))) ∧
  (∀ (d : Dev) (v : Nat), quiet d v = true → pump d v = d)

/-! ### The Proctor: control of a core -/

/-- PRC_START (R148, R149): in idle, halted or faulted, while a Timetable is active, START completes: the core runs from PRC_START
with issue counter 0, an empty loop stack, no issued command and so an empty scoreboard, E0 to E7, the halt code, every stall and
task counter, VEC_FAULT and the error record of the streams cleared, and an empty fetch buffer. From a start address that is a
multiple of 16 in the core's own scratchpad or in HBM it issues; at any other it stops with cause 0x0E. Address registers, loop-
count registers and comparators stay, and so does everything else of the device. In any other state of the core, or without an
active Timetable, START does nothing (R148). The model's own choices that it rests on: log entries 24, 37. -/
def Obligations.StartRuns : Prop :=
  ((∀ (s : State) (v : Nat), v < gridCores s.dev → served s → isDetained s.dev v = false →
    (pacerOf s.dev (coreRegion s.dev v)).released = true → s.dev.ttl.active.isSome = true →
    ((coreOf s.dev v).state = .idle ∨ (coreOf s.dev v).state = .halted ∨ (coreOf s.dev v).state = .faulted) →
    let ok := fetchStartOk s.dev v (coreOf s.dev v).start.toNat
    exec (.prcStart v) s = goes s (modCore s.dev v (fun c => { c with
      state := .running, stop := if ok then .issuing else .fault 0x0E 0 0 0 0 0, passBreak := false, hostStop := false,
      pc := c.start, issue := 0, loops := [], cmds := [], ereg := [], haltCode := 0, fetchBuf := [],
      code := if ok = true ∧ winBase 0 ≤ c.start.toNat then scratchCells s.dev v else [],
      sbStall := 0, qfStall := 0, slotStall := 0, swaitStall := 0, bwaitStall := 0, tdrainStall := 0, haltStall := 0, fetchStall := 0,
      arrays := c.arrays.map (fun p => (p.1, { p.2 with feedStall := 0, ringStall := 0, resStall := 0, gbpStall := 0 })),
      strm := { c.strm with stalls := [], errCnt := 0, errCode := 0, errKind := 0, errEntry := 0, errAddr := 0 },
      vec := { c.vec with detail := 0, fn := 0, posted := 0, loc := 0, away := 0, stolen := 0, busy0 := 0, busy1 := 0,
                          fwait := 0 } }))) ∧
  (∀ (d : Dev) (v a : Nat), v < gridCores d → a < 2 ^ 48 → (fetchStartOk d v a = true ↔
    a % 16 = 0 ∧ ((winBase v ≤ a ∧ a < winBase v + 0x600000) ∨ a < hbmCap d)))) ∧
  (∀ (s : State) (v : Nat), awake s → (s.dev.ttl.active = none ∨
    ¬ ((coreOf s.dev v).state = .idle ∨ (coreOf s.dev v).state = .halted ∨ (coreOf s.dev v).state = .faulted)) →
    exec (.prcStart v) s = goes s s.dev)

/-- HALT_REQ, STOPPED, RESUME, CLR_STALL, HALTED and BREAK (R167, R190, R191, R193): the changes of a core's state, each with the
condition under which it takes place. FAULTED (R186, R187): once the issued commands have completed, STATE becomes faulted,
PRC_FAULT records the cause and the command's OPC, QUE and TAG, event 0x0401 is logged and vector 14 fires; VEC_FAULT takes DETAIL
and FN when the cause is 0x0C and stays otherwise; PRC_PC and the issue counter stay. Before they have completed, STATE stays as
it is. FETCH_BLOCK (R149): a running core whose commands lie in HBM takes the next 2 KiB block of the eight from PRC_PC on that it
does not hold into its fetch buffer; nothing else changes when the block holds no uncorrectable error. The model's own choices
that it rests on: log entries 17, 18, 34, 36, 38. -/
def Obligations.ProctorStateChanges : Prop :=
  (∀ (s : State) (v : Nat), running s v →
    (served s → (pacerOf s.dev (coreRegion s.dev v)).released = true → isDetained s.dev v = false →
      (issuing (coreOf s.dev v) = true → exec (.haltReq v) s =
        goes s (modCore s.dev v (fun c => { c with stop := .haltReq, hostStop := true }))) ∧
      ((coreOf s.dev v).state = .brk → exec (.resume v) s =
        goes s (modCore s.dev v (fun c => { c with state := .running, stop := .issuing, passBreak := true }))) ∧
      ∃ t, exec (.clrStall v) s = .next t ∧ (coreOf t.dev v).sbStall = 0 ∧ (coreOf t.dev v).qfStall = 0 ∧
        (coreOf t.dev v).slotStall = 0 ∧ (coreOf t.dev v).swaitStall = 0 ∧ (coreOf t.dev v).bwaitStall = 0 ∧
        (coreOf t.dev v).tdrainStall = 0 ∧ (coreOf t.dev v).haltStall = 0 ∧ (coreOf t.dev v).fetchStall = 0 ∧
        (coreOf t.dev v).strm.stalls = [] ∧ (coreOf t.dev v).vec.posted = 0 ∧
        (∀ p ∈ (coreOf t.dev v).arrays, p.2.feedStall = 0 ∧ p.2.ringStall = 0 ∧ p.2.resStall = 0 ∧ p.2.gbpStall = 0) ∧
        (coreOf t.dev v).pc = (coreOf s.dev v).pc ∧ (coreOf t.dev v).issue = (coreOf s.dev v).issue ∧
        (coreOf t.dev v).cmds = (coreOf s.dev v).cmds ∧ (coreOf t.dev v).state = (coreOf s.dev v).state ∧
        t.dev.mem = s.dev.mem) ∧
    ((coreOf s.dev v).state = .running → (coreOf s.dev v).cmds = [] →
      ((coreOf s.dev v).stop = .haltReq → exec (.stopped v) s =
        goes s (modCore s.dev v (fun c => { c with state := .stopped, stop := .issuing }))) ∧
      (∀ code, (coreOf s.dev v).stop = .halt code → (coreOf s.dev v).strm.lists = [] → exec (.halted v) s =
        goes s (modCore s.dev v (fun c => { c with state := .halted, stop := .issuing, haltCode := code }))) ∧
      (∀ n, (coreOf s.dev v).stop = .brk n → exec (.brk v) s =
        goes s (signal (logEvent (modCore s.dev v (fun c =>
          { c with state := .brk, stop := .issuing, brkCmp := BitVec.ofNat 3 n })) 0x0404 (coreBlock s.dev v) v
            (leBytes 1 n ++ leBytes 6 (coreOf s.dev v).issue.toNat)) 14)))) ∧
  (∀ (s : State) (v : Nat) (cause opc : Byte) (que : BitVec 3) (tag detail fn : Byte), running s v →
    (coreOf s.dev v).state = .running → (coreOf s.dev v).stop = .fault cause opc que tag detail fn →
    ((coreOf s.dev v).cmds = [] → exec (.faulted v) s = goes s (signal (logEvent (modCore s.dev v (fun c =>
      { c with state := .faulted, stop := .issuing, cause := cause, faultOpc := opc, faultQue := que, faultTag := tag,
               vec := if cause = 0x0C then { c.vec with detail := detail, fn := fn } else c.vec }))
        0x0401 (coreBlock s.dev v) v
        (leBytes 4 (opc.toNat + 0x100 * que.toNat + 0x10000 * tag.toNat) ++ leBytes 1 cause.toNat)) 14)) ∧
    ((coreOf s.dev v).cmds ≠ [] → exec (.faulted v) s = goes s s.dev)) ∧
  (∀ (s : State) (v a : Nat), running s v → (coreOf s.dev v).state = .running → (coreOf s.dev v).start.toNat < winBase 0 →
    (coreOf s.dev v).strm.xfers = [] → (coreOf s.dev v).strm.heldSlots = [] → nextBlock s.dev v = some a →
    rdBad s.dev a 2048 = none → localStatus s.dev { core := some v } a 2048 false = 0 →
    exec (.fetchBlock v .clean) s = goes s (modCore s.dev v (fun c => putBlock c a (rdBytes s.dev a 2048))))

/-! ### Arrays -/

/-- The array commands issue (R157, R162, R175, R180): each joins the queue of the array that QUE names, with its operands and its
regions as the registers give them at issue; the Proctor's tracking of the array, the auto-incremented registers, PRC_PC and the
issue counter go on; and the queues then work as far as they can. The model's own choices that it rests on: log entries 32, 35. -/
def Obligations.ArrayCommandsQueue : Prop :=
  ∀ (s : State) (v w : Nat), running s v → issues s.dev v w = true →
    let c0 := coreOf s.dev v
    let o := arrOpnds c0 w
    let entry : Issued :=
      { id := c0.issue.toNat, word := BitVec.ofNat 128 w, unit := .array (bits w 8 3), ops := o, regions := arrRegions c0 w o,
        liveFmt := trackedLive c0 w, step := mapGet 0 c0.ringSteps (bits w 8 3), shape := (arrOf c0 (bits w 8 3)).tPend }
    let t := goes s (pump (modCore s.dev v (fun c =>
      advance (trackArray { c with cmds := c.cmds ++ [entry] } w (trackedLive c0 w) (arrRegions c0 w o)) w)) v)
    (cwOpc w = 0x20 → exec (.mmaF v) s = t) ∧ (cwOpc w = 0x21 → exec (.mmaT v) s = t) ∧
    (cwOpc w = 0x22 → exec (.mmaO v) s = t) ∧ (cwOpc w = 0x23 → exec (.wload v) s = t) ∧
    (cwOpc w = 0x24 → exec (.wswap v) s = t) ∧ (cwOpc w = 0x25 → exec (.gbDrain v) s = t) ∧
    (cwOpc w = 0x26 → exec (.gbClear v) s = t)

/-- WLOAD and WSWAP on a core whose queues have nothing waiting (R109 to R112): WLOAD of live extents fills the shadow slots of its
array with the K x N tile at its operand, every other position +0 with scale code 0x7F, and gives the shadow slots its format; a
WLOAD with K or N zero changes no slot; WSWAP exchanges live and shadow slots with their formats. Memory, accumulators, latches
and every other array stay. The tile that WLOAD reads (R104, R105, R109): position (r, c) takes, as its element j, W[P r + j][c]
with its scale code; a position at or beyond K or N holds +0 with scale code 0x7F. -/
def Obligations.WeightsLoadAndSwap : Prop :=
  (∀ (s : State) (v w : Nat), running s v → issues s.dev v w = true → quiet s.dev v = true →
    let a := bits w 8 3
    let old := arrOf (coreOf s.dev v) a
    (cwOpc w = 0x23 → ∃ t, exec (.wload v) s = .next t ∧ t.dev.mem = s.dev.mem ∧
      (∀ b, b ≠ a → arrOf (coreOf t.dev v) b = arrOf (coreOf s.dev v) b) ∧
      let new := arrOf (coreOf t.dev v) a
      new.live = old.live ∧ new.liveFmt = old.liveFmt ∧ new.acc = old.acc ∧ new.latch = old.latch ∧ new.pend = old.pend ∧
      (aK w = 0 ∨ aN w = 0 → new.shadow = old.shadow ∧ new.shadowFmt = old.shadowFmt) ∧
      (aK w ≠ 0 → aN w ≠ 0 → new.shadowFmt = fmtD (aXF w) ∧
        new.shadow = wloadTile (seen (issueCmd s.dev v w)) v { operX w (arrOpnds (coreOf s.dev v) w) with cols := aN w } (aK w) (aN w))) ∧
    (cwOpc w = 0x24 → ∃ t, exec (.wswap v) s = .next t ∧ t.dev.mem = s.dev.mem ∧
      (∀ b, b ≠ a → arrOf (coreOf t.dev v) b = arrOf (coreOf s.dev v) b) ∧
      let new := arrOf (coreOf t.dev v) a
      new.live = old.shadow ∧ new.shadow = old.live ∧ new.liveFmt = old.shadowFmt ∧ new.shadowFmt = old.liveFmt ∧
      new.acc = old.acc ∧ new.latch = old.latch ∧ new.pend = old.pend)) ∧
  (∀ (d : Dev) (v : Nat) (o : Operand) (k n r c j : Nat), r < 64 → c < 64 → j < packOf o.fmt → k ≤ 64 * packOf o.fmt → n ≤ 64 →
    mapGet {} (wloadTile d v o k n) (cellKey r c j) =
      if packOf o.fmt * r + j < k ∧ c < n then
        { code := BitVec.ofNat 16 (bits (leNat (rdBytes d (winBase v + (o.base + r * o.q + (c + r) % 64 * slotLeft o.fmt))
                    (slotLeft o.fmt))) (fmtBits o.fmt * j) (fmtBits o.fmt)),
          scale := operandScale d v o (packOf o.fmt * r + j) c }
      else {})

/-- MMA.F, MMA.T and MMA.O without SPLIT, FUSE and RING, of live extents, on a core whose queues have nothing waiting (R97 to R100,
R111, R117): SWAP exchanges the slots first; MMA.F writes, for each row m below M and column n below N, the chain sum of x row m
and weight column n over K, started from D in the accumulate form and from zero otherwise; MMA.T the sum of dy row m and weight
row k over N; each row at D + m times the pitch; MMA.O leaves the K x N sums over the M rows in the accumulators and the pending
tile's shape. Nothing else changes but the queue entry's mark and the issue itself. The model's own choices that it rests on: log
entries 32, 33. -/
def Obligations.ProductsWritten : Prop :=
  ∀ (s : State) (v w : Nat), running s v → issues s.dev v w = true → quiet s.dev v = true →
    aM w ≠ 0 → aK w ≠ 0 → aN w ≠ 0 → aSplit w = 0 → aFuse w = false → aRing w = false →
    let a := bits w 8 3
    let d1 := issueCmd s.dev v w
    let o := arrOpnds (coreOf s.dev v) w
    let entry : Issued :=
      { id := (coreOf s.dev v).issue.toNat, word := BitVec.ofNat 128 w, unit := .array a, ops := o,
        regions := arrRegions (coreOf s.dev v) w o, liveFmt := trackedLive (coreOf s.dev v) w,
        step := mapGet 0 (coreOf s.dev v).ringSteps a, shape := (arrOf (coreOf s.dev v) a).tPend }
    let swapped := fun (e : Dev) => if aSwap w then modCore e v (fun c => modArr c a swapTiles) else e
    let arr := fun (e : Dev) => arrOf (coreOf (swapped e) v) a
    let start := fun (e : Dev) (m j : Nat) => if aAcc w then winWord e v (o.d + m * resultPitch w + 4 * j) else 0
    let x := fun (e : Dev) m => leftRow e v (operX w o) (aK w) m
    let y := fun (e : Dev) m => topRow e v (operY w o) (aN w) m
    let wgt := fun (e : Dev) (k n : Nat) => weight (arr e) (packOf (arr e).liveFmt) 0 0 k n
    (cwOpc w = 0x20 → exec (.mmaF v) s = goes s (markDone d1 (raced d1 (fun e => writeRows32 (swapped e) v o.d (resultPitch w)
      ((List.range (aM w)).map (fun m => (List.range (aN w)).map (fun n =>
        sumF (fmtD (aXF w)) (arr e).liveFmt (start e m n) (x e m) ((List.range (aK w)).map (fun k => wgt e k n))))))) v entry)) ∧
    (cwOpc w = 0x21 → exec (.mmaT v) s = goes s (markDone d1 (raced d1 (fun e => writeRows32 (swapped e) v o.d (resultPitch w)
      ((List.range (aM w)).map (fun m => (List.range (aK w)).map (fun k =>
        sumT (fmtD (aYF w)) (arr e).liveFmt (start e m k) (y e m) ((List.range (aN w)).map (fun n => wgt e k n))))))) v entry)) ∧
    (cwOpc w = 0x22 → exec (.mmaO v) s = goes s (markDone d1 (raced d1 (fun e => modCore (swapped e) v (fun c => modArr c a (fun q =>
      { q with acc := (prodO (fmtD (aXF w)) (fmtD (aYF w)) 0 0 (aK w) (aN w) ((List.range (aM w)).map (x e))
                        ((List.range (aM w)).map (y e))).foldl (fun m e => mapPut m e.1 e.2) [],
               pend := some { k := aK w, n := aN w, split := 0, pack := packOf (fmtD (aXF w)) } })))) v entry))

/-- GB.DRAIN with empty drain latches and GB.CLEAR, on a core whose queues have nothing waiting (R122 to R125): GB.DRAIN moves the
accumulators into the drain latches, clears the accumulators and the pending tile, and adds each element of the pending tile into
its Gradebook element; with no pending tile it changes neither memory nor array; GB.CLEAR makes every byte of each tile of its
mask zero. The model's own choices that it rests on: log entries 32, 33. -/
def Obligations.GradebookCommands : Prop :=
  ∀ (s : State) (v w : Nat), running s v → issues s.dev v w = true → quiet s.dev v = true →
    let a := bits w 8 3
    let d1 := issueCmd s.dev v w
    let o := arrOpnds (coreOf s.dev v) w
    let entry : Issued :=
      { id := (coreOf s.dev v).issue.toNat, word := BitVec.ofNat 128 w, unit := .array a, ops := o,
        regions := arrRegions (coreOf s.dev v) w o, liveFmt := trackedLive (coreOf s.dev v) w,
        step := mapGet 0 (coreOf s.dev v).ringSteps a, shape := (arrOf (coreOf s.dev v) a).tPend }
    let arr := arrOf (coreOf s.dev v) a
    (cwOpc w = 0x25 → arr.latch = [] →
      (arr.pend = none → exec (.gbDrain v) s = goes s (markDone d1 (raced d1 (fun e => e)) v entry)) ∧
      (∀ t, arr.pend = some t → exec (.gbDrain v) s = goes s (markDone d1
        (raced d1 (fun e0 => (drainCells t).foldl (fun e kn =>
            let tile := bits w 32 4 + kn.1 / 64
            let el := 64 * (kn.1 % 64) + kn.2
            let off := 0x800000 + a * 0x40000 + tile * 0x4000 + 4 * el
            winWrite e v off (leBytes 4 (srAdd (srBits (seedOf e) (srW1 1 v a entry.id) (srW2 tile 0 el))
              (numDecode .fp32 (winWord e v off))
              (numDecode .fp32 (mapGet 0 arr.acc (wKey t.pack 0 0 kn.1 kn.2)).toNat))))
          (modCore e0 v (fun c => modArr c a (fun q => { q with latch := q.acc, acc := [], pend := none }))))) v entry))) ∧
    (cwOpc w = 0x26 → exec (.gbClear v) s = goes s (markDone d1
      (raced d1 (fun e0 => (maskList 16 (bits w 32 16)).foldl (fun e t =>
        winWrite e v (0x800000 + a * 0x40000 + t * 0x4000) (List.replicate 0x4000 0)) e0)) v entry))

/-- RING_HEADER (R131, R132, R136, R137): the header that next reaches a member, when it differs in step count, mode, M or pairing (in
that order, causes 1 to 4) from a header that the member has itself injected for the step, or from the member's own ring command,
or when the member heads the step as well (cause 5), breaks the ring; when it agrees, the command's turn in its queue has come and
the link behind the member has room, the member takes the rows and executes; until then it waits. A ring breaks (R137, R138,
R186): once broken it stays broken; its members lose their commands of the ring, no member issues any more, whether it ran or
stood in break, and event 0x0402 names ring, member, array and cause. Of the sums of the abandoned commands each byte is as it
stands or as it was before, and every other byte of memory stays. The model's own choices that it rests on: log entries 28, 30,
31, 38, 112. -/
def Obligations.RingCommandsTakenOrBroken : Prop :=
  (∀ (s : State) (ring m v a : Nat) (f : RingFlow), s.dev.rp.pwr = .on → (ringMembers s.dev ring)[m]? = some (v, a) →
    flowAt s.dev ring m = some f → s.dev.ttl.brokenRings.contains ring = false →
    let differs := fun (step : BitVec 16) (mode : MmaMode) (rows : Nat) (pairing : Option Nat) (head : Bool) =>
      if step ≠ f.step then some 1 else if mode ≠ f.mode then some 2 else if rows ≠ f.m then some 3
      else if pairing ≠ some f.pairing then some 4 else if head = true then some 5 else none
    (∀ g, ownFlow s.dev f m = some g → ∀ cause, differs g.step g.mode g.m (some g.pairing) true = some cause →
      exec (.ringHeader ring m) s = goes s (breakRing s.dev ring v a cause)) ∧
    (ownFlow s.dev f m = none → ∀ i, (coreOf s.dev v).cmds.find? (fun i => isRingCmd i a && !i.executed) = some i →
      let w := i.word.toNat
      let verdict := differs i.step (cwMode w) (aM w) (pairingOf (streamFmt w)) (aHead w)
      (∀ cause, verdict = some cause → exec (.ringHeader ring m) s = goes s (breakRing s.dev ring v a cause)) ∧
      (verdict = none → nextOf (coreOf s.dev v) (.array a) = some i → ringSent s.dev v a = true →
        let flows := (s.dev.ttl.ringFlow.map (fun g =>
          if g.ring = f.ring ∧ g.step = f.step then { g with taken := m :: g.taken } else g)).filter
            (fun g => decide (g.taken.length + 1 < (ringMembers s.dev g.ring).length))
        exec (.ringHeader ring m) s = goes s (pump (markDone s.dev
          (raced { s.dev with ttl := { s.dev.ttl with ringFlow := flows } } (fun e => execMmaOn e v a i.id w i.ops f.fmt f.rows))
          v i) v)) ∧
      (verdict = none → nextOf (coreOf s.dev v) (.array a) ≠ some i ∨ ringSent s.dev v a = false →
        exec (.ringHeader ring m) s = goes s s.dev))) ∧
  (∀ (d : Dev) (r v a cause : Nat),
    let e := breakRing d r v a cause
    (d.ttl.brokenRings.contains r = true → e = d) ∧
    (d.ttl.brokenRings.contains r = false →
      e.ttl.brokenRings = r :: d.ttl.brokenRings ∧ (∀ f ∈ e.ttl.ringFlow, f.ring ≠ r) ∧
      (∀ u b, (u, b) ∈ ringMembers d r → (∀ i ∈ (coreOf e u).cmds, isRingCmd i b = false) ∧ issuing (coreOf e u) = false ∧
        (coreOf e u).state ≠ .brk) ∧
      e.reg.log.head?.map (fun x => (x.code, x.data)) =
        some (0x0402, slice (leBytes 2 r ++ leBytes 1 v ++ leBytes 1 a ++ leBytes 1 cause) 0 12) ∧
      ((∀ u b, (u, b) ∈ ringMembers d r → ∀ i ∈ (coreOf d u).cmds, i.undo = []) → e.mem = d.mem) ∧
      (plainMem d = true → d.badWords = [] → ∀ x, memByte e.mem x = memByte d.mem x ∨
        ∃ m ∈ ringMembers d r, ∃ i ∈ (coreOf d m.1).cmds, (x, memByte e.mem x) ∈ i.undo)))

/-! ### Vector engines -/

/-- The vector commands issue (R157, R162, R166, R181): each joins the vector queue, or with POST = 1 the task pool under its SLOT,
with its operands and regions; a posted task counts in VEC_POSTED, saturating; a fused consumer takes the oldest unpaired FUSE
command of array FARR as its pair. The model's own choices that it rests on: log entries 32, 35. -/
def Obligations.VectorCommandsQueue : Prop :=
  ∀ (s : State) (v w : Nat), running s v → issues s.dev v w = true →
    let c0 := coreOf s.dev v
    let o := vecOpnds s.dev v c0 w
    let entry : Issued :=
      { id := c0.issue.toNat, word := BitVec.ofNat 128 w, unit := if vPost w then .pool (vSlot w) else .vec, ops := o,
        regions := vecRegions w o, pair := if vFsrc w then ((arrOf c0 (vFarr w)).unpaired.head?).map (·.id) else none }
    let t := goes s (pump (modCore s.dev v (fun c =>
      let c1 := { c with cmds := c.cmds ++ [entry] }
      let c2 := if vFsrc w then modArr c1 (vFarr w) (fun q => { q with unpaired := q.unpaired.drop 1 }) else c1
      advance (if vPost w then { c2 with vec := { c2.vec with posted := satAdd c2.vec.posted 1 } } else c2) w)) v)
    (0x30 ≤ cwOpc w → cwOpc w ≤ 0x38 → vPost w = true → exec (.taskPost v) s = t) ∧
    (vPost w = false →
      (cwOpc w = 0x30 → exec (.vop v) s = t) ∧ (cwOpc w = 0x31 → exec (.vred v) s = t) ∧
      (cwOpc w = 0x32 → exec (.vnorm v) s = t) ∧ (cwOpc w = 0x33 → exec (.vnormB v) s = t) ∧
      (cwOpc w = 0x34 → exec (.vsmax v) s = t) ∧ (cwOpc w = 0x35 → exec (.vsmaxB v) s = t) ∧
      (cwOpc w = 0x36 → exec (.vcast v) s = t) ∧ (cwOpc w = 0x37 → exec (.vupd v) s = t) ∧
      (cwOpc w = 0x38 → exec (.vcountNf v) s = t))

/-- The vector commands execute (R242, R250 to R268): on a core whose queues have nothing waiting, a command that is neither posted
nor a fused consumer executes on its operands at once: VOP stores its function of each element, VRED one value per row or column,
VCOUNT.NF the two counts, and the others what their functions give; its queue entry is marked executed and nothing else changes.
The model's own choices that it rests on: log entries 27, 33, 40, 114. -/
def Obligations.VectorCommandsExecute : Prop :=
  ∀ (s : State) (v w : Nat), running s v → issues s.dev v w = true → quiet s.dev v = true →
    vPost w = false → vFsrc w = false → vLive w = true →
    let d1 := issueCmd s.dev v w
    let o := vecOpnds s.dev v (coreOf s.dev v) w
    let entry : Issued :=
      { id := (coreOf s.dev v).issue.toNat, word := BitVec.ofNat 128 w, unit := .vec, ops := o, regions := vecRegions w o }
    let t := fun (f : Dev → Dev) => goes s (markDone d1 (raced d1 f) v entry)
    (cwOpc w = 0x30 → exec (.vop v) s =
      t (fun e => vWrite e v o.d o.ds (vDD w) (vCols w) (vSkw w) (bit (vFn w) 7) (vopRows e v w o []))) ∧
    (cwOpc w = 0x31 → exec (.vred v) s = t (fun e => winWrite e v o.d (packRow (vFmtD w) (vredOut e v w entry.id o [])))) ∧
    (cwOpc w = 0x32 → exec (.vnorm v) s = t (fun e => execNorm e v w o [])) ∧
    (cwOpc w = 0x33 → exec (.vnormB v) s = t (fun e => execNormB e v w o [])) ∧
    (cwOpc w = 0x34 → exec (.vsmax v) s = t (fun e => execSmax e v w o [])) ∧
    (cwOpc w = 0x35 → exec (.vsmaxB v) s = t (fun e => execSmaxB e v w o [])) ∧
    (cwOpc w = 0x36 → exec (.vcast v) s = t (fun e => execCast e v w o [])) ∧
    (cwOpc w = 0x37 → exec (.vupd v) s = t (fun e => execUpd e v w o [])) ∧
    (cwOpc w = 0x38 → exec (.vcountNf v) s = t (fun e => execCount e v w o []))

/-- TASK_TAKE (R244, R245): an idle engine with no rows of the vector queue to take takes its own core's oldest task before any other:
the task executes on its core's window, the engine has it in hand, and VEC_LOCAL counts it. COMMAND_COMPLETE (R136, R162, R176,
R177): on a core whose queues have nothing waiting, a command that has reached its completion point, and whose ring step if it has
one has left the member, completes: it leaves its queue, and with it its regions leave the scoreboard, the engines that had it in
hand become idle (R245), the drain latches empty when it is a GB.DRAIN, and the queues go on. Before that it stays, and nothing
changes. The model's own choices that it rests on: log entries 32, 33. -/
def Obligations.TasksAndCompletion : Prop :=
  (∀ (s : State) (v e : Nat) (i : Issued), running s v → e < 2 → enginesLive s.dev v = true →
    mapGet? (coreOf s.dev v).vec.hand e = none → queueWork (coreOf s.dev v) e = none → oldestTask (coreOf s.dev v) = some i →
    let d1 := modCore s.dev v (fun c =>
      { c with cmds := c.cmds.map (fun j => if j.id == i.id then { j with taker := some (v, e) } else j) })
    exec (.taskTake v e) s = goes s (modCore (markDone d1 (raced d1 (fun e => execVecCmd e v i [])) v i) v (fun c =>
      { c with vec := { c.vec with hand := mapPut c.vec.hand e (v, i.id), loc := satAdd c.vec.loc 1 } }))) ∧
  (∀ (s : State) (v id : Nat) (i : Issued), running s v → quiet s.dev v = true →
    (coreOf s.dev v).cmds.find? (fun i => i.id == id) = some i →
    (canComplete (coreOf s.dev v) i = false ∨ stepSent s.dev v i = false → exec (.commandComplete v id) s = goes s s.dev) ∧
    (canComplete (coreOf s.dev v) i = true → stepSent s.dev v i = true →
      let free := fun (c : Machine.Core) => { c with vec := { c.vec with hand := c.vec.hand.filter (fun h => h.2 != (v, id)) } }
      let left := modCore s.dev v (fun c =>
        let c1 := free { c with cmds := c.cmds.filter (fun j => j.id != id) }
        match i.unit with
        | .array a => if cwOpc i.word.toNat = 0x25 then modArr c1 a (fun q => { q with latch := [] }) else c1
        | _ => c1)
      exec (.commandComplete v id) s = goes s (pump (match i.taker with
        | some (u, _) => modCore left u free
        | none => left) v)))

/-! ### Number formats -/

/-- Every code of a float format that is no NaN decodes to a number that rounds to the same code in every rounding mode: the decoding
of R52 and R54 and the rounding of R69 and R70 agree on the numbers that a format has. -/
def Obligations.FloatCodesRoundTrip : Prop :=
  ∀ (f : Fmt) (r : Rnd) (c : Nat), (fmtWideFloat f || fmtNarrowFloat f) = true → c < 2 ^ fmtBits f →
    numIsNan (numDecode f c) = false → numRound f r (numDecode f c) = c

/-- What one rounding does with a magnitude m 2^e when the last place kept is 2^q (R58): RNE goes to the nearest multiple and at a tie
to the even one, RTZ towards zero, RDN and RUP down and up, RTO to the odd neighbour; a multiple stays in every mode. -/
def Obligations.RoundingModes : Prop :=
  ∀ (neg : Bool) (m : Nat) (e q : Int), e < q →
    let u := 2 ^ (q - e).toNat
    (∀ r, m % u = 0 → roundAt r neg m e q * u = m) ∧
    (2 * (roundAt .rne neg m e q * u) ≤ 2 * m + u ∧ 2 * m ≤ 2 * (roundAt .rne neg m e q * u) + u ∧
      (2 * (m % u) = u → roundAt .rne neg m e q % 2 = 0)) ∧
    (roundAt .rtz neg m e q * u ≤ m ∧ m < roundAt .rtz neg m e q * u + u) ∧
    (neg = false → roundAt .rdn neg m e q = roundAt .rtz neg m e q ∧ m ≤ roundAt .rup neg m e q * u ∧
      roundAt .rup neg m e q * u < m + u) ∧
    (neg = true → roundAt .rup neg m e q = roundAt .rtz neg m e q ∧ m ≤ roundAt .rdn neg m e q * u ∧
      roundAt .rdn neg m e q * u < m + u) ∧
    (m % u ≠ 0 → roundAt .rto neg m e q % 2 = 1 ∧ roundAt .rto neg m e q * u < m + u ∧ m < roundAt .rto neg m e q * u + u)

/-! ### The stream engine and the HDMA channels -/

/-- What a transfer row does (R195 to R197, R224 to R226): the engine's list buffer fills, and the transfer that has the grant starts
when it is the row's: the next of the oldest list that is ready in the highest class, and at every 16th grant the next of the
oldest ready list of any class. Its entry's 1 or 2 buffer places are used up, the transfer takes the lowest free slot and enters
flight, the grants count on modulo 16, the buffer fills again, and an empty transfer without an error completes at once. A row
whose list or KIND does not have the grant changes nothing. The model's own choices that it rests on: log entries 44, 45, 115. -/
def Obligations.TransferRowsStart : Prop :=
  (∀ (s : State) (e : Engine) (list : Nat), engineRuns s e →
    let d0 := fillBuf s.dev e
    (∀ (l : BList) (p : Pick) (status : Nat) (t : Tx), startGrant d0 e = some l → l.id = list → pickEntry l = some p →
      pickStatus d0 e l p = (status, t) →
      let slot := freeSlot (strmOf d0 e)
      let d1 := modStrm (modList d0 e list (fun m => { m with next := m.next + p.n, buf := m.buf.drop p.n })) e
        (fun x => { x with grants := (x.grants + 1) % 16 })
      let d2 := fillBuf (launchXfer s.shadow d1 e l p slot status t) e
      let r := goes s (if status = 0 ∧ txZero t = true ∧ t.kind ≠ 9 then transferCompleteAt s.shadow d2 e slot else d2)
      let row := fun (i : Instr) (k : Nat) => exec i s = if rowKind e t.kind = k then r else goes s s.dev
      row (.copy e list) 0 ∧ row (.fill e list) 1 ∧ row (.reduceAdd e list) 2 ∧ row (.reduceMin e list) 3 ∧ row (.reduceMax e list) 4 ∧
      row (.topk e list) 5 ∧ row (.sign e list) 6 ∧ row (.expandTopk e list) 7 ∧ row (.expandSign e list) 8 ∧
      (∀ v, e = .core v → row (.bellTransfer v list) 9)) ∧
    ((∀ l, startGrant d0 e = some l → l.id ≠ list) → ∀ i ∈ transferRows e list, exec i s = goes s s.dev)) ∧
  (∀ (d : Dev) (e : Engine),
    (startGrant d e = none ↔ ∀ l ∈ (strmOf d e).lists, listReady d e l = false) ∧
    (∀ l, startGrant d e = some l →
      let n := (strmOf d e).lists.findIdx (· == l)
      let before := (strmOf d e).lists.take n
      let after := (strmOf d e).lists.drop (n + 1)
      (strmOf d e).lists = before ++ l :: after ∧ listReady d e l = true ∧
      ((strmOf d e).grants = 15 → ∀ m ∈ before, listReady d e m = false) ∧
      ((strmOf d e).grants ≠ 15 → (∀ m ∈ before, listReady d e m = true → l.pri.toNat < m.pri.toNat) ∧
        ∀ m ∈ after, listReady d e m = true → l.pri.toNat ≤ m.pri.toNat)) ∧
    (∀ (v : Nat) (l : BList) (p : Pick), pickEntry l = some p → (listReady d (.core v) l = true ↔
      l.next < l.count ∧ classReady (strmOf d (.core v)) l = true ∧ slotsFull (strmOf d (.core v)) l (fetchFlight d v) = false ∧
      fenceHolds (coreOf d v) l = false ∧ ordHolds (strmOf d (.core v)) l p.ent.toNat = false)))

/-- How a transfer enters flight (R196, R217, R218, R221, R236, R349, R450): with its list, entry and status; one whose fields or
addresses fail a check moves nothing and holds nothing; a BELL transfer holds an arrival with its OP and value at its Bell; an
empty one does nothing more; one that reads other devices sends its read requests, and waits for their responses; one that touches
host memory or that the scoreboard guards waits; any other moves its data now. A COPY within HBM then stores each row of its
source at its place, with nothing beside it in flight, and nothing else changes memory. The model's own choices that it rests on:
log entries 33, 43, 44. -/
def Obligations.TransferEntersFlight : Prop :=
  (∀ (s d : Dev) (e : Engine) (l : BList) (p : Pick) (slot status : Nat) (t : Tx),
    let enter := fun (x : Xfer) => modStrm d e (fun y => { y with xfers := y.xfers ++ [x] })
    let x0 : Xfer := { slot := slot, list := l.id, entry := l.next, entryAddr := l.base + 32 * l.next,
                       kind := BitVec.ofNat 4 t.kind, status := BitVec.ofNat 4 status, entryBits := p.ent, extBits := p.ext }
    (status ≠ 0 → launchXfer s d e l p slot status t = enter x0) ∧
    (status = 0 → t.kind = 9 → ∀ v, e = .core v → launchXfer s d e l p slot status t =
      modBell (enter { x0 with bellHeld := true }) (bits t.dst 0 10) (fun b => { b with held := b.held ++ [
        { core := v, cmd := none, slot := some slot, op := BitVec.ofNat 3 (bits t.dst 10 3), value := BitVec.ofNat 64 t.src }] })) ∧
    (status = 0 → t.kind ≠ 9 → txZero t = true → launchXfer s d e l p slot status t = enter x0) ∧
    (status = 0 → t.kind ≠ 9 → txZero t = false →
      let asks := readRequests d e slot l.pri.toNat t
      let x := { x0 with writes := localWrites d t, waiting := asks.map (·.2), hostWait := touchesHost d t,
                         guard := guardWaits d e l t }
      (asks ≠ [] → launchXfer s d e l p slot status t = asks.foldl (fun f r => sendBulk f r.1 [] 12) (enter x)) ∧
      (asks = [] → touchesHost d t = true ∨ guardWaits d e l t = true → launchXfer s d e l p slot status t = enter x) ∧
      (asks = [] → touchesHost d t = false → guardWaits d e l t = false →
        launchXfer s d e l p slot status t = runXfer s (enter x) e slot))) ∧
  (∀ (s d : Dev) (e : Engine) (slot : Nat) (x : Xfer) (l : BList), xferOf d e slot = some x → x.slot = slot →
    (∀ y, (strmOf d y).xfers = if y = e then [x] else []) → listOf d e x.list = some l → l.stale = [] → x.undo = [] →
    let t := xferTx d e x
    t.kind = 0 → t.conv = false → txZero t = false → isSelf d (t.src / 2 ^ 48) = true → isSelf d (t.dst / 2 ^ 48) = true →
    let a := t.src % 2 ^ 48
    let b := t.dst % 2 ^ 48
    a + t.rows * srcPitch t ≤ hbmCap d → b + t.rows * dstPitch t ≤ hbmCap d → t.len ≤ srcPitch t → t.len ≤ dstPitch t →
    plainMem d = true → d.badWords = [] →
    (runXfer s d e slot).mem = ((List.range t.rows).foldl (fun f i =>
      wrBytes f (b + i * dstPitch t) (rdBytes d (a + i * srcPitch t) t.len)) d).mem ∧
    (∀ y, xferOf (runXfer s d e slot) e slot = some y → y.status = 0 ∧ y.waiting = x.waiting))

/-- Entries of a list (R199 to R201): the fields of a 32-byte entry are read from its bits, 48-bit addresses relocate within their
device, and EXT makes an entry take two places, its extension the next. What COPY without conversion and FILL write (R200, R205,
R206): row i of a COPY's source goes to row i of its destination, at the destination's pitch, with its bytes unchanged; each row
of a FILL takes the 8-byte pattern of SRC, repeated from its low byte; and no other byte is named. The model's own choices that it
rests on: log entry 43. -/
def Obligations.EntryFieldsAndRows : Prop :=
  ((∀ (ent x base : Nat), (txOf ent x base).kind = bits ent 240 4) ∧
  (∀ (l : BList) (a : BitVec 256) (r : List (BitVec 256)), l.buf = a :: r →
    (bit a.toNat 251 = false → pickEntry l = some { ent := a, ext := 0, missing := false, n := 1 }) ∧
    (bit a.toNat 251 = true → l.next + 1 = l.count → pickEntry l = some { ent := a, ext := 0, missing := true, n := 1 }) ∧
    (∀ b r2, bit a.toNat 251 = true → l.next + 1 ≠ l.count → r = b :: r2 →
      pickEntry l = some { ent := a, ext := b, missing := false, n := 2 })) ∧
  (∀ (ga base : Nat), base < 2 ^ 48 → relocate ga base / 2 ^ 48 = ga / 2 ^ 48 ∧
    relocate ga base % 2 ^ 48 = (ga % 2 ^ 48 + base) % 2 ^ 48)) ∧
  (∀ (t : Tx) (data : List (List Byte)), t.rows ≠ 0 → t.len ≠ 0 → t.conv = false →
    (t.kind = 0 → data.length = t.rows →
      txOps t data = (List.range t.rows).map (fun i => (t.dst + i * dstPitch t, WOp.put (data.getD i [])))) ∧
    (t.kind = 1 → txOps t data = (List.range t.rows).map (fun i => (t.dst + i * dstPitch t,
      WOp.put ((List.range t.len).map (fun j => BitVec.ofNat 8 (t.src / 2 ^ (8 * (j % 8)))))))) ∧
    (t.kind = 0 ∨ t.kind = 1 → txWrites t = (List.range t.rows).map (fun i => (t.dst + i * dstPitch t, dstRow t))))

/-- TRANSFER_COMPLETE (R198, R217 to R219, R222, R239, R301, R450): a transfer with nothing outstanding leaves flight and frees its
slot, what it has read settles, and its list ends when it was the last; with a nonzero status it first adds one to the error count
(saturating), records its error and logs event 0x0501, or at an HDMA channel keeps its status; status 0x6 detains the issuing
core. One that touches host memory or that the scoreboard has guarded moves its data first. One that waits for responses, for its
Bell or for the scoreboard stays, and nothing changes. A list ends (R185, R195, R198): when it has been read, every entry has
started and none of its transfers is in flight, it leaves the engine, its event counter advances by one (saturating), and the
STRM.GO that named it leaves the stream queue; a list of no entries waits besides until its STRM.GO has left the queue and every
earlier list has ended, and then ends with the last of them. LIST_READ_COMPLETE (R195): when the list in hand has been read to its
last entry, its STRM.GO leaves the stream queue, and so completes; while entries are to be read the buffer takes what it has room
for; with no list in hand nothing changes. The model's own choices that it rests on: log entries 43, 44, 46. -/
def Obligations.TransferCompletes : Prop :=
  ((∀ (s : State) (e : Engine) (slot : Nat) (x : Xfer), engineRuns s e → xferOf s.dev e slot = some x →
    (x.bellHeld = true ∨ x.waiting ≠ [] ∨ x.status = 0 ∧ stillGuarded s.dev e x = true →
      exec (.transferComplete e slot) s = goes s s.dev) ∧
    (x.bellHeld = false → x.waiting = [] → (x.status = 0 → x.hostWait = false ∧ x.guard = false) →
      exec (.transferComplete e slot) s = goes s (completeXfer (if x.status = 5 then leaveOpen s.dev e x else s.dev) e x)) ∧
    (x.bellHeld = false → x.waiting = [] → x.status = 0 → stillGuarded s.dev e x = false → x.hostWait = true ∨ x.guard = true →
      let d1 := runXfer s.shadow s.dev e slot
      exec (.transferComplete e slot) s = goes s (match xferOf d1 e slot with
        | none => d1
        | some y => if y.waiting = [] then completeXfer d1 e y else d1))) ∧
  (∀ (s : State) (e : Engine) (slot : Nat), engineRuns s e → xferOf s.dev e slot = none →
    exec (.transferComplete e slot) s = goes s s.dev) ∧
  (∀ (d : Dev) (v : Nat) (x : Xfer),
    let left := modStrm (revisit d (.core v) x) (.core v) (fun y =>
      { y with xfers := y.xfers.filter (fun t => t.slot != x.slot),
               stale := match listOf d (.core v) x.list, x.undo.filter (fun c => inWindows c.1) with
                 | some l, c :: r => y.stale ++ [(l.evt, c :: r)]
                 | _, _ => y.stale })
    (x.status = 0 → completeXfer d (.core v) x = finishList left (.core v) x.list) ∧
    (x.status ≠ 0 → x.status ≠ 6 → completeXfer d (.core v) x = finishList (recordError left (.core v) x) (.core v) x.list) ∧
    (x.status = 6 → completeXfer d (.core v) x = detainCore (finishList (recordError left (.core v) x) (.core v) x.list) v 1) ∧
    recordError d (.core v) x = logEvent (modCore d v (fun c => { c with strm := { c.strm with
        errCnt := satAdd c.strm.errCnt 1, errCode := x.status, errKind := x.kind, errEntry := BitVec.ofNat 16 x.entry,
        errAddr := BitVec.ofNat 48 x.entryAddr } })) 0x0501 (coreBlock d v) v
      (leBytes 4 (x.status.toNat + x.kind.toNat * 2 ^ 4 + x.entry % 2 ^ 16 * 2 ^ 16) ++ leBytes 6 x.entryAddr)) ∧
  (∀ (d : Dev) (c : Nat) (x : Xfer), recordError d (.hdma c) x =
    modHdma d c (fun h => { h with errCnt := satAdd h.errCnt 1, last := x.status }))) ∧
  (∀ (d : Dev) (v id : Nat) (l : BList), listOf d (.core v) id = some l →
    let c := coreOf d v
    (listDone c l = true ↔ l.count ≤ l.nread ∧ l.count ≤ l.next ∧ (∀ t ∈ c.strm.xfers, t.list ≠ l.id) ∧
      (l.count = 0 → (∀ i ∈ c.cmds, i.id ≠ l.id) ∧ ∀ m ∈ c.strm.lists, l.id ≤ m.id)) ∧
    (listDone c l = false → finishList d (.core v) id = d) ∧
    (listDone c l = true →
      let ended := fun (c : Machine.Core) (l : BList) =>
        { c with strm := { c.strm with lists := c.strm.lists.filter (fun m => m.id != l.id) },
                 ereg := mapPut c.ereg l.evt (satAdd (mapGet 0 c.ereg l.evt) 1), cmds := c.cmds.filter (fun i => i.id != l.id) }
      finishList d (.core v) id = pump (modCore d v (fun c => endEmpty c.strm.lists.length (ended c l))) v ∧
      ((∀ m ∈ c.strm.lists, m.count = 0 → m.id = l.id) → finishList d (.core v) id = pump (modCore d v (fun c => ended c l)) v) ∧
      (∀ m ∈ (endEmpty c.strm.lists.length (ended c l)).strm.lists, m.count = 0 →
        listDone (endEmpty c.strm.lists.length (ended c l)) m = false))) ∧
  (∀ (s : State) (v : Nat), running s v →
    (goInHand (coreOf s.dev v) = none → exec (.listReadComplete v) s = goes s s.dev) ∧
    (∀ (i : Issued) (l : BList), goInHand (coreOf s.dev v) = some i → listOf (fillBuf s.dev (.core v)) (.core v) i.id = some l →
      (l.count ≤ l.nread → exec (.listReadComplete v) s = goes s (finishList (pump (modCore (fillBuf s.dev (.core v)) v
        (fun c => { c with cmds := c.cmds.filter (fun j => j.id != i.id) })) v) (.core v) i.id)) ∧
      (l.nread < l.count → exec (.listReadComplete v) s = goes s (fillBuf s.dev (.core v)))))

/-- The timeouts of a transfer and the reuse of its slot (R221, R301, R352, R450): a transfer that waits for host memory and is timed
out or refused fails with status 0x1, and on a poisoned completion with 0x6, which is logged and detains its core; it has written
nothing. Outstanding requests of the fabric fail with status 0x5, the bytes that the transfer had still to write here are left
open, the transfer completes, and its slot is held until SLOT_REUSE frees it. Where nothing waits, nothing changes. The model's
own choices that it rests on: log entries 43, 47, 48. -/
def Obligations.TransferTimeouts : Prop :=
  (∀ (s : State) (v slot : Nat), running s v →
    (exec (.slotReuse v slot) s = goes s (modCore s.dev v (fun c =>
      { c with strm := { c.strm with heldSlots := c.strm.heldSlots.filter (· != slot) } }))) ∧
    (∀ x, xferOf s.dev (.core v) slot = some x →
      (x.waiting = [] → exec (.fabTimeout v slot) s = goes s s.dev) ∧
      (x.waiting ≠ [] →
        let y := { x with waiting := [], status := if x.status = 0 then 5 else x.status }
        let d := completeXfer (modXfer (leaveOpen s.dev (.core v) x) (.core v) slot (fun _ => y)) (.core v) y
        exec (.fabTimeout v slot) s = goes s (modCore d v (fun c => { c with strm := { c.strm with
          heldSlots := if isDetained s.dev v then c.strm.heldSlots else c.strm.heldSlots ++ [slot] } })))) ∧
    (xferOf s.dev (.core v) slot = none → exec (.fabTimeout v slot) s = goes s s.dev)) ∧
  (∀ (s : State) (e : Engine) (slot : Nat) (x : Xfer), engineRuns s e → xferOf s.dev e slot = some x →
    let fails := fun (st : BitVec 4) => modXfer s.dev e slot (fun t => { t with status := st, hostWait := false })
    (x.hostWait = false ∨ x.status ≠ 0 → ∀ reply, exec (.hostCompletionTimeout e slot reply) s = goes s s.dev) ∧
    (exec (.hostCompletionTimeout e slot .ok) s = goes s s.dev) ∧
    (x.hostWait = true → x.status = 0 →
      exec (.hostCompletionTimeout e slot .timeout) s = goes s (fails 1) ∧
      exec (.hostCompletionTimeout e slot .refused) s = goes s (fails 1) ∧
      let a := (((txReads (xferTx s.dev e x)).map (fun r => r.1 % 2 ^ 48)).find? (fun a => decide (0x400000000000 ≤ a))).getD 0
      (∀ v, e = .core v → exec (.hostCompletionTimeout e slot .poisoned) s =
        goes s (detainCore (logEvent (fails 6) 0x0601 0x104 0xFFFF (leBytes 6 a ++ leBytes 1 v)) v 1)) ∧
      (∀ c, e = .hdma c → exec (.hostCompletionTimeout e slot .poisoned) s =
        goes s (logEvent (fails 6) 0x0601 0x104 0xFFFF (leBytes 6 a ++ leBytes 1 0xFF)))))

/-- A store reads back, and leaves every other byte (R10, R43): where nothing redirects and no word holds an uncorrectable error, the
bytes stored at a local address read back from it, and every byte outside them reads as before. The model's own choices that it
rests on: log entry 7. -/
def Obligations.StoreReadsBack : Prop :=
  ∀ (d : Dev) (a : Nat) (bs : List Byte), plainMem d = true → d.badWords = [] →
    rdBytes (wrBytes d a bs) a bs.length = bs ∧
    (∀ x, x < a ∨ a + bs.length ≤ x → rdByte (wrBytes d a bs) x = rdByte d x) ∧
    (memWf d.mem = true → memWf (wrBytes d a bs).mem = true)

/-! ### Bells and the Timetable -/

/-- The reduction of a generation (R235): arrivals with OP 0 count as nothing; with no other the result is zero and the OP none; when
all others have one OP, the result is their values reduced by it; two different nonzero OPs give zero. BELL_GENERATION_COMPLETE
(R234, R235): once every source of a Bell's generation has arrived at the root of its tree, the generation is released there with
the reduction of its arrivals, and before that nothing changes. The release of a Bell of the Timetable on a device without a COPY
section counts the generation as complete, keeps its result for the waits on it, begins the next generation with no arrivals, and
goes out to the child ports. The model's own choices that it rests on: log entry 72. -/
def Obligations.GenerationCompletes : Prop :=
  ((∀ arr : List Arrival, (∀ x ∈ arr, x.op = 0) → bellReduce arr = (0, 0)) ∧
  (∀ (op : BitVec 3) (a : Arrival) (arr : List Arrival), op ≠ 0 → op ≠ 7 → a.op = op → (∀ x ∈ arr, x.op = 0 ∨ x.op = op) →
    bellReduce (a :: arr) = (op, (arr.filter (fun x => x.op ≠ 0)).foldl (fun v x => bellOp op v x.value) a.value)) ∧
  (∀ (arr : List Arrival) (x y : Arrival), x ∈ arr → y ∈ arr → x.op ≠ 0 → y.op ≠ 0 → x.op ≠ y.op → (bellReduce arr).2 = 0) ∧
  (∀ a b : Dword, bellOp 1 a b = (if a.toNat ≤ b.toNat then a else b) ∧ bellOp 2 a b = (if a.toNat ≤ b.toNat then b else a) ∧
    bellOp 3 a b = a &&& b ∧ bellOp 4 a b = a ||| b ∧ bellOp 5 a b = a ^^^ b ∧ bellOp 6 a b = a + b)) ∧
  (∀ (s : State) (b : Nat),
    let r := bellReduce (bellOf s.dev b).arrivals
    (bellCompletes s.dev b = false → exec (.bellGenerationComplete b) s = goes s s.dev) ∧
    (bellCompletes s.dev b = true → exec (.bellGenerationComplete b) s = goes s (releaseBell s.dev b r.1 r.2)) ∧
    (bellCompletes s.dev b = true ↔ (bellLive s.dev b = true ∧ (bellTree s.dev b).1 = none ∧
      (∀ k ∈ bellSources s.dev b, ∃ x ∈ (bellOf s.dev b).arrivals, x.src = k) ∧
      (b = 1016 → ∃ n, s.dev.pace.phase = .announced n ∨ s.dev.pace.phase = .switched n) ∧
      (1017 ≤ b → s.dev.fab.rc = .complete))) ∧
    (b < 1016 → copyCfg s.dev = none → (bellTree s.dev b).2 = [] → bellCompletes s.dev b = true →
      ∃ t, exec (.bellGenerationComplete b) s = .next t ∧
      t.dev = modBell s.dev b (fun x => { (bellOf t.dev b) with held := x.held, sent := x.sent, waits := x.waits }) ∧
      (bellOf t.dev b).done = (bellOf s.dev b).done + 1 ∧ (bellOf t.dev b).arrivals = [] ∧ (bellOf t.dev b).sentUp = false ∧
      (bellOf t.dev b).results.head? = some ((bellOf s.dev b).done, r.2)) ∧
    (b < 1016 → copyCfg s.dev = none → ∀ op x,
      let e := releaseBell s.dev b op x
      e.fab = ((bellTree s.dev b).2.foldl (fun d p => txQueue d p (bellFlit d true b (bellOf s.dev b).done op x) []) s.dev).fab ∧
      (bellOf e b).done = (bellOf s.dev b).done + 1 ∧ (bellOf e b).arrivals = [] ∧ e.mem = s.dev.mem))

/-- The arrivals of a Bell (R177, R232, R234, R236, R341): BELL_ARRIVAL_SENT sends a member's oldest held arrival when it can be sent,
and its BELL.RING leaves the queue, or its BELL transfer is held no longer; until then nothing changes. An arrival flit from a
child port, and a release flit from the parent port, take effect when the link accepts them and they carry the Bell's current
generation; one that the link does not accept leaves what the link makes of it, and so does one of another generation or another
port; a good flit of another type does not belong to the row. The model's own choices that it rests on: log entries 51, 60, 66. -/
def Obligations.BellArrivals : Prop :=
  ∀ (s : State),
    (∀ (v b : Nat), running s v →
      (heldOf s.dev b v = none → exec (.bellArrivalSent v b) s = goes s s.dev) ∧
      (∀ h, heldOf s.dev b v = some h →
        (heldReady s.dev b h = false → exec (.bellArrivalSent v b) s = goes s s.dev) ∧
        (heldReady s.dev b h = true →
          let sent := modBell s.dev b (fun x =>
            { x with held := dropFirst (fun y => y.core == v) x.held, sent := mapPut x.sent v (mapGet 0 x.sent v + 1) })
          let arrives := fun (d : Dev) => goes s (pump (bellArrive d b v h.op (heldValue s.dev h)) v)
          (∀ id, h.cmd = some id → exec (.bellArrivalSent v b) s =
            arrives (modCore sent v (fun c => { c with cmds := c.cmds.filter (fun i => i.id != id) }))) ∧
          (∀ slot, h.cmd = none → h.slot = some slot → exec (.bellArrivalSent v b) s =
            arrives (modXfer sent (.core v) slot (fun t => { t with bellHeld := false })))))) ∧
    (∀ (p : Nat) (f : BitVec 256), p < 12 →
      let d1 := (linkAccept s.dev p f).1
      let b := bits f.toNat 14 10
      let current := (linkAccept s.dev p f).2 = true ∧ bellLive d1 b = true ∧ b ≠ 1016 ∧
        bits f.toNat 24 16 = (bellOf d1 b).done % 65536
      (flitOk f = false → exec (.bellArrival p f) s = goes s d1 ∧ exec (.bellRelease p f) s = goes s d1) ∧
      (flitOk f = true → (flitType f ≠ 2 → exec (.bellArrival p f) s = goes s s.dev) ∧
        (flitType f ≠ 3 → exec (.bellRelease p f) s = goes s s.dev)) ∧
      (flitType f = 2 →
        (current → p ∈ (bellTree d1 b).2 → exec (.bellArrival p f) s = goes s (bellArrive d1 b (1000 + p)
          (BitVec.ofNat 3 (bits f.toNat 40 3)) (BitVec.ofNat 64 (bits f.toNat 48 64)))) ∧
        (¬ current ∨ p ∉ (bellTree d1 b).2 → exec (.bellArrival p f) s = goes s d1)) ∧
      (flitType f = 3 →
        (current → (bellTree d1 b).1 = some p → exec (.bellRelease p f) s = goes s (releaseBell d1 b
          (BitVec.ofNat 3 (bits f.toNat 40 3)) (BitVec.ofNat 64 (bits f.toNat 48 64)))) ∧
        (¬ current ∨ (bellTree d1 b).1 ≠ some p → exec (.bellRelease p f) s = goes s d1)))

/-- TT_LOAD (R38, R39, R307): the request is taken once both CXL ports are enumerated or down and no other Timetable is being applied.
One that fails a check of the mailbox is answered with its status; an accepted request while a job is active fails with ERR 0x07
and status 3; an image that cannot be read fails with ERR 0x02 and status 7, one that fails a check with the check's ERR and
status 7; then STATE is failed and the active Timetable stays; an image that passes every check is held as the one being applied,
with STATE loading. The order of the checks of a Timetable image (R38): magic and version give 0x01, then size and signature 0x02,
then the grade 0x03, then the dark-row fuses 0x04, each before any later check. The model's own choices that it rests on: log
entries 13, 14, 121. -/
def Obligations.TimetableLoad : Prop :=
  (∀ (s : State),
    (regAsked s.dev 2 = false ∨ s.dev.ttl.loading ≠ none ∨ cxlSettled s.dev = false → exec .ttLoad s = goes s s.dev) ∧
    (cxlSettled s.dev = true ↔ ∀ p, p < 2 → (cxlOf s.dev p).link ≠ .training ∧ (cxlOf s.dev p).waitActive = false) ∧
    (regAsked s.dev 2 = true → s.dev.ttl.loading = none → cxlSettled s.dev = true →
      let addr := mbField s.dev.reg.mb 0 8
      let n := mbField s.dev.reg.mb 8 4
      let gate := regGate s.dev 12 (addr % 64 == 0 && decide (addr + n ≤ hbmCap s.dev)) true true
      (gate ≠ 0 → exec .ttLoad s = goes s (regRespond s.dev gate [])) ∧
      (gate = 0 → jobActive s.dev = true → exec .ttLoad s = goes s (ttFail s.dev 7 3)) ∧
      (gate = 0 → jobActive s.dev = false →
        (∀ g, rdBad s.dev addr n = some g → exec .ttLoad s = goes s (ttFail (ueEvent s.dev g none) 2 7)) ∧
        (rdBad s.dev addr n = none →
          (∀ e, ttCheck s.dev (rdBytes s.dev addr n) = .error e → exec .ttLoad s = goes s (ttFail s.dev e 7)) ∧
          (∀ t, ttCheck s.dev (rdBytes s.dev addr n) = .ok t → exec .ttLoad s =
            goes s (foldCopy { s.dev with ttl := { s.dev.ttl with state := .loading, err := 0, loading := some t } }))))) ∧
    (∀ e st, (ttFail s.dev e st).ttl.state = .failed ∧ (ttFail s.dev e st).ttl.err = BitVec.ofNat 8 e ∧
      (ttFail s.dev e st).ttl.active = s.dev.ttl.active ∧ (ttFail s.dev e st).ttl.loading = none ∧
      (ttFail s.dev e st).mem = s.dev.mem ∧ (ttFail s.dev e st).cores = s.dev.cores)) ∧
  (∀ (d : Dev) (img : List Byte),
    (img.length < 0x20 ∨ leAt img 0 4 ≠ 0x3154544C ∨ leAt img 4 2 ≠ 1 → ttCheck d img = .error 1) ∧
    (0x20 ≤ img.length → leAt img 0 4 = 0x3154544C → leAt img 4 2 = 1 →
      (leAt img 8 4 < 0x20 ∨ ttSigned d img (leAt img 8 4) = false → ttCheck d img = .error 2) ∧
      (0x20 ≤ leAt img 8 4 → ttSigned d img (leAt img 8 4) = true →
        (leAt img 0x0C 1 ≠ d.fuses.grade.toNat → ttCheck d img = .error 3) ∧
        (leAt img 0x0C 1 = d.fuses.grade.toNat → leAt img 0x0D 2 ≠ ttlFuse d → ttCheck d img = .error 4))))

/-- TIMETABLE_ACTIVE (R39, R131, R232, R322, R376): the tier caches are written back and emptied; unless that took the Timetable away,
the one that was being applied becomes the active one, the ring step counts of every core start from zero, the Bells of the
Timetable from generation zero, each port's tier takes its mode, the Copybook its section, and a round of agreement starts before
the request is answered. Caches that hold nothing only end their flush. The model's own choices that it rests on: log entries 59,
67. -/
def Obligations.TimetableTakesEffect : Prop :=
  (∀ (s : State), s.dev.ttl.loading = none → exec .timetableActive s = goes s s.dev) ∧
  (∀ (s : State) (t : Timetable), s.dev.ttl.loading = some t →
    let d0 := flushAndEmpty (flushAndEmpty s.dev 0) 1
    let d1 := { d0 with ttl := { state := .active, err := 0, active := some t },
                        cores := d0.cores.map (fun c => (c.1, { c.2 with ringSteps := [] })) }
    let d2 := agreeStart (activateCopy (activateTier (activateTier (resetUserBells d1) 0) 1))
    exec .timetableActive s = goes s (regRespond d2 0 (ttPayload d2))) ∧
  (∀ (d : Dev) (p : Nat), (cxlOf d p).filling = [] → (∀ l ∈ (cxlOf d p).lines, l.dirty = false) → flushAndEmpty d p =
    modCxl d p (fun c => { c with lines := [], flushing := false, flushPages := [], filling := [] })) ∧
  (∀ (d : Dev) (b : Nat), b < 1016 → (bellOf (resetUserBells d) b).done = 0 ∧ (bellOf (resetUserBells d) b).arrivals = [] ∧
    (bellOf (resetUserBells d) b).held = (bellOf d b).held)

/-! ### HBM and board memory -/

/-- HBM_ACCESS at a ready controller (R299 to R302, R403): a read without an uncorrectable error returns the bytes at the address and
changes nothing else; a single-bit error is corrected and counted once, saturating, no event is raised, and the access completes
normally; a read that finds an uncorrectable error returns no byte and takes effect as that error's event instead; a write stores
its bytes, up to a word that it replaces only in part and that holds an uncorrectable error, which it leaves. A device in
Detention serves none but the host's diagnostic reads, and a controller that is not ready none at all. What an uncorrectable error
does (R301, R309, R401, R402): at HBM the controller of the granule counts it, saturating, and records its address; at board
memory its CXL port counts it; event 0x0601 names the controller or port, the address and the issuing core, and that core enters
Detention; an access that no core of the device issued detains none. -/
def Obligations.HbmAccess : Prop :=
  (∀ (s : State) (core : Option Nat) (addr len : Nat), 0 < len → addr + len ≤ hbmCap s.dev →
    let ctl := hbmCtlOf s.dev addr
    let counted := modHbm s.dev ctl (fun h => { h with ceCnt := satAdd h.ceCnt 1 })
    let marked := { s.dev with badWords := placeOf s.dev addr / 8 :: s.dev.badWords.filter (· != placeOf s.dev addr / 8) }
    let returns := fun (d : Dev) => goes s { d with out := .readData addr (rdBytes d addr len) :: d.out }
    ((hbmOf s.dev ctl).state = .ready → (s.dev.det.device = true → core = none) →
      (rdBad s.dev addr len = none → exec (.hbmAccess core addr len none .clean) s = returns s.dev ∧
        exec (.hbmAccess core addr len none .single) s = returns counted) ∧
      (∀ g, rdBad s.dev addr len = some g → exec (.hbmAccess core addr len none .clean) s = goes s (ueEvent s.dev g core) ∧
        exec (.hbmAccess core addr len none .single) s = goes s (ueEvent counted g core)) ∧
      exec (.hbmAccess core addr len none .uncorrectable) s = goes s (ueEvent marked (placeOf s.dev addr / 64 * 64) core)) ∧
    ((hbmOf s.dev ctl).state = .ready → s.dev.det.device = false → ∀ bs, bs.length = len →
      (badMerge s.dev addr len = none →
        exec (.hbmAccess core addr len (some bs) .clean) s = goes s (wrBytes s.dev addr bs) ∧
        exec (.hbmAccess core addr len (some bs) .single) s = goes s (wrBytes counted addr bs)) ∧
      (∀ stop g, badMerge s.dev addr len = some (stop, g) →
        exec (.hbmAccess core addr len (some bs) .clean) s = goes s (ueEvent (wrBytes s.dev addr (bs.take (stop - addr))) g core) ∧
        exec (.hbmAccess core addr len (some bs) .single) s = goes s (ueEvent (wrBytes counted addr (bs.take (stop - addr))) g core)) ∧
      exec (.hbmAccess core addr len (some bs) .uncorrectable) s = goes s (match badMerge marked addr len with
        | some (stop, g) => ueEvent (wrBytes marked addr (bs.take (stop - addr))) g core
        | none => wrBytes marked addr bs)) ∧
    (∀ (wr : Option (List Byte)) (ecc : Ecc), (hbmOf s.dev ctl).state ≠ .ready ∨ s.dev.det.device = true ∧ (wr ≠ none ∨ core ≠ none) →
      exec (.hbmAccess core addr len wr ecc) s = goes s s.dev)) ∧
  (∀ (d : Dev) (g : Nat),
    let event := fun (src arg who : Nat) (d : Dev) => logEvent d 0x0601 src arg (leBytes 6 g ++ leBytes 1 who)
    let noted := fun (who : Nat) => match boardPort g with
      | some p => event (0xEC + p) p who (modCxl d p (fun x => { x with ueCnt := satAdd x.ueCnt 1 }))
      | none => event (0xE0 + hbmCtlOf d g) (hbmCtlOf d g) who
          (modHbm d (hbmCtlOf d g) (fun x => { x with ueCnt := satAdd x.ueCnt 1, ueAddr := BitVec.ofNat 48 g }))
    ueEvent d g none = noted 0xFF ∧
    (∀ v, ueEvent d g (some v) = detainCore (noted v) v 1) ∧
    (∀ v, v < gridCores d → (coreOf (ueEvent d g (some v)) v).state = .detained))

/-- REFRESH, TEMPERATURE_REPORT and SCRUB (R297, R298, R303, R326, R327): a refresh changes no value but its own count; a report sets
the temperature, the refresh interval above 85 degrees, and the throttle above 95 degrees until the stack is at or below 90; a
scrub period takes over the programmed enable and period, and an enabled scrub of a ready controller counts a single-bit error
that it finds in that controller's addresses; an uncorrectable one is counted, recorded and logged, but one in a cached page
empties the page's way when it is clean and detains the device when it is dirty. HBM_TRAINING (R304, R403): a released controller
under training becomes ready when its training succeeds; when it fails, and for a controller whose region failed at its release,
event 0x0604 is logged and the device enters Detention with cause 0x3; a controller whose pacer is in reset or trims, or that is
not under training, stays as it is. The model's own choices that it rests on: log entries 17, 18, 57. -/
def Obligations.HbmUpkeepAndTraining : Prop :=
  (∀ (s : State) (c : Nat), c < 12 →
    let period := modHbm s.dev c (fun h => { h with scrubEnNow := h.scrubEn, scrubPeriodNow := h.scrubPeriod })
    (exec (.refresh c) s = goes s (modHbm s.dev c (fun h => { h with refreshes := h.refreshes + 1 }))) ∧
    (∀ deg : BitVec 8, exec (.temperatureReport c deg) s = goes s (modHbm s.dev c (fun h =>
      { h with temp := deg, refHot := decide (85 < deg.toNat),
               throt := decide (95 < deg.toNat) || (h.throt && decide (90 < deg.toNat)) }))) ∧
    (exec (.scrub c none) s = goes s period) ∧
    (∀ a ecc, exec (.scrub c (some (a, .clean))) s = goes s period ∧
      ((hbmOf s.dev c).scrubEn = false ∨ pfault s.dev (0x90014 + 0x100 * c) = true ∨ (hbmOf s.dev c).state ≠ .ready ∨ hbmCap s.dev ≤ a ∨
        hbmCtlOf s.dev a ≠ c → exec (.scrub c (some (a, ecc))) s = goes s period)) ∧
    (∀ a, (hbmOf s.dev c).scrubEn = true → pfault s.dev (0x90014 + 0x100 * c) = false → (hbmOf s.dev c).state = .ready →
      a < hbmCap s.dev → hbmCtlOf s.dev a = c →
      (exec (.scrub c (some (a, .single))) s = goes s (modHbm s.dev c (fun h =>
        { h with scrubEnNow := h.scrubEn, scrubPeriodNow := h.scrubPeriod, ceCnt := satAdd h.ceCnt 1 }))) ∧
      let d1 := { period with badWords := a / 8 :: s.dev.badWords.filter (· != a / 8) }
      let event := fun (d : Dev) (p : Nat) (l : CacheLine) (dirty : Nat) =>
        logEvent d 0x0603 (0xEC + p) p (leBytes 6 (boardBase p + l.page * 0x10000) ++ leBytes 1 dirty)
      exec (.scrub c (some (a, .uncorrectable))) s = goes s (match cachedAt s.dev a with
        | none => logEvent (modHbm d1 c (fun h => { h with ueCnt := satAdd h.ueCnt 1, ueAddr := BitVec.ofNat 48 (a / 64 * 64) }))
            0x0602 (0xE0 + c) c (leBytes 6 (a / 64 * 64))
        | some (p, l) => if l.dirty then detainDevice (event d1 p l 1) 0x2 else event (emptyWay d1 p l.set l.way) p l 0))) ∧
  (∀ (s : State) (c : Nat) (ok : Bool), c < 12 →
    let p := pacerOf s.dev (224 + c)
    ((hbmOf s.dev c).state ≠ .training ∨ p.state = .inReset ∨ p.state = .trimming → exec (.hbmTraining c ok) s = goes s s.dev) ∧
    ((hbmOf s.dev c).state = .training → p.state = .stable ∨ p.state = .failed →
      exec (.hbmTraining c ok) s = goes s (if ok = true ∧ p.released = true
        then modHbm s.dev c (fun h => { h with state := .ready, selfRefresh := false })
        else detainDevice (logEvent (modHbm s.dev c (fun h => { h with state := .failed })) 0x0604 (0xE0 + c) c (leBytes 1 c)) 0x3)))

/-- The bring-up of a CXL port (R307, R308): under the active Syllabus and the Registrar's firmware, a port under training whose link
trains at either rate with an allowed width, to a device with memory and a decoder, waits for Memory_Active; any other result
takes it down, with no capacity. Memory_Active sets the capacity (at most 8,192 units of 256 MiB), commits the decoder and logs
event 0x0701; its timeout takes the port down. A port that is not at the row's step stays as it is. The errors of a CXL port
(R301, R309, R310, R350, R452): a retry on a link that is up is counted and changes no value. A poisoned response is an
uncorrectable error of the access that reads the line: it counts and detains for a core and counts alone for an access that no
core issued, a transfer in flight that reads the line ends with status 0x6, and a read request of another device is answered with
status 0x6. Each polled record is logged as event 0x0703 with its first 12 bytes. A link that goes down fails the transfers in
flight that use it and, as uncorrectable errors, the accesses that wait for a page, leaves the range unpopulated, logs event
0x0702 and signals vector 15. The model's own choices that it rests on: log entries 17, 18, 55, 56. -/
def Obligations.CxlPorts : Prop :=
  (∀ (s : State) (p : Nat), p < 2 →
    let c := cxlOf s.dev p
    let down := modCxl s.dev p (fun c =>
      { c with link := .down, lanes := 0, cap := 0, active := false, waitActive := false, memEnable := false })
    let mayTrain := s.dev.host.syll = true ∧ s.dev.reg.fw = true ∧ c.link = .training ∧ c.waitActive = false ∧ c.active = false
    (∀ (rate : CxlRate) (lanes hdm : Nat) (mem : Bool),
      (mayTrain → exec (.cxlEnumerate p rate lanes mem hdm) s = goes s (
        if rate = .down ∨ lanes ∉ [16, 8, 4, 2, 1] ∨ mem = false ∨ hdm = 0 then down
        else modCxl s.dev p (fun c => { c with
          link := if rate = .gt64 then .up64 else .up32, lanes := BitVec.ofNat 5 lanes, waitActive := true }))) ∧
      (¬ mayTrain → exec (.cxlEnumerate p rate lanes mem hdm) s = goes s s.dev)) ∧
    (c.waitActive = true →
      exec (.memoryActiveTimeout p) s = goes s down ∧
      ∀ capacity, exec (.memoryActive p capacity) s = goes s (logEvent (modCxl s.dev p (fun c =>
        { c with active := true, waitActive := false, cap := BitVec.ofNat 14 (min capacity 8192), hdmBase := boardBase p,
                 hdmSize := min capacity 8192 * 0x10000000, memEnable := true })) 0x0701 0x100 p
        (leBytes 1 (if c.link = .up64 then 2 else 3) ++ leBytes 1 c.lanes.toNat ++ leBytes 4 (min capacity 8192)))) ∧
    (c.waitActive = false → exec (.memoryActiveTimeout p) s = goes s s.dev ∧
      ∀ capacity, exec (.memoryActive p capacity) s = goes s s.dev)) ∧
  (∀ (s : State) (p : Nat), p < 2 →
    let c := cxlOf s.dev p
    (c.link = .up64 ∨ c.link = .up32 →
      (exec (.linkRetry p) s = goes s (modCxl s.dev p (fun c => { c with retry := satAdd c.retry 1 }))) ∧
      (let d1 := failBoard s.dev p
       let d2 := ((cxlOf d1 p).filling.flatMap (·.2)).foldl (fun e w => ueEvent e (w.addr / 64 * 64) w.core) d1
       exec (.cxlLinkDown p) s = goes s (signal (logEvent (modCxl d2 p (fun c =>
        { c with filling := [], link := .down, lanes := 0, cap := 0, active := false, waitActive := false, memEnable := false }))
        0x0702 0x100 p (leBytes 1 p)) 15)) ∧
      ((∀ e ∈ engines s.dev, (strmOf s.dev e).xfers = []) → failBoard s.dev p = s.dev)) ∧
    (c.link ≠ .up64 → c.link ≠ .up32 → exec (.linkRetry p) s = goes s s.dev ∧ exec (.cxlLinkDown p) s = goes s s.dev) ∧
    (∀ rs : List (List Byte),
      (c.active = true → s.dev.reg.fw = true → exec (.eventRecordPoll p rs) s =
        goes s (rs.foldl (fun e r => logEvent e 0x0703 0x100 p (slice r 0 12)) s.dev)) ∧
      (c.active = false ∨ s.dev.reg.fw = false → exec (.eventRecordPoll p rs) s = goes s s.dev)) ∧
    (∀ a, addrKind s.dev a = .board p →
      let line := a / 64 * 64
      (∀ v, exec (.poisonedResponse (.core v) a) s = goes s (ueEvent s.dev line (some v))) ∧
      (exec (.poisonedResponse .none a) s = goes s (ueEvent s.dev line none)) ∧
      (∀ e slot x, xferOf s.dev e slot = some x →
        let reads := ∃ r ∈ txReads (xferTx s.dev e x), isSelf s.dev (r.1 / 2 ^ 48) = true ∧ 0 < r.2 ∧
          r.1 % 2 ^ 48 < line + 64 ∧ line < r.1 % 2 ^ 48 + r.2
        (x.status = 0 → reads → ∀ v, e = .core v → exec (.poisonedResponse (.xfer e slot) a) s =
          goes s (recordError (draw (ueEvent s.dev line (some v))) e { x with status := 6 })) ∧
        (x.status ≠ 0 ∨ ¬ reads → exec (.poisonedResponse (.xfer e slot) a) s = goes s s.dev)) ∧
      (∀ hdr, (bulkOf hdr).op = 2 → requestStatus s.dev (bulkOf hdr) (.put []) = 0 → 0 < bits (bulkOf hdr).aux 0 12 →
        (bulkOf hdr).addr < line + 64 → line < (bulkOf hdr).addr + bits (bulkOf hdr).aux 0 12 →
        exec (.poisonedResponse (.request hdr) a) s =
          goes s (sendBulk (ueEvent s.dev line none) (statusFor s.dev (bulkOf hdr) 6) [] 12))) ∧
    (∀ a by_, (∀ q, addrKind s.dev a ≠ .board q) → exec (.poisonedResponse by_ a) s = goes s s.dev))

/-- TIER_ACCESS in large mode (R301, R316 to R318, R324, R326, R403): an access to a cached page is a hit, served from its way, and a
read answers with its bytes; a single-bit error in the way is counted; an uncorrectable one in a clean page empties its way, so
that the memory device serves the access, and in a dirty page is an uncorrectable error of the access. One to a page that is not
cached, with PLC auto or keep and a cache, is a miss that starts a fill and waits, and any other is served at once; one to a page
being filled waits behind the others. An accepted write sets its page's bit in the dirty log. A device in Detention serves only
the host's diagnostic reads. The model's own choices that it rests on: log entries 53, 54. -/
def Obligations.TierAccess : Prop :=
  ∀ (s : State) (p : Nat) (core : Option Nat) (addr len : Nat) (plc : BitVec 3) (wr : Option (List Byte)), boardPort addr = some p →
    tierLarge s.dev = true → 0 < len → addr - boardBase p + len ≤ boardCap s.dev p → (addr - boardBase p) % 0x10000 + len ≤ 0x10000 →
    plc.toNat ≤ 3 → (∀ bs, wr = some bs → bs.length = len) →
    let page := (addr - boardBase p) / 0x10000
    let row := fun (ecc : Ecc) => exec (.tierAccess core addr len wr plc ecc) s
    let logged := if wr.isSome = true ∧ (plc ≠ 3 ∨ protBoard s.dev addr = true) then setLogBit s.dev p page else s.dev
    let wait : TierWait := { core := core, addr := addr, len := len, wr := wr, plc := plc }
    (s.dev.det.device = true → wr.isSome = true ∨ core.isSome = true → ∀ ecc, row ecc = goes s s.dev) ∧
    ((s.dev.det.device = true → wr = none ∧ core = none) →
      (∀ ws ecc, mapGet? (cxlOf s.dev p).filling page = some ws →
        row ecc = goes s (modCxl logged p (fun c => { c with filling := mapPut c.filling page (ws ++ [wait]) }))) ∧
      (mapGet? (cxlOf s.dev p).filling page = none → lineOf s.dev p page = none → ∀ ecc,
        ((plc = 0 ∨ plc = 2) → tierSets s.dev p ≠ 0 → (wr.isSome = true → len ≠ 0x10000) →
          row ecc = goes s (modCxl logged p (fun c => { c with miss := satAdd c.miss 1, filling := mapPut c.filling page [wait] }))) ∧
        (plc = 1 ∨ plc = 3 ∨ tierSets s.dev p = 0 ∨ wr.isSome = true ∧ len = 0x10000 →
          row ecc = goes s (if wr.isSome then tierServe logged p addr len wr plc.toNat
            else tierAnswer s.dev p addr len wr plc.toNat))) ∧
      (mapGet? (cxlOf s.dev p).filling page = none → ∀ l, lineOf s.dev p page = some l → s.dev.badWords = [] →
        let here := wayAddr s.dev p l.set l.way + (addr - boardBase p) % 0x10000
        row .clean = goes s (if wr.isSome then tierServe logged p addr len wr plc.toNat else tierAnswer s.dev p addr len none plc.toNat) ∧
        (let counted := modHbm logged (hbmCtlOf s.dev here) (fun h => { h with ceCnt := satAdd h.ceCnt 1 })
         row .single = goes s (if wr.isSome then tierServe counted p addr len wr plc.toNat else tierAnswer counted p addr len none plc.toNat)) ∧
        (row .uncorrectable = goes s (tierHit { s.dev with badWords := [here / 8] } core p addr len wr plc.toNat)) ∧
        (wr = none → (cxlOf s.dev p).lines.filter (fun m => m.page == page) = [l] → tierCbase (tierCfg s.dev) p % 8 = 0 →
          (l.dirty = true → row .uncorrectable =
            goes s (ueEvent { s.dev with badWords := [here / 8] } (placeOf s.dev addr / 64 * 64) core)) ∧
          (l.dirty = false → row .uncorrectable = goes s (tierAnswer (logEvent (modCxl s.dev p (fun c =>
            { c with lines := c.lines.filter (fun m => !(m.set == l.set && m.way == l.way)) })) 0x0603 (0xEC + p) p
            (leBytes 6 (boardBase p + page * 0x10000) ++ leBytes 1 0)) p addr len none plc.toNat)))))

/-- PAGE_FILL and WRITE_BACK (R300, R317, R318, R326): a fill that ends puts the page into a way and serves the accesses that wait, in
order, the first of which has been counted as a miss; a write-back of a dirty page without an uncorrectable error copies its 64
KiB to the memory device, counts it, and leaves the page clean, and a single-bit error on the way is counted; with an
uncorrectable error the device enters Detention; of a clean or absent page it changes nothing. FLUSH, FLUSH_DONE, LOGSWAP and
LOGSWAP_DONE (R321, R325) in large mode: a flush takes every page dirty now and is busy until the last is written back; a log swap
of a port that has a log makes the other bank active with its bytes zero, and is busy until LOGSWAP_DONE. In any other mode, for a
port without a log, and while a swap runs, they change nothing. The model's own choices that it rests on: log entry 54. -/
def Obligations.TierCacheUpkeep : Prop :=
  (∀ (s : State) (p page : Nat), p < 2 →
    (mapGet? (cxlOf s.dev p).filling page = none → exec (.pageFill p page) s = goes s s.dev) ∧
    (∀ ws, mapGet? (cxlOf s.dev p).filling page = some ws →
      let d1 := modCxl s.dev p (fun c => { c with filling := mapDel c.filling page })
      let d2 := if (lineOf s.dev p page).isSome then d1 else fillPage d1 p page true
      (ws = [] → exec (.pageFill p page) s = goes s d2) ∧
      (∀ w r, ws = w :: r →
        let d3 := modCxl (tierAnswer d2 p w.addr w.len w.wr w.plc.toNat) p (fun c => { c with hit := (cxlOf d2 p).hit })
        exec (.pageFill p page) s = goes s (r.foldl (fun e x => tierAnswer e p x.addr x.len x.wr x.plc.toNat) d3))) ∧
    (lineOf s.dev p page = none → ∀ ecc, exec (.writeBack p page ecc) s = goes s s.dev) ∧
    (∀ l, lineOf s.dev p page = some l →
      (l.dirty = false → ∀ ecc, exec (.writeBack p page ecc) s = goes s s.dev) ∧
      (l.dirty = true → s.dev.badWords = [] →
        let way := wayAddr s.dev p l.set l.way
        let written := fun (d : Dev) => modCxl { d with mem := memCopy s.dev.mem way (boardBase p + l.page * 0x10000) 0x10000 } p (fun c =>
          { c with wb := satAdd c.wb 1, flushPages := c.flushPages.filter (· != l.page),
                   lines := c.lines.map (fun x => if x.page == l.page then { x with dirty := false } else x) })
        exec (.writeBack p page .clean) s = goes s (written s.dev) ∧
        exec (.writeBack p page .single) s =
          goes s (written (modHbm s.dev (hbmCtlOf s.dev way) (fun h => { h with ceCnt := satAdd h.ceCnt 1 }))) ∧
        ∃ t, exec (.writeBack p page .uncorrectable) s = .next t ∧ t.dev.det.device = true ∧
          (s.dev.det.device = false → t.dev.det.cause = 2)))) ∧
  (∀ (s : State) (p : Nat), p < 2 →
    let c := cxlOf s.dev p
    (served s →
      (tierLarge s.dev = false → exec (.flush p) s = goes s s.dev) ∧
      (tierLarge s.dev = false ∨ c.hasLog = false ∨ c.logBusy = true → exec (.logswap p) s = goes s s.dev) ∧
      (tierLarge s.dev = true → exec (.flush p) s = goes s (modCxl s.dev p (fun c =>
        { c with flushing := true, flushPages := c.flushPages ++
            ((c.lines.filter (·.dirty)).map (·.page)).filter (fun x => !c.flushPages.contains x) }))) ∧
      (tierLarge s.dev = true → c.hasLog = true → c.logBusy = false → exec (.logswap p) s = goes s
        (modCxl (wipe s.dev (logBase s.dev p (!c.logBank)) 0x400000) p (fun x => { x with logBusy := true, logBank := !c.logBank })))) ∧
    (∀ a x, memByte (wipe s.dev a 0x400000).mem x = if a ≤ x ∧ x < a + 0x400000 then 0 else memByte s.dev.mem x) ∧
    (c.flushing = true → c.flushPages = [] → exec (.flushDone p) s = goes s (modCxl s.dev p (fun c => { c with flushing := false }))) ∧
    (c.flushing = false ∨ c.flushPages ≠ [] → exec (.flushDone p) s = goes s s.dev) ∧
    (exec (.logswapDone p) s = goes s (modCxl s.dev p (fun c => { c with logBusy := false }))))

/-! ### The fabric -/

/-- Flits in sequence (R334, R336, R337, R342 to R344, R347, R382): a codeword of 20 slots holds their tags and bytes. A port that
refuses its flits changes nothing; a Bell flit inserted into a data flit waits for that flit; a flit with a wrong CRC, type, place
or sequence number is a framing error, which is answered with one NAK and makes the port discard, and while it discards has no
further effect; a good flit is accepted, the receive number goes on by one, its slots are to be returned, and 32 unacknowledged
flits are acknowledged at once. A data flit that arrives whole in its place joins its message with eight slots; any other is a
framing error. The model's own choices that it rests on: log entry 60. -/
def Obligations.FlitsAcceptedInSequence : Prop :=
  (∀ l : List Slot, l.length = 20 → slotsOf (codeword l) = l) ∧
  (∀ (d : Dev) (p : Nat) (f : BitVec 256),
    let q := fabPort d p
    let bell := flitType f = 2 ∨ flitType f = 3
    let next := if flitOk f then some (BitVec.ofNat 10 (flitSeq f) + 1) else none
    let noted := modPort d p (fun x => { x with rxNext := next })
    let good := flitOk f = true ∧ 1 ≤ flitType f ∧ flitType f ≤ 5 ∧ flitSeq f = q.rxSeq.toNat ∧ (bell ∨ q.rxMsg = none)
    let held := flitOk f = true ∧ bell ∧ q.rxFlit ≠ none
    (flitRefused d p f = true ↔ portOpen q = false ∨ d.det.device = true ∨ d.fab.awaitDone = true ∧ flitType f ≠ 1 ∨
      q.state = .boot ∧ ¬ (flitType f = 1 ∧ (ctlType f = 1 ∨ 0xB ≤ ctlType f ∧ ctlType f ≤ 0xE))) ∧
    (flitRefused d p f = true → linkAccept d p f = (d, false)) ∧
    (flitRefused d p f = false → held →
      linkAccept d p f = (modPort d p (fun x => { x with rxHeld := x.rxHeld ++ [f], rxNext := next }), false)) ∧
    (flitRefused d p f = false → ¬ held → ¬ good →
      linkAccept d p f = (if q.discarding then noted else sendAck noted p true, false)) ∧
    (flitRefused d p f = false → ¬ held → good → linkAccept d p f = (acceptOne noted p (flitChan f) 1, true))) ∧
  (∀ (d : Dev) (p ch n : Nat) (nak : Bool),
    let q := fabPort d p
    let d1 := modPort d p (fun x => { x with rxSeq := x.rxSeq + 1, discarding := false, unacked := x.unacked + 1,
                                             freed := x.freed.set ch (x.freed.getD ch 0 + n) })
    let link := fun (back : List Nat) (k : Bool) => ({ begins := true, body := linkFlit (q.rxSeq - 1) k back } : Slot)
    (q.unacked + 1 < 32 → acceptOne d p ch n = d1) ∧
    (32 ≤ q.unacked + 1 → acceptOne d p ch n = sendAck d1 p false) ∧
    sendAck d p nak = { modPort d p (fun x => { x with freed := q.freed.map (fun c => c - min c 255), unacked := 0,
                                                       discarding := nak || x.discarding }) with
      out := .codeword p (codeword (link (q.freed.map (fun c => min c 255)) nak :: List.replicate 19 (link [0, 0, 0, 0, 0, 0] false)))
        :: d.out }) ∧
  (∀ (d : Dev) (p : Nat) (num : Option (BitVec 10)) (f : BitVec 2048),
    let q := fabPort d p
    (∀ m, q.rxMsg = some m → num = some q.rxSeq → dataOk f = true → dataAccept d p num f =
      acceptOne (modPort d p (fun x => { x with rxMsg := some { m with data := m.data ++ [f] } })) p (flitChan m.hdr) 8) ∧
    (q.rxMsg = none ∨ num ≠ some q.rxSeq ∨ dataOk f = false → dataAccept d p num f = if q.discarding then d else sendAck d p true)) ∧
  (∀ (s : State) (p k : Nat) (f : BitVec 256) (i : Instr), p < 12 → (k, i) ∈ ctlRows p f →
    (flitOk f = true → ¬ ctlIs f k → exec i s = goes s s.dev) ∧
    ((linkAccept s.dev p f).2 = false → flitOk f = false ∨ ctlIs f k → exec i s = goes s (linkAccept s.dev p f).1))

/-- The link rows (R330, R332, R333, R342 to R345, R355, R358, R369 to R371, R471): LINK_FLIT drops what it acknowledges from the
replay buffer and adds the returned credits; a NAK after eight replays without an advance takes the port into retraining, and
every NAK before that sends the held flits again; ACK_DUE acknowledges when a flit is unacknowledged; RETRAIN_DONE brings the port
back, with a replay, and without success takes it down; a reserved flit type is a framing error. Training in boot mode uses lane 0
alone, at full rate every lane that the width of R332 keeps, and no lane unless both ends are set to the same channel mode; a port
that Attendance took down trains only for a Roll Call; the fallback of a full-rate attempt ends in boot mode. A link that comes up
starts afresh and says HELLO. Roll Call then goes on when it waited for the port, and the bundle store is freed when no port needs
it. The model's own choices that it rests on: log entries 60, 62, 63, 117, 118, 119. -/
def Obligations.LinkRows : Prop :=
  (∀ (s : State) (p : Nat), p < 12 →
    let q := fabPort s.dev p
    (∀ f,
      (portOpen q = false ∨ flitType f ≠ 0 → exec (.linkFlit p f) s = goes s s.dev) ∧
      (portOpen q = true → flitType f = 0 → flitOk f = false →
        exec (.linkFlit p f) s = goes s (if q.discarding then s.dev else sendAck s.dev p true)) ∧
      (portOpen q = true → flitType f = 0 → flitOk f = true →
        let n := ackedCount q (BitVec.ofNat 10 (bits f.toNat 4 10))
        let left := dropAcked n q.replay
        let replays := if 0 < n then 0 else q.replays
        let d1 := modPort s.dev p (fun x =>
          { x with replay := left, replays := replays,
                   credits := List.zipWith (· + ·) x.credits ((List.range 6).map (fun i => bits f.toNat (16 + 8 * i) 8)) })
        (bit f.toNat 14 = false ∨ left = [] → exec (.linkFlit p f) s = goes s (txGo d1 p)) ∧
        (bit f.toNat 14 = true → left ≠ [] → replays = 8 → exec (.linkFlit p f) s = goes s (modPort d1 p (fun x =>
          { x with state := .training, retraining := true, rxFlit := none, rxHeld := [], rxNext := none }))) ∧
        (bit f.toNat 14 = true → left ≠ [] → replays ≠ 8 → exec (.linkFlit p f) s = goes s (txGo (replayAll (modPort d1 p (fun x =>
          { x with replays := replays + 1, replayCnt := satAdd x.replayCnt 1 })) p) p)))) ∧
    (portOpen q = true → q.unacked ≠ 0 → exec (.ackDue p) s = goes s (sendAck s.dev p false)) ∧
    (portOpen q = false ∨ q.unacked = 0 → exec (.ackDue p) s = goes s s.dev) ∧
    (∀ okay, q.retraining = false → exec (.retrainDone p okay) s = goes s (freeStore (rcBegin s.dev))) ∧
    (q.retraining = true →
      exec (.retrainDone p false) s = goes s (freeStore (rcBegin (portDown s.dev p false))) ∧
      (let st := if s.dev.host.syll then PortState.up else .boot
       exec (.retrainDone p true) s = goes s (freeStore (rcBegin (txGo (replayAll (modPort s.dev p (fun x =>
        { x with state := st, retraining := false, rcWait := false, replays := 0,
                 lanes := if x.lanes = 0 then (if st = .boot then 1 else 4) else x.lanes,
                 replayCnt := if x.replay.isEmpty then x.replayCnt else satAdd x.replayCnt 1 })) p) p))))) ∧
    (∀ f, (portOpen q = true → s.dev.det.device = false → 6 ≤ flitType f →
        exec (.reservedFlitType p f) s = goes s (if q.discarding then s.dev else sendAck s.dev p true)) ∧
      (portOpen q = false ∨ s.dev.det.device = true ∨ flitType f < 6 → exec (.reservedFlitType p f) s = goes s s.dev)) ∧
    (∀ (full rev call : Bool) (lanes : BitVec 4) (far : BitVec 2),
      let may := q.en = true ∧ pfault s.dev (0xB1000 + 0x100 * p) = false ∧ q.retraining = false ∧ q.state ≠ .up ∧
        (q.heldDown = false ∨ call = true ∧ rootBit s.dev = false) ∧ 6 ≤ s.dev.rp.step
      let w := trainedWidth (isA0 s.dev) lanes.toNat
      let row := exec (.portTraining p full lanes rev far call) s
      (¬ may ∨ full ≠ s.dev.host.syll ∨ full = false ∧ (q.state = .boot ∨ far ≠ q.chan ∨ lanes.toNat % 2 = 0) →
        row = goes s (freeStore s.dev)) ∧
      (may → full = true → s.dev.host.syll = true → far ≠ q.chan ∨ w = 0 → row = goes s (freeStore (rcBegin (portDown s.dev p false)))) ∧
      (may → full = true → s.dev.host.syll = true → far = q.chan → w ≠ 0 →
        row = goes s (freeStore (rcBegin (linkUp s.dev p .up w rev)))) ∧
      (may → full = false → s.dev.host.syll = false → q.state ≠ .boot → far = q.chan → lanes.toNat % 2 = 1 →
        row = goes s (freeStore (linkUp s.dev p .boot 1 rev)))) ∧
    (∀ far : BitVec 2,
      let may := q.en = true ∧ q.retraining = false ∧ q.state = .training ∧ s.dev.host.syll = true ∧ far = q.chan
      (may → exec (.fullRateFallback p far) s = goes s (freeStore (rcBegin (linkUp s.dev p .boot 1 q.rev)))) ∧
      (¬ may → exec (.fullRateFallback p far) s = goes s (freeStore s.dev)))) ∧
  (∀ (n : Nat) (l : List TxFlit),
    ((dropAcked n l).map (fun t => txCount t - t.acked)).sum = (l.map (fun t => txCount t - t.acked)).sum - n ∧
    (dropAcked n l).map (·.hdr) = (l.map (·.hdr)).drop (l.length - (dropAcked n l).length)) ∧
  (∀ (d : Dev) (p w : Nat) (st : PortState) (rev : Bool), p < 12 → st = .up ∨ st = .boot →
    let e := linkUp d p st w rev
    let x := fabPort e p
    let y := fabPort d p
    x.state = st ∧ x.lanes = BitVec.ofNat 3 w ∧ x.rev = rev ∧ x.en = y.en ∧ x.chan = y.chan ∧ x.rxSeq = 0 ∧ x.rxMsg = none ∧
    x.helloSeen = false ∧ x.nid = 0xFFFF ∧ x.heldDown = false ∧ x.retraining = false ∧ x.txq = [] ∧
    x.replay.map (·.hdr) = [stampSeq (ctlFlit 1 (d.glb.serial.toNat + p * 2 ^ 64)) 0] ∧
    e.mem = d.mem ∧ ∀ u, u ≠ p → fabPort e u = fabPort d u) ∧
  (∀ (d : Dev) (p : Nat) (held : Bool), p < 12 → (fabPort (portDown d p held) p).state = .down ∧ (portDown d p held).mem = d.mem)

/-- Attendance (R355, R357, R369 to R374): HELLO records the neighbour's serial and port; HEARTBEAT records its ID and clears the
misses; HEARTBEAT_SEND sends a HEARTBEAT with ID, epoch and root bit on every up port, and none from a device in Detention; a
window without a HEARTBEAT counts a miss, and the third in a row takes the port down; LINK_DOWN goes up-tree until the root takes
it; the first copy of an ABSENT floods and, in this device's epoch, takes effect: the device is absent, no transfer waits for it
any more, and the system Bells start again; a second copy does nothing. The model's own choices that it rests on: log entry 65. -/
def Obligations.Attendance : Prop :=
  (∀ (s : State) (p : Nat) (f : BitVec 256) (d : Dev), accepted s p f d →
    (ctlIs f 1 → exec (.hello p f) s = goes s (modPort d p (fun q =>
      { q with helloSeen := true, nserial := BitVec.ofNat 64 (bits f.toNat 20 64), nport := BitVec.ofNat 4 (bits f.toNat 84 4) }))) ∧
    (ctlIs f 2 → exec (.heartbeat p f) s = goes s (modPort d p (fun q =>
      { q with hbSeen := true, missRun := 0, nid := BitVec.ofNat 16 (bits f.toNat 20 16) }))) ∧
    (ctlIs f 8 → exec (.linkDown p f) s = goes s (if d.fab.id = 0
      then rootLinkDown d (bits f.toNat 20 16) (bits f.toNat 36 4) (bits f.toNat 40 16) else sendUp d 8 (bits f.toNat 20 204))) ∧
    (ctlIs f 9 →
      let gone := bits f.toNat 20 16
      let epoch := bits f.toNat 36 8
      ((gone, epoch) ∈ d.fab.seenAbsent → exec (.absent p f) s = goes s d) ∧
      ((gone, epoch) ∉ d.fab.seenAbsent →
        let passed := sendFlood { d with fab := { d.fab with seenAbsent := (gone, epoch) :: d.fab.seenAbsent } } p 9
          (bits f.toNat 20 204)
        exec (.absent p f) s = goes s (if epoch = d.fab.epoch.toNat
          then absentApply passed gone (BitVec.ofNat 8 (bits f.toNat 44 8)) else passed)))) ∧
  (∀ (d : Dev) (gone : Nat) (tree : Byte),
    (gone ∈ d.fab.absentSet → absentApply d gone tree = d) ∧
    (gone ∉ d.fab.absentSet → let e := absentApply d gone tree
      e.fab.absentSet = gone :: d.fab.absentSet ∧ e.fab.tree = tree ∧ e.mem = d.mem ∧
      (∀ v, ∀ x ∈ (coreOf e v).strm.xfers, ∀ o ∈ x.waiting, o.dev.toNat ≠ gone) ∧
      (d.copy.due = false → ∀ b, 1017 ≤ b → bellOf e b = {}))) ∧
  (∀ (d : Dev) (dev port nbr : Nat), d.fab.rc ≠ .complete → rootLinkDown d dev port nbr = d) ∧
  (∀ (s : State), (s.dev.det.device = true → exec .heartbeatSend s = goes s s.dev) ∧
    (s.dev.det.device = false → exec .heartbeatSend s = goes s ((List.range 12).foldl (fun e u =>
      if portUp (fabPort e u) then
        sendCtl e u 2 (s.dev.fab.id.toNat + s.dev.fab.epoch.toNat * 2 ^ 16 + (if rootBit s.dev then 2 ^ 24 else 0)) else e) s.dev))) ∧
  (∀ (s : State) (p : Nat), p < 12 →
    let q := fabPort s.dev p
    let row := fun (d : Dev) => exec (.heartbeatMiss p) s = goes s (freeStore (rcBegin d))
    let missed := modPort s.dev p (fun x => { x with miss := satAdd x.miss 1, missRun := x.missRun + 1 })
    (q.state ≠ .up → row s.dev) ∧
    (q.state = .up → q.hbSeen = true → row (modPort s.dev p (fun x => { x with hbSeen := false }))) ∧
    (q.state = .up → q.hbSeen = false → q.missRun + 1 < 3 → row missed) ∧
    (q.state = .up → q.hbSeen = false → 3 ≤ q.missRun + 1 → row (portDown missed p true) ∧
      (fabPort (portDown missed p true) p).state = .down ∧ (fabPort (portDown missed p true) p).heldDown = true))

/-- Roll Call (R356 to R361, R377): RCGO on the root advances the epoch, with no agreement left, and fails with cause 2 while a job is
active; otherwise the ports that Attendance took down retrain, and numbering begins once none is waited for. RC_ASSIGN goes on
along its route, is refused by a root, by a device of another root's epoch and by one with an active job, or gives its device ID
and parent, and the device reports its 12 ports; RC_REPORT goes up-tree until the root holds it; RC_REPORT_TIMEOUT tries three
times and then fails with cause 5; RC_REFUSE fails the epoch with its reason and goes on to the root; RC_TOPO and RC_DONE go down-
tree, the piece is kept, and RC_DONE completes Roll Call. A failed Roll Call takes away the ID of an epoch whose RC_DONE has not
come. The model's own choices that it rests on: log entries 65, 127. -/
def Obligations.RollCall : Prop :=
  (∀ (s : State), served s →
    let d := clearFault s.dev 0xB0004
    let d1 := agreeDrop { d with fab := { d.fab with epoch := d.fab.epoch + 1, devs := [], rcErr := 0 } }
    (d.fab.root = false → exec .rcgo s = goes s d) ∧
    (d.fab.root = true → jobActive d = true → exec .rcgo s = goes s (rcFail d1 2)) ∧
    (d.fab.root = true → jobActive d = false → exec .rcgo s = goes s (rcBegin (setRc ((List.range 12).foldl (fun e p =>
      modPort e p (fun q => if q.heldDown && q.en then { q with heldDown := false, rcWait := true, state := .training } else q)) d1)
      .running)))) ∧
  (∀ (d : Dev) (cause : Nat),
    (let lost := { d with fab := { d.fab with
       id := if d.fab.awaitDone then 0xFFFF else d.fab.id, rcErr := BitVec.ofNat 4 cause, devs := [], rc := .failed } }
     rcFail d cause = if d.fab.rc = .failed then lost else signal lost 11) ∧
    (d.fab.rc ≠ .running ∨ d.fab.devs ≠ [] ∨ (∃ p, p < 12 ∧ (fabPort d p).rcWait = true) → rcBegin d = d) ∧
    (d.fab.rc = .running → d.fab.devs = [] → (∀ p, p < 12 → (fabPort d p).rcWait = false) →
      let d2 := (List.range 12).foldl (fun e p => modPort e p (fun q => { q with child := false }))
        (dropTimetable { d with fab := { d.fab with id := 0, parent := 12, awaitDone := true } })
      rcBegin d = numberOn { d2 with fab := { d2.fab with level := 0, tree := 0, torus := false, devs := [
        { serial := d.glb.serial, id := 0, level := 0, parent := 0xFFFF, route := [],
          ports := (List.range 12).map (fun p => (p, ownReport d2 p)) }] } })) ∧
  (∀ (s : State) (p : Nat) (f : BitVec 256) (d : Dev), accepted s p f d →
    let hops := bits f.toNat 20 6
    let idx := bits f.toNat 26 6
    let epoch := BitVec.ofNat 8 (bits f.toNat 216 8)
    (ctlIs f 3 → idx < hops → exec (.rcAssign p f) s = goes s
      (sendCtl (if idx + 1 = hops then modPort d (hopEntry f idx) (fun q => { q with child := true }) else d)
        (hopEntry f idx) 3 (hopBody f idx p (idx + 1)))) ∧
    (ctlIs f 3 → hops ≤ idx →
      let other := rootBit d = true ∨ d.fab.rc = .numbered ∧ d.fab.epoch ≠ epoch ∧ ¬ (p = d.fab.parent ∧ epoch = d.fab.epoch + 1)
      let fresh := d.fab.id = 0xFFFF ∨ d.fab.epoch ≠ epoch
      let refused := fun (reason : Nat) => exec (.rcAssign p f) s = goes s (sendCtl (if d.fab.epoch ≠ epoch then agreeDrop d else d) p 5
        (setBits (setBits (bits f.toNat 20 180) 6 6 (hops - 1)) 180 24 (reason + epoch.toNat * 2 ^ 4)))
      (other → refused 1) ∧ (¬ other → fresh → jobActive d = true → refused 2) ∧
      (¬ other → (fresh → jobActive d = false) →
        let e := (List.range 12).foldl (fun e u => modPort e u (fun x => { x with
          child := false, heldDown := false, state := if x.heldDown && x.en then .training else x.state })) (dropTimetable d)
        let base := if fresh then { e with fab := { e.fab with epoch := epoch, tree := 0, pieces := [], absentSet := [] } } else d
        exec (.rcAssign p f) s = goes s ((List.range 12).foldl (fun e u => sendUp e 4 (reportBody e u)) (setRc { base with fab :=
          { base.fab with id := BitVec.ofNat 16 (bits f.toNat 200 16), parent := p, awaitDone := true } } .numbered)))) ∧
    (ctlIs f 4 → rootBit d = false → exec (.rcReport p f) s = goes s (sendUp d 4 (bits f.toNat 20 204))) ∧
    (ctlIs f 4 → rootBit d = true →
      let r : RcPort := { state := BitVec.ofNat 2 (bits f.toNat 48 2), nserial := BitVec.ofNat 64 (bits f.toNat 50 64),
                          nport := BitVec.ofNat 4 (bits f.toNat 114 4) }
      let devs := d.fab.devs.map (fun x => if x.id = bits f.toNat 20 16 ∧ bits f.toNat 44 4 < 12
        then { x with ports := mapPut x.ports (bits f.toNat 44 4) r } else x)
      exec (.rcReport p f) s = goes s (if d.fab.rc = .running ∧ bits f.toNat 36 8 = d.fab.epoch.toNat
        then numberOn { d with fab := { d.fab with devs := devs } } else d)) ∧
    (ctlIs f 5 →
      let d1 := if bits f.toNat 204 8 = d.fab.epoch.toNat ∧ (d.fab.rc = .running ∨ d.fab.rc = .numbered)
        then rcFail d (bits f.toNat 200 4) else d
      exec (.rcRefuse p f) s = goes s (if idx = 0 then d1 else sendCtl d1 (hopEntry f idx) 5 (hopBody f idx p (idx - 1)))) ∧
    (let mine := bits f.toNat 20 8 = d.fab.epoch.toNat ∧ d.fab.rc = .numbered
     (ctlIs f 6 → (¬ mine → exec (.rcTopo p f) s = goes s d) ∧ (mine →
       let d1 := sendDown d 6 (bits f.toNat 20 204)
       exec (.rcTopo p f) s = goes s { d1 with fab := { d1.fab with
         pieces := mapPut d1.fab.pieces (bits f.toNat 28 24) (BitVec.ofNat 160 (bits f.toNat 52 160)) } })) ∧
     (ctlIs f 7 → (¬ mine → exec (.rcDone p f) s = goes s d) ∧ (mine → exec (.rcDone p f) s =
       goes s (rcComplete (sendDown d 7 (bits f.toNat 20 204)) (joinPieces d.fab.pieces (bits f.toNat 28 15)) (bits f.toNat 28 15)
         (bit f.toNat 43) (bits f.toNat 44 64)))))) ∧
  (∀ (d : Dev) (record : List Byte) (n topo : Nat) (torus : Bool),
    let e := rcComplete d record n torus topo
    e.fab.rc = .complete ∧ e.fab.record = record ∧ e.fab.count = BitVec.ofNat 15 n ∧ e.fab.torus = torus ∧
    e.fab.topo = BitVec.ofNat 64 topo ∧ e.fab.absentSet = [] ∧ e.fab.awaitDone = false ∧ e.fab.ag = .none ∧ e.fab.id = d.fab.id) ∧
  (∀ (s : State) (dev : Nat),
    (s.dev.fab.rc ≠ .running ∨ (∀ x, s.dev.fab.devs.find? (fun y => y.id == dev) = some x → reported x = true) →
      exec (.rcReportTimeout dev) s = goes s s.dev) ∧
    (∀ x, s.dev.fab.rc = .running → s.dev.fab.devs.find? (fun y => y.id == dev) = some x → reported x = false →
      (3 ≤ x.attempts → exec (.rcReportTimeout dev) s = goes s (rcFail s.dev 5)) ∧
      (x.attempts < 3 →
        let y := { x with attempts := x.attempts + 1 }
        let devs := s.dev.fab.devs.map (fun v => if v.id == dev then y else v)
        exec (.rcReportTimeout dev) s = goes s (sendAssign { s.dev with fab := { s.dev.fab with devs := devs } } y))))

/-- Bulk messages (R334, R337 to R339, R343, R344, R350 to R353, R382): the codewords of a row are taken one after another: a
corrected one is counted, one beyond correction is counted and its slots are lost, and each slot of the others begins a flit or
goes on with the message in progress. A bulk header that the link accepts is a whole message, or its data flits follow; eight
slots in a row are a data flit. A message received whole for another device goes on with its TTL less one, or is dropped at zero;
a request for this device whose check gives a status is answered with that status and does nothing; otherwise a write stores its
bytes, a reduction puts each destination element through the reduction, a record adds its decoded values, and a read sends the
bytes; each is answered with status 0; a status response ends one wait of its transfer, a read response gathers its bytes and the
last one moves the data; a response that answers nothing is counted in FAB_LATE. The model's own choices that it rests on: log
entries 60, 61, 117, 118, 119, 120. -/
def Obligations.BulkMessages : Prop :=
  (∀ (s : State) (op p : Nat) (start : Option (BitVec 10)) (words : List Codeword), 1 ≤ op → op ≤ 9 →
    let mine := p < 12 ∧ portOpen (fabPort s.dev p) = true ∧ ∀ w ∈ words, w.fec ≠ .lost → ∀ x ∈ slotsOf w.word,
      x.begins = true → flitOk x.body = true → flitType x.body = 4 ∨ flitType x.body = 5 →
        (bulkOf x.body).op = op ∧ (flitType x.body = 5 ↔ op = 3 ∨ op = 4)
    (¬ mine → exec (bulkRow op p start words) s = goes s s.dev) ∧
    (mine → exec (bulkRow op p start words) s = goes s (words.foldl (codewordIn s.shadow p) (match start with
      | none => s.dev
      | some n => modPort s.dev p (fun q => { q with rxNext := some n, rxFlit := none }))))) ∧
  (∀ (s d : Dev) (p : Nat) (w : BitVec 5140),
    codewordIn s p d { word := w, fec := .clean } = (slotsOf w).foldl (slotIn s p) d ∧
    codewordIn s p d { word := w, fec := .corrected } =
      (slotsOf w).foldl (slotIn s p) (modPort d p (fun q => { q with fecc := satAdd q.fecc 1 })) ∧
    codewordIn s p d { word := w, fec := .lost } =
      modPort d p (fun q => { q with fecu := satAdd q.fecu 1, rxNext := none, rxFlit := none, rxHeld := [] })) ∧
  (∀ (s d d1 : Dev) (p : Nat) (f : BitVec 256) (okay : Bool), flitType f = 4 ∨ flitType f = 5 → linkAccept d p f = (d1, okay) →
    slotIn s p d { begins := true, body := f } = if okay = false then d1 else if bits f.toNat 56 5 = 0 then takeBulk s d1 p f []
      else modPort d1 p (fun q => { q with rxMsg := some { hdr := f } })) ∧
  (∀ (s d : Dev) (p : Nat) (g : BitVec 2048) (m : RxMessage), (fabPort d p).rxMsg = some m → (fabPort d p).rxFlit = none →
    (fabPort d p).rxHeld = [] → flitRefused d p m.hdr = false → (fabPort d p).rxNext = some (fabPort d p).rxSeq → dataOk g = true →
    let d1 := acceptOne (modPort d p (fun q => { q with rxNext := some (q.rxSeq + 1), rxMsg := some { m with data := m.data ++ [g] } }))
      p (flitChan m.hdr) 8
    (dataSlots g).foldl (slotIn s p) d = if m.data.length + 1 < bits m.hdr.toNat 56 5 then d1
      else takeBulk s (modPort d1 p (fun q => { q with rxMsg := none })) p m.hdr (m.data ++ [g])) ∧
  (∀ (s d : Dev) (p : Nat) (hdr : BitVec 256) (data : List (BitVec 2048)),
    let b := bulkOf hdr
    let w := requestOp b data
    let n := bits b.aux 0 12
    let takes := fun (e : Dev) => takeBulk s d p hdr data = e
    let done := fun (e : Dev) => takes (sendBulk e (statusFor e b 0) [] 12)
    (b.dst ≠ ownId d → takes (if b.ttl = 0 then dropBulk d b else sendBulk d { b with ttl := b.ttl - 1 } data p)) ∧
    (b.dst = ownId d → flitType hdr = 4 → requestStatus d b w ≠ 0 → takes (sendBulk d (statusFor d b (requestStatus d b w)) [] 12)) ∧
    (b.dst = ownId d → flitType hdr = 4 → requestStatus d b w = 0 → d.badWords = [] →
      (b.op = 2 → (touchRead d b.addr n 0).badWords = [] → let e := touchRead d b.addr n 0
        takes (sendBulk e { statusFor d b 0 with op := 3, addr := bits b.aux 12 48, aux := n } (dataFlits 17 (rdBytes e b.addr n)) 12)) ∧
      ((engines d).flatMap (fun x => (strmOf d x).xfers) = [] → metBefore d none (wopRanges b.addr w) = [] →
        (b.op = 1 → done (storeBytes (draw d) b.addr (messageBytes data n) 0)) ∧
        (5 ≤ b.op → b.op ≤ 7 →
          let f := (fmtOf b.fmt).getD .fp32
          let codes := unpackRow f (n / (fmtBits f / 8)) (messageBytes data n)
          (∀ i, i < codes.length → boardPort (b.addr + 4 * i) = none) →
          done ((codes.mapIdx (fun i c => (b.addr + 4 * i, c))).foldl (fun e x =>
            wrBytes e x.1 (leBytes 4 (redElem b.op f (leNat (rdBytes e x.1 4)) x.2))) (draw d))) ∧
        (8 ≤ b.op → b.op ≤ 9 → bits b.aux 36 24 ≠ 0 →
          let elems := (recordValues (b.op == 8) n (messageBytes data (data.length * 252))).map
            (fun x => (recordAddr b.addr (bits b.aux 12 24) (bits b.aux 36 24) (bits b.aux 60 20) x.1, x.2))
          (∀ x ∈ elems, boardPort x.1 = none) →
          done (elems.foldl (fun e x =>
            wrBytes e x.1 (leBytes 4 (redElem 5 .fp32 (leNat (rdBytes e x.1 4)) x.2))) (draw d))))) ∧
    (b.dst = ownId d → flitType hdr = 5 → b.core ≠ 0xFF →
      let late := { d with fab := { d.fab with late := satAdd d.fab.late 1 } }
      (xferOf d (.core b.core) b.slot = none → takes late) ∧
      (∀ x, xferOf d (.core b.core) b.slot = some x →
        (answeredBy x b n = none → takes late) ∧
        (∀ o, answeredBy x b n = some o →
          let left := eraseWait x.waiting o
          (b.op ≠ 3 → takes (modXfer (if bits b.aux 0 4 = 6 then leaveOpen d (.core b.core) x else d) (.core b.core) b.slot (fun _ =>
            if x.status = 0 then { x with waiting := left, status := BitVec.ofNat 4 (bits b.aux 0 4) } else { x with waiting := left }))) ∧
          (b.op = 3 →
            let z := gatherAt { x with waiting := left } o.rtag.toNat (messageBytes data n)
            let e := modXfer d (.core b.core) b.slot (fun _ => z)
            (left.any (·.read) = true ∨ x.status ≠ 0 ∨ x.hostWait = true ∨ stillGuarded e (.core b.core) z = true → takes e) ∧
            (left.any (·.read) = false → x.status = 0 → x.hostWait = false → stillGuarded e (.core b.core) z = false →
              takes (runXfer s e (.core b.core) b.slot)))))))

/-- AGREE, RESET_REQ and FABRIC_REFCLK_STOP (R376 to R378, R489, R490, R563): under an active Timetable and a complete Roll Call a
round of agreement arrives with the fingerprint at Bells 1,017 and 1,018, or waits for the running one, and otherwise nothing
starts; an accepted reset request for this device is logged and resets it with cause 6, a refused one is logged with its reason,
and one for another device goes on or, without a route, ends here; a stopped reference clock takes the six ports of its X-die
down. The model's own choices that it rests on: log entries 17, 67, 106. -/
def Obligations.AgreementAndResetRequests : Prop :=
  (∀ (s : State), served s →
    let d := clearFault s.dev 0xB0004
    let ready := d.ttl.active ≠ none ∧ d.fab.rc = .complete
    (¬ ready → exec .agree s = goes s d) ∧
    (ready → d.fab.ag = .waiting → exec .agree s = goes s { d with fab := { d.fab with agQueue := d.fab.agQueue + 1 } }) ∧
    (ready → d.fab.ag ≠ .waiting →
      let fp := BitVec.ofNat 64 (fingerprint d)
      let d1 := signal { d with fab := { d.fab with fp := fp, agMin := none, agMax := none, ag := .waiting } } 11
      exec .agree s = goes s (bellArrive (bellArrive d1 1017 2000 1 fp) 1018 2000 2 fp))) ∧
  (∀ (s : State) (p : Nat) (f : BitVec 256) (d : Dev), accepted s p f d → ctlIs f 0xA →
      let src := bits f.toNat 36 16
      let logged := fun (okay : Nat) => logEvent d 0x0805 0x100 0xFFFF
        (leBytes 2 src ++ leBytes 1 (bits f.toNat 116 4) ++ leBytes 1 (bits f.toNat 120 8) ++ leBytes 1 okay)
      (bits f.toNat 20 16 = d.fab.id.toNat →
        (resetReqWhy d f = 0 → exec (.resetReq p f) s = goes s (kindReset (logged 1) (bits f.toNat 116 4 == 2) 6 src)) ∧
        (resetReqWhy d f ≠ 0 → exec (.resetReq p f) s = goes s (logEvent (logged 0) 0x0105 0x103 0xFFFF
          (leBytes 1 2 ++ leBytes 1 (resetReqWhy d f) ++ leBytes 2 src)))) ∧
      (resetReqWhy d f = 0 ↔ d.fab.ag = .agreed ∧ bits f.toNat 52 64 = d.fab.fp.toNat ∧ src < d.fab.count.toNat ∧
        src ∉ d.fab.absentSet ∧ (bits f.toNat 116 4 = 1 ∨ bits f.toNat 116 4 = 2)) ∧
      (bits f.toNat 20 16 ≠ d.fab.id.toNat → nextHop d src (bits f.toNat 20 16) 0 p = none →
        exec (.resetReq p f) s = goes s d) ∧
      (∀ u ln, bits f.toNat 20 16 ≠ d.fab.id.toNat → nextHop d src (bits f.toNat 20 16) 0 p = some (u, ln) →
        exec (.resetReq p f) s = goes s (sendCtl d u 0xA (bits f.toNat 20 204)))) ∧
  (∀ (s : State) (south : Bool), ∃ t, exec (.fabricRefclkStop south) s = .next t ∧
      t.dev = freeStore (rcBegin ((List.range 6).foldl (fun e i => portDown e (if south then 6 + i else i) false) s.dev)) ∧
      ∀ i, i < 6 → (fabPort t.dev (if south then 6 + i else i)).state = .down)

/-! ### The Copybook and Detention -/

/-- Checkpoint rounds (R388, R393, R396, R397, R404): where ARM is 1, the previous round has ended and no fold has dropped the frames,
a device that the start reaches joins the round, which opens it, holds the step Bell's arrivals from generation c + 1 on and
arrives at Bell 1,020 with c. At the root NOW and a checkpoint that is due mark a round as due; it starts at once on a fabric of
one device, and otherwise once ROUND_START finds the other devices ready; the start goes out over the system-Bell tree (DESIGN
CHOICE: as a release of Bell 1,022). The end of the drain ends the freeze and arrives at Bell 1,021 with its success; ABORT ends a
round before that arrival and arrives with 0; ARM takes its value; COPY_SEQ takes a written half while ARM is 0 and the Copybook
idle. The model's own choices that it rests on: log entries 68, 69, 70. -/
def Obligations.CheckpointRounds : Prop :=
  ∀ (s : State) (c : CopyCfg), copyCfg s.dev = some c →
    let join := fun (d : Dev) => bellArrive { d with
      copy := { d.copy with
        state := .opened, hold := true, holdFrom := (bellOf d c.stepBell).done + 1, freezeGen := none, drainOk := true,
        arrived1021 := false, due := false, waits := [] } } 1020 2000 2 (BitVec.ofNat 64 (bellOf d c.stepBell).done)
    let may := fun (d : Dev) => d.copy.arm && !pfault d 0xC0000 && roundOver d && !d.copy.folded && d.fab.rc == .complete
    let start := fun (d : Dev) => if may d then join (bellRelease d 1022 0 0) else d
    let due := fun (d : Dev) => if d.copy.arm && !pfault d 0xC0000 then
        let d1 := { d with copy := { d.copy with due := true } }
        if d.fab.count.toNat ≤ 1 then start d1 else d1
      else d
    let d := clearFault s.dev 0xC0000
    (s.dev.fab.id ≠ 0 →
      (∀ ready, exec (.roundStart ready) s = goes s (if may s.dev then join s.dev else s.dev)) ∧
      exec .checkpointDue s = goes s s.dev ∧ (served s → exec .now s = goes s d)) ∧
    (s.dev.fab.id = 0 →
      (∀ ready, exec (.roundStart ready) s = goes s (if s.dev.copy.due && ready then start s.dev else s.dev)) ∧
      exec .checkpointDue s = goes s (if cadenceDue s.dev then due s.dev else s.dev) ∧ (served s → exec .now s = goes s (due d))) ∧
    ((s.dev.copy.state ≠ .frozen → ∀ okay, exec (.drainComplete okay) s = goes s s.dev) ∧
      (s.dev.copy.waits ≠ [] → exec (.drainComplete true) s = goes s s.dev) ∧
      (s.dev.copy.state = .frozen →
        let answers := fun (d : Dev) (okay : Bool) => bellArrive { d with
          copy := { d.copy with waits := [], state := .opened, arrived1021 := true } } 1021 2000 3 (if okay then 1 else 0)
        let lost := ((s.dev.copy.waits.head?).map Prod.snd).getD (c.slotBase + (s.dev.copy.seq.toNat + 1) % 2 * c.slotSize)
        (s.dev.copy.waits = [] → exec (.drainComplete true) s = goes s (answers s.dev s.dev.copy.drainOk)) ∧
        exec (.drainComplete false) s = goes s (answers (logEvent { s.dev with copy := { s.dev.copy with drainOk := false } }
          0x0501 0x105 0xFFFF (leBytes 4 5 ++ leBytes 6 lost)) false))) ∧
    (served s →
      ((s.dev.copy.state = .opened ∨ s.dev.copy.state = .frozen) ∧ s.dev.copy.arrived1021 = false →
        exec .abort s = goes s (bellArrive (copyStopRound d .aborted) 1021 2000 3 0)) ∧
      (¬(s.dev.copy.state = .opened ∨ s.dev.copy.state = .frozen) ∨ s.dev.copy.arrived1021 = true → exec .abort s = goes s d) ∧
      (∀ on, exec (.arm on) s = goes s { d with copy := { s.dev.copy with arm := on } }) ∧
      (∀ (hi : Bool) (x : Word),
        let e := clearFault s.dev (if hi then 0xC000C else 0xC0008)
        exec (.copySeqWrite hi x) s = goes s (if s.dev.copy.arm = false ∧ s.dev.copy.state = .idle then
          { e with copy := { s.dev.copy with
              seq := if hi then x ++ BitVec.ofNat 32 s.dev.copy.seq.toNat else BitVec.ofNat 32 (s.dev.copy.seq.toNat / 2 ^ 32) ++ x } }
          else e))) ∧
    (∃ t, exec .cadenceRecompute s = goes s t ∧
      t = { s.dev with copy := { s.dev.copy with fail := t.copy.fail, tSq := t.copy.tSq, t := t.copy.t, c := t.copy.c, m := t.copy.m } } ∧
      t.copy.fail = BitVec.ofNat 32 (c.fail0 + s.dev.copy.lost) ∧
      (s.dev.fab.id = 0 → c.fixed ≠ 0 → t.copy.tSq = (c.fixed * 1000000) ^ 2) ∧
      (s.dev.fab.id = 0 → c.fixed = 0 → 30000000 ^ 2 ≤ t.copy.tSq ∧ t.copy.tSq ≤ 3600000000 ^ 2) ∧
      (s.dev.fab.id ≠ 0 → t.copy = { s.dev.copy with fail := t.copy.fail })) ∧
    (∀ d why, (d.copy.state = .opened ∨ d.copy.state = .frozen) → ∃ r, copyStopRound d why = r ∧ r.copy = { d.copy with
      state := .idle, hold := false, last := why, freezeGen := none, snap := d.copy.cur } ∧ r.mem = d.mem ∧ r.cores = d.cores)

/-- Detention (R400 to R403, R405, R541): DET_CTL takes VCORE; with DCORE it detains the core that VCORE names, and with DDEV the
device, both with cause 4. A core enters Detention with an event, its cause and number, and the stop of all work; the device with
an event, every core and the abandonment of its round; the end of the 10 ms block-resets the cores that still run, the first of
them now, the others behind it and behind a block reset that runs, and does nothing when no work is being stopped. The model's own
choices that it rests on: log entries 71, 103. -/
def Obligations.DetentionEntered : Prop :=
  ∀ (s : State),
    (served s →
      let d := clearFault s.dev 0xC0064
      (∀ value : Word,
        let d1 := { d with det := { d.det with vcore := BitVec.ofNat 8 value.toNat } }
        let d2 := if bit value.toNat 8 then detainCore d1 (value.toNat % 256) 4 else d1
        exec (.dcore value) s = goes s (if bit value.toNat 9 then detainDevice d2 4 else d2)) ∧
      exec .ddev s = goes s (detainDevice d 4)) ∧
    (∀ d v cause, v < gridCores d → isDetained d v = false → cause < 16 → ∃ t, detainCore d v cause = t ∧
      isDetained t v = true ∧ t.det = { d.det with cause := BitVec.ofNat 4 cause, core := BitVec.ofNat 8 v, stopping := true } ∧
      t.reg.log.head?.map (·.code) = some 0x0901 ∧ (∀ u, u < gridCores d → issuing (coreOf t u) = false) ∧
      (∀ k j, k < 4 → (ctxOf t k).job = some j → j.detained = true)) ∧
    (∀ d v cause, gridCores d ≤ v ∨ isDetained d v = true → detainCore d v cause = d) ∧
    (∀ d cause, d.det.device = false → cause < 16 → ∃ t, detainDevice d cause = t ∧
      t.det = { d.det with device := true, cause := BitVec.ofNat 4 cause } ∧ (∀ v, v < gridCores d → isDetained t v = true) ∧
      t.copy.state ≠ .opened ∧ t.copy.state ≠ .frozen ∧ t.reg.log.head?.map (·.code) = some 0x0901) ∧
    (∀ d cause, d.det.device = true → detainDevice d cause = d) ∧
    (s.dev.det.stopping = false → exec .workStopTimeout s = goes s s.dev) ∧
    (s.dev.det.stopping = true →
      let d1 := { s.dev with det := { s.dev.det with stopping := false } }
      let left := (List.range (gridCores s.dev)).filter (fun v => !coreStopped (coreOf s.dev v).state)
      let blocks := left.map (fun u => BitVec.ofNat 8 (coreBlock s.dev u))
      (s.dev.rp.blockReset ≠ none → exec .workStopTimeout s =
        goes s { d1 with rp := { s.dev.rp with blockQueue := s.dev.rp.blockQueue ++ blocks } }) ∧
      (s.dev.rp.blockReset = none → left = [] → exec .workStopTimeout s = goes s d1) ∧
      (∀ b r, s.dev.rp.blockReset = none → blocks = b :: r → exec .workStopTimeout s = goes s (blockStart (clearFault { d1 with
        rp := { s.dev.rp with blockQueue := s.dev.rp.blockQueue ++ r, blk := b } } 0x10008) b.toNat 1)))

/-! ### Clocks and pacing -/

/-- The slow-clock edge and a beat (R406, R407, R429, R530, R535, R536, R538, R539): the time base counts while VAUX is up and the
shadow copies take the device as it stands; then the waiting writes take effect, in order, each pacer's code moves by one step at
most, parity is checked and the OFFERs of the period are weighed. A word whose parity disagrees enters its fault; with nothing
waiting only the pacers and the free count change. A beat of a running pacer adds one to its beats and to the stretch counter of
its level, and lets its core count its waits. SYNC_TIMEOUT is counted; CLRCNT clears the counters of every pacer. The model's own
choices that it rests on: log entries 23, 24, 73, 77. -/
def Obligations.ClocksAndBeats : Prop :=
  ∀ (s : State),
    (let d := { s.dev with glb := { s.dev.glb with timeUs := if s.dev.rp.vauxOk then s.dev.glb.timeUs + 1 else s.dev.glb.timeUs } }
      let d1 := d.edgeWrites.foldl edgeApply { d with edgeWrites := [] }
      exec .slowClockEdge s = .next { s with dev := takeOffers (parityCheck (trimPacers d1)), shadow := d } ∧
      (s.dev.edgeWrites = [] → s.dev.glb.parityWrong = [] → s.dev.prefect.offers = [] →
        takeOffers (parityCheck (trimPacers d1)) = trimPacers d ∧
        trimPacers d = { d with pace := (trimPacers d).pace, freeCtr := (trimPacers d).freeCtr })) ∧
    (∀ d r, r < 236 → ∃ p, pacerOf (trimPacers d) r = p ∧ p.beats = (pacerOf d r).beats ∧ p.released = (pacerOf d r).released ∧
      ((pacerOf d r).state = .inReset ∨ d.rp.pwr ≠ .on → p = pacerOf d r) ∧
      (p.delay.toNat ≤ (pacerOf d r).delay.toNat + 1 ∧ (pacerOf d r).delay.toNat ≤ p.delay.toNat + 1) ∧
      (p.state ≠ (pacerOf d r).state → (pacerOf d r).state = .trimming ∧ p.state = .stable ∧ 7 ≤ (pacerOf d r).inBand)) ∧
    (∀ (d : Dev) v (w : Word), v < gridCores d → (pacerOf d (coreRegion d v)).released = true → isDetained d v = false →
      (coreOf d v).state ≠ .running → coreOf (edgeApply d (0xC00008 + 0x1000 * v, w)) v = { coreOf d v with
        start := BitVec.ofNat 48 (setBits (coreOf d v).start.toNat 0 32 (w.toNat / 16 * 16)) }) ∧
    (∀ (d : Dev) o, d.glb.parityWrong = [o] → d.glb.faulted.contains o = false → 0xC0000 ≤ o → ∃ t, parityCheck d = t ∧
      t.glb = { d.glb with parityWrong := [], faulted := o :: d.glb.faulted, pfAddr := BitVec.ofNat 24 o,
                           pfCnt := satAdd d.glb.pfCnt 1 } ∧ t.pace = d.pace ∧ t.fab = d.fab) ∧
    (∀ r,
      (236 ≤ r ∨ pacerRuns s.dev r = false → exec (.beat r) s = goes s s.dev) ∧
      (r < 236 → pacerRuns s.dev r = true →
        let one := fun (go : Bool) (x : Word) => if go then satAdd x 1 else x
        let p := pacerOf s.dev r
        let d1 := modPacer s.dev r (fun _ => { p with
          beats := satAdd p.beats 1, str1 := one (p.level == 1) p.str1, str2 := one (p.level == 2) p.str2,
          strp := one (s.dev.pace.pstr && !isA0 s.dev) p.strp, critRun := if p.level = 2 then p.critRun + 1 else 0 })
        (∀ v, regionCore s.dev r = some v → p.released = true → exec (.beat r) s = goes s (draw (coreBeat d1 v))) ∧
        (regionCore s.dev r = none ∨ p.released = false → exec (.beat r) s = goes s d1))) ∧
    (∀ d v, (coreBeat d v).mem = d.mem ∧ (coreBeat d v).pace = d.pace ∧
      ∀ u, (coreOf (coreBeat d v) u).cmds = (coreOf d u).cmds ∧ (coreOf (coreBeat d v) u).state = (coreOf d u).state) ∧
    (∀ write, exec (.syncTimeout write) s =
      goes s { s.dev with glb := { s.dev.glb with syncTo := satAdd s.dev.glb.syncTo 1 } }) ∧
    (served s →
      let d := clearFault s.dev 0x20000
      exec .clrcnt s = goes s { d with pace := { d.pace with
        pacers := d.pace.pacers.map (fun x => (x.1, { x.2 with beats := 0, str1 := 0, str2 := 0, strp := 0 })) } })

/-- Pace epochs (R408, R412 to R416, R418 to R420, R425, R427): a downward epoch is announced at once with the code N; an upward one
waits for ten low windows and first raises the rails, by at most five codes; settled rails announce it. At the announcement every
member region loads its standby register and arrives at Bell 1,016. Rails that do not settle end it with CUR as it was and block
upward epochs; while one runs, N equals CUR, or the device is parked, nothing starts. A pacer that trims too long fails; a margin
level is taken; 1,024 critical beats are logged. The power limit (R426 to R428): a window whose mean lies above the limit lowers
CEIL to two codes below CUR, at least 0x28, is logged when CUR is 0x28 already, and lets N fall at once; one hundred windows in a
row at or below 97 % raise CEIL by one, at most to 0xA0; any other window leaves it, and a parity fault of the word holds it at
0x28; the limit acts within 1,500 W and 3,200 W. A reading above FAST asserts the power stretch; any other reading changes
nothing. The model's own choices that it rests on: log entries 74, 75, 76, 122. -/
def Obligations.Pacing : Prop :=
  (∀ (s : State),
    let begun := { s.dev with pace := { s.dev.pace with busy := true, epoch := s.dev.pace.epoch + 1, members := epochRegions s.dev } }
    (s.dev.pace.busy = true ∨ s.dev.rp.pwr ≠ .on ∨ paceN s.dev = s.dev.pace.cur.toNat →
      exec .paceEpoch s = goes s s.dev) ∧
    (s.dev.pace.busy = false → s.dev.rp.pwr = .on →
      (paceN s.dev < s.dev.pace.cur.toNat → exec .paceEpoch s = goes s (announce begun (BitVec.ofNat 8 (paceN s.dev)))) ∧
      (s.dev.pace.cur.toNat < paceN s.dev → s.dev.pace.upBlocked = true ∨ s.dev.pace.lowRun < 10 →
        exec .paceEpoch s = goes s s.dev) ∧
      (s.dev.pace.cur.toNat < paceN s.dev → s.dev.pace.upBlocked = false → 10 ≤ s.dev.pace.lowRun →
        exec .paceEpoch s = goes s { begun with pace := { begun.pace with
          phase := .rails (BitVec.ofNat 8 (min (paceN s.dev) (s.dev.pace.cur.toNat + 5))) } })) ∧
    (∀ n, s.dev.pace.phase = .rails n →
      exec .railsSettled s = goes s (announce { s.dev with pace := { s.dev.pace with volt := n } } n) ∧
      exec .railSettleTimeout s = goes s (logEvent { s.dev with pace := { s.dev.pace with
        busy := false, phase := .idle, lowRun := 0, skipWindow := true, members := [], upBlocked := true } }
        0x0302 0x102 0xFFFF (leBytes 1 n.toNat))) ∧
    ((∀ n, s.dev.pace.phase ≠ .rails n) → exec .railsSettled s = goes s s.dev ∧ exec .railSettleTimeout s = goes s s.dev) ∧
    (∀ d n, ∃ t, announce d n = t ∧ t.mem = d.mem ∧ t.cores = d.cores ∧
      t.pace = { d.pace with phase := .announced n, pacers := t.pace.pacers } ∧
      (∀ r, r ∈ d.pace.members → pacerOf t r = { pacerOf d r with standby := freeWord d 10 r } ∧
        (bellOf t 1016).arrivals.any (fun a => a.src == r) = true) ∧
      (∀ r, r ∉ d.pace.members → pacerOf t r = pacerOf d r)) ∧
    (∀ r, r < 236 →
      ((pacerOf s.dev r).state = .trimming → exec (.pacerStableTimeout r) s =
        goes s (modPacer s.dev r (fun p => { p with state := .failed }))) ∧
      ((pacerOf s.dev r).state ≠ .trimming → exec (.pacerStableTimeout r) s = goes s s.dev) ∧
      (∀ level : BitVec 2, level ≠ 3 → exec (.marginStretch r level) s = goes s (modPacer s.dev r (fun p => { p with level := level }))) ∧
      exec (.marginStretch r 3) s = goes s s.dev ∧
      (1024 ≤ (pacerOf s.dev r).critRun → exec (.criticalLevel r) s = goes s (logEvent
        (modPacer s.dev r (fun p => { p with critRun := 0 })) 0x0303 0x100 0xFFFF (leBytes 1 r))) ∧
      ((pacerOf s.dev r).critRun < 1024 → exec (.criticalLevel r) s = goes s s.dev))) ∧
  (∀ (s : State) (w : Nat),
    let lim := max 1500 (min 3200 s.dev.pace.limit.toNat)
    let p := s.dev.pace
    let low := decide (100 * w ≤ 97 * lim)
    let d1 := fun (ceil : Byte) (run : Nat) => { s.dev with
      rp := { s.dev.rp with vinW := BitVec.ofNat 16 w }
      pace := { p with
        ceil := if pfault s.dev 0x20010 then 0x28 else ceil, ceilRun := run, skipWindow := false, means := (w :: p.means).take 100,
        lowRun := if p.skipWindow || !low then 0 else p.lowRun + 1,
        pstr := p.pstr && (!p.pstrDown || decide (lim < w)), pstrDown := p.pstrDown && decide (lim < w) } }
    (lim < w →
      let d2 := d1 (BitVec.ofNat 8 (max 0x28 (p.cur.toNat - 2))) 0
      exec (.powerWindow w) s = goes s (paceFall (if p.cur = 0x28 then logEvent d2 0x0205 0x102 0xFFFF (leBytes 4 w) else d2))) ∧
    (w ≤ lim → low = true →
      (99 ≤ p.ceilRun → exec (.powerWindow w) s = goes s (d1 (BitVec.ofNat 8 (min 0xA0 (p.ceil.toNat + 1))) 0)) ∧
      (p.ceilRun < 99 → exec (.powerWindow w) s = goes s (d1 p.ceil (p.ceilRun + 1)))) ∧
    (w ≤ lim → low = false → exec (.powerWindow w) s = goes s (d1 p.ceil 0)) ∧
    (∀ d, d.pace.cur.toNat ≤ paceN d → paceFall d = d) ∧
    (max lim (min 3600 p.fast.toNat) < w → p.pstr = false → exec (.powerStretch w) s =
      goes s { s.dev with pace := { p with pstr := true, pstrDown := false } }) ∧
    (w ≤ max lim (min 3600 p.fast.toNat) ∨ p.pstr = true → exec (.powerStretch w) s = goes s s.dev))

/-! ### The host interface -/

/-- Jobs (R433, R436, R439 to R448): a doorbell within the credit of an enabled context sets TAIL, and another is ignored and counted;
CREDIT reads 16 minus the descriptors queued; an access of the doorbell page of another size is counted in BADACC. A queued
descriptor is taken: it is refused with a completion record, or becomes the active job with its cores; the job ends once every one
of its cores has ended, with the RESULT of R447; STOP and its timeout, EN and CORES act on their own context alone. A completion
record goes to slot SEQ mod 16, or is lost and logged with its cause, and its vector is signalled either way. The model's own
choices that it rests on: log entries 58, 78, 79. -/
def Obligations.HostJobs : Prop :=
  ∀ (s : State) (k : Nat), k < 4 →
    let c := ctxOf s.dev k
    let port := 0x10000 * k
    (served s →
      (∀ bs : List Byte, bs.length = 4 ∨ bs.length = 8 →
        let tail := BitVec.ofNat 16 (leNat (bs.take 4))
        exec (.doorbell k 0x1000 bs.length (some bs)) s = goes s
          (if c.en = false then hostRefuse s.dev (port + 0x1000) 0x0A
           else if 16 < (tail - c.head).toNat then hostRefuse s.dev (port + 0x1000) 0x09
           else modCtx s.dev k (fun x => { x with tail := tail }))) ∧
      (exec (.doorbell k 0x1004 4 none) s = goes s { s.dev with
        out := .readData (port + 0x1004) (leBytes 4 ((16 + 0x10000 - (c.tail - c.head).toNat) % 0x10000)) :: s.dev.out }) ∧
      (∀ off (bs : List Byte), bs ≠ [] → off + bs.length ≤ 0x10000 →
        (off + bs.length ≤ 0x400 →
          exec (.doorbell k off bs.length (some bs)) s = goes s (slotWrite s.dev k off bs) ∧
          exec (.doorbell k off bs.length none) s = goes s { s.dev with out := .readData (port + off) (zeros bs.length) :: s.dev.out }) ∧
        (off < 0x1008 → 0x1000 < off + bs.length → off ≠ 0x1000 ∨ (bs.length ≠ 4 ∧ bs.length ≠ 8) → off ≠ 0x1004 ∨ bs.length ≠ 4 →
          exec (.doorbell k off bs.length (some bs)) s =
            goes s { s.dev with glb := { s.dev.glb with badAcc := satAdd s.dev.glb.badAcc 1 } }))) ∧
    (awake s → syllActive s.dev = false → ∀ off (bs : List Byte), bs ≠ [] → off + bs.length ≤ 0x10000 →
      exec (.doorbell k off bs.length (some bs)) s = goes s (hostRefuse s.dev (port + off) 1) ∧
      exec (.doorbell k off bs.length none) s = goes s (emit (hostRefuse s.dev (port + off) 1) (.completerAbort (port + off)))) ∧
    (∀ (d : Dev) off (bs : List Byte) o, off ≤ o → o < off + bs.length →
      pendCount (ctxOf d k) = 0 → mapGet 0 (ctxOf (slotWrite d k off bs) k).slots o = bs.getD (o - off) 0) ∧
    (c.en = false ∨ ctxFault s.dev k = true ∨ c.job ≠ none ∨ c.tail = c.head →
      ∀ reply, exec (.descriptorTake k reply) s = goes s s.dev) ∧
    (c.en = true → ctxFault s.dev k = false → c.job = none → c.tail ≠ c.head → ∀ reply,
      let f := descField c c.head
      let d1 := modCtx s.dev k (fun x => { x with head := x.head + 1 })
      (∀ r, descRefusal s.dev c c.head = some r → exec (.descriptorTake k reply) s =
        goes s (completion d1 k c.head (f 0 4) (f 4 1) r 0xFF 0 reply)) ∧
      (descRefusal s.dev c c.head = none →
        let cores := BitVec.ofNat 256 (f 0x20 32)
        let d2 := modCtx d1 k (fun x => { x with
          job := some { jobid := BitVec.ofNat 32 (f 0 4), vec := BitVec.ofNat 8 (f 4 1), seq := c.head, cores := cores } })
        exec (.descriptorTake k reply) s = goes s ((coreList cores).foldl (fun d v => startCore
          (if bit (f 5 1) 0 then d else modCore d v (fun x => { x with start := BitVec.ofNat 48 (f 8 8 + v * f 0x10 4) })) v) d2))) ∧
    (c.job = none → ∀ reply, exec (.jobEnd k reply) s = goes s s.dev ∧ exec (.stopTimeout k) s = goes s s.dev) ∧
    (∀ j, c.job = some j →
      let st := fun v => (coreOf s.dev v).state
      ((∃ v ∈ coreList j.cores, jobCoreOver j (coreOf s.dev v) = false) → ∀ reply, exec (.jobEnd k reply) s = goes s s.dev) ∧
      ((∀ v ∈ coreList j.cores, jobCoreOver j (coreOf s.dev v) = true) → ∀ reply,
        let r := jobResult s.dev j
        let core := ((coreList j.cores).find? (fun v => endedWith r (st v))).getD ((coreList j.cores).headD 0xFF)
        exec (.jobEnd k reply) s = goes s (completion (modCtx s.dev k (fun x => { x with job := none })) k j.seq j.jobid.toNat
          j.vec.toNat r core (coreOf s.dev core).haltCode.toNat reply)) ∧
      (j.detained = true → jobResult s.dev j = 3) ∧
      (j.detained = false → j.stopReq = true → jobResult s.dev j = 2) ∧
      (j.detained = false → j.stopReq = false → (∀ v ∈ coreList j.cores, st v = .halted) → jobResult s.dev j = 0) ∧
      (j.detained = false → j.stopReq = false → (∀ v ∈ coreList j.cores, st v ≠ .stopped) → (∃ v ∈ coreList j.cores, st v = .faulted) →
        jobResult s.dev j = 1) ∧
      (j.stopReq = false → exec (.stopTimeout k) s = goes s s.dev) ∧
      (j.stopReq = true → exec (.stopTimeout k) s = goes s (registrarResets s.dev ((coreList j.cores).filter
        (fun v => !(st v == .halted || st v == .faulted || st v == .stopped || st v == .detained)))))) ∧
    (awake s →
      let d := clearFault s.dev (0x60100 + 0x100 * k)
      let halts := fun (d : Dev) => match (ctxOf d k).job with
        | none => d
        | some j => (coreList j.cores).foldl hostHalt (modCtx d k (fun x => { x with job := some { j with stopReq := true } }))
      (c.tail = c.head → ∀ reply, exec (.stop k reply) s = goes s (halts d)) ∧
      (c.tail = c.head + 1 → ∀ reply, exec (.stop k reply) s = goes s (halts (completion
        (modCtx d k (fun x => { x with head := x.head + 1 })) k c.head (descField c c.head 0 4) (descField c c.head 4 1) 2 0xFF 0 reply))) ∧
      (∀ (value : Word) reply,
        let clears := bit value.toNat 0 && !c.en
        let d1 := modCtx d k (fun x => { x with
          en := bit value.toNat 0, fence := bit value.toNat 1, remote := bit value.toNat 2,
          head := if clears then 0 else x.head, tail := if clears then 0 else x.tail })
        (bit value.toNat 3 = false → exec (.en k value reply) s = goes s d1) ∧
        (bit value.toNat 3 = true → (ctxOf d1 k).tail = (ctxOf d1 k).head → exec (.en k value reply) s = goes s (halts d1))) ∧
      (∀ (n : Nat) (value : Word), n < 8 →
        let mask := setBits c.cores.toNat (32 * n) 32 value.toNat
        let d := clearFault s.dev (0x60120 + 0x100 * k + 4 * n)
        let free := c.job = none ∧ c.tail = c.head ∧ mask < 2 ^ gridCores s.dev ∧
          ∀ j, j < 4 → j ≠ k → (ctxOf s.dev j).cores.toNat &&& mask = 0
        (free → exec (.coresWrite k n value) s = goes s (modCtx d k (fun x => { x with cores := BitVec.ofNat 256 mask }))) ∧
        (¬free → exec (.coresWrite k n value) s = goes s (logEvent d 0x0A02 0x104 k (leBytes 1 k))))) ∧
    (∀ (d : Dev) (seq : BitVec 16) jobid vec result core halt reply,
      let a := (ctxOf d k).cpl.toNat + seq.toNat % 16 * 32
      let why := if 2 ^ 46 < a + 32 then 1 else if d.host.d3hot then 4 else if !d.host.busMaster then 5 else
        match reply with
        | .ok | .poisoned => 0
        | .refused => 2
        | .timeout => 3
      completion d k seq jobid vec result core halt reply =
        signal (if why = 0 then wrBytes d (0x400000000000 + a) (leBytes 4 jobid ++ leBytes 1 result ++ leBytes 1 core ++ leBytes 2 halt
              ++ leBytes 4 seq.toNat ++ leBytes 4 (creditOf (ctxOf d k)) ++ leBytes 8 d.glb.timeUs.toNat ++ zeros 8)
            else logEvent d 0x0A03 0x104 k (leBytes 1 k ++ leBytes 4 seq.toNat ++ leBytes 1 why)) (if vec < 16 then vec else 3 + k))

/-- The function (R403, R431, R433 to R435, R449 to R452, R510, R532, R542): FLR stops and disables every context; an access of the
window within one page is served, or refused, counted and logged by the row of R435 that applies; a poisoned write is discarded
and reported; a detained device takes no write; HDMA_GO takes the fields of its word and, with GO on an idle channel, starts the
list; D3HOT, MSIX_UNMASK and PERST# act as their rules say; a register access of a bad size is counted in BADACC, a write of
SCRATCH stores, a write of a core register waits for the next edge, and a read answers the word. In D3hot every request of the
host is an Unsupported Request. The model's own choices that it rests on: log entries 12, 20, 26, 58, 80, 81, 123. -/
def Obligations.HostFunction : Prop :=
  ∀ (s : State),
    (∀ reply, ∃ t, exec (.flr reply) s = goes s t ∧ ∀ k, k < 4 → ∃ x, ctxOf t k = x ∧ x.en = false ∧ x.fence = false ∧
      x.remote = false ∧ x.head = 0 ∧ x.tail = 0 ∧ x.cores = (ctxOf s.dev k).cores ∧ x.cpl = (ctxOf s.dev k).cpl ∧
      x.job = (ctxOf s.dev k).job.map (fun j => { j with stopReq := true })) ∧
    (∀ off len (poisoned : Bool), 0 < len → off + len ≤ 2 ^ 36 → awake s →
      let a := s.dev.host.winHi.toNat * 2 ^ 36 + off
      let refuse := fun (d : Dev) (cause : Nat) => emit (hostRefuse d a cause) (.completerAbort a)
      (∀ bs : List Byte, bs.length = len → exec (.windowAccess off len (some bs) true) s = goes s (signal (hostRefuse s.dev a 8) 15)) ∧
      (a % 0x1000 + len ≤ 0x1000 →
        (syllActive s.dev = false ∨ pfault s.dev 0x6000C = true →
          exec (.windowAccess off len none poisoned) s = goes s (refuse s.dev 1) ∧
          ∀ bs : List Byte, bs.length = len → exec (.windowAccess off len (some bs) false) s = goes s (hostRefuse s.dev a 1)) ∧
        (served s → pfault s.dev 0x6000C = false →
          (boardPort a = none →
            (∀ cause, windowCause s.dev a len false = cause → cause ≠ 0 → cause ≠ 7 →
              exec (.windowAccess off len none poisoned) s = goes s (refuse s.dev cause)) ∧
            (∀ g, windowCause s.dev a len false = 7 → rdBad s.dev a len = some g →
              exec (.windowAccess off len none poisoned) s = goes s (refuse (ueEvent s.dev g none) 7)) ∧
            (addrKind s.dev a = .hbm → windowCause s.dev a len false = 0 →
              exec (.windowAccess off len none poisoned) s = goes s { s.dev with out := .readData a (rdBytes s.dev a len) :: s.dev.out })) ∧
          (∀ bs : List Byte, bs.length = len →
            (∀ cause, windowCause s.dev a len true = cause → cause ≠ 0 →
              exec (.windowAccess off len (some bs) false) s = goes s (hostRefuse s.dev a cause)) ∧
            (windowCause s.dev a len true = 0 → s.dev.det.device = true →
              exec (.windowAccess off len (some bs) false) s = goes s s.dev) ∧
            (windowCause s.dev a len true = 0 → s.dev.det.device = false → addrKind s.dev a = .hbm → s.dev.badWords = [] →
              exec (.windowAccess off len (some bs) false) s = goes s (storeBytes s.dev a bs 0)))))) ∧
    (∀ c (value : Word), c < 4 → awake s →
      let d := modHdma (clearFault s.dev (0x60808 + 0x40 * c)) c (fun h => { h with
        count := BitVec.ofNat 16 value.toNat, ctx := BitVec.ofNat 4 (bits value.toNat 16 4), pri := BitVec.ofNat 2 (bits value.toNat 20 2) })
      (bit value.toNat 22 = false ∨ (hdmaOf s.dev c).busy = true ∨ hdmaFault d c = true → exec (.hdmaGo c value) s = goes s d) ∧
      (bit value.toNat 22 = true → (hdmaOf s.dev c).busy = false → hdmaFault d c = false →
        let list : BList := { id := 0, base := (hdmaOf s.dev c).list.toNat, count := value.toNat % 0x10000,
                              pri := BitVec.ofNat 2 (bits value.toNat 20 2) }
        let go := modHdma d c (fun h => { h with busy := true, strm := { h.strm with lists := [list] } })
        (value.toNat % 0x10000 ≠ 0 → exec (.hdmaGo c value) s = goes s go) ∧
        (value.toNat % 0x10000 = 0 → (hdmaOf s.dev c).strm.xfers = [] → exec (.hdmaGo c value) s =
          goes s (signal (modHdma go c (fun h => { h with busy := false, strm := { h.strm with lists := [] } })) (7 + c))))) ∧
    (∀ enter, exec (.d3hot enter) s = goes s { s.dev with host := { s.dev.host with d3hot := enter } }) ∧
    (∀ vec, vec < 16 → awake s →
      let m := BitVec.ofNat 16 (2 ^ vec)
      let h := { s.dev.host with msixMask := s.dev.host.msixMask &&& ~~~m }
      (s.dev.host.msixEn = true → s.dev.host.msixAll = false → bit s.dev.host.msixPend.toNat vec = true → exec (.msixUnmask vec) s =
        goes s { s.dev with host := { h with msixPend := h.msixPend &&& ~~~m }, out := .msix vec :: s.dev.out }) ∧
      (s.dev.host.msixEn = false ∨ s.dev.host.msixAll = true ∨ bit s.dev.host.msixPend.toNat vec = false →
        exec (.msixUnmask vec) s = goes s { s.dev with host := h })) ∧
    (exec (.perst false) s = goes s { s.dev with rp := { s.dev.rp with perstLow := false } }) ∧
    (s.dev.rp.perstLow = false → exec (.perst true) s =
      goes s (warmReset { s.dev with rp := { s.dev.rp with perstLow := true } } 3 0xFFFF)) ∧
    (awake s →
      (∀ x : Dword, exec (.registerWrite 0x0C 4 (some x)) s = goes s { clearFault s.dev 0x0C with
        glb := { (clearFault s.dev 0x0C).glb with scratch := BitVec.ofNat 32 x.toNat } }) ∧
      (∀ off size (x : Dword), 0 < size → off < 0x1000000 → ¬(size = 4 ∧ off % 4 = 0) → ¬(size = 8 ∧ off % 8 = 0) →
        let d := { s.dev with glb := { s.dev.glb with badAcc := satAdd s.dev.glb.badAcc 1 } }
        exec (.registerWrite off size (some x)) s = goes s d ∧
        exec (.registerWrite off size none) s = goes s { d with out := .readData off (zeros size) :: s.dev.out }) ∧
      (∀ off, off < 0x30000 → off % 4 = 0 → exec (.registerWrite off 4 none) s = goes s { s.dev with
        out := .readData off (leBytes 4 (regWord s.dev s.shadow off)) :: s.dev.out }) ∧
      (∀ v o (x : Dword), v < gridCores s.dev → o < 0x1000 → o % 4 = 0 → syllActive s.dev = true →
        exec (.registerWrite (0xC00000 + 0x1000 * v + o) 4 (some x)) s = goes s { s.dev with
          edgeWrites := s.dev.edgeWrites ++ [(0xC00000 + 0x1000 * v + o, BitVec.ofNat 32 x.toNat)] })) ∧
    (s.dev.host.d3hot = true → ∀ i off, requestOffset s.dev i = some off →
      exec i s = goes s { s.dev with out := .unsupported off :: s.dev.out })

/-! ### Boot and security -/

/-- A mailbox response (R480, R549): the mailbox is ready, its count goes up by one, and its buffer holds CMD, STATUS, TAG, LEN and
the payload of the response, and zero in every other byte; GO submits a request unless one is before the processor, and while it
is busy the buffer takes no write. The model's own choices that it rests on: log entries 74, 88, 99, 101, 102. -/
def Obligations.MailboxResponses : Prop :=
  ∀ (m : Mailbox) (status : Nat) (payload : List Byte),
    (mbRespond m status payload).state = .ready ∧ (mbRespond m status payload).count = m.count + 1 ∧
    mbRead (mbRespond m status payload) 0 2 = mbRead m 0 2 ∧
    mbRead (mbRespond m status payload) 2 2 = leBytes 2 status ∧
    mbRead (mbRespond m status payload) 4 4 = mbRead m 4 4 ∧
    mbRead (mbRespond m status payload) 8 2 = leBytes 2 payload.length ∧
    mbRead (mbRespond m status payload) 16 payload.length = payload ∧
    (∀ n, mbRead (mbRespond m status payload) (16 + payload.length) n = List.replicate n 0) ∧
    (m.state ≠ .busy → mbGo m = { m with state := .busy }) ∧ (m.state = .busy → mbGo m = m) ∧
    (∀ off bs, m.state = .busy → mbWrite m off bs = m)

/-- Delivery by the host and activation (R463 to R465, R472, R473, R475): DELIVER is refused with status 7, 2, 5 or 3, or starts a
bundle and the host reads of its first block; the next block is checked, and one with a wrong CRC ends in recovery mode with
bundle error 1; a host read error aborts the delivery with error 9; ACTIVATION of a verified bundle runs every component once what
is read back from every destination has its HASH, and otherwise clears the destinations and ends in recovery mode with bundle
error 0xB; without a delivery, or a bundle to activate, nothing changes. The model's own choices that it rests on: log entries 85,
86, 124. -/
def Obligations.HostDelivery : Prop :=
  ∀ (s : State),
    (prfAsked s.dev 3 = true →
      let d := s.dev
      let addr := prfField d 0 8
      let can := (d.prefect.boot == .recWaiting || (d.prefect.boot == .waiting && d.prefect.source == .host)) && d.host.busMaster
      let d1 := { d with prefect := { d.prefect with
        boot := if inRecovery d.prefect.boot then .recReceiving else .receiving
        bundle := some { port := 12, addr := BitVec.ofNat 64 addr, nblk := prfField d 8 2 } } }
      let reads := fun (d : Dev) => (List.range 16).foldl (fun d i => emit d (.hostRead (addr + 4096 * i) 4096)) d
      exec .deliver s = goes s (
        if d.prefect.boot = .error then prfRespond d 7 []
        else if prfLen d ≠ 10 ∨ addr % 4096 ≠ 0 then prfRespond d 2 []
        else if d.prefect.boot = .receiving ∨ d.prefect.boot = .recReceiving then prfRespond d 5 []
        else if can then prfRespond (reads d1) 0 [] else prfRespond d 3 [])) ∧
    (prfAsked s.dev 3 = false → exec .deliver s = goes s s.dev) ∧
    (∀ data : List Byte, receiving s.dev = false ∨ (∀ b, s.dev.prefect.bundle = some b → b.port ≠ 12 ∨ b.verified = true) ∨
      data.length ≠ 65536 → exec (.bundleBlock data) s = goes s s.dev) ∧
    (∀ b (data : List Byte), s.dev.prefect.bundle = some b → b.port = 12 → b.verified = false → receiving s.dev = true →
      data.length = 65536 →
      let fails := fun (d : Dev) (code : Byte) => { d with prefect := { d.prefect with
        bundle := none, boot := .recWaiting, bundleErr := code, recCause := 2, chainLost := false } }
      (crc32c (data.take 65532) ≠ leAt data 65532 4 → exec (.bundleBlock data) s = goes s (fails s.dev 1)) ∧
      (crc32c (data.take 65532) = leAt data 65532 4 →
        (∀ e, b.blocks.length = 0 → manifestCheck s.dev (data.take 65532) b.nblk = .error e →
          exec (.bundleBlock data) s = goes s (fails s.dev (BitVec.ofNat 8 e))) ∧
        (∀ m, (if b.blocks.length = 0 then manifestCheck s.dev (data.take 65532) b.nblk = .ok m else b.manifest = some m) →
          let b1 := { b with manifest := some m, blocks := mapPut b.blocks b.blocks.length (data.take 65532) }
          let here := m.comps.filter (fun c => c.first ≤ b.blocks.length && b.blocks.length < c.first + c.blocks && compWhole b1 c)
          let wrong := here.any (fun c => leNat (sha256 (compBytes b1 c)) != c.hash.toNat)
          (wrong = true → exec (.bundleBlock data) s = goes s (fails s.dev 8)) ∧
          (wrong = false → b1.blocks.length ≠ b.nblk → exec (.bundleBlock data) s = goes s ((List.range 16).foldl
            (fun d i => emit d (.hostRead (b.addr.toNat + 65536 * (b.blocks.length + 1) + 4096 * i) 4096))
            { s.dev with prefect := { s.dev.prefect with bundle := some b1 } })) ∧
          (wrong = false → b1.blocks.length = b.nblk → exec (.bundleBlock data) s = goes s (bundleVerified s.dev b1))))) ∧
    (∀ d b, ∃ t, bundleVerified d b = t ∧ t.prefect.boot = .activating ∧ t.prefect.bundleErr = 0 ∧
      t.prefect.bundle = some { b with verified := true, chunks := [] } ∧ t.mem = d.mem ∧ t.host = d.host) ∧
    (receiving s.dev = false ∨ (∀ b, s.dev.prefect.bundle = some b → b.port ≠ 12) → exec .hostReadError s = goes s s.dev) ∧
    (∀ b, s.dev.prefect.bundle = some b → b.port = 12 → receiving s.dev = true →
      exec .hostReadError s = goes s { s.dev with prefect := { s.dev.prefect with
        bundle := none, boot := if s.dev.prefect.boot = .recReceiving then .recWaiting else .waiting, bundleErr := 9,
        chainLost := false } }) ∧
    (∀ fails wrong, s.dev.prefect.boot ≠ .activating → exec (.activation fails wrong) s = goes s s.dev) ∧
    (∀ fails wrong b m, s.dev.prefect.boot = .activating → s.dev.prefect.bundle = some b → b.manifest = some m →
      let copies := copied b m fails wrong
      let good := m.comps.all (fun c => !fails.contains c.type && leNat (sha256 (mapGet [] copies c.type)) == c.hash.toNat)
      (good = true → exec (.activation fails wrong) s =
        goes s (activate { s.dev with prefect := { s.dev.prefect with dest := copies } } m)) ∧
      (good = false → exec (.activation fails wrong) s = goes s (freeStore { s.dev with prefect := { s.dev.prefect with
        dest := [], boot := .recWaiting, bundleErr := 0xB, recCause := 3 } }))) ∧
    (∀ d m, ∃ t, activate d m = t ∧ t.prefect.boot = .active ∧ t.prefect.active = some m ∧ t.prefect.dest = d.prefect.dest ∧
      t.host.syll = true ∧ t.reg.fw = true ∧ t.reg.wdPeriod = 1000 ∧ t.pace.tgt = 0x7D ∧ t.mem = d.mem ∧
      (∀ c, c < 12 → (hbmOf t c).state = .training) ∧ ∀ p, p < 2 → (cxlOf t p).link = .training ∧ (cxlOf t p).perst = false)

/-- Chain delivery (R466 to R471, R473, R475): an OFFER that the device does not want is answered with DONE 2, one that it would take
is held to the end of the slow-clock period, when the OFFER of the lowest port is taken, the others of its PREFIX are answered
with DONE 2 and the first blocks are pulled; one that is rejected or comes before the Prefect runs is ignored. OFFER_REPEAT offers
a verified bundle; PULL sends every chunk of the requested blocks, and nothing for a bad request; DATA of a block that was not
requested is ignored, and a requested chunk is kept; DONE ends offering on its port; without another sender the delivery is
aborted. The model's own choices that it rests on: log entries 85, 87. -/
def Obligations.ChainDelivery : Prop :=
  ∀ (s : State) (p : Nat) (f : BitVec 256) (d : Dev),
    (accepted s p f d →
      (ctlIs f 0xB →
        let pfx := BitVec.ofNat 128 (bits f.toNat 62 128)
        (d.prefect.boot = .selfTest ∨ d.prefect.boot = .error → exec (.offer p f) s = goes s d) ∧
        (d.prefect.boot = .active ∨ d.prefect.boot = .activating → exec (.offer p f) s = goes s (sendCtl d p 0xE 2)) ∧
        (∀ b, d.prefect.bundle = some b → b.verified = true → d.prefect.boot ≠ .selfTest → d.prefect.boot ≠ .error →
          exec (.offer p f) s = goes s (sendCtl d p 0xE 2)) ∧
        (∀ b, (d.prefect.boot = .receiving ∨ d.prefect.boot = .recReceiving) → d.prefect.bundle = some b →
          (d.prefect.chainLost = false → b.port < 12 → b.pfx = pfx → exec (.offer p f) s = goes s (sendCtl d p 0xE 2)) ∧
          (b.verified = false → b.pfx ≠ pfx ∨ (12 ≤ b.port ∧ d.prefect.chainLost = false) → exec (.offer p f) s = goes s d) ∧
          (b.verified = false → d.prefect.chainLost = true → b.pfx = pfx → exec (.offer p f) s = goes s { d with prefect :=
            { d.prefect with offers := d.prefect.offers ++ [(p, bits f.toNat 20 10, pfx)] } })) ∧
        (d.prefect.bundle = none →
          (d.prefect.boot = .waiting → d.prefect.source ≠ .recovery → exec (.offer p f) s = goes s { d with prefect :=
            { d.prefect with offers := d.prefect.offers ++ [(p, bits f.toNat 20 10, pfx)] } }) ∧
          (d.prefect.boot = .recWaiting → exec (.offer p f) s = goes s (
            if d.prefect.recCause = 2 ∧ d.prefect.source ≠ .recovery ∧ pfx ∉ d.prefect.rejected
            then { d with prefect := { d.prefect with offers := d.prefect.offers ++ [(p, bits f.toNat 20 10, pfx)] } } else d)))) ∧
      (ctlIs f 0xC → (d.prefect.bundle = none → exec (.pull p f) s = goes s d) ∧ ∀ b, d.prefect.bundle = some b →
        let first := bits f.toNat 20 10
        let count := bits f.toNat 30 3
        (b.verified = false ∨ count = 0 ∨ 4 < count ∨ b.nblk < first + count → exec (.pull p f) s = goes s d) ∧
        (b.verified = true → 0 < count → count ≤ 4 → first + count ≤ b.nblk →
          exec (.pull p f) s = goes s (((List.range count).map (first + ·)).foldl (fun d n =>
            let part := mapGet [] b.blocks n
            (List.range 4096).foldl (fun d c => sendCtl d p 0xD (n + c * 2 ^ 10 +
              leAt (part ++ leBytes 4 (crc32c part)) (16 * c) 16 * 2 ^ 22)) d) d))) ∧
      (ctlIs f 0xD → (d.prefect.bundle = none → exec (.data p f) s = goes s d) ∧ ∀ b, d.prefect.bundle = some b →
        let n := bits f.toNat 20 10
        (b.port ≠ p ∨ b.verified = true ∨ b.asked ≤ n ∨ mapGet? b.blocks n ≠ none ∨ d.prefect.chainLost = true ∨ receiving d = false →
          exec (.data p f) s = goes s d) ∧
        (b.port = p → b.verified = false → n < b.asked → mapGet? b.blocks n = none → d.prefect.chainLost = false →
          receiving d = true →
          let chunks := mapMod [] b.chunks n (fun m => mapPut m (bits f.toNat 30 12) (BitVec.ofNat 128 (bits f.toNat 42 128)))
          exec (.data p f) s = goes s (pullMore (takeBlocks 5
            { d with prefect := { d.prefect with bundle := some { b with chunks := chunks } } })))) ∧
      (ctlIs f 0xE →
        let d1 := modPort d p (fun q => { q with
          doneRx := true, state := if syllActive d = true ∧ q.state = .boot then .training else q.state })
        let why := BitVec.ofNat 8 (bits f.toNat 24 8)
        exec (.done p f) s = goes s (freeStore (
          if bits f.toNat 20 4 ≠ 1 then d1
          else if d.reg.fw = true then logEvent d1 0x0804 0x101 p (leBytes 1 p ++ leBytes 1 why.toNat)
          else { d1 with prefect := { d1.prefect with doneLog := d1.prefect.doneLog ++ [(p, why)] } })))) ∧
    (d.prefect.offers = [] → takeOffers d = d) ∧
    (∀ q nblk pfx rest, d.prefect.offers = (q, nblk, pfx) :: rest → q < 12 → (fabPort d q).state = .boot → d.prefect.boot = .waiting →
      d.prefect.source ≠ .recovery → (∀ o ∈ rest, q < o.1 ∧ ((fabPort d o.1).state = .boot → o.2.2 ≠ pfx)) → 4 ≤ nblk →
      takeOffers d = sendCtl { d with prefect := { d.prefect with
        offers := [], chainLost := false, boot := .receiving,
        bundle := some { port := q, nblk := nblk, pfx := pfx, asked := 4 } } } q 0xC (4 * 2 ^ 10)) ∧
    ((∀ b, d.prefect.bundle = some b → b.verified = true ∨ b.asked = b.nblk ∨ b.asked = b.blocks.length + 4) → pullMore d = d) ∧
    (∀ b, d.prefect.bundle = some b → b.verified = false → b.blocks.length ≤ b.asked →
      let n := min (4 - (b.asked - b.blocks.length)) (b.nblk - b.asked)
      0 < n → pullMore d = sendCtl { d with prefect := { d.prefect with bundle := some { b with asked := b.asked + n } } } b.port 0xC
        (b.asked + n * 2 ^ 10)) ∧
    (s.dev.prefect.bundle = none → exec .offerRepeat s = goes s s.dev) ∧
    (∀ b, s.dev.prefect.bundle = some b → b.verified = false → exec .offerRepeat s = goes s s.dev) ∧
    (∀ b m, s.dev.prefect.bundle = some b → b.verified = true → b.manifest = some m → exec .offerRepeat s =
      goes s ((List.range 12).foldl (fun e u => if (fabPort e u).state = .boot ∧ (fabPort e u).doneRx = false then
        sendCtl e u 0xB (b.nblk + m.svn * 2 ^ 10 + m.mdig.toNat % 2 ^ 128 * 2 ^ 42) else e) s.dev)) ∧
    (s.dev.prefect.chainLost = false ∨ receiving s.dev = false → exec .chainTimeout s = goes s s.dev) ∧
    (receiving s.dev = true → s.dev.prefect.chainLost = true → exec .chainTimeout s =
      goes s { s.dev with prefect := { s.dev.prefect with
        bundle := none, boot := if s.dev.prefect.boot = .recReceiving then .recWaiting else .waiting, bundleErr := 9,
        chainLost := false } })

/-- The Prefect's commands (R474, R477, R481 to R483, R496, R497, R499): each acts when it is asked, answers 7 in the error state, 2
for a request with a wrong length or reserved field, 3 where the boot state or the life cycle does not allow it, and else acts:
STATUS with its record, NONCE with 32 bytes of the CTR_DRBG that it keeps, ENROL writes an unused owner slot, REVOKE and COMMIT
burn their fuses, UNLOCK opens and closes scopes, ZEROISE overwrites the volatile CSPs, or burns key-kill and resets the device; a
failed self-test or entropy test enters the error state. A signed command consumes the nonce also when its signature does not
verify, and then answers 4. The model's own choices that it rests on: log entries 88, 89. -/
def Obligations.PrefectCommands : Prop :=
  ∀ (s : State),
    let d := s.dev
    let used := { d with prefect := { d.prefect with nonce := none } }
    let slot := mapGet {} d.fuses.owner (prfField d 0 1)
    let owners := fun (k : KeySlot) => { d.fuses with owner := mapPut d.fuses.owner (prfField d 0 1) k }
    let answer := fun (d : Dev) (status : Nat) => prfRespond d status []
    let failed := d.prefect.boot = .error
    (prfAsked d 1 = true →
      exec .status s = goes s (if prfLen d = 0 then prfRespond d 0 (statusRecord d) else answer d 2)) ∧
    (∀ c, prfAsked d c = true → c = mbCmd d.prefect.mb → c = 0 ∨ 0xA ≤ c →
      exec .prefectReservedCommand s = goes s (answer d (if failed then 7 else 1))) ∧
    (prfAsked d 2 = true → ∀ pass, exec (.selftest pass) s = goes s (
      if failed then answer d 7 else if prfLen d ≠ 0 then answer d 2
      else if pass then answer d 0 else answer (prefectError d) 7)) ∧
    (d.prefect.boot = .error ∨ d.prefect.boot = .selfTest → exec .entropyTestFail s = goes s d) ∧
    (d.prefect.boot ≠ .error → d.prefect.boot ≠ .selfTest → exec .entropyTestFail s = goes s (prefectError d)) ∧
    (∀ e : Dev, ∃ t, prefectError e = t ∧ t.prefect.boot = .error ∧ t.prefect.drbg = {} ∧ t.prefect.entropy = 0 ∧ t.fuses = e.fuses ∧
      (e.host.syll = true → t.det.device = true) ∧ (e.host.syll = false → t.det = e.det) ∧
      ∀ b, e.prefect.bundle = some b → b.verified = false → t.prefect.bundle = none) ∧
    (prfAsked d 4 = true →
      let bs := randomBytes d 32
      let kept := { drbgUsed d 32 with prefect := { (drbgUsed d 32).prefect with nonce := some (BitVec.ofNat 256 (leNat bs)) } }
      exec .nonce s = goes s (if failed then answer d 7 else if prfLen d ≠ 0 then answer d 2 else prfRespond kept 0 bs)) ∧
    (prfAsked d 5 = true →
      let signed := lifeCycle d.fuses ≠ 1
      let e := if signed then used else d
      let added := owners { slot with hash := BitVec.ofNat 256 (leNat (sha256 (mbBytes d.prefect.mb 4 384))), used := true }
      exec .enrol s = goes s (
        if failed then answer e 7
        else if ¬(prfLen d = (if signed then 1160 else 388) ∧ prfField d 0 1 ≤ 7 ∧ prfField d 1 3 = 0 ∧
          (signed → prfField d 389 3 = 0)) then answer e 2
        else if ¬(lifeCycle d.fuses = 1 ∨ lifeCycle d.fuses = 2) then answer e 3
        else if signed ∧ authOk d 5 388 false = false then answer e 4
        else if slot.used then answer e 6 else answer { e with fuses := added } 0)) ∧
    (prfAsked d 6 = true → exec .revoke s = goes s (
      if failed then answer used 7
      else if ¬(prfLen d = 776 ∧ prfField d 0 1 ≤ 7 ∧ prfField d 1 3 = 0 ∧ prfField d 5 3 = 0) then answer used 2
      else if authOk d 6 4 false = false then answer used 4
      else answer { used with fuses := owners { slot with revoked := true } } 0)) ∧
    (prfAsked d 7 = true →
      (failed → exec .commit s = goes s (answer used 7)) ∧
      (¬failed → prfLen d ≠ 772 ∨ prfField d 1 3 ≠ 0 → exec .commit s = goes s (answer used 2)) ∧
      (¬failed → prfLen d = 772 → prfField d 1 3 = 0 →
        (d.prefect.boot ≠ .active → exec .commit s = goes s (answer used 3)) ∧
        (d.prefect.boot = .active → authOk d 7 0 false = false → exec .commit s = goes s (answer used 4)) ∧
        (∀ m, d.prefect.boot = .active → authOk d 7 0 false = true → d.prefect.active = some m →
          ∃ t, exec .commit s = goes s t ∧
            t = answer { used with fuses := { d.fuses with svnMin := max d.fuses.svnMin m.svn, vendor := t.fuses.vendor } } 0 ∧
            ∀ i, mapGet {} t.fuses.vendor i = { mapGet {} d.fuses.vendor i with
              revoked := (mapGet {} d.fuses.vendor i).revoked || (bit m.revoke.toNat i && decide (i < 4) && i != m.vkey) }))) ∧
    (prfAsked d 8 = true → d.prefect.boot = .active → prfField d 1 3 = 0 →
      let open_ := fun (e : Dev) (m : Nat) =>
        let e1 := { e with prefect := { e.prefect with scopes := BitVec.ofNat 4 m } }
        if scopesOpen e1 = scopesOpen e then e1 else logEvent e1 0x0B01 0x101 0xFFFF (leBytes 1 (scopesOpen e1))
      (prfLen d = 4 → prfField d 0 1 = 0 → exec .unlock s = goes s (answer (open_ d 0) 0)) ∧
      (prfLen d = 776 → prfField d 0 1 ≠ 0 → prfField d 0 1 ≤ 15 → prfField d 5 3 = 0 →
        let vendor := bit (prfField d 4 1) 7
        let may := match lifeCycle d.fuses, vendor with
          | 1, true => 0b0011
          | 2, false => 0b0111
          | 3, true => 0b1111
          | _, _ => 0
        exec .unlock s = goes s (if authOk d 8 4 true = true ∧ prfField d 0 1 &&& may = prfField d 0 1
          then answer (open_ used (d.prefect.scopes.toNat ||| prfField d 0 1)) 0 else answer used 4))) ∧
    (prfAsked d 8 = true → (failed → prfField d 0 1 = 0 → exec .unlock s = goes s (answer d 7)) ∧
      (¬failed → d.prefect.boot ≠ .active → prfField d 0 4 = 0 → prfLen d = 4 → exec .unlock s = goes s (answer d 3))) ∧
    (prfAsked d 9 = true →
      let zeroed := fun (e : Dev) => { e with prefect := { e.prefect with drbg := {}, entropy := 0 } }
      (failed → exec .zeroise s = goes s (answer (if prfField d 0 1 = 1 then used else d) 7)) ∧
      (¬failed → 1 < prfField d 0 1 ∨ prfField d 1 3 ≠ 0 → exec .zeroise s =
        goes s (answer (if prfField d 0 1 = 1 then used else d) 2)) ∧
      (¬failed → prfField d 0 4 = 0 → exec .zeroise s = goes s (if prfLen d = 4 then answer (zeroed d) 0 else answer d 2)) ∧
      (¬failed → prfField d 0 4 = 1 → prfLen d = 776 → prfField d 5 3 = 0 →
        (authOk d 9 4 true = false → exec .zeroise s = goes s (answer used 4)) ∧
        (authOk d 9 4 true = true → exec .zeroise s = goes s (coldReset (answer { zeroed used with
          fuses := { d.fuses with keyKill := true } } 0) 8 0xFFFF)))) ∧
    (∀ c, prfAsked d c = false →
      (c = 1 → exec .status s = goes s d) ∧ (c = 2 → ∀ pass, exec (.selftest pass) s = goes s d) ∧ (c = 4 → exec .nonce s = goes s d) ∧
      (c = 5 → exec .enrol s = goes s d) ∧ (c = 6 → exec .revoke s = goes s d) ∧ (c = 7 → exec .commit s = goes s d) ∧
      (c = 8 → exec .unlock s = goes s d) ∧ (c = 9 → exec .zeroise s = goes s d))

/-- Attestation and JTAG (R491, R492, R494, R498): before activation every SPDM request is answered Busy, one before its turn with
UnexpectedRequest, one of another version with VersionMismatch and a short one with InvalidRequest; GET_VERSION starts the
connection; capabilities, algorithms, digests, certificate, challenge and measurements each send their response in their turn and
extend the transcript, with their nonces from the CTR_DRBG; a signature by a RETIRED device is refused; any other code is answered
UnsupportedRequest; a JTAG instruction whose scope is closed acts as BYPASS. The model's own choices that it rests on: log entries
83, 89, 91. -/
def Obligations.AttestationAndJtag : Prop :=
  ∀ (s : State) (t : SpdmPort) (req : List Byte),
    let c := spdmConn s.dev t
    let message := fun (v code p1 p2 : Nat) => [v, code, p1, p2].flatMap (leBytes 1)
    let err := fun (code extra : Nat) => goes s { s.dev with
      out := .spdm t (message (if c.version then 0x12 else 0x10) 0x7F code extra) :: s.dev.out }
    let sends := fun (d : Dev) (i : Instr) (v code p1 p2 : Nat) (next : List Byte → SpdmConn) => ∃ u, exec i s = goes s u ∧
      let r := match u.out.head? with
        | some (.spdm _ bs) => bs
        | _ => []
      r.take 4 = message v code p1 p2 ∧
      u = match t with
        | .pcie => { d with prefect := { d.prefect with spdmPcie := next r }, out := .spdm t r :: d.out }
        | .smbus => { d with prefect := { d.prefect with spdmSmb := next r }, out := .spdm t r :: d.out }
    let rows : List (Nat × Nat × Bool × Instr) :=
      [(0x84, 4, true, .getVersion t req), (0xE1, 20, c.version && !c.caps && !c.algs, .getCapabilities t req),
       (0xE3, 32, c.caps && !c.algs, .negotiateAlgorithms t req), (0x81, 4, c.algs, .getDigests t req),
       (0x82, 8, c.algs, .getCertificate t req), (0x83, 36, c.algs, .challenge t req),
       (0xE0, if bit (leAt req 2 1) 0 then 37 else 4, c.algs, .getMeasurements t req)]
    (∀ r ∈ rows,
      (spdmCode req ≠ r.1 → exec r.2.2.2 s = goes s s.dev) ∧
      (spdmCode req = r.1 → s.dev.prefect.boot ≠ .active → exec r.2.2.2 s = err 3 0) ∧
      (spdmCode req = r.1 → s.dev.prefect.boot = .active → r.2.2.1 = false → exec r.2.2.2 s = err 4 0) ∧
      (spdmCode req = r.1 → s.dev.prefect.boot = .active → r.2.2.1 = true →
        (leAt req 0 1 ≠ (if r.1 = 0x84 then 0x10 else 0x12) → exec r.2.2.2 s = err 0x41 0) ∧
        (leAt req 0 1 = (if r.1 = 0x84 then 0x10 else 0x12) → req.length < r.2.1 ∨ 4096 < req.length → exec r.2.2.2 s = err 1 0))) ∧
    (spdmCode req ∈ [0x84, 0xE1, 0xE3, 0x81, 0x82, 0x83, 0xE0] → exec (.spdmUnsupportedRequest t req) s = goes s s.dev) ∧
    (spdmCode req ∉ [0x84, 0xE1, 0xE3, 0x81, 0x82, 0x83, 0xE0] → exec (.spdmUnsupportedRequest t req) s =
      if s.dev.prefect.boot = .active then err 7 (spdmCode req) else err 3 0) ∧
    (s.dev.prefect.boot = .active → spdmCode req = 0x84 → leAt req 0 1 = 0x10 → 4 ≤ req.length → req.length ≤ 4096 →
      sends s.dev (.getVersion t req) 0x10 4 0 0 (fun r => { version := true, vca := req ++ r })) ∧
    (s.dev.prefect.boot = .active → leAt req 0 1 = 0x12 → req.length ≤ 4096 →
      (spdmCode req = 0xE1 → 20 ≤ req.length → c.version = true → c.caps = false → c.algs = false →
        sends s.dev (.getCapabilities t req) 0x12 0x61 0 0 (fun r => { c with caps := true, vca := c.vca ++ req ++ r })) ∧
      (spdmCode req = 0xE3 → 32 ≤ req.length → c.caps = true → c.algs = false →
        sends s.dev (.negotiateAlgorithms t req) 0x12 0x63 0 0 (fun r => { c with algs := true, vca := c.vca ++ req ++ r })) ∧
      (c.algs = true →
        (spdmCode req = 0x81 → 4 ≤ req.length → sends s.dev (.getDigests t req) 0x12 0x01 0 1 (fun r =>
          { c with transcript := c.transcript ++ req ++ r, measTranscript := [] })) ∧
        (spdmCode req = 0x82 → 8 ≤ req.length →
          (leAt req 2 1 % 16 ≠ 0 ∨ (certChain s.dev).length ≤ leAt req 4 2 → exec (.getCertificate t req) s = err 1 0) ∧
          (leAt req 2 1 % 16 = 0 → leAt req 4 2 < (certChain s.dev).length → sends s.dev (.getCertificate t req) 0x12 0x02 0 0
            (fun r => { c with transcript := c.transcript ++ req ++ r, measTranscript := [] }))) ∧
        (spdmCode req = 0x83 → 36 ≤ req.length →
          (lifeCycle s.dev.fuses = 3 → exec (.challenge t req) s = err 7 0x83) ∧
          (lifeCycle s.dev.fuses ≠ 3 → leAt req 2 1 = 0 → leAt req 3 1 = 0 ∨ leAt req 3 1 = 1 ∨ leAt req 3 1 = 0xFF →
            sends (drbgUsed (drbgUsed (draw s.dev) 32) 32) (.challenge t req) 0x12 0x03 0 1
              (fun _ => { c with transcript := [], measTranscript := [] }))) ∧
        (spdmCode req = 0xE0 → 4 ≤ req.length → leAt req 3 1 ≤ 9 ∨ leAt req 3 1 = 0xFF →
          let count := if leAt req 3 1 = 0 then 9 else 0
          (bit (leAt req 2 1) 0 = false → sends (drbgUsed s.dev 32) (.getMeasurements t req) 0x12 0x60 count 0 (fun r =>
            { c with measTranscript := c.measTranscript ++ req ++ r })) ∧
          (bit (leAt req 2 1) 0 = true → 37 ≤ req.length →
            (lifeCycle s.dev.fuses = 3 → exec (.getMeasurements t req) s = err 7 0xE0) ∧
            (lifeCycle s.dev.fuses ≠ 3 → leAt req 36 1 % 16 = 0 → sends (drbgUsed (drbgUsed s.dev 32) 32) (.getMeasurements t req)
              0x12 0x60 count 0 (fun _ => { c with measTranscript := [] })))))) ∧
    (∀ i : JtagInstr, exec (.jtagInstruction i) s = goes s { s.dev with out := .jtag (match jtagScope i with
      | none => i
      | some k => if bit (scopesOpen s.dev) k then i else .bypass) :: s.dev.out })

/-! ### Power and reset -/

/-- What a warm reset that does not meet another leaves (R389, R508, R509, R522, R526 to R528): it is counted and recorded with its
cause and source; cores, Bells, Timetable and fabric IDs start again; scratchpads are lost, and HBM unless KEEP_HBM acts; host
memory, fuses, flash, the event log, the time base and HIF_WIN stay. A cold reset also takes the strap, the trim and the fabric
timeout again. A warm reset that asserts together with a cold one is only counted. The model's own choices that it rests on: log
entries 6, 94, 96. -/
def Obligations.ResetEffects : Prop :=
  ∀ (d : Dev) (cause src : Nat), cause < 16 → src < 65536 →
    (resetTogether d = true → d.rp.lastKind = .cold → warmReset d cause src = { d with rp := { d.rp with
      cnt := mapPut d.rp.cnt cause (satAdd (mapGet 0 d.rp.cnt cause) 1), resetAt := some (nowUs d) } }) ∧
    (resetTogether d = false →
    let w := warmReset d cause src
    let c := coldReset d cause src
    (w.rp.lastCause.toNat = cause ∧ w.rp.lastKind = .warm ∧ w.rp.lastSrc.toNat = src ∧ w.rp.done = false ∧
      mapGet 0 w.rp.cnt cause = satAdd (mapGet 0 d.rp.cnt cause) 1 ∧ w.cores = [] ∧ w.bells = [] ∧ w.ttl = {} ∧ w.copy = {} ∧
      w.det = {} ∧ w.fab.id = 0xFFFF ∧ w.host.syll = false ∧ w.host.winHi = d.host.winHi ∧ w.reg.log = d.reg.log ∧
      w.fuses = d.fuses ∧ w.flash = d.flash ∧ w.glb.timeUs = d.glb.timeUs ∧ w.rp.strap = d.rp.strap ∧ w.edgeWrites = [] ∧
      w.rp.step = (if d.rp.step = 1 ∨ d.rp.step = 2 then 1 else 3)) ∧
    (c.rp.lastCause.toNat = cause ∧ c.rp.lastKind = .cold ∧ c.cores = [] ∧ c.ttl = {} ∧ c.hbm = [] ∧ c.cxl = [] ∧ c.host = {} ∧
      c.fab.timeout = 0x28 ∧ c.rp.strap = 0 ∧ c.rp.trimV = false ∧ c.rp.step = 1 ∧ c.reg.log = d.reg.log ∧ c.fuses = d.fuses ∧
      c.flash = d.flash ∧ c.pace.tgt = 0x28 ∧ c.glb.scratch = 0 ∧ c.glb.timeUs = d.glb.timeUs) ∧
    (copyCfg d = none → ∀ a,
      (a < 0x100000000000 → memByte c.mem a = 0 ∧ memByte w.mem a = (if keepsHbm d cause then memByte d.mem a else 0)) ∧
      (0x200000000000 ≤ a → a < 0x300000000000 → memByte c.mem a = 0 ∧ memByte w.mem a = 0) ∧
      (0x300000000000 ≤ a → memByte c.mem a = memByte d.mem a ∧ memByte w.mem a = memByte d.mem a)))

/-- The sources of a reset and the supply events (R500 to R507, R510, R511, R526, R527, R531, R541): each row's own effect, and
nothing where its condition does not hold. The model's own choices that it rests on: log entries 18, 98, 108, 109. -/
def Obligations.PowerAndResetSources : Prop :=
  ∀ (s : State),
    let d := s.dev
    let r := d.rp
    let standby := fun (cause : Nat) =>
      let w := warmReset { d with rp := { r with switchOpen := true, vinGood := false } } cause 0xFFFF
      { w with rp := { w.rp with pwr := .standby } }
    (r.vauxOk = true → exec .powerOn s = goes s d) ∧
    (r.vauxOk = false →
      let c := coldReset { d with rp := { r with vauxOk := true } } 1 0xFFFF
      exec .powerOn s = goes s { c with reg := {}, glb := {}, rp := { c.rp with resetAt := none, lastEarly := false } }) ∧
    (r.vauxOk = false → ∀ held, exec (.vauxLoss held) s = goes s d) ∧
    (r.vauxOk = true → ∃ t u, exec (.vauxLoss true) s = goes s t ∧ exec (.vauxLoss false) s = goes s u ∧
      t.rp.vauxOk = false ∧ t.rp.vinGood = false ∧ t.reg = {} ∧ t.glb = {} ∧ t.rp.cnt = r.cnt ∧ t.rp.lastCause = r.lastCause ∧
      t.rp.lastKind = r.lastKind ∧ t.rp.lastSrc = r.lastSrc ∧ t.cores = [] ∧ t.ttl = {} ∧ t.flash = d.flash ∧ t.fuses = d.fuses ∧
      u = { t with freeCtr := t.freeCtr + 1, rp := { t.rp with
        cnt := u.rp.cnt, lastCause := u.rp.lastCause, lastKind := u.rp.lastKind, lastEarly := u.rp.lastEarly,
        lastBlock := u.rp.lastBlock, lastSrc := u.rp.lastSrc } }) ∧
    (r.switchOpen = true ∨ r.overvolt = true → exec .vinGood s = goes s d) ∧
    (r.switchOpen = false → r.overvolt = false → ∃ t, exec .vinGood s = goes s t ∧
      t = draw { d with rp := { r with vinGood := true, vinMv := t.rp.vinMv } } ∧
      (r.vinGood = true → t.rp.vinMv = r.vinMv) ∧ (r.vinGood = false → 43000 ≤ t.rp.vinMv.toNat ∧ t.rp.vinMv.toNat ≤ 62000)) ∧
    (∀ mv : BitVec 16, exec (.powerFail mv) s = goes s (if r.pfail then d else
      logEvent { d with rp := { r with pfail := true, vinMv := mv } } 0x0201 0x100 0xFFFF (leBytes 4 mv.toNat))) ∧
    (exec .powerFailClear s = goes s { d with rp := { r with pfail := false, switchOpen := r.overvolt && r.switchOpen } }) ∧
    (exec .vinLoss s = goes s (if r.switchOpen then d else standby 2)) ∧
    (∀ mv : BitVec 32, exec (.vinOvervoltage mv) s = goes s (if r.overvolt then d else
      logEvent { standby 0xC with rp := { (standby 0xC).rp with overvolt := true } } 0x0206 0x100 0xFFFF (leBytes 4 mv.toNat))) ∧
    (exec .overvoltageClear s = goes s (if r.overvolt then { d with rp := { r with overvolt := false, switchOpen := false } } else d)) ∧
    (exec .railFault s = goes s (if 5 ≤ r.step then warmReset d 0xB 0xFFFF else d)) ∧
    (∀ c : BitVec 8, exec (.thermalTrip c) s = goes s (if c.toNat < 115 ∨ r.thold = true then d else
      { warmReset d 9 0xFFFF with rp := { (warmReset d 9 0xFFFF).rp with thold := true, dieTemp := c } })) ∧
    (exec .thermalHoldEnd s = goes s { d with rp := { r with thold := false } }) ∧
    (∀ sensor c : BitVec 8,
      let d1 := logEvent { d with rp := { r with dieTemp := c } } 0x0204 0x100 0xFFFF (leBytes 1 sensor.toNat ++ leBytes 1 c.toNat)
      (c.toNat < 105 → exec (.thermalWarning sensor c) s = goes s d) ∧
      (105 ≤ c.toNat → d.reg.fw = false → exec (.thermalWarning sensor c) s = goes s d1) ∧
      (105 ≤ c.toNat → d.reg.fw = true → ∃ code : Byte, exec (.thermalWarning sensor c) s = goes s
        (if 0x28 ≤ code.toNat ∧ code.toNat ≤ 0xA0 then paceChanged { draw d1 with pace := { d.pace with therm := code } }
          else logEvent (draw d1) 0x0301 0x102 0xFFFF [code]))) ∧
    (exec .watchdogExpiry s = goes s (if d.reg.fw then warmReset d 7 0xFFFF else d)) ∧
    (exec (.resetIn true) s = goes s (if r.resetInLow then d else coldReset { d with rp := { r with resetInLow := true } } 4 0xFFFF)) ∧
    (exec (.resetIn false) s = goes s { d with rp := { r with resetInLow := false } }) ∧
    (awake s →
      let e := clearFault d 0x10000
      (∀ value : Word,
        let v := value.toNat
        let e1 := { e with rp := { r with
          swKind := bit v 1, keepHbm := bit v 2, cnt := if bit v 3 then [] else r.cnt } }
        exec (.swrst value) s = goes s (if bit v 0 then (if bit v 1 then coldReset e1 5 0xFFFF else warmReset e1 5 0xFFFF) else e1)) ∧
      exec .rstClrcnt s = goes s { e with rp := { r with cnt := [] } })

/-- The release order (R408, R424, R425, R455, R475, R479, R497, R512 to R517): each step takes place when its conditions hold and
leads to the next, and otherwise changes nothing; the strap is the code of the first group of eight samples that agree; the trim
load gives TRIM_V, TRIM_DEF and the settings; a Prefect whose self-tests fail enters the error state; the rails of a controller or
a die rise before its regions, in turn, are released; a group that is not ready waits; a region that is stable is released, one
that is not stays in reset with an event, and a crossing out of its bounds marks both its regions failed; the last step sets DONE
and logs 0x0101. The model's own choices that it rests on: log entries 73, 82, 93, 95, 97, 123, 125. -/
def Obligations.ReleaseOrder : Prop :=
  ∀ (s : State) (mv : List Nat) (pass : Bool) (cs : List Crossing),
    let d := s.dev
    let r := d.rp
    let run := exec (.releaseStep mv pass cs) s
    (r.step = 1 → r.vauxOk = true → r.resetInLow = false → run =
      goes s { d with rp := { r with strap := BitVec.ofNat 4 (strapMeasure 17 mv), strapDone := true, step := 2, turn := 0 },
                      fab := { d.fab with root := strapRoot (strapMeasure 17 mv) } }) ∧
    (r.step = 1 → r.vauxOk = false ∨ r.resetInLow = true → run = goes s d) ∧
    (∀ x : Nat, (∀ i, i < 8 → mv[i]? = some x) → strapMeasure 17 mv = min 15 (x / 100)) ∧
    (r.step = 2 → run = goes s d ∧
      let valid := (copyInForce d trimRegion).isSome
      let noted := if valid then d else logEvent d 0x0102 0x103 0xFFFF []
      exec (.trimLoadDone (!valid)) s = goes s d ∧
      ∃ t, exec (.trimLoadDone valid) s = goes s t ∧ t.reg = noted.reg ∧ t.host = { noted.host with cfg := configOf d (settingsBody d) } ∧
        t.rp = { r with step := 3, turn := 0, trimV := true, trimDef := !valid, settings := settingsBody d } ∧
        t.glb = { d.glb with serial := BitVec.ofNat 64 (flashSerial d) } ∧ t.mem = d.mem ∧ t.pace = d.pace ∧
        ∀ p, p < 12 → fabPort t p = portSetting { d with rp := t.rp } p (fabPort d p)) ∧
    (r.step ≠ 2 → ∀ valid, exec (.trimLoadDone valid) s = goes s d) ∧
    (r.step = 3 → (r.trimV = false → run = goes s d) ∧
      (r.trimV = true →
        let go := { r with step := 4, turn := 0 }
        let src := strapSource r.strap.toNat
        (pass = false → run = goes s { prefectError d with rp := go }) ∧
        (pass = true → (lifeCycle d.fuses ≠ 0 ∨ d.fuses.idMod ≠ 0) → run = goes s { d with rp := go, prefect := { d.prefect with
          source := src, boot := if src = .recovery then .recWaiting else .waiting, recCause := if src = .recovery then 1 else 0 } }) ∧
        (pass = true → lifeCycle d.fuses = 0 → d.fuses.idMod = 0 → ∃ t, run = goes s t ∧ t.rp = go ∧ t.prefect.source = src ∧
          t.prefect.boot = (if src = .recovery then .recWaiting else .waiting) ∧
          t.fuses = { d.fuses with idMod := t.fuses.idMod, idExp := t.fuses.idExp } ∧
          (t.fuses.idMod ≠ 0 → bitLen t.fuses.idMod = 3072)))) ∧
    (r.step = 4 → run = goes s { d with reg := { d.reg with running := true }, rp := { r with step := 5, turn := 0 } }) ∧
    (r.step = 5 →
      (r.vinGood = true → r.perstLow = false → r.resetInLow = false → r.thold = false → r.switchOpen = false →
        ∃ t, run = goes s t ∧ t = draw { d with
            rp := { r with step := 6, turn := 0, pwr := if r.pwr = .standby then .on else r.pwr }
            host := { d.host with rate := t.host.rate, width := t.host.width } } ∧
          4 ≤ t.host.rate.toNat ∧ t.host.rate.toNat ≤ 6 ∧ t.host.width.toNat ∈ [1, 2, 4, 8, 16]) ∧
      (r.vinGood = false ∨ r.perstLow = true ∨ r.resetInLow = true ∨ r.thold = true ∨ r.switchOpen = true → run = goes s d)) ∧
    (r.step = 6 → run = goes s { d with rp := { r with step := 7, turn := 0 } }) ∧
    (r.step = 7 →
      let q := 224 + r.turn
      ((pacerOf d q).state = .inReset → run = goes s (startPacers d [q])) ∧
      ((pacerOf d q).state = .trimming → run = goes s d) ∧
      ((pacerOf d q).state = .stable ∨ (pacerOf d q).state = .failed → run = goes s { releaseGroup d [q] cs with
        rp := if r.turn < 11 then { r with turn := r.turn + 1 } else { r with step := 8, turn := 0 } })) ∧
    (∀ die sub, (r.step = 8 ∧ die = 0 ∧ sub = r.turn) ∨ (r.step = 9 ∧ die = 1 + r.turn / 8 ∧ sub = r.turn % 8) →
      (sub = 0 → run = goes s { startPacers d (dieRegions die) with rp := { r with turn := r.turn + 1 } }) ∧
      (0 < sub →
        (groupReady d (rowRegions die (sub - 1)) = false → run = goes s d) ∧
        (groupReady d (rowRegions die (sub - 1)) = true → run = goes s { releaseGroup d (rowRegions die (sub - 1)) cs with
          rp := if r.step = 8 ∧ sub = 7 then { r with step := 9, turn := 0 }
            else if r.step = 9 ∧ r.turn = 23 then { r with step := 10, turn := 0 } else { r with turn := r.turn + 1 } }))) ∧
    (r.step = 10 → run = goes s (logEvent { d with rp := { r with
      done := true, pwr := .on, step := 11, turn := 0 } } 0x0101 0x103 0xFFFF (leBytes 4 (rstLast d)))) ∧
    (r.step = 0 ∨ 11 ≤ r.step → run = goes s d) ∧
    (∀ (e : Dev) rs q, pacerOf (startPacers e rs) q = (if q ∈ rs ∧ (pacerOf e q).state = .inReset then { pacerOf e q with
      state := .trimming, inBand := 0, released := false, delay := freeWord e 10 q } else pacerOf e q)) ∧
    (∀ (e : Dev) rs q, pacerOf (releaseGroup e rs []) q =
      (if q ∈ rs ∧ (pacerOf e q).state = .stable then { pacerOf e q with released := true } else pacerOf e q)) ∧
    (∀ (e : Dev) q, (pacerOf e q).state = .failed →
      releaseGroup e [q] [] = logEvent e 0x0104 0x103 0xFFFF (leBytes 1 q)) ∧
    (∀ (e : Dev) rs (c : Crossing), c.a ∈ rs → c.a < 236 → c.b < 236 → (pacerOf e c.a).state = .stable → (pacerOf e c.b).state = .stable →
      let count := (c.trip + 624) / 625 + 2
      let bad := fun (p : Pacer) => { p with state := .failed, released := false }
      calibrate e rs [c] = if c.fwd ≤ 500 * crossBeats c.kind ∧ count ≤ 16 then
          { e with pace := { e.pace with
            tokens := ((c.a, c.b), count) :: e.pace.tokens.filter (fun t => t.1 != (c.a, c.b)) } }
        else logEvent (modPacer (modPacer e c.a bad) c.b bad) 0x0304 0x102 0xFFFF (leBytes 1 c.a ++ leBytes 1 c.b))

/-- Block reset (R402, R518 to R521, R523, R533, R539): a write of RST_BLOCK takes BLK, and GO is refused with its reason and an
event, or asks the block to go idle; an idle block is reset at once with HONOURED 1, and after RST_BLKTO with HONOURED 0; before
either nothing changes. A core that is reset is idle with every register at its Block value and keeps its ring step counts; a
controller keeps its error counts and retrains; a tier manager's cache is empty; a port retrains. The reset is counted under cause
0xA and recorded, and the block's shadow copies take their Block values. The model's own choices that it rests on: log entries 6,
103, 126. -/
def Obligations.BlockResets : Prop :=
  ∀ (s : State),
    (awake s → ∀ value : Word,
      let blk := value.toNat % 256
      let d := clearFault s.dev 0x10008
      let d1 := { d with rp := { s.dev.rp with blk := BitVec.ofNat 8 blk } }
      (bit value.toNat 8 = false → exec (.blockResetGo value) s = goes s d1) ∧
      (bit value.toNat 8 = true →
        (∀ why, blockRefused s.dev blk = why → why ≠ 0 → exec (.blockResetGo value) s = goes s (logEvent d1 0x0105 0x103 0xFFFF
          (leBytes 1 0 ++ leBytes 1 why ++ leBytes 2 blk))) ∧
        (blockRefused s.dev blk = 0 →
          let d2 := { d1 with rp := { d1.rp with
            blockReset := some { block := BitVec.ofNat 8 blk, requester := 0, since := s.dev.glb.timeUs.toNat } } }
          (∀ v, blk < 0xE0 → regionCore s.dev blk = some v → exec (.blockResetGo value) s = goes s (haltReqAt d2 v)) ∧
          (0xE0 ≤ blk → exec (.blockResetGo value) s = goes s d2)))) ∧
    (∀ blk, blockRefused s.dev blk = (if s.dev.rp.done = false then 4 else if s.dev.rp.blockReset ≠ none then 1
      else if blk = 0xEE ∨ blk = 0xEF ∨ 0xFC ≤ blk then 2 else if blk < 0xE0 ∧ regionCore s.dev blk = none then 3 else 0)) ∧
    (∀ b, s.dev.rp.blockReset = some b →
      let k := b.block.toNat
      let ended := fun (honoured : Bool) => (.next : State → Answer)
        { s with dev := blockDone (beforeReset s.dev k honoured) honoured, shadow := shadowReset s.shadow k }
      (blockIsIdle s.dev k = false → exec .blockIdle s = goes s s.dev) ∧ (blockIsIdle s.dev k = true → exec .blockIdle s = ended true) ∧
      (nowUs s.dev < b.since + blockTimeout s.dev → exec .blockResetTimeout s = goes s s.dev) ∧
      (b.since + blockTimeout s.dev ≤ nowUs s.dev → exec .blockResetTimeout s = ended false)) ∧
    (s.dev.rp.blockReset = none → exec .blockIdle s = goes s s.dev ∧ exec .blockResetTimeout s = goes s s.dev) ∧
    (∀ (d : Dev) blk, beforeReset d blk true = d) ∧
    (∀ (d : Dev) (honoured : Bool) b, d.rp.blockReset = some b → d.rp.blockQueue = [] → ∃ t, blockDone d honoured = t ∧
        t.rp.blockReset = none ∧ t.rp.honoured = honoured ∧ t.rp.lastCause = 0xA ∧ t.rp.lastKind = .block ∧ t.rp.lastBlock = b.block ∧
        mapGet 0 t.rp.cnt 0xA = satAdd (mapGet 0 d.rp.cnt 0xA) 1 ∧ t.reg.log.head?.map (·.code) = some 0x0103 ∧
        (∀ v, b.block.toNat < 0xE0 → regionCore d b.block.toNat = some v → coreOf t v = { ringSteps := (coreOf d v).ringSteps }) ∧
        (∀ c, c < 12 → b.block.toNat = 0xE0 + c → hbmOf t c = {
          ceCnt := (hbmOf d c).ceCnt, ueCnt := (hbmOf d c).ueCnt, ueAddr := (hbmOf d c).ueAddr, refreshes := (hbmOf d c).refreshes,
          state := if syllActive d then .training else .off, selfRefresh := honoured }) ∧
        (∀ p, p < 2 → b.block.toNat = 0xEC + p → (cxlOf t p).lines = [] ∧ (cxlOf t p).hit = 0 ∧ (cxlOf t p).miss = 0 ∧
          (cxlOf t p).wb = 0 ∧ (cxlOf t p).logBank = false ∧ (cxlOf t p).ueCnt = (cxlOf d p).ueCnt) ∧
        (∀ p, p < 12 → b.block.toNat = 0xF0 + p → (fabPort t p).state = (if (fabPort d p).heldDown then .down else .training) ∧
          (fabPort t p).replay = (if honoured then (fabPort d p).replay else [])))

/-- The Registrar's commands (R411, R507, R524, R525, R550, R551): a request with a wrong length or field is answered 2, one that the
firmware or the state of the device does not allow 3, and one that meets a settings write or a sag 5; INFO, LOG_READ, TOPO_READ
and SETTINGS_READ answer with their records; WATCHDOG takes a period of 10 to 60,000 ms; PACE_REQ answers with the target or a
refusal; POWER_STATE enters park and sleep from on while no epoch runs, waits while one does, and wakes a sleeping device; a
reserved command is answered 1; a command that is not asked changes nothing. The model's own choices that it rests on: log entries
74, 101, 102. -/
def Obligations.RegistrarCommands : Prop :=
  ∀ (s : State),
    let d := s.dev
    let answer := fun (status : Nat) (bs : List Byte) => regRespond d status bs
    let gated := fun (len : Nat) (fields allowed : Prop) [Decidable fields] [Decidable allowed] (act : Dev) =>
      if mbLen d.reg.mb ≠ len ∨ ¬fields then answer 2 [] else if ¬allowed then answer 3 []
      else if d.reg.write ≠ none ∨ d.reg.sag ≠ none then answer 5 [] else act
    let n := mbField d.reg.mb 4 2
    let fw := d.reg.fw = true
    (regAsked d 1 = true → exec .info s = goes s (gated 0 True True
      (answer 0 (if fw then leBytes 4 (compVersion d 2) ++ leBytes 4 d.reg.wdPeriod.toNat else List.replicate 8 0)))) ∧
    (regAsked d 3 = true → let es := logFrom d (BitVec.ofNat 32 (mbField d.reg.mb 0 4)) n
      exec .logRead s = goes s (gated 6 (1 ≤ n ∧ n ≤ 127) True
        (answer 0 (leBytes 4 (oldestSeq d).toNat ++ leBytes 4 es.length ++ es.flatMap logBytes)))) ∧
    (regAsked d 4 = true → exec .topoRead s = goes s (gated 6 (1 ≤ n ∧ n ≤ 4064) (fw ∧ d.fab.rc = .complete)
      (answer 0 ((d.fab.record.drop (mbField d.reg.mb 0 4)).take n)))) ∧
    (regAsked d 5 = true → let code := mbField d.reg.mb 0 1
      let may := mbLen d.reg.mb = 1 ∧ 0x28 ≤ code ∧ code ≤ 0xA0 ∧ fw ∧ d.reg.write = none ∧ d.reg.sag = none
      (¬may → exec .paceReq s = goes s (gated 1 (0x28 ≤ code ∧ code ≤ 0xA0) fw d)) ∧
      (may → ∃ t, exec .paceReq s = goes s t ∧
        (t = regRespond (draw d) 4 [] ∨ ∃ c : Byte,
          (0x28 ≤ c.toNat ∧ c.toNat ≤ 0xA0 ∧
            let e := paceChanged { draw d with pace := { d.pace with tgt := c, upBlocked := false } }
            e.pace.tgt = c ∧ t = regRespond e 0 [c]) ∨
          ((c.toNat < 0x28 ∨ 0xA0 < c.toNat) ∧
            t = regRespond (logEvent { draw d with pace := { d.pace with upBlocked := false } } 0x0301 0x102 0xFFFF [c]) 0 [d.pace.tgt])))) ∧
    (regAsked d 7 = true → exec .settingsRead s = goes s (gated 0 True fw (answer 0 (settingsBody d)))) ∧
    (regAsked d 10 = true → let ms := mbField d.reg.mb 0 4
      exec .watchdog s = goes s (gated 4 (10 ≤ ms ∧ ms ≤ 60000) fw
        (regRespond { d with reg := { d.reg with wdPeriod := BitVec.ofNat 32 ms } } 0 []))) ∧
    (regAsked d (mbCmd d.reg.mb) = true → mbCmd d.reg.mb = 0 ∨ 0xB ≤ mbCmd d.reg.mb →
      exec .registrarReservedCommand s = goes s (answer 1 [])) ∧
    (regAsked d 6 = true → let want := mbField d.reg.mb 0 1
      let into := fun (p : PwrState) (code : Byte) => regRespond { d with rp := { d.rp with pwr := p } } 0 [code]
      let sleeps := regRespond { d with
        rp := { d.rp with pwr := .sleep }, hbm := d.hbm.map (fun h => (h.1, { h.2 with selfRefresh := true })) } 0 [2]
      exec .powerState s = goes s (gated 1 (want ≤ 2) (fw ∧ powerAllowed d = true) (match d.rp.pwr with
        | .on => if want = 0 then answer 0 [0] else if d.pace.busy then d else if want = 1 then into .park 1 else sleeps
        | .park => if want = 0 then into .on 0 else if want = 1 then answer 0 [1] else sleeps
        | .sleep => if want = 2 then answer 0 [2] else regRespond (wakeUp d) 0 [0]
        | .standby => answer 0 [3]))) ∧
    (∀ e : Dev, (wakeUp e).rp.step = 7 ∧ (wakeUp e).rp.turn = 0 ∧ (wakeUp e).rp.done = false ∧ (wakeUp e).rp.pwr = .on ∧
      (∀ v, v < gridCores e → coreOf (wakeUp e) v = { ringSteps := (coreOf e v).ringSteps }) ∧
      (∀ c, (hbmOf (wakeUp e) c).selfRefresh = false) ∧
      ∀ q, (pacerOf (wakeUp e) q).released = false ∧ (pacerOf (wakeUp e) q).state = .inReset) ∧
    (∀ x ∈ [(1, Instr.info), (3, .logRead), (4, .topoRead), (5, .paceReq), (6, .powerState), (7, .settingsRead), (10, .watchdog)],
      regAsked d x.1 = false → exec x.2 s = goes s d)

/-- Hold-up and the settings flash (R486 to R488, R504): HOLDUP, or a settings write that waits for a measurement, opens the switch
with the power and voltage at its start; the end of the sag gives C and E_h by R504 when they fit their registers, marks them
valid, logs them and answers; a VIN too low ends it without a result; the measurement expires; SETTINGS_WRITE is refused by its
checks, and otherwise erases the copy that is not in force; each page waits for its energy check, the body first, then the commit
page with the next sequence number, and then the new body is in force; the recheck does so later; the timeout gives up with status
6 and an event. The model's own choices that it rests on: log entries 99, 100. -/
def Obligations.HoldUpAndSettings : Prop :=
  ∀ (s : State),
    let d := s.dev
    let answer := fun (d : Dev) (status : Nat) => regRespond d status []
    (∀ mw v1,
      let opens := { d with
        reg := { d.reg with sag := some { mw := if mw < 100000 then 150000 else mw, v1 := v1 } }
        rp := { d.rp with vinMv := BitVec.ofNat 16 v1 } }
      (d.reg.sag ≠ none → exec (.holdup mw v1) s = goes s d) ∧
      (d.reg.write ≠ none → d.reg.sag = none → d.rp.huValid = false → d.rp.vinGood = true → exec (.holdup mw v1) s = goes s opens) ∧
      (d.reg.write = none → d.reg.sag = none →
        (regAsked d 9 = false → exec (.holdup mw v1) s = goes s d) ∧
        (regAsked d 9 = true → exec (.holdup mw v1) s = goes s (
          if mbLen d.reg.mb ≠ 0 then answer d 2 else if d.reg.fw = false ∨ d.rp.vinGood = false then answer d 3 else opens)))) ∧
    (∀ g v2 ns, d.reg.sag = none ∨ (d.reg.sag = some g ∧ (20000 < ns ∨ (ns < 20000 ∧ g.v1 < v2 + 1000))) →
      exec (.sagEnd v2 ns) s = goes s d) ∧
    (∀ g v2 ns, d.reg.sag = some g → ns = 20000 ∨ (ns < 20000 ∧ v2 + 1000 ≤ g.v1) →
      let den := g.v1 * g.v1 - v2 * v2
      let cap := 2 * g.mw * ns / den
      let eh := g.mw * ns * (g.v1 * g.v1 - 41000 * 41000) / (den * 1000000000)
      ∃ t, exec (.sagEnd v2 ns) s = goes s t ∧
        (0 < den → cap < 65536 → t.rp.capUf.toNat = cap) ∧ (0 < den → eh < 65536 → t.rp.ehMj.toNat = eh) ∧
        let res := leBytes 4 t.rp.capUf.toNat ++ leBytes 4 t.rp.ehMj.toNat
        let e := logEvent { draw d with
          reg := { d.reg with sag := none }
          rp := { d.rp with capUf := t.rp.capUf, ehMj := t.rp.ehMj, huValid := true } } 0x0202 0x100 0xFFFF res
        t = if d.reg.write = none then regRespond e 0 res else flashCheck e) ∧
    (d.reg.sag = none → exec .sagVinLow s = goes s d) ∧
    (d.reg.sag ≠ none → let e := { d with reg := { d.reg with sag := none } }
      (d.reg.write ≠ none → exec .sagVinLow s = goes s e) ∧
      (d.reg.write = none → exec .sagVinLow s = goes s (answer (draw e) (freeWord e 16 0).toNat))) ∧
    (exec .holdupMeasurementExpiry s = goes s { d with rp := { d.rp with huValid := false } }) ∧
    (∀ mv : BitVec 16,
      let e := { d with rp := { d.rp with vinMv := mv } }
      let body := mbBytes d.reg.mb 0 64
      (regAsked d 8 = false ∨ d.reg.write ≠ none → exec (.settingsWrite mv) s = goes s d) ∧
      (regAsked d 8 = true → d.reg.write = none → exec (.settingsWrite mv) s = goes s (
        if mbLen d.reg.mb ≠ 64 ∨ settingsOk body = false then answer e 2
        else if d.reg.fw = false ∨ lifeCycle d.fuses = 3 ∨ d.rp.vinGood = false ∨ d.rp.pfail = true ∨ mv.toNat < 44000 ∨
          60000 < mv.toNat then answer e 3
        else if d.reg.sag ≠ none then answer e 5
        else flashCheck { flashErase e (spareCopy d) 0x10000 with
          reg := { d.reg with write := some { body := body, base := spareCopy d } } })) ∧
      (d.reg.write = none ∨ d.reg.sag ≠ none → exec (.holdupRecheck mv) s = goes s d) ∧
      (d.reg.write ≠ none → d.reg.sag = none → exec (.holdupRecheck mv) s = goes s (flashCheck e))) ∧
    (∀ (e : Dev) w, e.reg.write = some w →
      (energyOk e = false → flashCheck e = e) ∧
      (energyOk e = true →
        (w.commit = false → flashCheck e = { flashProgram e w.base w.body with
          reg := { e.reg with write := some { w with commit := true } } }) ∧
        (w.commit = true → flashCheck e = regRespond { flashProgram e (w.base + 0xFF00) (commitPage (settingsSeq e + 1) w.body) with
          reg := { e.reg with write := none } } 0 []))) ∧
    (∀ (e : Dev) (body : List Byte), body.length = 64 → settingsSeq e + 1 < 2 ^ 32 → e.flash.Pairwise (fun p q => p.1 < q.1) →
      let base := spareCopy e
      let f := flashProgram (flashProgram (flashErase e base 0x10000) base body) (base + 0xFF00) (commitPage (settingsSeq e + 1) body)
      settingsBody f = body ∧ settingsSeq f = settingsSeq e + 1 ∧
        ∀ a, a < base ∨ base + 0x10000 ≤ a → flashRead f a 1 = flashRead e a 1) ∧
    (d.reg.write = none → exec .flashWriteTimeout s = goes s d) ∧
    (d.reg.write ≠ none → exec .flashWriteTimeout s = goes s (answer (logEvent { d with reg := { d.reg with write := none } }
      0x0203 0x100 0xFFFF (leBytes 1 2 ++ leBytes 4 d.rp.ehMj.toNat ++ leBytes 4 (recentPower d))) 6))

/-! ### Reset values and invariants -/

/-- The state after reset (R193, R331, R382, R412, R426, R428, R436, R452, R508, R512, R546, R556): step 1 of the release order with
the cause of power-on; nothing runs, nothing waits, no memory is listed; the pace, margin, fabric and interrupt registers hold the
values that their rules give, and so do the output pins. The model's own choices that it rests on: log entries 4, 104. -/
def Obligations.ResetState : Prop :=
  let d := State.reset.dev
  State.reset.pending = [] ∧ State.reset.shadow = d ∧ d.mem = [] ∧ d.rp.step = 1 ∧ d.rp.lastCause = 1 ∧ d.rp.lastKind = .cold ∧
  d.rp.done = false ∧ d.rp.blkTo = 0x64 ∧ d.host.syll = false ∧ d.host.msixMask = 0xFFFF ∧ d.pace.tgt = 0x28 ∧ d.pace.cur = 0x28 ∧
  d.pace.ceil = 0xA0 ∧ d.pace.limit = 0xC80 ∧ d.pace.fast = 0xDC0 ∧ d.fab.id = 0xFFFF ∧ d.fab.timeout = 0x28 ∧ d.fab.rc = .none ∧
  d.fab.ag = .none ∧ d.ttl.state = .none ∧ d.det.device = false ∧ d.copy.state = .noSection ∧
  (∀ v, (coreOf d v).state = .idle ∧ (coreOf d v).cmds = [] ∧ (coreOf d v).pc = 0) ∧
  (∀ k, (ctxOf d k).en = false ∧ (ctxOf d k).cores = 0 ∧ (ctxOf d k).job = none) ∧
  (∀ p, (fabPort d p).state = .down ∧ (fabPort d p).en = true ∧ (fabPort d p).chan = 2 ∧ (fabPort d p).nid = 0xFFFF) ∧
  (∀ c, (hbmOf d c).state = .off ∧ (hbmOf d c).scrubEn = true ∧ (hbmOf d c).scrubPeriod = 0x18) ∧
  (∀ r, (pacerOf d r).state = .inReset ∧ (pacerOf d r).level = 0) ∧ Safety.memOk State.reset ∧
  pinsOf d = { thermtripN := true, pwrfailN := true, ready := false, cxl0PerstN := false, cxl1PerstN := false, traceOpen := false }

/-- Every step keeps the memory of the device and of its shadow copy in canonical form (R10, R43): whatever command runs, addresses
rise strictly and no listed byte is zero. -/
def Obligations.StepKeepsMemoryForm : Prop :=
  ∀ (s t : State), memOk s → step s = .next t → memOk t

/-- Fuses only burn (R4, R21, R474, R476, R477, R479, R496): no step changes the grade, the silicon step, the dark rows, the half-bit
or BLANK, nor the identity key once there is one, or outside BLANK; a USED, REVOKED or key-kill fuse that reads 1 stays 1, the
fused security version does not fall, and the hash of a used slot stays. -/
def Obligations.FusesOnlyBurn : Prop :=
  ∀ (s t : State), step s = .next t →
    let f := s.dev.fuses
    let g := t.dev.fuses
    g.grade = f.grade ∧ g.step = f.step ∧ g.dark0 = f.dark0 ∧ g.dark1 = f.dark1 ∧ g.dark2 = f.dark2 ∧ g.dark3 = f.dark3 ∧
    g.half = f.half ∧ g.blank = f.blank ∧ (lifeCycle f ≠ 0 ∨ f.idMod ≠ 0 → g.idMod = f.idMod ∧ g.idExp = f.idExp) ∧
    f.svnMin ≤ g.svnMin ∧
    (f.keyKill = true → g.keyKill = true) ∧
    (∀ i, ((mapGet {} f.owner i).used = true → (mapGet {} g.owner i).used = true ∧ (mapGet {} g.owner i).hash = (mapGet {} f.owner i).hash) ∧
      ((mapGet {} f.owner i).revoked = true → (mapGet {} g.owner i).revoked = true)) ∧
    (∀ i, (mapGet {} g.vendor i).hash = (mapGet {} f.vendor i).hash ∧
      ((mapGet {} f.vendor i).revoked = true → (mapGet {} g.vendor i).revoked = true))
end

