-- ==== Sys2Proof/Laws/Map.lean ====
section
/-!
SUPPORT. What the operations of the sparse tables do: a read after a put.
-/
namespace Sys2Proof.Machine

/-- A key just put reads as the value put. -/
@[simp] theorem mapGet?_mapPut_same {α : Type} (m : NMap α) (k : Nat) (v : α) : mapGet? (mapPut m k v) k = some v := by
  induction m with
  | nil => simp [mapPut, mapGet?]
  | cons p r ih =>
    obtain ⟨a, w⟩ := p
    simp only [mapPut]
    split
    · simp [mapGet?]
    · split
      · simp [mapGet?]
      · rename_i h; simp [mapGet?, ih, Ne.symm h]

/-- A put leaves every other key as it was. -/
theorem mapGet?_mapPut_other {α : Type} (m : NMap α) (k j : Nat) (v : α) (h : j ≠ k) :
    mapGet? (mapPut m k v) j = mapGet? m j := by
  induction m with
  | nil => simp [mapPut, mapGet?, Ne.symm h]
  | cons p r ih =>
    obtain ⟨a, w⟩ := p
    simp only [mapPut]
    split
    · simp [mapGet?, Ne.symm h]
    · split
      · rename_i h1; subst h1; simp [mapGet?, Ne.symm h]
      · simp [mapGet?, ih]

/-- A second put under one key replaces the first. -/
@[simp] theorem mapPut_mapPut_same {α : Type} (m : NMap α) (k : Nat) (v w : α) :
    mapPut (mapPut m k v) k w = mapPut m k w := by
  induction m with
  | nil => simp [mapPut]
  | cons p r ih =>
    obtain ⟨a, x⟩ := p
    simp only [mapPut]
    split
    · simp [mapPut]
    · split
      · rename_i h1; subst h1; simp [mapPut]
      · rename_i h1 h2; simp [mapPut, h1, h2, ih]

@[simp] theorem mapGet_mapPut_same {α : Type} (d : α) (m : NMap α) (k : Nat) (v : α) : mapGet d (mapPut m k v) k = v := by
  simp [mapGet]

theorem mapGet_mapPut_other {α : Type} (d : α) (m : NMap α) (k j : Nat) (v : α) (h : j ≠ k) :
    mapGet d (mapPut m k v) j = mapGet d m j := by
  simp [mapGet, mapGet?_mapPut_other m k j v h]

end Sys2Proof.Machine
end

