-- ==== Sys2Proof/Laws/Core.lean ====
section
/-!
SUPPORT. What the shared operations on cores do: reading a core after a change, issue of the next command.
-/
namespace Sys2Proof.Machine
open Sys2Proof.Safety

@[simp] theorem coreOf_setCore_same (d : Dev) (v : Nat) (c : Core) : coreOf (setCore d v c) v = c := by
  simp [coreOf, setCore]
theorem coreOf_setCore_other (d : Dev) (v u : Nat) (c : Core) (h : u ≠ v) : coreOf (setCore d v c) u = coreOf d u := by
  simp [coreOf, setCore, mapGet_mapPut_other _ _ _ _ _ h]
@[simp] theorem setCore_setCore (d : Dev) (v : Nat) (b c : Core) : setCore (setCore d v b) v c = setCore d v c := by
  simp [setCore]
@[simp] theorem coreOf_modCore_same (d : Dev) (v : Nat) (f : Core → Core) : coreOf (modCore d v f) v = f (coreOf d v) := by
  simp [modCore]
theorem coreOf_modCore_other (d : Dev) (v u : Nat) (f : Core → Core) (h : u ≠ v) : coreOf (modCore d v f) u = coreOf d u := by
  simp [modCore, coreOf_setCore_other _ _ _ _ h]
/-- Two changes of one core are one. -/
@[simp] theorem modCore_modCore (d : Dev) (v : Nat) (f g : Core → Core) :
    modCore (modCore d v f) v g = modCore d v (fun c => g (f c)) := by
  simp [modCore]

/-- A core row of a running core has its effect. -/
theorem onCore_running (s : State) (v : Nat) (f : Dev → Dev) (h : running s v) : onCore s v f = goes s (f s.dev) := by
  obtain ⟨h1, h2⟩ := h
  simp [onCore, onClock, onDev, ran, goes, h1, h2]

/-- The next command issues, and the queues then work as far as they can. -/
theorem attempt_issues (d : Dev) (v w : Nat) (row : Nat → Bool) (h : issues d v w = true) (hr : row w = true) :
    attempt d v row = pump (issueCmd d v w) v := by
  simp only [issues, Bool.and_eq_true, beq_iff_eq, Option.isNone_iff_eq_none] at h
  obtain ⟨⟨⟨⟨h1, h2⟩, h3⟩, h4⟩, h5⟩ := h
  simp [attempt, h1, h2, h3, h4, h5, hr]

/-- A command row whose command issues. -/
theorem row_issues (s : State) (v w : Nat) (a : Answer) (row : Nat → Bool)
    (ha : a = onCore s v (fun d => attempt d v row)) (hr : running s v) (h : issues s.dev v w = true) (hw : row w = true) :
    a = goes s (pump (issueCmd s.dev v w) v) := by
  rw [ha, onCore_running s v _ hr, attempt_issues _ _ w _ h hw]

end Sys2Proof.Machine
end

