-- ==== Sys2Proof/Laws/Mail.lean ====
section
/-!
SUPPORT. What a read of a mailbox buffer gives: a buffer filled with a record reads back as the record, and zero beyond it.
-/
namespace Sys2Proof.Machine

@[simp] theorem leBytes_length (n v : Nat) : (leBytes n v).length = n := by
  induction n generalizing v with
  | zero => simp [leBytes]
  | succ n ih => simp [leBytes, ih]
@[simp] theorem beBytes_length (n v : Nat) : (beBytes n v).length = n := by simp [beBytes]

/-- A map of keys that rise by one, less its entries of one value `z`, reads as the list of its values. -/
theorem mapGet_fillFrom (z : Byte) (bs : List Byte) : ∀ k i,
    mapGet z ((bs.mapIdx (fun j b => (k + j, b))).filter (fun p => p.2 != z)) (k + i) = bs.getD i z ∧
    ∀ j, j < k → mapGet? ((bs.mapIdx (fun j b => (k + j, b))).filter (fun p => p.2 != z)) j = none := by
  induction bs with
  | nil => intro k i; simp [mapGet, mapGet?]
  | cons b r ih =>
    intro k i
    have e : (b :: r).mapIdx (fun j b => (k + j, b)) = (k, b) :: r.mapIdx (fun j b => (k + 1 + j, b)) := by
      simp [List.mapIdx_cons, Nat.add_assoc, Nat.add_comm 1]
    rw [e]
    by_cases hb : b = z
    · rw [List.filter_cons_of_neg (by simp [hb])]
      constructor
      · cases i with
        | zero => simp [mapGet, (ih (k + 1) 0).2 k (by omega), hb]
        | succ i => simpa [show k + (i + 1) = k + 1 + i by omega] using (ih (k + 1) i).1
      · exact fun j hj => (ih (k + 1) i).2 j (by omega)
    · rw [List.filter_cons_of_pos (by simp [hb])]
      constructor
      · cases i with
        | zero => simp [mapGet, mapGet?]
        | succ i =>
          have h := (ih (k + 1) i).1
          simp only [mapGet] at h
          simp only [mapGet, mapGet?, show k + (i + 1) = k + 1 + i by omega, show ¬(k = k + 1 + i) by omega, if_false, h,
            List.getD_cons_succ]
      · intro j hj
        simp only [mapGet?, show ¬(k = j) by omega, if_false, (ih (k + 1) i).2 j (by omega)]

/-- A buffer filled with a record reads as its bytes, and as zero beyond it. -/
theorem mapGet_mbFill (bs : List Byte) (i : Nat) : mapGet 0 (mbFill bs) i = bs.getD i 0 := by
  have h := (mapGet_fillFrom 0 bs 0 i).1
  simp only [Nat.zero_add] at h
  exact h

/-- Bytes within the record read back. -/
theorem mbRead_mbFill (m : Mailbox) (bs : List Byte) (off n : Nat) (h : m.buf = mbFill bs) (hn : off + n ≤ bs.length) :
    mbRead m off n = (bs.drop off).take n := by
  apply List.ext_getElem
  · simp [mbRead]; omega
  · intro i h1 h2
    simp only [mbRead, List.length_map, List.length_range] at h1
    simp only [mbRead, List.getElem_map, List.getElem_range, h, mapGet_mbFill, List.getElem_take, List.getElem_drop]
    rw [List.getD_eq_getElem?_getD, List.getElem?_eq_getElem (by omega), Option.getD_some]

end Sys2Proof.Machine
end

