-- ==== Sys2Proof/Laws/Memory.lean ====
section
/-!
SUPPORT. What a store of bytes does: it keeps every part of the device but memory, the list of words with an uncorrectable error and
the Copybook's redirect table; and every memory operation keeps the canonical form.
-/
namespace Sys2Proof.Machine

/-- A fold keeps what each of its steps keeps. -/
theorem foldl_keeps {α β γ : Type} (f : α → β → α) (g : α → γ) (h : ∀ a b, g (f a b) = g a) (l : List β) (a : α) :
    g (l.foldl f a) = g a := by
  induction l generalizing a with
  | nil => rfl
  | cons b r ih => rw [List.foldl_cons, ih, h]

/-- Two devices that differ in memory, error words and the redirect table alone. -/
def sameButMem (d e : Dev) : Prop :=
  e = { d with mem := e.mem, badWords := e.badWords, copy := { d.copy with cur := e.copy.cur } }

theorem sameButMem_refl (d : Dev) : sameButMem d d := rfl
theorem sameButMem_trans {a b c : Dev} (h : sameButMem a b) (k : sameButMem b c) : sameButMem a c := by
  unfold sameButMem at *
  rw [k, h]

theorem wrPlace_same (d : Dev) (a : Nat) (bs : List Byte) : sameButMem d (wrPlace d a bs).1 := by
  unfold wrPlace; split <;> rfl
theorem wrGranule_same (d : Dev) (a : Nat) (bs : List Byte) : sameButMem d (wrGranule d a bs).1 := by
  unfold wrGranule
  split
  · exact wrPlace_same _ _ _
  · dsimp only
    split
    · split
      · exact sameButMem_refl d
      · refine sameButMem_trans ?_ (wrPlace_same _ _ _)
        refine sameButMem_trans ?_ (wrPlace_same _ _ _)
        rfl
    · exact wrPlace_same _ _ _
theorem wrSpan_same (n : Nat) (d : Dev) (a : Nat) (bs : List Byte) : sameButMem d (wrSpan n d a bs).1 := by
  induction n generalizing d a bs with
  | zero => exact sameButMem_refl d
  | succ n ih =>
    unfold wrSpan
    split
    · exact sameButMem_refl d
    · exact sameButMem_trans (wrGranule_same _ _ _) (ih _ _ _)
/-- A store keeps everything but memory, error words and the redirect table. -/
theorem wrBytes_same (d : Dev) (a : Nat) (bs : List Byte) : sameButMem d (wrBytes d a bs) := by
  unfold wrBytes wrBytes'; split
  · exact wrPlace_same _ _ _
  · exact wrSpan_same _ _ _ _
theorem winWrite_same (d : Dev) (v off : Nat) (bs : List Byte) : sameButMem d (winWrite d v off bs) := wrBytes_same _ _ _

@[simp] theorem wrBytes_cores (d : Dev) (a : Nat) (bs : List Byte) : (wrBytes d a bs).cores = d.cores := by
  rw [wrBytes_same d a bs]
@[simp] theorem winWrite_cores (d : Dev) (v off : Nat) (bs : List Byte) : (winWrite d v off bs).cores = d.cores :=
  wrBytes_cores _ _ _
@[simp] theorem winWrite_bells (d : Dev) (v off : Nat) (bs : List Byte) : (winWrite d v off bs).bells = d.bells := by
  rw [winWrite_same d v off bs]
@[simp] theorem winWrite_ttl (d : Dev) (v off : Nat) (bs : List Byte) : (winWrite d v off bs).ttl = d.ttl := by
  rw [winWrite_same d v off bs]
@[simp] theorem winWrite_pace (d : Dev) (v off : Nat) (bs : List Byte) : (winWrite d v off bs).pace = d.pace := by
  rw [winWrite_same d v off bs]
@[simp] theorem winWrite_rp (d : Dev) (v off : Nat) (bs : List Byte) : (winWrite d v off bs).rp = d.rp := by
  rw [winWrite_same d v off bs]

/-! ### The canonical form -/

/-- Every address listed is at least b. -/
def memFrom (b : Nat) (m : List Host.Cell) : Prop := ∀ c ∈ m, b ≤ c.1

theorem memWf_tail {c : Host.Cell} {r : List Host.Cell} (h : memWf (c :: r) = true) : memWf r = true := by
  cases r with
  | nil => rfl
  | cons e r => simp only [memWf, Bool.and_eq_true] at h; exact h.2
theorem memWf_head {c : Host.Cell} {r : List Host.Cell} (h : memWf (c :: r) = true) : c.2 ≠ memDefault := by
  cases r with
  | nil => simpa [memWf] using h
  | cons e r => simp only [memWf, Bool.and_eq_true, bne_iff_ne, decide_eq_true_eq] at h; exact h.1.1
theorem memWf_rises {c : Host.Cell} {r : List Host.Cell} (h : memWf (c :: r) = true) : memFrom (c.1 + 1) r := by
  induction r generalizing c with
  | nil => intro e he; cases he
  | cons e r ih =>
    simp only [memWf, Bool.and_eq_true, decide_eq_true_eq] at h
    intro x hx
    cases hx with
    | head => exact h.1.2
    | tail _ hx => have := ih h.2 x hx; omega
theorem memWf_cons {c : Host.Cell} {r : List Host.Cell} (h1 : c.2 ≠ memDefault) (h2 : memFrom (c.1 + 1) r)
    (h3 : memWf r = true) : memWf (c :: r) = true := by
  cases r with
  | nil => simpa [memWf] using h1
  | cons e r =>
    have := h2 e (List.mem_cons_self ..)
    simp [memWf, h1, h3]; omega
theorem memWf_append {a b : List Host.Cell} (k : Nat) (ha : memWf a = true) (hb : memWf b = true)
    (h1 : ∀ c ∈ a, c.1 < k) (h2 : memFrom k b) : memWf (a ++ b) = true := by
  induction a with
  | nil => exact hb
  | cons c r ih =>
    have hr := ih (memWf_tail ha) (fun x hx => h1 x (List.mem_cons_of_mem _ hx))
    refine memWf_cons (memWf_head ha) ?_ hr
    intro x hx
    rcases List.mem_append.mp hx with h | h
    · exact memWf_rises ha x h
    · have := h2 x h; have := h1 c (List.mem_cons_self ..); omega
/-- A filter keeps the canonical form. -/
theorem memWf_filter {m : List Host.Cell} (p : Host.Cell → Bool) (h : memWf m = true) : memWf (m.filter p) = true := by
  induction m with
  | nil => rfl
  | cons c r ih =>
    have hr := ih (memWf_tail h)
    simp only [List.filter_cons]
    split
    · refine memWf_cons (memWf_head h) ?_ hr
      intro x hx
      exact memWf_rises h x (List.mem_filter.mp hx).1
    · exact hr
theorem memCells_bounds (a : Nat) (bs : List Byte) : ∀ c ∈ memCells a bs, a ≤ c.1 ∧ c.1 < a + bs.length := by
  induction bs generalizing a with
  | nil => intro c hc; cases hc
  | cons b r ih =>
    intro c hc
    simp only [memCells] at hc
    simp only [List.length_cons]
    split at hc
    · have := ih (a + 1) c hc; omega
    · cases hc with
      | head => simp
      | tail _ hc => have := ih (a + 1) c hc; omega
theorem memCells_wf (a : Nat) (bs : List Byte) : memWf (memCells a bs) = true := by
  induction bs generalizing a with
  | nil => rfl
  | cons b r ih =>
    simp only [memCells]
    split
    · exact ih _
    · exact memWf_cons ‹_› (fun c hc => (memCells_bounds (a + 1) r c hc).1) (ih _)
/-- A store keeps the canonical form. -/
theorem memWrite_wf {m : List Host.Cell} (a : Nat) (bs : List Byte) (h : memWf m = true) : memWf (memWrite m a bs) = true := by
  unfold memWrite
  refine memWf_append (a + bs.length) (memWf_append a (memWf_filter _ h) (memCells_wf a bs) ?_ ?_) (memWf_filter _ h) ?_ ?_
  · intro c hc; simpa using (List.mem_filter.mp hc).2
  · intro c hc; exact (memCells_bounds a bs c hc).1
  · intro c hc
    rcases List.mem_append.mp hc with h | h
    · have := (List.mem_filter.mp h).2; simp at this; omega
    · exact (memCells_bounds a bs c h).2
  · intro c hc; simpa using (List.mem_filter.mp hc).2
/-- Unlisting a range keeps the canonical form. -/
theorem memClear_wf {m : List Host.Cell} (a len : Nat) (h : memWf m = true) : memWf (memClear m a len) = true :=
  memWf_filter _ h
theorem wrPlace_wf (d : Dev) (a : Nat) (bs : List Byte) (h : memWf d.mem = true) : memWf (wrPlace d a bs).1.mem = true := by
  unfold wrPlace; split
  · exact memWrite_wf _ _ h
  · dsimp only
    generalize d.badWords.filter _ = l
    have : ∀ (m : List Host.Cell), memWf m = true →
        memWf (l.foldl (fun m w => memWrite m (8 * w) (memRead d.mem (8 * w) 8)) m) = true := by
      induction l with
      | nil => intro m hm; exact hm
      | cons w r ih => intro m hm; exact ih _ (memWrite_wf _ _ hm)
    exact this _ (memWrite_wf _ _ h)
theorem wrGranule_wf (d : Dev) (a : Nat) (bs : List Byte) (h : memWf d.mem = true) : memWf (wrGranule d a bs).1.mem = true := by
  unfold wrGranule
  split
  · exact wrPlace_wf _ _ _ h
  · dsimp only
    split
    · split
      · exact h
      · exact wrPlace_wf _ _ _ (wrPlace_wf _ _ _ h)
    · exact wrPlace_wf _ _ _ h
theorem wrSpan_wf (n : Nat) (d : Dev) (a : Nat) (bs : List Byte) (h : memWf d.mem = true) : memWf (wrSpan n d a bs).1.mem = true := by
  induction n generalizing d a bs with
  | zero => exact h
  | succ n ih =>
    unfold wrSpan
    split
    · exact h
    · exact ih _ _ _ (wrGranule_wf _ _ _ h)
/-- A store at a local address keeps the canonical form. -/
@[simp] theorem wrBytes_wf (d : Dev) (a : Nat) (bs : List Byte) (h : memWf d.mem = true) : memWf (wrBytes d a bs).mem = true := by
  unfold wrBytes wrBytes'; split
  · exact wrPlace_wf _ _ _ h
  · exact wrSpan_wf _ _ _ _ h
@[simp] theorem winWrite_wf (d : Dev) (v off : Nat) (bs : List Byte) (h : memWf d.mem = true) :
    memWf (winWrite d v off bs).mem = true := wrBytes_wf _ _ _ h
@[simp] theorem wipe_wf (d : Dev) (a len : Nat) (h : memWf d.mem = true) : memWf (wipe d a len).mem = true :=
  memClear_wf _ _ h

/-! ### Reading after a store -/

theorem memByte_append_left {a b : List Host.Cell} (x : Nat) (h : ∀ c ∈ b, c.1 ≠ x) : memByte (a ++ b) x = memByte a x := by
  induction a with
  | nil =>
    induction b with
    | nil => rfl
    | cons c r ih =>
      obtain ⟨y, v⟩ := c
      have hy := h (y, v) (List.mem_cons_self ..)
      simp only [List.nil_append, memByte, hy, if_false] at *
      exact ih (fun c hc => h c (List.mem_cons_of_mem _ hc))
  | cons c r ih => obtain ⟨y, v⟩ := c; simp only [List.cons_append, memByte, ih]
theorem memByte_append_right {a b : List Host.Cell} (x : Nat) (h : ∀ c ∈ a, c.1 ≠ x) : memByte (a ++ b) x = memByte b x := by
  induction a with
  | nil => rfl
  | cons c r ih =>
    obtain ⟨y, v⟩ := c
    have hy := h (y, v) (List.mem_cons_self ..)
    simp only [List.cons_append, memByte, hy, if_false]
    exact ih (fun c hc => h c (List.mem_cons_of_mem _ hc))
theorem memByte_none {b : List Host.Cell} (x : Nat) (h : ∀ c ∈ b, c.1 ≠ x) : memByte b x = memDefault := by
  have := memByte_append_left (a := []) x h
  simpa [memByte] using this
theorem memByte_filter (m : List Host.Cell) (p : Nat → Bool) (x : Nat) (h : p x = true) :
    memByte (m.filter (fun c => p c.1)) x = memByte m x := by
  induction m with
  | nil => rfl
  | cons c r ih =>
    obtain ⟨y, v⟩ := c
    simp only [List.filter_cons, memByte]
    by_cases hy : y = x
    · subst hy; simp [h, memByte]
    · split <;> simp [hy, ih, memByte]
theorem memByte_cells (a : Nat) (bs : List Byte) (i : Nat) (h : i < bs.length) : memByte (memCells a bs) (a + i) = bs[i] := by
  induction bs generalizing a i with
  | nil => simp at h
  | cons b r ih =>
    simp only [memCells]
    cases i with
    | zero =>
      split
      · rename_i hb
        simp only [Nat.add_zero, List.getElem_cons_zero]
        rw [memByte_none _ (fun c hc => by have := (memCells_bounds (a + 1) r c hc).1; omega), hb]
      · simp [memByte]
    | succ i =>
      have hl : i < r.length := by simpa using h
      have := ih (a + 1) i hl
      rw [show a + 1 + i = a + (i + 1) by omega] at this
      split
      · simpa using this
      · simp [memByte, this]
/-- A byte stored reads back. -/
theorem memByte_write_in (m : List Host.Cell) (a : Nat) (bs : List Byte) (i : Nat) (h : i < bs.length) :
    memByte (memWrite m a bs) (a + i) = bs[i] := by
  unfold memWrite
  rw [memByte_append_left _ (fun c hc => by have := (List.mem_filter.mp hc).2; simp at this; omega),
    memByte_append_right _ (fun c hc => by have := (List.mem_filter.mp hc).2; simp at this; omega), memByte_cells _ _ _ h]
/-- Every other byte stays. -/
theorem memByte_write_out (m : List Host.Cell) (a : Nat) (bs : List Byte) (x : Nat) (h : x < a ∨ a + bs.length ≤ x) :
    memByte (memWrite m a bs) x = memByte m x := by
  unfold memWrite
  rcases h with h | h
  · rw [memByte_append_left _ (fun c hc => by have := (List.mem_filter.mp hc).2; simp at this; omega),
      memByte_append_left _ (fun c hc => by have := (memCells_bounds a bs c hc).1; omega),
      memByte_filter m (fun y => decide (y < a)) x (by simpa using h)]
  · rw [memByte_append_right _ (fun c hc => by
        rcases List.mem_append.mp hc with hc | hc
        · have := (List.mem_filter.mp hc).2; simp at this; omega
        · have := (memCells_bounds a bs c hc).2; omega),
      memByte_filter m (fun y => decide (a + bs.length ≤ y)) x (by simpa using h)]

end Sys2Proof.Machine
end

