-- ==== Sys2Proof/Laws/Outcome.lean ====
section
/-!
SUPPORT. What each way of answering a command can do: its effect where its condition holds, and otherwise nothing.
-/
namespace Sys2Proof.Machine
open Sys2Proof.Safety

/-- An answer changes the device alone. -/
theorem ran_next {s t : State} {d : Dev} (h : ran s d = .next t) : t.dev = d ∧ t.shadow = s.shadow ∧ t.pending = s.pending := by
  cases h; exact ⟨rfl, rfl, rfl⟩
/-- Every answer of `onDev` is the effect. -/
theorem onDev_eq (s : State) (f : Dev → Dev) : onDev s f = ran s (f s.dev) := rfl
/-- In park, sleep and standby no beat takes place (R406, R524). -/
theorem onClock_off (s : State) (f : Dev → Dev) (h : s.dev.rp.pwr ≠ .on) : onClock s f = ran s s.dev := by simp [onClock, onDev, h]
theorem onClock_on (s : State) (f : Dev → Dev) (h : s.dev.rp.pwr = .on) : onClock s f = ran s (f s.dev) := by simp [onClock, onDev, h]
/-- A core that the grid does not have does nothing (R25). -/
theorem onCore_absent (s : State) (v : Nat) (f : Dev → Dev) (h : gridCores s.dev ≤ v) : onCore s v f = ran s s.dev := by
  have hn : ¬ v < gridCores s.dev := Nat.not_lt.mpr h
  simp [onCore, onClock, onDev, hn]
/-- What a core row can do: its effect on a running core, or nothing. -/
theorem onCore_cases (s : State) (v : Nat) (f : Dev → Dev) :
    (running s v ∧ onCore s v f = ran s (f s.dev)) ∨ (¬ running s v ∧ onCore s v f = ran s s.dev) := by
  unfold running onCore onClock onDev
  by_cases h1 : s.dev.rp.pwr = .on <;> by_cases h2 : v < gridCores s.dev <;> simp [h1, h2]
/-- What a row of a stream engine can do. -/
theorem onEngine_cases (s : State) (e : Engine) (f : Dev → Dev) : onEngine s e f = ran s (f s.dev) ∨ onEngine s e f = ran s s.dev := by
  cases e with
  | core v =>
    rcases onCore_cases s v f with h | h
    · exact .inl h.2
    · exact .inr h.2
  | hdma c => by_cases h : c < 4 <;> simp [onEngine, onDev, h]
/-- What a request of the host can do: its effect, or in D3hot the refusal (R431). -/
theorem onHost_cases (s : State) (off : Nat) (f : Dev → Dev) :
    (awake s ∧ onHost s off f = ran s (f s.dev)) ∨ (¬ awake s ∧ onHost s off f = ran s (emit s.dev (.unsupported off))) := by
  unfold awake onHost onDev
  by_cases h : s.dev.host.d3hot = true
  · exact .inr ⟨by simp [h], congrArg (ran s) (if_pos h)⟩
  · exact .inl ⟨by simpa using h, congrArg (ran s) (if_neg h)⟩
/-- What a PRC_CTL action can do (R192, R401, R433). -/
theorem onPrc_cases (s : State) (v : Nat) (f : Dev → Dev) :
    (awake s ∧ (v < gridCores s.dev ∧ syllActive s.dev = true ∧ (pacerOf s.dev (coreRegion s.dev v)).released = true ∧
        isDetained s.dev v = false) ∧ onPrc s v f = ran s (f s.dev)) ∨
      onPrc s v f = ran s s.dev ∨ onPrc s v f = ran s (emit s.dev (.unsupported (0xC00000 + 0x1000 * v))) := by
  unfold onPrc
  rcases onHost_cases s (0xC00000 + 0x1000 * v) (fun d =>
    if v < gridCores d && syllActive d && (pacerOf d (coreRegion d v)).released && !isDetained d v then f d else d) with ⟨ha, h⟩ | ⟨-, h⟩
  · rw [h]
    by_cases k : (v < gridCores s.dev && syllActive s.dev && (pacerOf s.dev (coreRegion s.dev v)).released && !isDetained s.dev v) = true
    · have k' := k
      simp only [Bool.and_eq_true, decide_eq_true_eq, Bool.not_eq_true'] at k'
      exact .inl ⟨ha, ⟨k'.1.1.1, k'.1.1.2, k'.1.2, k'.2⟩, congrArg (ran s) (if_pos k)⟩
    · exact .inr (.inl (congrArg (ran s) (if_neg k)))
  · exact .inr (.inr h)
/-- What a row of a fabric port can do. -/
theorem onPort_cases (s : State) (p : Nat) (f : Dev → Dev) :
    (p < 12 ∧ onPort s p f = ran s (f s.dev)) ∨ (12 ≤ p ∧ onPort s p f = ran s s.dev) := by
  unfold onPort onDev
  by_cases h : p < 12
  · exact .inl ⟨h, congrArg (ran s) (if_pos h)⟩
  · exact .inr ⟨Nat.not_lt.mp h, congrArg (ran s) (if_neg h)⟩
/-- What a write in a block that waits for the Syllabus can do (R431, R433). -/
theorem onLate_cases (s : State) (off : Nat) (f : Dev → Dev) :
    (served s ∧ onLate s off f = ran s (f s.dev)) ∨ (awake s ∧ ¬ served s ∧ onLate s off f = ran s s.dev) ∨
      (¬ awake s ∧ onLate s off f = ran s (emit s.dev (.unsupported off))) := by
  unfold onLate
  rcases onHost_cases s off (fun d => if syllActive d then f d else d) with ⟨ha, h⟩ | h
  · rw [h]
    by_cases k : syllActive s.dev = true
    · exact .inl ⟨⟨ha, k⟩, congrArg (ran s) (if_pos k)⟩
    · exact .inr (.inl ⟨ha, fun x => k x.2, congrArg (ran s) (if_neg k)⟩)
  · exact .inr (.inr h)
theorem onLate_served (s : State) (off : Nat) (f : Dev → Dev) (h : served s) : onLate s off f = ran s (f s.dev) := by
  rcases onLate_cases s off f with k | k | k
  · exact k.2
  · exact absurd h k.2.1
  · exact absurd h.1 k.1
theorem onWord_served (s : State) (off : Nat) (f : Dev → Dev) (h : served s) : onWord s off f = ran s (f (clearFault s.dev off)) :=
  onLate_served s off (fun d => f (clearFault d off)) h
theorem onEarly_awake (s : State) (off : Nat) (f : Dev → Dev) (h : awake s) : onEarly s off f = ran s (f (clearFault s.dev off)) := by
  rcases onHost_cases s off (fun d => f (clearFault d off)) with k | k
  · exact k.2
  · exact absurd h k.1

end Sys2Proof.Machine
end

