-- ==== Sys2Proof/Laws/Parts.lean ====
section
/-!
SUPPORT. Reading a part of the device (an HBM controller, a CXL or fabric port, a context, an HDMA channel, a pacer, a Bell, an
engine's streams) after a change of one: the changed part reads as changed, every other as before.
-/
namespace Sys2Proof.Machine

/-! ### HBM controllers -/

@[simp] theorem hbmOf_modHbm_same (d : Dev) (c : Nat) (f : HbmCtl → HbmCtl) : hbmOf (modHbm d c f) c = f (hbmOf d c) := by
  simp [hbmOf, modHbm]
theorem hbmOf_modHbm_other (d : Dev) (c e : Nat) (f : HbmCtl → HbmCtl) (h : e ≠ c) : hbmOf (modHbm d c f) e = hbmOf d e := by
  simp [hbmOf, modHbm, mapGet_mapPut_other _ _ _ _ _ h]
@[simp] theorem modHbm_modHbm (d : Dev) (c : Nat) (f g : HbmCtl → HbmCtl) :
    modHbm (modHbm d c f) c g = modHbm d c (fun x => g (f x)) := by
  simp [modHbm, hbmOf]

/-! ### CXL ports -/

@[simp] theorem cxlOf_modCxl_same (d : Dev) (p : Nat) (f : CxlPort → CxlPort) : cxlOf (modCxl d p f) p = f (cxlOf d p) := by
  simp [cxlOf, modCxl]
theorem cxlOf_modCxl_other (d : Dev) (p q : Nat) (f : CxlPort → CxlPort) (h : q ≠ p) : cxlOf (modCxl d p f) q = cxlOf d q := by
  simp [cxlOf, modCxl, mapGet_mapPut_other _ _ _ _ _ h]
@[simp] theorem modCxl_modCxl (d : Dev) (p : Nat) (f g : CxlPort → CxlPort) :
    modCxl (modCxl d p f) p g = modCxl d p (fun x => g (f x)) := by
  simp [modCxl, cxlOf]

/-! ### Fabric ports -/

@[simp] theorem fabPort_modPort_same (d : Dev) (p : Nat) (f : FabPort → FabPort) : fabPort (modPort d p f) p = f (fabPort d p) := by
  simp [fabPort, modPort]
theorem fabPort_modPort_other (d : Dev) (p q : Nat) (f : FabPort → FabPort) (h : q ≠ p) :
    fabPort (modPort d p f) q = fabPort d q := by
  simp [fabPort, modPort, mapGet_mapPut_other _ _ _ _ _ h]
@[simp] theorem modPort_modPort (d : Dev) (p : Nat) (f g : FabPort → FabPort) :
    modPort (modPort d p f) p g = modPort d p (fun x => g (f x)) := by
  simp [modPort, fabPort]

/-! ### Contexts and HDMA channels -/

@[simp] theorem ctxOf_modCtx_same (d : Dev) (k : Nat) (f : Ctx → Ctx) : ctxOf (modCtx d k f) k = f (ctxOf d k) := by
  simp [ctxOf, modCtx]
theorem ctxOf_modCtx_other (d : Dev) (k j : Nat) (f : Ctx → Ctx) (h : j ≠ k) : ctxOf (modCtx d k f) j = ctxOf d j := by
  simp [ctxOf, modCtx, mapGet_mapPut_other _ _ _ _ _ h]
@[simp] theorem hdmaOf_modHdma_same (d : Dev) (c : Nat) (f : Hdma → Hdma) : hdmaOf (modHdma d c f) c = f (hdmaOf d c) := by
  simp [hdmaOf, modHdma]
theorem hdmaOf_modHdma_other (d : Dev) (c e : Nat) (f : Hdma → Hdma) (h : e ≠ c) : hdmaOf (modHdma d c f) e = hdmaOf d e := by
  simp [hdmaOf, modHdma, mapGet_mapPut_other _ _ _ _ _ h]

/-! ### Pacers and Bells -/

@[simp] theorem pacerOf_modPacer_same (d : Dev) (r : Nat) (f : Pacer → Pacer) : pacerOf (modPacer d r f) r = f (pacerOf d r) := by
  simp [pacerOf, modPacer]
theorem pacerOf_modPacer_other (d : Dev) (r q : Nat) (f : Pacer → Pacer) (h : q ≠ r) :
    pacerOf (modPacer d r f) q = pacerOf d q := by
  simp [pacerOf, modPacer, mapGet_mapPut_other _ _ _ _ _ h]
@[simp] theorem bellOf_modBell_same (d : Dev) (b : Nat) (f : BellState → BellState) : bellOf (modBell d b f) b = f (bellOf d b) := by
  simp [bellOf, modBell]
theorem bellOf_modBell_other (d : Dev) (b c : Nat) (f : BellState → BellState) (h : c ≠ b) :
    bellOf (modBell d b f) c = bellOf d c := by
  simp [bellOf, modBell, mapGet_mapPut_other _ _ _ _ _ h]

/-! ### Streams -/

@[simp] theorem strmOf_modStrm_same (d : Dev) (e : Engine) (f : StreamState → StreamState) :
    strmOf (modStrm d e f) e = f (strmOf d e) := by
  cases e <;> simp [strmOf, modStrm]
theorem strmOf_modStrm_other (d : Dev) (e g : Engine) (f : StreamState → StreamState) (h : g ≠ e) :
    strmOf (modStrm d e f) g = strmOf d g := by
  cases e <;> cases g <;> simp only [strmOf, modStrm]
  · rename_i v u
    rw [coreOf_modCore_other _ _ _ _ (fun k => h (by rw [k]))]
  · rfl
  · rfl
  · rename_i c b
    rw [hdmaOf_modHdma_other _ _ _ _ (fun k => h (by rw [k]))]

end Sys2Proof.Machine
end

