-- ==== Sys2Proof/Laws/Proctor.lean ====
section
/-!
SUPPORT. What issue does, command by command: the lemmas that the statements about the Proctor cite.
-/
namespace Sys2Proof.Machine
open Sys2Proof.Safety

theorem issueCmd_control (d : Dev) (v w : Nat) (ha : cwArray w = false) (hv : cwVector w = false)
    (h1 : cwOpc w = 0x04 ∨ cwOpc w = 0x05 ∨ cwOpc w = 0x07 ∨ cwOpc w = 0x08 ∨ cwOpc w = 0x09 ∨ cwOpc w = 0x11) :
    issueCmd d v w = modCore d v (fun c => advance (issueControl c w) w) := by
  rcases h1 with h | h | h | h | h | h <;> simp [issueCmd, h, ha, hv]

/-- An opcode below 0x20 is neither an array nor a vector opcode. -/
theorem cwArray_low {w o : Nat} (h : cwOpc w = o) (ho : o < 0x20) : cwArray w = false := by
  simp [cwArray, h]; omega
theorem cwVector_low {w o : Nat} (h : cwOpc w = o) (ho : o < 0x20) : cwVector w = false := by
  simp [cwVector, h]; omega
/-- A row of an opcode that is no vector opcode stands for every word with that opcode. -/
theorem rowOpc_low {w o : Nat} (h : cwOpc w = o) (ho : o < 0x20) : rowOpc o w = true := by
  simp [rowOpc, h, cwVector_low h ho]

/-- A command without operands advances PRC_PC and the issue counter alone. -/
theorem advance_plain (c : Core) (w : Nat) (ha : cwArray w = false) (hv : cwVector w = false) (h : oprFields w = []) :
    advance c w = { c with pc := c.pc + 16, issue := c.issue + 1, passBreak := false } := by
  simp [advance, incRegs, ha, hv, h]

end Sys2Proof.Machine
end

