-- ==== Sys2Proof/Laws/State.lean ====
section
/-!
SUPPORT. What each named update leaves as it was, field by field: one lemma per field per update.
-/
namespace Sys2Proof.Machine
variable (d : Dev)

/-! ### setCore -/

@[simp] theorem setCore_mem (v : Nat) (c : Core) : (setCore d v c).mem = d.mem := rfl
@[simp] theorem setCore_badWords (v : Nat) (c : Core) : (setCore d v c).badWords = d.badWords := rfl
@[simp] theorem setCore_bells (v : Nat) (c : Core) : (setCore d v c).bells = d.bells := rfl
@[simp] theorem setCore_ttl (v : Nat) (c : Core) : (setCore d v c).ttl = d.ttl := rfl
@[simp] theorem setCore_hbm (v : Nat) (c : Core) : (setCore d v c).hbm = d.hbm := rfl
@[simp] theorem setCore_cxl (v : Nat) (c : Core) : (setCore d v c).cxl = d.cxl := rfl
@[simp] theorem setCore_fab (v : Nat) (c : Core) : (setCore d v c).fab = d.fab := rfl
@[simp] theorem setCore_copy (v : Nat) (c : Core) : (setCore d v c).copy = d.copy := rfl
@[simp] theorem setCore_det (v : Nat) (c : Core) : (setCore d v c).det = d.det := rfl
@[simp] theorem setCore_pace (v : Nat) (c : Core) : (setCore d v c).pace = d.pace := rfl
@[simp] theorem setCore_host (v : Nat) (c : Core) : (setCore d v c).host = d.host := rfl
@[simp] theorem setCore_fuses (v : Nat) (c : Core) : (setCore d v c).fuses = d.fuses := rfl
@[simp] theorem setCore_flash (v : Nat) (c : Core) : (setCore d v c).flash = d.flash := rfl
@[simp] theorem setCore_prefect (v : Nat) (c : Core) : (setCore d v c).prefect = d.prefect := rfl
@[simp] theorem setCore_reg (v : Nat) (c : Core) : (setCore d v c).reg = d.reg := rfl
@[simp] theorem setCore_rp (v : Nat) (c : Core) : (setCore d v c).rp = d.rp := rfl
@[simp] theorem setCore_glb (v : Nat) (c : Core) : (setCore d v c).glb = d.glb := rfl
@[simp] theorem setCore_edgeWrites (v : Nat) (c : Core) : (setCore d v c).edgeWrites = d.edgeWrites := rfl
@[simp] theorem setCore_freeCtr (v : Nat) (c : Core) : (setCore d v c).freeCtr = d.freeCtr := rfl
@[simp] theorem setCore_out (v : Nat) (c : Core) : (setCore d v c).out = d.out := rfl

/-! ### modCore -/

@[simp] theorem modCore_mem (v : Nat) (f : Core → Core) : (modCore d v f).mem = d.mem := rfl
@[simp] theorem modCore_badWords (v : Nat) (f : Core → Core) : (modCore d v f).badWords = d.badWords := rfl
@[simp] theorem modCore_bells (v : Nat) (f : Core → Core) : (modCore d v f).bells = d.bells := rfl
@[simp] theorem modCore_ttl (v : Nat) (f : Core → Core) : (modCore d v f).ttl = d.ttl := rfl
@[simp] theorem modCore_hbm (v : Nat) (f : Core → Core) : (modCore d v f).hbm = d.hbm := rfl
@[simp] theorem modCore_cxl (v : Nat) (f : Core → Core) : (modCore d v f).cxl = d.cxl := rfl
@[simp] theorem modCore_fab (v : Nat) (f : Core → Core) : (modCore d v f).fab = d.fab := rfl
@[simp] theorem modCore_copy (v : Nat) (f : Core → Core) : (modCore d v f).copy = d.copy := rfl
@[simp] theorem modCore_det (v : Nat) (f : Core → Core) : (modCore d v f).det = d.det := rfl
@[simp] theorem modCore_pace (v : Nat) (f : Core → Core) : (modCore d v f).pace = d.pace := rfl
@[simp] theorem modCore_host (v : Nat) (f : Core → Core) : (modCore d v f).host = d.host := rfl
@[simp] theorem modCore_fuses (v : Nat) (f : Core → Core) : (modCore d v f).fuses = d.fuses := rfl
@[simp] theorem modCore_flash (v : Nat) (f : Core → Core) : (modCore d v f).flash = d.flash := rfl
@[simp] theorem modCore_prefect (v : Nat) (f : Core → Core) : (modCore d v f).prefect = d.prefect := rfl
@[simp] theorem modCore_reg (v : Nat) (f : Core → Core) : (modCore d v f).reg = d.reg := rfl
@[simp] theorem modCore_rp (v : Nat) (f : Core → Core) : (modCore d v f).rp = d.rp := rfl
@[simp] theorem modCore_glb (v : Nat) (f : Core → Core) : (modCore d v f).glb = d.glb := rfl
@[simp] theorem modCore_edgeWrites (v : Nat) (f : Core → Core) : (modCore d v f).edgeWrites = d.edgeWrites := rfl
@[simp] theorem modCore_freeCtr (v : Nat) (f : Core → Core) : (modCore d v f).freeCtr = d.freeCtr := rfl
@[simp] theorem modCore_out (v : Nat) (f : Core → Core) : (modCore d v f).out = d.out := rfl

/-! ### modHbm -/

@[simp] theorem modHbm_mem (c : Nat) (f : HbmCtl → HbmCtl) : (modHbm d c f).mem = d.mem := rfl
@[simp] theorem modHbm_badWords (c : Nat) (f : HbmCtl → HbmCtl) : (modHbm d c f).badWords = d.badWords := rfl
@[simp] theorem modHbm_cores (c : Nat) (f : HbmCtl → HbmCtl) : (modHbm d c f).cores = d.cores := rfl
@[simp] theorem modHbm_bells (c : Nat) (f : HbmCtl → HbmCtl) : (modHbm d c f).bells = d.bells := rfl
@[simp] theorem modHbm_ttl (c : Nat) (f : HbmCtl → HbmCtl) : (modHbm d c f).ttl = d.ttl := rfl
@[simp] theorem modHbm_cxl (c : Nat) (f : HbmCtl → HbmCtl) : (modHbm d c f).cxl = d.cxl := rfl
@[simp] theorem modHbm_fab (c : Nat) (f : HbmCtl → HbmCtl) : (modHbm d c f).fab = d.fab := rfl
@[simp] theorem modHbm_copy (c : Nat) (f : HbmCtl → HbmCtl) : (modHbm d c f).copy = d.copy := rfl
@[simp] theorem modHbm_det (c : Nat) (f : HbmCtl → HbmCtl) : (modHbm d c f).det = d.det := rfl
@[simp] theorem modHbm_pace (c : Nat) (f : HbmCtl → HbmCtl) : (modHbm d c f).pace = d.pace := rfl
@[simp] theorem modHbm_host (c : Nat) (f : HbmCtl → HbmCtl) : (modHbm d c f).host = d.host := rfl
@[simp] theorem modHbm_fuses (c : Nat) (f : HbmCtl → HbmCtl) : (modHbm d c f).fuses = d.fuses := rfl
@[simp] theorem modHbm_flash (c : Nat) (f : HbmCtl → HbmCtl) : (modHbm d c f).flash = d.flash := rfl
@[simp] theorem modHbm_prefect (c : Nat) (f : HbmCtl → HbmCtl) : (modHbm d c f).prefect = d.prefect := rfl
@[simp] theorem modHbm_reg (c : Nat) (f : HbmCtl → HbmCtl) : (modHbm d c f).reg = d.reg := rfl
@[simp] theorem modHbm_rp (c : Nat) (f : HbmCtl → HbmCtl) : (modHbm d c f).rp = d.rp := rfl
@[simp] theorem modHbm_glb (c : Nat) (f : HbmCtl → HbmCtl) : (modHbm d c f).glb = d.glb := rfl
@[simp] theorem modHbm_edgeWrites (c : Nat) (f : HbmCtl → HbmCtl) : (modHbm d c f).edgeWrites = d.edgeWrites := rfl
@[simp] theorem modHbm_freeCtr (c : Nat) (f : HbmCtl → HbmCtl) : (modHbm d c f).freeCtr = d.freeCtr := rfl
@[simp] theorem modHbm_out (c : Nat) (f : HbmCtl → HbmCtl) : (modHbm d c f).out = d.out := rfl

/-! ### modCxl -/

@[simp] theorem modCxl_mem (p : Nat) (f : CxlPort → CxlPort) : (modCxl d p f).mem = d.mem := rfl
@[simp] theorem modCxl_badWords (p : Nat) (f : CxlPort → CxlPort) : (modCxl d p f).badWords = d.badWords := rfl
@[simp] theorem modCxl_cores (p : Nat) (f : CxlPort → CxlPort) : (modCxl d p f).cores = d.cores := rfl
@[simp] theorem modCxl_bells (p : Nat) (f : CxlPort → CxlPort) : (modCxl d p f).bells = d.bells := rfl
@[simp] theorem modCxl_ttl (p : Nat) (f : CxlPort → CxlPort) : (modCxl d p f).ttl = d.ttl := rfl
@[simp] theorem modCxl_hbm (p : Nat) (f : CxlPort → CxlPort) : (modCxl d p f).hbm = d.hbm := rfl
@[simp] theorem modCxl_fab (p : Nat) (f : CxlPort → CxlPort) : (modCxl d p f).fab = d.fab := rfl
@[simp] theorem modCxl_copy (p : Nat) (f : CxlPort → CxlPort) : (modCxl d p f).copy = d.copy := rfl
@[simp] theorem modCxl_det (p : Nat) (f : CxlPort → CxlPort) : (modCxl d p f).det = d.det := rfl
@[simp] theorem modCxl_pace (p : Nat) (f : CxlPort → CxlPort) : (modCxl d p f).pace = d.pace := rfl
@[simp] theorem modCxl_host (p : Nat) (f : CxlPort → CxlPort) : (modCxl d p f).host = d.host := rfl
@[simp] theorem modCxl_fuses (p : Nat) (f : CxlPort → CxlPort) : (modCxl d p f).fuses = d.fuses := rfl
@[simp] theorem modCxl_flash (p : Nat) (f : CxlPort → CxlPort) : (modCxl d p f).flash = d.flash := rfl
@[simp] theorem modCxl_prefect (p : Nat) (f : CxlPort → CxlPort) : (modCxl d p f).prefect = d.prefect := rfl
@[simp] theorem modCxl_reg (p : Nat) (f : CxlPort → CxlPort) : (modCxl d p f).reg = d.reg := rfl
@[simp] theorem modCxl_rp (p : Nat) (f : CxlPort → CxlPort) : (modCxl d p f).rp = d.rp := rfl
@[simp] theorem modCxl_glb (p : Nat) (f : CxlPort → CxlPort) : (modCxl d p f).glb = d.glb := rfl
@[simp] theorem modCxl_edgeWrites (p : Nat) (f : CxlPort → CxlPort) : (modCxl d p f).edgeWrites = d.edgeWrites := rfl
@[simp] theorem modCxl_freeCtr (p : Nat) (f : CxlPort → CxlPort) : (modCxl d p f).freeCtr = d.freeCtr := rfl
@[simp] theorem modCxl_out (p : Nat) (f : CxlPort → CxlPort) : (modCxl d p f).out = d.out := rfl

/-! ### modPort -/

@[simp] theorem modPort_mem (p : Nat) (f : FabPort → FabPort) : (modPort d p f).mem = d.mem := rfl
@[simp] theorem modPort_badWords (p : Nat) (f : FabPort → FabPort) : (modPort d p f).badWords = d.badWords := rfl
@[simp] theorem modPort_cores (p : Nat) (f : FabPort → FabPort) : (modPort d p f).cores = d.cores := rfl
@[simp] theorem modPort_bells (p : Nat) (f : FabPort → FabPort) : (modPort d p f).bells = d.bells := rfl
@[simp] theorem modPort_ttl (p : Nat) (f : FabPort → FabPort) : (modPort d p f).ttl = d.ttl := rfl
@[simp] theorem modPort_hbm (p : Nat) (f : FabPort → FabPort) : (modPort d p f).hbm = d.hbm := rfl
@[simp] theorem modPort_cxl (p : Nat) (f : FabPort → FabPort) : (modPort d p f).cxl = d.cxl := rfl
@[simp] theorem modPort_copy (p : Nat) (f : FabPort → FabPort) : (modPort d p f).copy = d.copy := rfl
@[simp] theorem modPort_det (p : Nat) (f : FabPort → FabPort) : (modPort d p f).det = d.det := rfl
@[simp] theorem modPort_pace (p : Nat) (f : FabPort → FabPort) : (modPort d p f).pace = d.pace := rfl
@[simp] theorem modPort_host (p : Nat) (f : FabPort → FabPort) : (modPort d p f).host = d.host := rfl
@[simp] theorem modPort_fuses (p : Nat) (f : FabPort → FabPort) : (modPort d p f).fuses = d.fuses := rfl
@[simp] theorem modPort_flash (p : Nat) (f : FabPort → FabPort) : (modPort d p f).flash = d.flash := rfl
@[simp] theorem modPort_prefect (p : Nat) (f : FabPort → FabPort) : (modPort d p f).prefect = d.prefect := rfl
@[simp] theorem modPort_reg (p : Nat) (f : FabPort → FabPort) : (modPort d p f).reg = d.reg := rfl
@[simp] theorem modPort_rp (p : Nat) (f : FabPort → FabPort) : (modPort d p f).rp = d.rp := rfl
@[simp] theorem modPort_glb (p : Nat) (f : FabPort → FabPort) : (modPort d p f).glb = d.glb := rfl
@[simp] theorem modPort_edgeWrites (p : Nat) (f : FabPort → FabPort) : (modPort d p f).edgeWrites = d.edgeWrites := rfl
@[simp] theorem modPort_freeCtr (p : Nat) (f : FabPort → FabPort) : (modPort d p f).freeCtr = d.freeCtr := rfl
@[simp] theorem modPort_out (p : Nat) (f : FabPort → FabPort) : (modPort d p f).out = d.out := rfl

/-! ### modCtx -/

@[simp] theorem modCtx_mem (k : Nat) (f : Ctx → Ctx) : (modCtx d k f).mem = d.mem := rfl
@[simp] theorem modCtx_badWords (k : Nat) (f : Ctx → Ctx) : (modCtx d k f).badWords = d.badWords := rfl
@[simp] theorem modCtx_cores (k : Nat) (f : Ctx → Ctx) : (modCtx d k f).cores = d.cores := rfl
@[simp] theorem modCtx_bells (k : Nat) (f : Ctx → Ctx) : (modCtx d k f).bells = d.bells := rfl
@[simp] theorem modCtx_ttl (k : Nat) (f : Ctx → Ctx) : (modCtx d k f).ttl = d.ttl := rfl
@[simp] theorem modCtx_hbm (k : Nat) (f : Ctx → Ctx) : (modCtx d k f).hbm = d.hbm := rfl
@[simp] theorem modCtx_cxl (k : Nat) (f : Ctx → Ctx) : (modCtx d k f).cxl = d.cxl := rfl
@[simp] theorem modCtx_fab (k : Nat) (f : Ctx → Ctx) : (modCtx d k f).fab = d.fab := rfl
@[simp] theorem modCtx_copy (k : Nat) (f : Ctx → Ctx) : (modCtx d k f).copy = d.copy := rfl
@[simp] theorem modCtx_det (k : Nat) (f : Ctx → Ctx) : (modCtx d k f).det = d.det := rfl
@[simp] theorem modCtx_pace (k : Nat) (f : Ctx → Ctx) : (modCtx d k f).pace = d.pace := rfl
@[simp] theorem modCtx_fuses (k : Nat) (f : Ctx → Ctx) : (modCtx d k f).fuses = d.fuses := rfl
@[simp] theorem modCtx_flash (k : Nat) (f : Ctx → Ctx) : (modCtx d k f).flash = d.flash := rfl
@[simp] theorem modCtx_prefect (k : Nat) (f : Ctx → Ctx) : (modCtx d k f).prefect = d.prefect := rfl
@[simp] theorem modCtx_reg (k : Nat) (f : Ctx → Ctx) : (modCtx d k f).reg = d.reg := rfl
@[simp] theorem modCtx_rp (k : Nat) (f : Ctx → Ctx) : (modCtx d k f).rp = d.rp := rfl
@[simp] theorem modCtx_glb (k : Nat) (f : Ctx → Ctx) : (modCtx d k f).glb = d.glb := rfl
@[simp] theorem modCtx_edgeWrites (k : Nat) (f : Ctx → Ctx) : (modCtx d k f).edgeWrites = d.edgeWrites := rfl
@[simp] theorem modCtx_freeCtr (k : Nat) (f : Ctx → Ctx) : (modCtx d k f).freeCtr = d.freeCtr := rfl
@[simp] theorem modCtx_out (k : Nat) (f : Ctx → Ctx) : (modCtx d k f).out = d.out := rfl

/-! ### modHdma -/

@[simp] theorem modHdma_mem (c : Nat) (f : Hdma → Hdma) : (modHdma d c f).mem = d.mem := rfl
@[simp] theorem modHdma_badWords (c : Nat) (f : Hdma → Hdma) : (modHdma d c f).badWords = d.badWords := rfl
@[simp] theorem modHdma_cores (c : Nat) (f : Hdma → Hdma) : (modHdma d c f).cores = d.cores := rfl
@[simp] theorem modHdma_bells (c : Nat) (f : Hdma → Hdma) : (modHdma d c f).bells = d.bells := rfl
@[simp] theorem modHdma_ttl (c : Nat) (f : Hdma → Hdma) : (modHdma d c f).ttl = d.ttl := rfl
@[simp] theorem modHdma_hbm (c : Nat) (f : Hdma → Hdma) : (modHdma d c f).hbm = d.hbm := rfl
@[simp] theorem modHdma_cxl (c : Nat) (f : Hdma → Hdma) : (modHdma d c f).cxl = d.cxl := rfl
@[simp] theorem modHdma_fab (c : Nat) (f : Hdma → Hdma) : (modHdma d c f).fab = d.fab := rfl
@[simp] theorem modHdma_copy (c : Nat) (f : Hdma → Hdma) : (modHdma d c f).copy = d.copy := rfl
@[simp] theorem modHdma_det (c : Nat) (f : Hdma → Hdma) : (modHdma d c f).det = d.det := rfl
@[simp] theorem modHdma_pace (c : Nat) (f : Hdma → Hdma) : (modHdma d c f).pace = d.pace := rfl
@[simp] theorem modHdma_fuses (c : Nat) (f : Hdma → Hdma) : (modHdma d c f).fuses = d.fuses := rfl
@[simp] theorem modHdma_flash (c : Nat) (f : Hdma → Hdma) : (modHdma d c f).flash = d.flash := rfl
@[simp] theorem modHdma_prefect (c : Nat) (f : Hdma → Hdma) : (modHdma d c f).prefect = d.prefect := rfl
@[simp] theorem modHdma_reg (c : Nat) (f : Hdma → Hdma) : (modHdma d c f).reg = d.reg := rfl
@[simp] theorem modHdma_rp (c : Nat) (f : Hdma → Hdma) : (modHdma d c f).rp = d.rp := rfl
@[simp] theorem modHdma_glb (c : Nat) (f : Hdma → Hdma) : (modHdma d c f).glb = d.glb := rfl
@[simp] theorem modHdma_edgeWrites (c : Nat) (f : Hdma → Hdma) : (modHdma d c f).edgeWrites = d.edgeWrites := rfl
@[simp] theorem modHdma_freeCtr (c : Nat) (f : Hdma → Hdma) : (modHdma d c f).freeCtr = d.freeCtr := rfl
@[simp] theorem modHdma_out (c : Nat) (f : Hdma → Hdma) : (modHdma d c f).out = d.out := rfl

/-! ### modPacer -/

@[simp] theorem modPacer_mem (r : Nat) (f : Pacer → Pacer) : (modPacer d r f).mem = d.mem := rfl
@[simp] theorem modPacer_badWords (r : Nat) (f : Pacer → Pacer) : (modPacer d r f).badWords = d.badWords := rfl
@[simp] theorem modPacer_cores (r : Nat) (f : Pacer → Pacer) : (modPacer d r f).cores = d.cores := rfl
@[simp] theorem modPacer_bells (r : Nat) (f : Pacer → Pacer) : (modPacer d r f).bells = d.bells := rfl
@[simp] theorem modPacer_ttl (r : Nat) (f : Pacer → Pacer) : (modPacer d r f).ttl = d.ttl := rfl
@[simp] theorem modPacer_hbm (r : Nat) (f : Pacer → Pacer) : (modPacer d r f).hbm = d.hbm := rfl
@[simp] theorem modPacer_cxl (r : Nat) (f : Pacer → Pacer) : (modPacer d r f).cxl = d.cxl := rfl
@[simp] theorem modPacer_fab (r : Nat) (f : Pacer → Pacer) : (modPacer d r f).fab = d.fab := rfl
@[simp] theorem modPacer_copy (r : Nat) (f : Pacer → Pacer) : (modPacer d r f).copy = d.copy := rfl
@[simp] theorem modPacer_det (r : Nat) (f : Pacer → Pacer) : (modPacer d r f).det = d.det := rfl
@[simp] theorem modPacer_host (r : Nat) (f : Pacer → Pacer) : (modPacer d r f).host = d.host := rfl
@[simp] theorem modPacer_fuses (r : Nat) (f : Pacer → Pacer) : (modPacer d r f).fuses = d.fuses := rfl
@[simp] theorem modPacer_flash (r : Nat) (f : Pacer → Pacer) : (modPacer d r f).flash = d.flash := rfl
@[simp] theorem modPacer_prefect (r : Nat) (f : Pacer → Pacer) : (modPacer d r f).prefect = d.prefect := rfl
@[simp] theorem modPacer_reg (r : Nat) (f : Pacer → Pacer) : (modPacer d r f).reg = d.reg := rfl
@[simp] theorem modPacer_rp (r : Nat) (f : Pacer → Pacer) : (modPacer d r f).rp = d.rp := rfl
@[simp] theorem modPacer_glb (r : Nat) (f : Pacer → Pacer) : (modPacer d r f).glb = d.glb := rfl
@[simp] theorem modPacer_edgeWrites (r : Nat) (f : Pacer → Pacer) : (modPacer d r f).edgeWrites = d.edgeWrites := rfl
@[simp] theorem modPacer_freeCtr (r : Nat) (f : Pacer → Pacer) : (modPacer d r f).freeCtr = d.freeCtr := rfl
@[simp] theorem modPacer_out (r : Nat) (f : Pacer → Pacer) : (modPacer d r f).out = d.out := rfl

/-! ### modBell -/

@[simp] theorem modBell_mem (b : Nat) (f : BellState → BellState) : (modBell d b f).mem = d.mem := rfl
@[simp] theorem modBell_badWords (b : Nat) (f : BellState → BellState) : (modBell d b f).badWords = d.badWords := rfl
@[simp] theorem modBell_cores (b : Nat) (f : BellState → BellState) : (modBell d b f).cores = d.cores := rfl
@[simp] theorem modBell_ttl (b : Nat) (f : BellState → BellState) : (modBell d b f).ttl = d.ttl := rfl
@[simp] theorem modBell_hbm (b : Nat) (f : BellState → BellState) : (modBell d b f).hbm = d.hbm := rfl
@[simp] theorem modBell_cxl (b : Nat) (f : BellState → BellState) : (modBell d b f).cxl = d.cxl := rfl
@[simp] theorem modBell_fab (b : Nat) (f : BellState → BellState) : (modBell d b f).fab = d.fab := rfl
@[simp] theorem modBell_copy (b : Nat) (f : BellState → BellState) : (modBell d b f).copy = d.copy := rfl
@[simp] theorem modBell_det (b : Nat) (f : BellState → BellState) : (modBell d b f).det = d.det := rfl
@[simp] theorem modBell_pace (b : Nat) (f : BellState → BellState) : (modBell d b f).pace = d.pace := rfl
@[simp] theorem modBell_host (b : Nat) (f : BellState → BellState) : (modBell d b f).host = d.host := rfl
@[simp] theorem modBell_fuses (b : Nat) (f : BellState → BellState) : (modBell d b f).fuses = d.fuses := rfl
@[simp] theorem modBell_flash (b : Nat) (f : BellState → BellState) : (modBell d b f).flash = d.flash := rfl
@[simp] theorem modBell_prefect (b : Nat) (f : BellState → BellState) : (modBell d b f).prefect = d.prefect := rfl
@[simp] theorem modBell_reg (b : Nat) (f : BellState → BellState) : (modBell d b f).reg = d.reg := rfl
@[simp] theorem modBell_rp (b : Nat) (f : BellState → BellState) : (modBell d b f).rp = d.rp := rfl
@[simp] theorem modBell_glb (b : Nat) (f : BellState → BellState) : (modBell d b f).glb = d.glb := rfl
@[simp] theorem modBell_edgeWrites (b : Nat) (f : BellState → BellState) : (modBell d b f).edgeWrites = d.edgeWrites := rfl
@[simp] theorem modBell_freeCtr (b : Nat) (f : BellState → BellState) : (modBell d b f).freeCtr = d.freeCtr := rfl
@[simp] theorem modBell_out (b : Nat) (f : BellState → BellState) : (modBell d b f).out = d.out := rfl

/-! ### modStrm -/

@[simp] theorem modStrm_mem (e : Engine) (f : StreamState → StreamState) : (modStrm d e f).mem = d.mem := by cases e <;> rfl
@[simp] theorem modStrm_badWords (e : Engine) (f : StreamState → StreamState) : (modStrm d e f).badWords = d.badWords := by cases e <;> rfl
@[simp] theorem modStrm_bells (e : Engine) (f : StreamState → StreamState) : (modStrm d e f).bells = d.bells := by cases e <;> rfl
@[simp] theorem modStrm_ttl (e : Engine) (f : StreamState → StreamState) : (modStrm d e f).ttl = d.ttl := by cases e <;> rfl
@[simp] theorem modStrm_hbm (e : Engine) (f : StreamState → StreamState) : (modStrm d e f).hbm = d.hbm := by cases e <;> rfl
@[simp] theorem modStrm_cxl (e : Engine) (f : StreamState → StreamState) : (modStrm d e f).cxl = d.cxl := by cases e <;> rfl
@[simp] theorem modStrm_fab (e : Engine) (f : StreamState → StreamState) : (modStrm d e f).fab = d.fab := by cases e <;> rfl
@[simp] theorem modStrm_copy (e : Engine) (f : StreamState → StreamState) : (modStrm d e f).copy = d.copy := by cases e <;> rfl
@[simp] theorem modStrm_det (e : Engine) (f : StreamState → StreamState) : (modStrm d e f).det = d.det := by cases e <;> rfl
@[simp] theorem modStrm_pace (e : Engine) (f : StreamState → StreamState) : (modStrm d e f).pace = d.pace := by cases e <;> rfl
@[simp] theorem modStrm_fuses (e : Engine) (f : StreamState → StreamState) : (modStrm d e f).fuses = d.fuses := by cases e <;> rfl
@[simp] theorem modStrm_flash (e : Engine) (f : StreamState → StreamState) : (modStrm d e f).flash = d.flash := by cases e <;> rfl
@[simp] theorem modStrm_prefect (e : Engine) (f : StreamState → StreamState) : (modStrm d e f).prefect = d.prefect := by cases e <;> rfl
@[simp] theorem modStrm_reg (e : Engine) (f : StreamState → StreamState) : (modStrm d e f).reg = d.reg := by cases e <;> rfl
@[simp] theorem modStrm_rp (e : Engine) (f : StreamState → StreamState) : (modStrm d e f).rp = d.rp := by cases e <;> rfl
@[simp] theorem modStrm_glb (e : Engine) (f : StreamState → StreamState) : (modStrm d e f).glb = d.glb := by cases e <;> rfl
@[simp] theorem modStrm_edgeWrites (e : Engine) (f : StreamState → StreamState) : (modStrm d e f).edgeWrites = d.edgeWrites := by cases e <;> rfl
@[simp] theorem modStrm_freeCtr (e : Engine) (f : StreamState → StreamState) : (modStrm d e f).freeCtr = d.freeCtr := by cases e <;> rfl
@[simp] theorem modStrm_out (e : Engine) (f : StreamState → StreamState) : (modStrm d e f).out = d.out := by cases e <;> rfl

/-! ### setPrf -/

@[simp] theorem setPrf_mem (f : Prefect → Prefect) : (setPrf d f).mem = d.mem := rfl
@[simp] theorem setPrf_badWords (f : Prefect → Prefect) : (setPrf d f).badWords = d.badWords := rfl
@[simp] theorem setPrf_cores (f : Prefect → Prefect) : (setPrf d f).cores = d.cores := rfl
@[simp] theorem setPrf_bells (f : Prefect → Prefect) : (setPrf d f).bells = d.bells := rfl
@[simp] theorem setPrf_ttl (f : Prefect → Prefect) : (setPrf d f).ttl = d.ttl := rfl
@[simp] theorem setPrf_hbm (f : Prefect → Prefect) : (setPrf d f).hbm = d.hbm := rfl
@[simp] theorem setPrf_cxl (f : Prefect → Prefect) : (setPrf d f).cxl = d.cxl := rfl
@[simp] theorem setPrf_fab (f : Prefect → Prefect) : (setPrf d f).fab = d.fab := rfl
@[simp] theorem setPrf_copy (f : Prefect → Prefect) : (setPrf d f).copy = d.copy := rfl
@[simp] theorem setPrf_det (f : Prefect → Prefect) : (setPrf d f).det = d.det := rfl
@[simp] theorem setPrf_pace (f : Prefect → Prefect) : (setPrf d f).pace = d.pace := rfl
@[simp] theorem setPrf_host (f : Prefect → Prefect) : (setPrf d f).host = d.host := rfl
@[simp] theorem setPrf_fuses (f : Prefect → Prefect) : (setPrf d f).fuses = d.fuses := rfl
@[simp] theorem setPrf_flash (f : Prefect → Prefect) : (setPrf d f).flash = d.flash := rfl
@[simp] theorem setPrf_reg (f : Prefect → Prefect) : (setPrf d f).reg = d.reg := rfl
@[simp] theorem setPrf_rp (f : Prefect → Prefect) : (setPrf d f).rp = d.rp := rfl
@[simp] theorem setPrf_glb (f : Prefect → Prefect) : (setPrf d f).glb = d.glb := rfl
@[simp] theorem setPrf_edgeWrites (f : Prefect → Prefect) : (setPrf d f).edgeWrites = d.edgeWrites := rfl
@[simp] theorem setPrf_freeCtr (f : Prefect → Prefect) : (setPrf d f).freeCtr = d.freeCtr := rfl
@[simp] theorem setPrf_out (f : Prefect → Prefect) : (setPrf d f).out = d.out := rfl

/-! ### draw -/

@[simp] theorem draw_mem : (draw d).mem = d.mem := rfl
@[simp] theorem draw_badWords : (draw d).badWords = d.badWords := rfl
@[simp] theorem draw_cores : (draw d).cores = d.cores := rfl
@[simp] theorem draw_bells : (draw d).bells = d.bells := rfl
@[simp] theorem draw_ttl : (draw d).ttl = d.ttl := rfl
@[simp] theorem draw_hbm : (draw d).hbm = d.hbm := rfl
@[simp] theorem draw_cxl : (draw d).cxl = d.cxl := rfl
@[simp] theorem draw_fab : (draw d).fab = d.fab := rfl
@[simp] theorem draw_copy : (draw d).copy = d.copy := rfl
@[simp] theorem draw_det : (draw d).det = d.det := rfl
@[simp] theorem draw_pace : (draw d).pace = d.pace := rfl
@[simp] theorem draw_host : (draw d).host = d.host := rfl
@[simp] theorem draw_fuses : (draw d).fuses = d.fuses := rfl
@[simp] theorem draw_flash : (draw d).flash = d.flash := rfl
@[simp] theorem draw_prefect : (draw d).prefect = d.prefect := rfl
@[simp] theorem draw_reg : (draw d).reg = d.reg := rfl
@[simp] theorem draw_rp : (draw d).rp = d.rp := rfl
@[simp] theorem draw_glb : (draw d).glb = d.glb := rfl
@[simp] theorem draw_edgeWrites : (draw d).edgeWrites = d.edgeWrites := rfl
@[simp] theorem draw_out : (draw d).out = d.out := rfl

/-! ### emit -/

@[simp] theorem emit_mem (o : Out) : (emit d o).mem = d.mem := rfl
@[simp] theorem emit_badWords (o : Out) : (emit d o).badWords = d.badWords := rfl
@[simp] theorem emit_cores (o : Out) : (emit d o).cores = d.cores := rfl
@[simp] theorem emit_bells (o : Out) : (emit d o).bells = d.bells := rfl
@[simp] theorem emit_ttl (o : Out) : (emit d o).ttl = d.ttl := rfl
@[simp] theorem emit_hbm (o : Out) : (emit d o).hbm = d.hbm := rfl
@[simp] theorem emit_cxl (o : Out) : (emit d o).cxl = d.cxl := rfl
@[simp] theorem emit_fab (o : Out) : (emit d o).fab = d.fab := rfl
@[simp] theorem emit_copy (o : Out) : (emit d o).copy = d.copy := rfl
@[simp] theorem emit_det (o : Out) : (emit d o).det = d.det := rfl
@[simp] theorem emit_pace (o : Out) : (emit d o).pace = d.pace := rfl
@[simp] theorem emit_host (o : Out) : (emit d o).host = d.host := rfl
@[simp] theorem emit_fuses (o : Out) : (emit d o).fuses = d.fuses := rfl
@[simp] theorem emit_flash (o : Out) : (emit d o).flash = d.flash := rfl
@[simp] theorem emit_prefect (o : Out) : (emit d o).prefect = d.prefect := rfl
@[simp] theorem emit_reg (o : Out) : (emit d o).reg = d.reg := rfl
@[simp] theorem emit_rp (o : Out) : (emit d o).rp = d.rp := rfl
@[simp] theorem emit_glb (o : Out) : (emit d o).glb = d.glb := rfl
@[simp] theorem emit_edgeWrites (o : Out) : (emit d o).edgeWrites = d.edgeWrites := rfl
@[simp] theorem emit_freeCtr (o : Out) : (emit d o).freeCtr = d.freeCtr := rfl

/-! ### signal -/

@[simp] theorem signal_mem (vec : Nat) : (signal d vec).mem = d.mem := by unfold signal; split <;> (try split) <;> rfl
@[simp] theorem signal_badWords (vec : Nat) : (signal d vec).badWords = d.badWords := by unfold signal; split <;> (try split) <;> rfl
@[simp] theorem signal_cores (vec : Nat) : (signal d vec).cores = d.cores := by unfold signal; split <;> (try split) <;> rfl
@[simp] theorem signal_bells (vec : Nat) : (signal d vec).bells = d.bells := by unfold signal; split <;> (try split) <;> rfl
@[simp] theorem signal_ttl (vec : Nat) : (signal d vec).ttl = d.ttl := by unfold signal; split <;> (try split) <;> rfl
@[simp] theorem signal_hbm (vec : Nat) : (signal d vec).hbm = d.hbm := by unfold signal; split <;> (try split) <;> rfl
@[simp] theorem signal_cxl (vec : Nat) : (signal d vec).cxl = d.cxl := by unfold signal; split <;> (try split) <;> rfl
@[simp] theorem signal_fab (vec : Nat) : (signal d vec).fab = d.fab := by unfold signal; split <;> (try split) <;> rfl
@[simp] theorem signal_copy (vec : Nat) : (signal d vec).copy = d.copy := by unfold signal; split <;> (try split) <;> rfl
@[simp] theorem signal_det (vec : Nat) : (signal d vec).det = d.det := by unfold signal; split <;> (try split) <;> rfl
@[simp] theorem signal_pace (vec : Nat) : (signal d vec).pace = d.pace := by unfold signal; split <;> (try split) <;> rfl
@[simp] theorem signal_fuses (vec : Nat) : (signal d vec).fuses = d.fuses := by unfold signal; split <;> (try split) <;> rfl
@[simp] theorem signal_flash (vec : Nat) : (signal d vec).flash = d.flash := by unfold signal; split <;> (try split) <;> rfl
@[simp] theorem signal_prefect (vec : Nat) : (signal d vec).prefect = d.prefect := by unfold signal; split <;> (try split) <;> rfl
@[simp] theorem signal_reg (vec : Nat) : (signal d vec).reg = d.reg := by unfold signal; split <;> (try split) <;> rfl
@[simp] theorem signal_rp (vec : Nat) : (signal d vec).rp = d.rp := by unfold signal; split <;> (try split) <;> rfl
@[simp] theorem signal_glb (vec : Nat) : (signal d vec).glb = d.glb := by unfold signal; split <;> (try split) <;> rfl
@[simp] theorem signal_edgeWrites (vec : Nat) : (signal d vec).edgeWrites = d.edgeWrites := by unfold signal; split <;> (try split) <;> rfl
@[simp] theorem signal_freeCtr (vec : Nat) : (signal d vec).freeCtr = d.freeCtr := by unfold signal; split <;> (try split) <;> rfl

/-! ### logEvent -/

@[simp] theorem logEvent_mem (code src arg : Nat) (data : List Byte) : (logEvent d code src arg data).mem = d.mem := signal_mem _ _
@[simp] theorem logEvent_badWords (code src arg : Nat) (data : List Byte) : (logEvent d code src arg data).badWords = d.badWords := signal_badWords _ _
@[simp] theorem logEvent_cores (code src arg : Nat) (data : List Byte) : (logEvent d code src arg data).cores = d.cores := signal_cores _ _
@[simp] theorem logEvent_bells (code src arg : Nat) (data : List Byte) : (logEvent d code src arg data).bells = d.bells := signal_bells _ _
@[simp] theorem logEvent_ttl (code src arg : Nat) (data : List Byte) : (logEvent d code src arg data).ttl = d.ttl := signal_ttl _ _
@[simp] theorem logEvent_hbm (code src arg : Nat) (data : List Byte) : (logEvent d code src arg data).hbm = d.hbm := signal_hbm _ _
@[simp] theorem logEvent_cxl (code src arg : Nat) (data : List Byte) : (logEvent d code src arg data).cxl = d.cxl := signal_cxl _ _
@[simp] theorem logEvent_fab (code src arg : Nat) (data : List Byte) : (logEvent d code src arg data).fab = d.fab := signal_fab _ _
@[simp] theorem logEvent_copy (code src arg : Nat) (data : List Byte) : (logEvent d code src arg data).copy = d.copy := signal_copy _ _
@[simp] theorem logEvent_det (code src arg : Nat) (data : List Byte) : (logEvent d code src arg data).det = d.det := signal_det _ _
@[simp] theorem logEvent_pace (code src arg : Nat) (data : List Byte) : (logEvent d code src arg data).pace = d.pace := signal_pace _ _
@[simp] theorem logEvent_fuses (code src arg : Nat) (data : List Byte) : (logEvent d code src arg data).fuses = d.fuses := signal_fuses _ _
@[simp] theorem logEvent_flash (code src arg : Nat) (data : List Byte) : (logEvent d code src arg data).flash = d.flash := signal_flash _ _
@[simp] theorem logEvent_prefect (code src arg : Nat) (data : List Byte) : (logEvent d code src arg data).prefect = d.prefect := signal_prefect _ _
@[simp] theorem logEvent_rp (code src arg : Nat) (data : List Byte) : (logEvent d code src arg data).rp = d.rp := signal_rp _ _
@[simp] theorem logEvent_glb (code src arg : Nat) (data : List Byte) : (logEvent d code src arg data).glb = d.glb := signal_glb _ _
@[simp] theorem logEvent_edgeWrites (code src arg : Nat) (data : List Byte) : (logEvent d code src arg data).edgeWrites = d.edgeWrites := signal_edgeWrites _ _
@[simp] theorem logEvent_freeCtr (code src arg : Nat) (data : List Byte) : (logEvent d code src arg data).freeCtr = d.freeCtr := signal_freeCtr _ _

/-! ### setAg -/

@[simp] theorem setAg_mem (a : AgState) : (setAg d a).mem = d.mem := by unfold setAg; split <;> simp
@[simp] theorem setAg_badWords (a : AgState) : (setAg d a).badWords = d.badWords := by unfold setAg; split <;> simp
@[simp] theorem setAg_cores (a : AgState) : (setAg d a).cores = d.cores := by unfold setAg; split <;> simp
@[simp] theorem setAg_bells (a : AgState) : (setAg d a).bells = d.bells := by unfold setAg; split <;> simp
@[simp] theorem setAg_ttl (a : AgState) : (setAg d a).ttl = d.ttl := by unfold setAg; split <;> simp
@[simp] theorem setAg_hbm (a : AgState) : (setAg d a).hbm = d.hbm := by unfold setAg; split <;> simp
@[simp] theorem setAg_cxl (a : AgState) : (setAg d a).cxl = d.cxl := by unfold setAg; split <;> simp
@[simp] theorem setAg_copy (a : AgState) : (setAg d a).copy = d.copy := by unfold setAg; split <;> simp
@[simp] theorem setAg_det (a : AgState) : (setAg d a).det = d.det := by unfold setAg; split <;> simp
@[simp] theorem setAg_pace (a : AgState) : (setAg d a).pace = d.pace := by unfold setAg; split <;> simp
@[simp] theorem setAg_fuses (a : AgState) : (setAg d a).fuses = d.fuses := by unfold setAg; split <;> simp
@[simp] theorem setAg_flash (a : AgState) : (setAg d a).flash = d.flash := by unfold setAg; split <;> simp
@[simp] theorem setAg_prefect (a : AgState) : (setAg d a).prefect = d.prefect := by unfold setAg; split <;> simp
@[simp] theorem setAg_reg (a : AgState) : (setAg d a).reg = d.reg := by unfold setAg; split <;> simp
@[simp] theorem setAg_rp (a : AgState) : (setAg d a).rp = d.rp := by unfold setAg; split <;> simp
@[simp] theorem setAg_glb (a : AgState) : (setAg d a).glb = d.glb := by unfold setAg; split <;> simp
@[simp] theorem setAg_edgeWrites (a : AgState) : (setAg d a).edgeWrites = d.edgeWrites := by unfold setAg; split <;> simp
@[simp] theorem setAg_freeCtr (a : AgState) : (setAg d a).freeCtr = d.freeCtr := by unfold setAg; split <;> simp

/-! ### setRc -/

@[simp] theorem setRc_mem (a : RcState) : (setRc d a).mem = d.mem := by unfold setRc; split <;> simp
@[simp] theorem setRc_badWords (a : RcState) : (setRc d a).badWords = d.badWords := by unfold setRc; split <;> simp
@[simp] theorem setRc_cores (a : RcState) : (setRc d a).cores = d.cores := by unfold setRc; split <;> simp
@[simp] theorem setRc_bells (a : RcState) : (setRc d a).bells = d.bells := by unfold setRc; split <;> simp
@[simp] theorem setRc_ttl (a : RcState) : (setRc d a).ttl = d.ttl := by unfold setRc; split <;> simp
@[simp] theorem setRc_hbm (a : RcState) : (setRc d a).hbm = d.hbm := by unfold setRc; split <;> simp
@[simp] theorem setRc_cxl (a : RcState) : (setRc d a).cxl = d.cxl := by unfold setRc; split <;> simp
@[simp] theorem setRc_copy (a : RcState) : (setRc d a).copy = d.copy := by unfold setRc; split <;> simp
@[simp] theorem setRc_det (a : RcState) : (setRc d a).det = d.det := by unfold setRc; split <;> simp
@[simp] theorem setRc_pace (a : RcState) : (setRc d a).pace = d.pace := by unfold setRc; split <;> simp
@[simp] theorem setRc_fuses (a : RcState) : (setRc d a).fuses = d.fuses := by unfold setRc; split <;> simp
@[simp] theorem setRc_flash (a : RcState) : (setRc d a).flash = d.flash := by unfold setRc; split <;> simp
@[simp] theorem setRc_prefect (a : RcState) : (setRc d a).prefect = d.prefect := by unfold setRc; split <;> simp
@[simp] theorem setRc_reg (a : RcState) : (setRc d a).reg = d.reg := by unfold setRc; split <;> simp
@[simp] theorem setRc_rp (a : RcState) : (setRc d a).rp = d.rp := by unfold setRc; split <;> simp
@[simp] theorem setRc_glb (a : RcState) : (setRc d a).glb = d.glb := by unfold setRc; split <;> simp
@[simp] theorem setRc_edgeWrites (a : RcState) : (setRc d a).edgeWrites = d.edgeWrites := by unfold setRc; split <;> simp
@[simp] theorem setRc_freeCtr (a : RcState) : (setRc d a).freeCtr = d.freeCtr := by unfold setRc; split <;> simp

/-! ### The field that an update changes -/

@[simp] theorem setCore_cores (v : Nat) (c : Core) : (setCore d v c).cores = mapPut d.cores v c := rfl
@[simp] theorem setPrf_prefect (f : Prefect → Prefect) : (setPrf d f).prefect = f d.prefect := rfl
@[simp] theorem draw_freeCtr : (draw d).freeCtr = d.freeCtr + 1 := rfl
@[simp] theorem emit_out (o : Out) : (emit d o).out = o :: d.out := rfl
@[simp] theorem modPort_fab (p : Nat) (f : FabPort → FabPort) :
    (modPort d p f).fab = { d.fab with ports := mapPut d.fab.ports p (f (fabPort d p)) } := rfl
@[simp] theorem modCtx_host (k : Nat) (f : Ctx → Ctx) :
    (modCtx d k f).host = { d.host with ctxs := mapPut d.host.ctxs k (f (ctxOf d k)) } := rfl
@[simp] theorem logEvent_log (code src arg : Nat) (data : List Byte) :
    (logEvent d code src arg data).reg.logSeq = d.reg.logSeq + 1 := by
  unfold logEvent; simp

end Sys2Proof.Machine
end

