-- ==== Sys2Proof/Laws/Turn.lean ====
section
/-!
SUPPORT. What the queues of a core do: a command word keeps its value in its queue entry, and a command that issues into queues
with nothing waiting executes at once and alone.
-/
namespace Sys2Proof.Machine
open Sys2Proof.Safety

/-! ### The command word -/

theorem leNat_lt (l : List Byte) : leNat l < 256 ^ l.length := by
  induction l with
  | nil => simp [leNat]
  | cons b r ih => simp only [leNat, List.length_cons, Nat.pow_succ]; have := b.isLt; omega
theorem foldl_set_length (l : List Host.Cell) (a : Nat) (bs : List Byte) :
    (l.foldl (fun bs c => bs.set (c.1 - a) c.2) bs).length = bs.length := by
  induction l generalizing bs with
  | nil => rfl
  | cons c r ih => simp [ih]
theorem commandBytes_length (d : Dev) (a : Nat) : (commandBytes d a).length = 16 := by
  have hl : (rdBytes d a 16).length = 16 := by simp [rdBytes, memRead]; split <;> simp
  unfold commandBytes
  generalize racing d = r
  dsimp only
  split
  · exact hl
  · split
    · rw [foldl_set_length]; exact hl
    · exact hl
theorem oldOrNew_lt {d : Dev} {a old new n : Nat} (ho : old < n) (hn : new < n) : oldOrNew d a old new < n := by
  unfold oldOrNew
  split
  · exact hn
  · split
    · exact ho
    · exact hn
theorem leNat_lt16 {l : List Byte} (h : l.length = 16) : leNat l < 2 ^ 128 := by
  have := leNat_lt l
  rw [h] at this; exact this
/-- A fetched word has 128 bits. -/
theorem fetchWord_lt {d : Dev} {v w : Nat} (h : fetchWord d v = some w) : w < 2 ^ 128 := by
  unfold fetchWord at h
  dsimp only at h
  split at h
  · cases h
  · split at h
    · rw [← Option.some.inj h]
      exact oldOrNew_lt (leNat_lt16 (by simp [memRead])) (leNat_lt16 (commandBytes_length _ _))
    · obtain ⟨b, -, rfl⟩ := Option.map_eq_some_iff.mp h
      refine oldOrNew_lt (leNat_lt16 ?_) (leNat_lt16 ?_)
      · simp only [slice, List.length_append, List.length_take, List.length_replicate]; omega
      · simp [rdBytes, memRead]; split <;> simp
theorem issues_lt {d : Dev} {v w : Nat} (h : issues d v w = true) : w < 2 ^ 128 := by
  simp only [issues, Bool.and_eq_true, beq_iff_eq] at h
  exact fetchWord_lt h.1.1.1.2
/-- A queue entry's word is the word fetched. -/
theorem word_toNat {w : Nat} (h : w < 2 ^ 128) : (BitVec.ofNat 128 w).toNat = w := by
  rw [BitVec.toNat_ofNat, Nat.mod_eq_of_lt h]

/-! ### Issue of array and vector commands -/

theorem rowOpc_arr {w o : Nat} (h : cwOpc w = o) (ho : o < 0x30) : rowOpc o w = true := by
  have : cwVector w = false := by simp [cwVector, h]; omega
  simp [rowOpc, h, this]
/-- An array command issues: one change of its core. -/
theorem arr_issue (d : Dev) (v w : Nat) (ha : cwArray w = true) : issueCmd d v w =
    let c0 := coreOf d v
    let o := arrOpnds c0 w
    let entry : Issued :=
      { id := c0.issue.toNat, word := BitVec.ofNat 128 w, unit := .array (bits w 8 3), ops := o, regions := arrRegions c0 w o,
        liveFmt := trackedLive c0 w, step := mapGet 0 c0.ringSteps (bits w 8 3), shape := (arrOf c0 (bits w 8 3)).tPend }
    modCore d v (fun c =>
      advance (trackArray { c with cmds := c.cmds ++ [entry] } w (trackedLive c0 w) (arrRegions c0 w o)) w) := by
  have h1 : cwOpc w ≠ 2 := by simp [cwArray] at ha; omega
  have h2 : cwOpc w ≠ 3 := by simp [cwArray] at ha; omega
  unfold issueCmd
  split
  · contradiction
  · contradiction
  · simp only [ha, if_true, issueArray, putFlight, modCore_modCore]
    simp [modCore, holdsRegions, ha, regionsOf, opndsOf, drainShape, cwQue]
/-- A vector command issues: one change of its core. -/
theorem vec_issue (d : Dev) (v w : Nat) (hv : cwVector w = true) : issueCmd d v w =
    let c0 := coreOf d v
    let o := vecOpnds d v c0 w
    let entry : Issued :=
      { id := c0.issue.toNat, word := BitVec.ofNat 128 w, unit := if vPost w then .pool (vSlot w) else .vec, ops := o,
        regions := vecRegions w o, pair := if vFsrc w then ((arrOf c0 (vFarr w)).unpaired.head?).map (·.id) else none }
    modCore d v (fun c =>
      let c1 := { c with cmds := c.cmds ++ [entry] }
      let c2 := if vFsrc w then modArr c1 (vFarr w) (fun q => { q with unpaired := q.unpaired.drop 1 }) else c1
      advance (if vPost w then { c2 with vec := { c2.vec with posted := satAdd c2.vec.posted 1 } } else c2) w) := by
  have h0 : cwArray w = false := by simp [cwArray, cwVector] at *; omega
  have h1 : cwOpc w ≠ 2 := by simp [cwVector] at hv; omega
  have h2 : cwOpc w ≠ 3 := by simp [cwVector] at hv; omega
  unfold issueCmd
  split
  · contradiction
  · contradiction
  · simp only [h0, hv, if_true, issueVector, putFlight, modCore_modCore, Bool.false_eq_true, if_false]
    simp only [modCore, coreOf_setCore_same, setCore_setCore, holdsRegions, h0, hv, regionsOf, opndsOf, fusedMma, Bool.or_true,
      Bool.true_or, if_true, Bool.false_eq_true, if_false]

/-! ### One turn of a queue -/

/-- A command of another queue changes nothing for a queue. -/
theorem find_append_other (l : List Issued) (i : Issued) (u : CUnit) (hu : i.unit ≠ u)
    (hn : l.find? (fun i => i.unit == u && !i.executed) = none) :
    (l ++ [i]).find? (fun i => i.unit == u && !i.executed) = none := by
  simp [List.find?_append, hn, hu]
/-- With nothing waiting before it, a new command is the next of its queue. -/
theorem find_append_same (l : List Issued) (i : Issued) (he : i.executed = false)
    (hn : l.find? (fun j => j.unit == i.unit && !j.executed) = none) :
    (l ++ [i]).find? (fun j => j.unit == i.unit && !j.executed) = some i := by
  simp [List.find?_append, hn, he]
/-- Marking a command executed leaves nothing waiting that was not waiting. -/
theorem find_mark (l : List Issued) (u : CUnit) (p : Issued → Bool) (f : Issued → Issued) (hf : ∀ j, (f j).unit = j.unit)
    (hx : ∀ j, p j = true → (f j).executed = true) (hk : ∀ j, p j = false → f j = j)
    (h : ∀ j ∈ l, j.unit = u → j.executed = false → p j = true) :
    (l.map f).find? (fun i => i.unit == u && !i.executed) = none := by
  rw [List.find?_eq_none]
  intro x hx'
  obtain ⟨j, hj, rfl⟩ := List.mem_map.mp hx'
  simp only [hf, Bool.and_eq_true, beq_iff_eq, Bool.not_eq_true', not_and, Bool.not_eq_false]
  intro hu
  cases hp : p j with
  | true => exact hx j hp
  | false =>
    rw [hk j hp]
    cases he : j.executed with
    | true => rfl
    | false => rw [h j hj hu he] at hp; cases hp

theorem modStrm_cmds (d : Dev) (e : Engine) (f : StreamState → StreamState) (v : Nat) :
    (coreOf (modStrm d e f) v).cmds = (coreOf d v).cmds := by
  cases e with
  | hdma c => rfl
  | core u =>
    by_cases h : v = u
    · subst h; simp [modStrm]
    · simp [modStrm, coreOf_modCore_other _ _ _ _ h]
/-- Lists that remember overwritten bytes keep every core's commands. -/
theorem noteOver_cmds (d : Dev) (cells : List Host.Cell) (v : Nat) : (coreOf (noteOver d cells) v).cmds = (coreOf d v).cmds := by
  unfold noteOver
  dsimp only
  split
  · rfl
  · generalize engines d = l
    induction l generalizing d with
    | nil => rfl
    | cons e r ih =>
      simp only [List.foldl_cons]
      rw [ih]
      split
      · exact modStrm_cmds _ _ _ _
      · rfl
/-- The commands after a turn: those of before, with the one that executed marked. -/
theorem markDone_cmds (b d : Dev) (v : Nat) (i : Issued) :
    (coreOf (markDone b d v i) v).cmds = (coreOf d v).cmds.map (fun j =>
      if j.id == i.id then { j with executed := true, undo := regionDiff b d v i.regions } else j) := by
  simp [markDone, noteOver_cmds]

/-- What waits, given by its queue. -/
theorem nextOf_none_iff (c : Core) (u : CUnit) :
    nextOf c u = none ↔ ∀ j ∈ c.cmds, j.unit = u → j.executed = true := by
  simp [nextOf]

/-- After a turn in which only command i waited in a queue, nothing waits in it. -/
theorem nextOf_markDone (b d : Dev) (v : Nat) (i : Issued) (u : CUnit)
    (h : ∀ j ∈ (coreOf d v).cmds, j.unit = u → j.executed = false → j.id = i.id) :
    nextOf (coreOf (markDone b d v i) v) u = none := by
  unfold nextOf
  rw [markDone_cmds]
  exact find_mark _ u (fun j => j.id == i.id) _ (fun j => by split <;> rfl)
    (fun j hj => by simp only [hj, if_true]) (fun j hj => by simp only [hj, Bool.false_eq_true, if_false])
    (fun j hj hu he => by simpa using h j hj hu he)

/-- The one command that waits is an array command whose turn has come: it executes, and nothing else does. -/
theorem pump_array (d : Dev) (v a : Nat) (i : Issued) (l : List Issued) (ha : a < 4) (hc : (coreOf d v).cmds = l ++ [i])
    (hl : ∀ j ∈ l, (∃ b, b < 4 ∧ j.unit = .array b) ∨ j.unit = .vec → j.executed = true) (hu : i.unit = .array a)
    (he : i.executed = false) (hr : arrayReady d v a i = true)
    (hk : (coreOf (raced d (fun e => execArrayCmd e v a i)) v).cmds = (coreOf d v).cmds) :
    pump d v = markDone d (raced d (fun e => execArrayCmd e v a i)) v i := by
  have hother : ∀ u, u ≠ .array a → (u = .vec ∨ ∃ b, b < 4 ∧ u = .array b) → nextOf (coreOf d v) u = none := by
    intro u hne hk
    rw [nextOf_none_iff, hc]
    intro j hj hju
    rcases List.mem_append.mp hj with h | h
    · exact hl j h (by rcases hk with h2 | ⟨b, hb, h2⟩; exact .inr (hju.trans h2); exact .inl ⟨b, hb, hju.trans h2⟩)
    · simp at h; subst h; exact absurd (hju.symm.trans hu) hne
  have hself : nextOf (coreOf d v) (.array a) = some i := by
    have hn : l.find? (fun j => j.unit == i.unit && !j.executed) = none := by
      rw [List.find?_eq_none]; intro j hj
      simp only [Bool.and_eq_true, beq_iff_eq, Bool.not_eq_true', not_and, Bool.not_eq_false]
      intro h; exact hl j hj (.inl ⟨a, ha, h.trans hu⟩)
    have := find_append_same l i he hn
    rw [hu] at this; simp only [nextOf, hc]; exact this
  have hdone : ∀ u, (u = .vec ∨ ∃ b, b < 4 ∧ u = .array b) → nextOf (coreOf (markDone d (raced d (fun e => execArrayCmd e v a i)) v i) v) u = none := by
    intro u hk2
    refine nextOf_markDone d _ v i u ?_
    rw [hk, hc]
    intro j hj hju hje
    rcases List.mem_append.mp hj with h | h
    · have := hl j h (by rcases hk2 with h2 | ⟨b, hb, h2⟩; exact .inr (hju.trans h2); exact .inl ⟨b, hb, hju.trans h2⟩)
      rw [this] at hje; cases hje
    · simp at h; rw [h]
  have hlen : (coreOf d v).cmds.length + 1 = l.length + 1 + 1 := by simp [hc]
  have hstep : ∀ b, b < 4 → ∀ n, pumpArray (n + 1) d v b = if b = a then pumpArray n (markDone d (raced d (fun e => execArrayCmd e v a i)) v i) v a else d := by
    intro b hb n
    by_cases hba : b = a
    · subst hba; simp [pumpArray, hself, hr]
    · simp [pumpArray, hother (.array b) (by simpa using hba) (.inr ⟨b, hb, rfl⟩), hba]
  have hstill : ∀ b, b < 4 → ∀ n, pumpArray n (markDone d (raced d (fun e => execArrayCmd e v a i)) v i) v b = markDone d (raced d (fun e => execArrayCmd e v a i)) v i := by
    intro b hb n
    cases n with
    | zero => rfl
    | succ n => simp [pumpArray, hdone (.array b) (.inr ⟨b, hb, rfl⟩)]
  have hfold : (List.range 4).foldl (fun e b => pumpArray (l.length + 1 + 1) e v b) d = markDone d (raced d (fun e => execArrayCmd e v a i)) v i := by
    have h4 : a = 0 ∨ a = 1 ∨ a = 2 ∨ a = 3 := by omega
    rcases h4 with rfl | rfl | rfl | rfl <;> simp [List.range, List.range.loop, hstep, hstill]
  simp only [pump, hlen, hfold]
  simp [pumpVec, hdone .vec (.inl rfl)]

/-- The one command that waits is a vector command that is no fused consumer: it executes, and nothing else does. -/
theorem pump_vec (d : Dev) (v : Nat) (i : Issued) (l : List Issued) (hc : (coreOf d v).cmds = l ++ [i])
    (hl : ∀ j ∈ l, (∃ b, b < 4 ∧ j.unit = .array b) ∨ j.unit = .vec → j.executed = true) (hu : i.unit = .vec)
    (he : i.executed = false) (hf : vFsrc i.word.toNat = false)
    (hk : (coreOf (raced d (fun e => execVecCmd e v i [])) v).cmds = (coreOf d v).cmds) :
    pump d v = markDone d (raced d (fun e => execVecCmd e v i [])) v i := by
  have hother : ∀ b, b < 4 → nextOf (coreOf d v) (.array b) = none := by
    intro b hb
    rw [nextOf_none_iff, hc]
    intro j hj hju
    rcases List.mem_append.mp hj with h | h
    · exact hl j h (.inl ⟨b, hb, hju⟩)
    · simp at h; subst h; rw [hu] at hju; cases hju
  have hself : nextOf (coreOf d v) .vec = some i := by
    have hn : l.find? (fun j => j.unit == i.unit && !j.executed) = none := by
      rw [List.find?_eq_none]; intro j hj
      simp only [Bool.and_eq_true, beq_iff_eq, Bool.not_eq_true', not_and, Bool.not_eq_false]
      intro h; exact hl j hj (.inr (h.trans hu))
    have := find_append_same l i he hn
    rw [hu] at this; simp only [nextOf, hc]; exact this
  have hdone : nextOf (coreOf (markDone d (raced d (fun e => execVecCmd e v i [])) v i) v) .vec = none := by
    refine nextOf_markDone d _ v i .vec ?_
    rw [hk, hc]
    intro j hj hju hje
    rcases List.mem_append.mp hj with h | h
    · rw [hl j h (.inr hju)] at hje; cases hje
    · simp at h; rw [h]
  have hlen : (coreOf d v).cmds.length + 1 = l.length + 1 + 1 := by simp [hc]
  have hfold : (List.range 4).foldl (fun e b => pumpArray (l.length + 1 + 1) e v b) d = d := by
    simp [List.range, List.range.loop, pumpArray, hother]
  simp only [pump, hlen, hfold]
  simp [pumpVec, hself, hf, hdone]

/-! ### Commands beside transfers in flight (R163) -/

@[simp] theorem seen_cores (d : Dev) : (seen d).cores = d.cores := by
  simp only [seen]; split <;> rfl
/-- With no transfer in flight that writes a core window, a command sees the memory as it is. -/
theorem seen_calm (d : Dev) (h : racing d = []) : seen d = d := by simp [seen, h]
/-- And its effect is its effect alone. -/
theorem raced_calm (d : Dev) (f : Dev → Dev) (h : racing d = []) : raced d f = f d := by simp [raced, h]
theorem noteCells_cmds (d : Dev) (cells : List Host.Cell) (v : Nat) : (coreOf (noteCells d cells) v).cmds = (coreOf d v).cmds := by
  unfold noteCells
  generalize engines d = l
  induction l generalizing d with
  | nil => rfl
  | cons e r ih =>
    simp only [List.foldl_cons]
    rw [ih]
    split
    · exact modStrm_cmds _ _ _ _
    · rfl
/-- What keeps a core's commands keeps them beside transfers in flight too. -/
theorem raced_cmds (d : Dev) (f : Dev → Dev) (v : Nat) (h : ∀ e, (coreOf (f e) v).cmds = (coreOf e v).cmds) :
    (coreOf (raced d f) v).cmds = (coreOf d v).cmds := by
  have hs : (coreOf (seen d) v).cmds = (coreOf d v).cmds := by simp [coreOf]
  simp only [raced]
  split
  · exact h d
  · split
    · exact (h (seen d)).trans hs
    · rw [noteCells_cmds]; exact (h (seen d)).trans hs

/-! ### What executing keeps -/

theorem modArr_cmds (c : Core) (a : Nat) (f : ArrayState → ArrayState) : (modArr c a f).cmds = c.cmds := rfl
theorem writeRows32_cores (d : Dev) (v base pitch : Nat) (rows : List (List Nat)) :
    (writeRows32 d v base pitch rows).cores = d.cores := by
  exact foldl_keeps _ Dev.cores (fun e p => winWrite_cores e v _ _) _ _
theorem coreOf_of_cores {d e : Dev} (h : d.cores = e.cores) (v : Nat) : coreOf d v = coreOf e v := by simp [coreOf, h]
/-- An array command keeps its core's commands. -/
theorem execArrayCmd_cmds (d : Dev) (v a : Nat) (i : Issued) : (coreOf (execArrayCmd d v a i) v).cmds = (coreOf d v).cmds := by
  have hdel : ∀ (d : Dev) id w o r, (coreOf (deliver d v a id w o r) v).cmds = (coreOf d v).cmds := by
    intro d id w o r
    unfold deliver
    split
    · simp [modArr_cmds]
    · dsimp only
      split
      · rw [coreOf_of_cores (writeRows32_cores _ _ _ _ _)]
      · rw [coreOf_of_cores (writeRows32_cores _ _ _ _ _), coreOf_of_cores (writeRows32_cores _ _ _ _ _)]
  have hmma : ∀ (d : Dev) id w o f rows, (coreOf (execMmaOn d v a id w o f rows) v).cmds = (coreOf d v).cmds := by
    intro d id w o f rows
    have hsw : (coreOf (if aSwap w then modCore d v (fun c => modArr c a swapTiles) else d) v).cmds = (coreOf d v).cmds := by
      split <;> simp [modArr_cmds]
    unfold execMmaOn
    split
    · split <;> simp [modArr_cmds]
    · dsimp only
      split
      · rw [hdel, hsw]
      · rw [hdel, hsw]
      · simp [modArr_cmds, hsw]
  have hinj : ∀ (d : Dev) w st f rows, (injectStep d v a w st f rows).cores = d.cores := by
    intro d w st f rows; unfold injectStep; split <;> rfl
  unfold execArrayCmd
  dsimp only
  split
  · unfold execLoad; split <;> simp [modArr_cmds]
  · simp [modArr_cmds]
  · unfold execDrain
    dsimp only
    split
    · rfl
    · refine (congrArg Core.cmds (coreOf_of_cores (foldl_keeps _ Dev.cores (fun e p => by simp [drainAdd]) _ _) v)).trans ?_
      simp [modArr_cmds]
  · unfold execClear
    exact congrArg Core.cmds (coreOf_of_cores (foldl_keeps _ Dev.cores (fun e p => winWrite_cores e v _ _) _ _) v)
  · rw [hmma]
    split
    · rw [coreOf_of_cores (hinj _ _ _ _ _)]
    · rfl

end Sys2Proof.Machine
end

