-- ==== Sys2Proof/WellFormed.lean ====
section
/-!
DEFINITION. Well-formed commands: each operand names a part that the largest grade has, and data has the length that its field
or its flit allows. A command that is not well formed is still given a meaning by the machine, in which it changes nothing or
acts on the part of the operand that exists; this check is what a sender of commands keeps to.
-/
namespace Sys2Proof

/-- A virtual core of the largest grid (R25). -/
def coreOk (v : Nat) : Bool := v < 192
/-- A fabric port (R330). -/
def portOk (p : Nat) : Bool := p < 12
/-- An HBM controller (R294). -/
def hbmOk (c : Nat) : Bool := c < 12
/-- A CXL port (R305). -/
def cxlOk (p : Nat) : Bool := p < 2
/-- A pacer region (R429). -/
def regionOk (r : Nat) : Bool := r < 236
/-- A context (R436). -/
def ctxOk (k : Nat) : Bool := k < 4
/-- An HDMA channel (R451). -/
def channelOk (c : Nat) : Bool := c < 4
/-- An engine that exists. -/
def engineOk : Engine → Bool
  | .core v => coreOk v
  | .hdma c => channelOk c
/-- An in-flight slot (R196). -/
def slotOk (n : Nat) : Bool := n < 1024
/-- An issuing core of an access, if any. -/
def issuerOk (c : Option Nat) : Bool := c.all coreOk
/-- A reader that exists. -/
def readerOk : Reader → Bool
  | .core v => coreOk v
  | .xfer e slot => engineOk e && slotOk slot
  | .request _ => true
  | .none => true
/-- A local address range (R43) with as many written bytes as it has. -/
def accessOk (addr len : Nat) (wr : Option (List Byte)) : Bool :=
  0 < len && addr + len ≤ 2 ^ 48 && wr.all (fun bs => bs.length == len)

/-- The command's operands are in range. -/
def Instr.wellFormed : Instr → Bool
  | .prcStart v | .haltReq v | .stopped v | .resume v | .clrStall v | .fetchBlock v _ | .halt v | .halted v | .loop v
  | .endloop v | .seta v | .adda v | .setl v | .cmp v | .tag v | .taskDrain v | .bellRing v | .bellWait v | .strmGo v
  | .strmWait v | .strmFence v | .mmaF v | .mmaT v | .mmaO v | .wload v | .wswap v | .gbDrain v | .gbClear v | .vop v
  | .vred v | .vnorm v | .vnormB v | .vsmax v | .vsmaxB v | .vcast v | .vupd v | .vcountNf v | .taskPost v | .faulted v
  | .brk v | .listReadComplete v => coreOk v
  | .commandComplete v _ | .bellTransfer v _ => coreOk v
  | .ringHeader ring member => decide (ring < 65536) && decide (member < 65536)
  | .copy e _ | .fill e _ | .reduceAdd e _ | .reduceMin e _ | .reduceMax e _ | .topk e _ | .sign e _ | .expandTopk e _
  | .expandSign e _ => engineOk e
  | .transferComplete e slot | .hostCompletionTimeout e slot _ => engineOk e && slotOk slot
  | .bellArrivalSent v bell => coreOk v && decide (bell < 1016)
  | .bellArrival p _ | .bellRelease p _ => portOk p
  | .bellGenerationComplete bell => decide (bell < 1024)
  | .taskTake v engine => coreOk v && decide (engine < 2)
  | .hbmAccess core addr len wr _ => issuerOk core && accessOk addr len wr
  | .refresh c | .temperatureReport c _ | .hbmTraining c _ => hbmOk c
  | .scrub c found => hbmOk c && found.all (fun f => decide (f.1 < 2 ^ 48))
  | .cxlEnumerate p _ lanes _ _ => cxlOk p && decide (lanes ≤ 16)
  | .memoryActive p _ | .memoryActiveTimeout p | .linkRetry p | .cxlLinkDown p | .pageFill p _ | .writeBack p _ _ | .flush p
  | .flushDone p | .logswap p | .logswapDone p => cxlOk p
  | .eventRecordPoll p records => cxlOk p && records.all (fun r => decide (r.length ≤ 128))
  | .poisonedResponse by_ addr => readerOk by_ && decide (addr < 2 ^ 48)
  | .tierAccess core addr len wr plc _ => issuerOk core && accessOk addr len wr && decide (plc.toNat < 4)
  | .portTraining p _ _ _ _ _ | .fullRateFallback p _ | .linkFlit p _ | .retrainDone p _ | .ackDue p | .hello p _ | .heartbeat p _
  | .heartbeatMiss p | .rcAssign p _ | .rcReport p _ | .rcRefuse p _ | .rcTopo p _ | .rcDone p _ | .linkDown p _ | .absent p _
  | .resetReq p _ | .reservedFlitType p _ => portOk p
  | .rcReportTimeout dev => decide (dev < 16384)
  | .fabWrite p _ _ | .fabReadRequest p _ _ | .fabReadResponse p _ _ | .fabStatusResponse p _ _ | .fabReduceAdd p _ _
  | .fabReduceMin p _ _ | .fabReduceMax p _ _ | .fabTopkRecords p _ _ | .fabSignRecords p _ _ => portOk p
  | .fabTimeout v slot | .slotReuse v slot => coreOk v && slotOk slot
  | .pacerStableTimeout r | .criticalLevel r | .beat r => regionOk r
  | .marginStretch r level => regionOk r && level != 3
  | .doorbell k off len wr => ctxOk k && decide (0 < len) && decide (off + len ≤ 0x10000) && wr.all (fun bs => bs.length == len)
  | .descriptorTake k _ | .jobEnd k _ | .stop k _ | .stopTimeout k | .en k _ _ => ctxOk k
  | .coresWrite k n _ => ctxOk k && decide (n < 8)
  | .windowAccess off len wr _ => decide (0 < len) && decide (off + len ≤ 2 ^ 36) && wr.all (fun bs => bs.length == len)
  | .hdmaGo c _ => channelOk c
  | .msixUnmask vec => decide (vec < 16)
  | .bundleBlock bs => bs.length == 65536
  | .offer p _ | .pull p _ | .data p _ | .done p _ => portOk p
  | .getVersion _ req | .getCapabilities _ req | .negotiateAlgorithms _ req | .getDigests _ req | .getCertificate _ req
  | .challenge _ req | .getMeasurements _ req | .spdmUnsupportedRequest _ req => decide (4 ≤ req.length)
  | .releaseStep _ _ cs => cs.all (fun c => c.a ≤ 236 && c.b ≤ 236 && c.a != c.b)
  | .registerWrite off size _ => decide (0 < size) && decide (off < 0x2040000)
  | .ttLoad | .timetableActive | .heartbeatSend | .rcgo | .agree | .checkpointDue | .cadenceRecompute | .now | .roundStart _
  | .drainComplete _ | .commit | .abort | .arm _ | .copySeqWrite _ _ | .dcore _ | .ddev | .workStopTimeout | .slowClockEdge
  | .paceEpoch | .railsSettled | .railSettleTimeout | .powerWindow _ | .powerStretch _ | .clrcnt | .flr _ | .d3hot _ | .perst _
  | .deliver | .hostReadError | .activation _ _ | .offerRepeat | .chainTimeout | .status | .selftest _ | .entropyTestFail
  | .nonce | .enrol | .revoke | .unlock | .zeroise | .prefectReservedCommand | .powerOn | .vauxLoss _ | .vinGood
  | .powerFail _ | .powerFailClear | .vinLoss | .vinOvervoltage _ | .overvoltageClear | .railFault | .thermalTrip _
  | .thermalHoldEnd | .thermalWarning _ _ | .watchdogExpiry | .resetIn _ | .swrst _ | .rstClrcnt | .trimLoadDone _
  | .blockResetGo _ | .blockIdle | .blockResetTimeout | .holdup _ _ | .sagEnd _ _ | .settingsWrite _ | .holdupRecheck _
  | .flashWriteTimeout | .powerState | .info | .logRead | .topoRead | .paceReq | .settingsRead | .watchdog
  | .registrarReservedCommand | .syncTimeout _ | .holdupMeasurementExpiry | .sagVinLow | .fabricRefclkStop _
  | .jtagInstruction _ => true

end Sys2Proof
end

