-- ==== Sys2Proof/Tests/Slice0.lean ====
section
/-!
SUPPORT. Tests. For every statement that has hypotheses, a theorem here shows a state and operands that meet them, clause by
clause; then come the ill-formed commands that the well-formedness check refuses, and values of single commands that the spec
states or that are computed by hand from its words.
-/
namespace Sys2Proof.Tests
set_option maxRecDepth 20000
set_option Elab.async false
set_option synthInstance.maxSize 400
open Sys2Proof Sys2Proof.Machine Sys2Proof.Safety

/-- A word from fields, each a position and a value. -/
def cmdWord (fs : List (Nat × Nat)) : Nat := fs.foldl (fun n f => n + f.2 * 2 ^ f.1) 0
/-- A command word with an opcode, a queue and further fields (R153). -/
def cw (o q : Nat) (fs : List (Nat × Nat)) : Nat := cmdWord ((0, o) :: (8, q) :: fs)
/-- A device that has been released and activated. -/
def rdy : Dev :=
  { Dev.reset with
    rp := { lastCause := 1, lastKind := .cold, cnt := [(1, 1)], step := 11, done := true, trimV := true, vinGood := true,
            perstLow := false, strapDone := true },
    host := { syll := true }, reg := { fw := true, running := true }, prefect := { boot := .active } }
/-- A state with a device. -/
def st (d : Dev) : State := { dev := d, shadow := Dev.reset }
/-- A memory with bytes stored. -/
def cells (cs : List (Nat × List Byte)) : List Host.Cell := cs.foldl (fun m c => memWrite m c.1 c.2) []
/-- Core 0 running at the start of its scratchpad. -/
def run0 : Machine.Core := { state := .running, start := BitVec.ofNat 48 (winBase 0), pc := BitVec.ofNat 48 (winBase 0) }
/-- A state whose core 0 is given, with bytes stored. -/
def withCore (c : Machine.Core) (cs : List (Nat × List Byte)) : State :=
  st { rdy with cores := [(0, { c with code := (cells cs).filter (fun x => winBase 0 ≤ x.1) })], mem := cells cs }
/-- A state whose core 0 has one command word next. -/
def cmd (w : Nat) : State := withCore run0 [(winBase 0, leBytes 16 w)]
/-- The same with core 0 changed. -/
def cmdC (w : Nat) (f : Machine.Core → Machine.Core) : State := withCore (f run0) [(winBase 0, leBytes 16 w)]
/-- The state with its device changed. -/
def on (s : State) (f : Dev → Dev) : State := { s with dev := f s.dev }
/-- SETA A3 with base and stride; ADDA A15; SETL L7 from an immediate and from a word in memory; CMP C7; TAG; LOOP L1 of two commands. -/
def wSeta : Nat := cw 0x04 7 [(32, 3), (38, 0x123456789ABC), (86, 0x800040)]
def wSetaB : Nat := cw 0x04 7 [(32, 3), (36, 1), (38, 0x123456789ABC)]
def wSetaS : Nat := cw 0x04 7 [(32, 3), (36, 2), (86, 0x800040)]
def wAdda : Nat := cw 0x05 7 [(32, 15), (36, 0xFFFFFFFFFFFF)]
def wSetl : Nat := cw 0x06 7 [(32, 7), (36, 0xFFFFFFFF)]
def wSetlR : Nat := cw 0x06 7 [(32, 7), (35, 1), (36, 2)]
def wCmp : Nat := cw 0x07 7 [(32, 7), (35, 2), (37, 0xAB), (45, 0xFFFFFFFFFFFF)]
def wTag : Nat := cw 0x08 7 [(12, 0x5A)]
def wLoop : Nat := cw 0x02 7 [(32, 1), (35, 2)]
def wEndloop : Nat := cw 0x03 7 []
def wDrain : Nat := cw 0x09 7 []
def wRing : Nat := cw 0x0A 7 [(32, 4), (42, 6), (45, 2)]
def wRingDrn : Nat := cw 0x0A 7 [(32, 4), (42, 3), (65, 1)]
def wWait : Nat := cw 0x0B 7 [(32, 4)]
def wWaitRes : Nat := cw 0x0B 7 [(32, 4), (42, 4), (62, 1)]
def wSwait : Nat := cw 0x11 7 [(32, 7), (35, 2)]
def wHalt : Nat := cw 0x01 7 [(32, 0xFFFF)]
def wGo : Nat := cw 0x10 5 [(32, 0x80000 + 2 * 0x8000 + 0x4000), (52, 3), (68, 7), (71, 2), (73, 1), (77, 1)]
def wFence : Nat := cw 0x12 5 []
/-- A Timetable with one device Bell that core 0 rings and waits on, and one ring of two members. -/
def ttBell : Timetable :=
  { digest := 1, devices := 1, bells := [{ num := 4, fabric := false, ring := 1, wait := 1, tree := [] }], rings := [[(0, 0), (0, 1)]] }
/-- The state with that Timetable active and a state of the Bell. -/
def belled (s : State) (b : BellState) : State :=
  on s (fun d => { d with ttl := { state := .active, active := some ttBell }, bells := [(4, b)] })
/-- Address registers A0 to A3 at 4 KiB steps. -/
def regs4 : NMap AReg := [(0, { base := 0x1000, stride := 64 }), (1, { base := 0x2000, stride := 64 }), (2, { base := 0x3000, stride := 64 }),
  (3, { base := 0x4000, stride := 64 })]
/-- Array commands on array 1: X at A0, Y at A1, D at A2, BF16 operands, FP32 results. -/
def wMma (o m k n : Nat) (more : List (Nat × Nat)) : Nat :=
  cw o 1 ([(32, m), (48, k), (57, n)] ++ (if o = 0x21 then [] else [(64, 0), (68, 1), (75, 2)])
    ++ (if o = 0x20 then [] else [(83, 1), (87, 1), (94, 2)]) ++ (if o = 0x22 then [] else [(102, 2), (110, 1)]) ++ more)
def wMmaF : Nat := wMma 0x20 1 2 2 []
def wMmaFS : Nat := wMma 0x20 1 2 2 [(20, 1), (21, 1), (27, 1)]
def wMmaT : Nat := wMma 0x21 1 2 2 []
def wMmaO : Nat := wMma 0x22 1 2 2 []
def wWload : Nat := cw 0x23 1 [(48, 2), (57, 2), (68, 1), (75, 2)]
def wWload0 : Nat := cw 0x23 1 [(48, 0), (57, 2), (68, 1), (75, 2)]
def wWswap : Nat := cw 0x24 1 []
def wGbd : Nat := cw 0x25 1 [(32, 15)]
def wGbc : Nat := cw 0x26 1 [(32, 0x8001)]
/-- The state whose core 0 has an array or vector command next, with the registers. -/
def cmdR (w : Nat) (f : Machine.Core → Machine.Core) (cs : List (Nat × List Byte)) : State :=
  withCore (f { run0 with areg := regs4 }) ((winBase 0, leBytes 16 w) :: cs)
/-- BF16 ones and twos of the X and Y operands, and a live tile of weights. -/
def xy : List (Nat × List Byte) := [(winBase 0 + 0x1000, [0x80, 0x3F, 0, 0x40]), (winBase 0 + 0x2000, [0x80, 0x3F, 0, 0x40])]
def tiled (c : Machine.Core) : Machine.Core :=
  modArr c 1 (fun a => { a with live := [(0, { code := 0x3F80 }), (4, { code := 0x4000 })], shadow := [(256, { code := 0x4040 })] })
/-- Vector commands: A at A0, B at A1, C at A2, D at A3, one row of two FP32 elements. -/
def wVec (o : Nat) (more : List (Nat × Nat)) : Nat :=
  cw o 4 ([(40, 2), (56, 1), (72, 0), (98, 3)] ++ more)
def wVop : Nat := wVec 0x30 [(83, 1)]
def wVred : Nat := wVec 0x31 []
def wVnorm : Nat := wVec 0x32 [(83, 1), (94, 2)]
def wVnormB : Nat := wVec 0x33 [(83, 1), (94, 2)]
def wVsmax : Nat := wVec 0x34 [(94, 2)]
def wVsmaxB : Nat := wVec 0x35 [(83, 1), (94, 2)]
def wVcast : Nat := wVec 0x36 [(102, 1)]
def wVupd : Nat := wVec 0x37 [(83, 1), (94, 2), (102, 1)]
def wVcount : Nat := wVec 0x38 [(102, 10)]
def wPost : Nat := wVec 0x30 [(20, 1), (83, 1), (118, 255)]
/-- A task of the state below and a command of the vector queue. -/
def task3 : Issued := { id := 3, word := BitVec.ofNat 128 wPost, unit := .pool 255, ops := { x := 0x1000, y := 0x2000, d := 0x4000 } }
def gone3 : Issued := { id := 3, word := BitVec.ofNat 128 wVop, unit := .vec, executed := true }
/-- A ring step that member 0 of ring 0 has injected, with no rows left to take but its header, and member 1's command of it. -/
def flow0 : RingFlow := { ring := 0, step := 0, mode := .f, m := 1, fmt := .bf16, pairing := 0, head := 0, rows := [[{ code := 0x3F80 }, { code := 0x4000 }]] }
def wRingF (m h : Nat) : Nat := wMma 0x20 m 2 2 [(23, 1), (24, h)]
def ringed (i : Issued) (f : RingFlow) : State :=
  st { rdy with ttl := { state := .active, active := some ttBell, ringFlow := [f] },
                cores := [(0, { run0 with areg := regs4, cmds := [i] })] }
def ringI (m h : Nat) (step : BitVec 16) : Issued :=
  { id := 5, word := BitVec.ofNat 128 (wRingF m h), unit := .array 1, ops := { x := 0x1000, d := 0x3000 }, step := step }
/-- An entry of a list: kind, flags from bit 244 on, length, rows, source, destination. -/
def ent (kind flags len rows src dst : Nat) : BitVec 256 :=
  BitVec.ofNat 256 (cmdWord [(0, src), (64, dst), (160, len), (184, rows), (240, kind), (244, flags)])
/-- A state whose core 0 has a list with one entry in its buffer. -/
def listed (x : BitVec 256) : State :=
  st { rdy with cores := [(0, { run0 with strm := { lists := [{ id := 5, base := 0x8000, count := 1, evt := 3, nread := 1, buf := [x] }] } })],
                mem := cells [(0x1000, [1, 2, 3, 4])], ttl := { state := .active, active := some ttBell } }
def hdmad (x : BitVec 256) : State :=
  st { rdy with host := { syll := true, hdma := [(3, { busy := true, count := 1, strm := { lists := [{ id := 0, base := 0x8000, count := 1, nread := 1, buf := [x] }] } })] },
                mem := cells [(0x1000, [1, 2, 3, 4])] }
/-- A state whose core 0 has one transfer in flight, of list 5. -/
def flying (x : Xfer) : State :=
  st { rdy with cores := [(0, { run0 with strm := { lists := [{ id := 5, base := 0x8000, count := 1, evt := 3, next := 1, nread := 1 }], xfers := [x] } })] }
def xfer2 : Xfer := { slot := 2, list := 5, entry := 0, entryAddr := 0x8000, kind := 0 }
/-- A global address of this device (R47). -/
def here (a : Nat) : Nat := 0xFFFF * 2 ^ 48 + a
/-- The entry of kind k that `listed` holds. -/
def entK (k : Nat) : BitVec 256 :=
  if k = 9 then ent 9 0 0 0 7 (4 + 1024)
  else if k = 5 ∨ k = 6 then ent k 0 4 0 (here 0x1000) (here 0x2000)
  else ent k 0 1 1 (here 0x1000) (here 0x2000)
/-- A mailbox with a request before its processor. -/
def mbox (cmd : Nat) (payload : List Byte) : Mailbox :=
  { state := .busy, buf := mbFill (leBytes 2 cmd ++ leBytes 2 payload.length ++ leBytes 4 0x77 ++ payload) }
/-- A released device with a request at its Registrar, or at its Prefect. -/
def regS (cmd : Nat) (payload : List Byte) : State := st { rdy with reg := { fw := true, running := true, mb := mbox cmd payload } }
def prfS (cmd : Nat) (payload : List Byte) : State :=
  st { rdy with prefect := { boot := .active, mb := mbox cmd payload } }
/-- TT_LOAD of 32 bytes at address 64. -/
def ttReq (n : Nat) (img : List Byte) : State := on (regS 2 (leBytes 8 64 ++ leBytes 4 n)) (fun d => { d with mem := cells [(64, img)] })
/-- HBM controllers ready; one core. -/
def hbmS (st0 : HbmState) : State := st { rdy with hbm := [(0, { state := st0, ceCnt := 0xFFFFFFFF }), (1, { state := st0 }), (11, { state := st0 })], mem := [(0x100, 5)] }
/-- A CXL port with its state given. -/
def cxlS (p : Nat) (c : CxlPort) : State := st { rdy with cxl := [(p, c)], ttl := { state := .active, active := some { digest := 1, devices := 1, tier := { large := true, size0 := 1, size1 := 1, cbase0 := 0x10000000, cbase1 := 0x20000000, lbase0 := 0x1000000, lbase1 := 0x2000000 } } } }
def upPort : CxlPort := { link := .up64, lanes := 16, active := true, cap := 4, large := true }
/-- A control flit of a type with a body, as it arrives with sequence number 5; a link flit; a bulk header. -/
def ctlF (k body : Nat) : BitVec 256 := flitSeal (1 + 5 * 2 ^ 4 + k * 2 ^ 14 + body % 2 ^ 204 * 2 ^ 20)
def linkF (ack nak : Nat) : BitVec 256 := flitSeal (ack * 2 ^ 4 + nak * 2 ^ 14 + 3 * 2 ^ 16)
def bellF (k b gen op v : Nat) : BitVec 256 := flitSeal (k + 5 * 2 ^ 4 + b * 2 ^ 14 + gen * 2 ^ 24 + op * 2 ^ 40 + v * 2 ^ 48)
/-- A bulk message: type, destination, operation, data flits, address, aux. -/
def bulkF (ty dst op n addr aux : Nat) (more : List (Nat × Nat)) : BitVec 256 :=
  flitSeal (cmdWord ([(0, ty), (4, 5), (16, dst), (32, 9), (48, op), (56, n), (88, addr), (136, aux)] ++ more))
/-- A device whose port 11 is given, with the fabric numbered as device 2. -/
def fabS (q : FabPort) (f : Fabric → Fabric) : State :=
  st { rdy with fab := f { id := 2, rc := .complete, count := 4, epoch := 7, parent := 11, ports := [(11, q)] } }
def upQ : FabPort := { state := .up, lanes := 4, rxSeq := 5 }
/-- Timetables with one fabric Bell, in whose tree device 2 has port 11 as a child, and as its parent. -/
def ttFab : Timetable := { digest := 1, devices := 2, bells := [{ num := 4, fabric := true, ring := 1, wait := 1, tree := [(2, 0xFF, 0x800)] }] }
def ttFab2 : Timetable := { digest := 1, devices := 2, bells := [{ num := 4, fabric := true, ring := 1, wait := 1, tree := [(2, 11, 0)] }] }
/-- A Timetable with a COPY section whose step Bell is 4. -/
def cc (fixed : Nat) : CopyCfg :=
  { partner := 0, destBoard := false, stepBell := 4, hostFor := 0, slotBase := 0, slotSize := 0, work := 0, hostBase := 0, hostSize := 0,
    elapsed0 := 0, mtbf0 := 100, fail0 := 1, fixed := fixed, ranges := [] }
def copyS (c : Copybook) (id : BitVec 16) : State :=
  st { rdy with ttl := { state := .active, active := some { ttBell with copy := some (cc 0) } }, copy := c, fab := { rc := .complete, id := id },
                bells := [(4, { done := 7 })], glb := { timeUs := 50 } }
/-- A device whose host interface is given. -/
def hostS (h : HostIf) : State := st { rdy with host := { h with syll := true } }
def ctxS (k : Nat) (c : Ctx) : State := on (hostS { ctxs := [(k, c)] }) (fun d => { d with ttl := { state := .active, active := some ttBell }, fab := { rc := .complete, ag := .agreed } })
def job1 : Job := { jobid := 9, vec := 2, seq := 0, cores := 3 }
/-- The descriptor of slot 0: job 9, vector 2, cores 0 and 1, start address 0x2000. -/
def slots1 : NMap Byte := mbFill (leBytes 4 9 ++ [2] ++ zeros 3 ++ leBytes 8 0x2000 ++ leBytes 4 0x1000 ++ zeros 12 ++ leBytes 32 3 )
/-- A bundle delivery: a device that waits, or receives from the host or from port 11. -/
def bootS (b : BootState) (bn : Option Bundle) : State := st { rdy with host := { busMaster := true }, prefect := { boot := b, bundle := bn } }
def man1 : Manifest := { mdig := 5, nblk := 3, svn := 2, vkey := 1, revoke := 0xF, comps := [{ type := 2, first := 1, blocks := 1, length := 8, version := 9, hash := 5 }] }
/-- A device whose port 11 is in boot mode and whose Prefect is given. -/
def chainS (p : Prefect) : State := st { rdy with host := {}, reg := { running := true }, prefect := p, fab := { ports := [(11, { upQ with state := .boot, lanes := 1 })] } }
/-- A 64 KiB block of zeros with its CRC. -/
def block0 : List Byte := List.replicate 65532 0 ++ leBytes 4 (crc32c (List.replicate 65532 0))
def spdmS (c : SpdmConn) : State := st { rdy with prefect := { boot := .active, spdmPcie := c }, fuses := { idMod := 0xFFFF, idExp := 3 } }
/-- A device at a step of the release order. -/
def stepS (n turn : Nat) : State := st { rdy with rp := { rdy.rp with step := n, turn := turn, done := false } }
/-- Numbers below 240 of a list, in rising order. -/
def sorted8 (l : List Nat) : List Nat := (List.range 240).filter (fun q => l.contains q)
/-- An RSA modulus of 3,072 bits and the owner slot that holds its SHA-256 hash. -/
def rsaN : Nat := 0xb28b5c1228c646cdf89699b01d3addfad4ca763250c3bd735550e73fbc4c9c485bb944bc8f6a8864689536c7405b42a8258f71e54b06d200d62fb29deb7fe3137f24cfb5ec94b5d21f744001f804575e3fd0e07f5f24356ddbec309461f5fe4e2dd39a7dd64ab037c71f1cf739bf8859afc399ce2d8692f12b2af68d6f5de1ad2890efdb031eed3aceda5c25725b0513bc945069cad8a85e7ca2af031ebe5b027e6ce478d663d22d0cef6d449d58d65706af200e24f5e795bcdf7e0c4f8a320e9a7d6f517e1b0d2a99a13fcc2a90c1d1bbf4c72ca97e061091da2b1111592001be6379faf0ea984f56a54c841bcd31a42710d914b1c65c5bb3eed2d49ed93fc2ccdc91a888ca8fe4bd9385b9bebffbcebdb8faa1d06ca8825e59335969067c3cac557516309b914eede807fdfddb78ce22699e87b82a214012f0c0e134916f394766a0572ad6ba6b5d368f28c0d721d3444c7db3e2e8262ba7c839d7261ee2390d68e7ad8a56ff46e0707aa22756d72ccc9f7af6dc4a3c067ce46a1e711c8717
def ownerKey : KeySlot := { hash := 0x3bd7619c200480f43789dee3150edaf8ef37876eeb9dca5130e9caefed546093, used := true }
/-- A device whose Prefect has a signed command before it: payload, key slot 3, modulus and signature (R483). -/
def signedBytes (c : Nat) (payload : List Byte) (sig : Nat) : List Byte :=
  leBytes 2 c ++ leBytes 2 (payload.length + 772) ++ zeros 4 ++ payload ++ [3, 0, 0, 0] ++ beBytes 384 rsaN ++ beBytes 384 sig
def signedCmd (c : Nat) (payload : List Byte) (sig : Nat) : State :=
  st { rdy with prefect := { boot := .active, nonce := some 5, active := some man1,
                             mb := { state := .busy, buf := mbFill (signedBytes c payload sig) } },
                fuses := { owner := [(3, ownerKey)] } }
/-- The request of a signed command reads as its bytes. -/
theorem signed_read (c : Nat) (payload : List Byte) (sig off n : Nat) (h : off + n ≤ 780 + payload.length) :
    mbRead (signedCmd c payload sig).dev.prefect.mb off n = ((signedBytes c payload sig).drop off).take n := by
  apply mbRead_mbFill _ _ _ _ rfl
  simp only [signedBytes, List.length_append, leBytes_length, beBytes_length, zeros, List.length_replicate, List.length_cons,
    List.length_nil]
  omega
/-- REVOKE of owner slot 7, COMMIT and ZEROISE mode 1, signed over command, serial, nonce 5, payload, slot and modulus. -/
def sigRevoke : Nat := 0x95cf6e934f9dd263c005c6ce807f9d87b8752c3e8b715468b79957710e4a0a2538f3cc7af44f50e9f6933abaf83178f4822e658235a185c0c4f7b6d89af63667b35d47135209edcb7e5b5ffdfc3a5b640cc8a5d14d3d0ecee1895b457672403becf43183101746b7ecfe5f428c8fb87b43d65dfa96c6b62325f4aab3ad6bb1a38058b23ad2c2e6e945032bcd03a95c9e46a1b39e750ab41fc39469908afe74f245a6a661270e8fe598b77ea5381478d6ebd33b97f6aaed2979a0e729c24d250c050f6f3e3647b49400b8b5aa3992939b89be7b2776d74186b9921e663576c31483b5f6e0a91504e627ce55c99b649be1cb40b8e142bc377e01e104633af20108de6aea6feee46e121817e993c8421a37b7740e3d2f4f6d5d07e7d7aa1ffbae474fc08883fe3f2813e39b37b5f92e45133e36fb5055afb820495ba59f5203161ab2a611520ef7493c22a7bc8feecbf84bc819e41a569de6977e453fa78ae78437fd6d92c68454f84afe56035cc35e58c1d2764487f0879bd2e2ac99e3ccc8961b
def sigCommit : Nat := 0x50505d933ffa92ad37f92f12c8e4897d2b87b01bcf558fcea055459fee133a0a4f8677821937ba6cb52147ca78ce437503e8f1d2ed4c068d920eb709ee39d038f3a7fdbde8981940a703131a0fdc9fa3bb8b8cdb427f70a468660c38d5645f79f6030cf8593c8e8216d5d80852ad3d1e1d48453a38f88aeae160664a011e56ecec763dba90fbb207d0e4238c29262fdafa5c04e26a68fab238752a128fda5ba85fc691449a253723e296c6555274556cf5b80199be05bee6e70d94643324121ed18460deb590ab98b90f5476d82e2d6c368cfc9b0a27b38df84b40afab6b7b329876cc567fd770b5c37eaefae480b73a3acfdc62c03d9f1ef3f22a9b2490dca621bf21c1449bc5ead90326573a474c7fb0aec4c55c1ca6f2f54acbf4437f99af9924187e3e46ebb158c5214133047eb2d7ddddc6821b0ac2d36739d8e88ee749b4b291c8c001a5809d7ea1b9ee309e5c7cacc659f44eb5620bc6f0e1ba0d95bc3bb4376bb41fdcf88d2c62442dd71e287c58e82518b1d23ecc5321af1511c2fb
def sigZeroise : Nat := 0x1a2c2e0a1a9446200e09041994482882bb299bfa4c93bc294c73f3477436d044e40aeb1a4494b4c122878605d4b8d90f9f70374929ca924b5819d6d109937ce91b0c7bc0ce762e9345fad6efba34fe49fa513c6bcddd19bbc1b7fe1d4e412c5b393e5a3dc363b6a36ace48b68018c27655b2cdfcd98ea014f46ec0e944e6855aea005766f474998dd1ac39a864911cdfacf12e5752be86b4025116dae91b8e4d9f482e721b082ad8d815bfce2886e31836424a8f83aca3e70be8e0173ae851a302765288b8fda74d5d667408b346b77a23388c210bc8a8bbea2bdf1db05accba8aad8d1e3c97948b19912ee0a6fbfe5e5949258188412a6abae1a0d537a8d6942c4e362ac2f52c68a7c2d74df409ef4b1f1bd0a4b126d3cf108fe63d1e1e85459893c6c09af4d7cbc2666b63dc3c3194a49bb92284ab7ae6c73c13246f456e8b6de8f09b8af795fdf7fb8b8bc44f627197d7c358930355902d3d49df30edb7577d23f343bb9b16459dab0555df8373a816dd9d0adc8d3bf5c4bede501918a2b1

/-- A device that takes a Timetable signed with that key (dark rows 3, grade 1), and the image: header, directory, GRID, SEED, trailer. -/
def ttDev : Dev := { rdy with fuses := { owner := [(3, ownerKey)] } }
def ttGrid : List Byte := (List.range 256).flatMap (fun v =>
  if v < 192 then leBytes 2 (v % 8 + 8 * [0, 1, 2, 4, 5, 6].getD (v / 16 % 6) 0 + 64 * (v % 16 / 8 + 2 * (v / 96))) else [0xFF, 0xFF])
def sigTt : Nat := 0xaf20bf8cc69ce0f443b2605f24f51c6d3350e5f43947e1bf64355e4b16bac690e8bb6368e8e0ab2fdd2d9f7a6d47abed8e383d5cc947333e2ade6138e0cdf80b1ffb89f7dd9398a3e5e01020bd174b198d8465fe56d81e41b0e339b96e7e1e871e39af19c58d12456b12f5982df51d5e0465a88b90eed7015b6221581c592da63832f89c660d427f3553371e840798b8ff24132a0d260e50830450f1970baab0ffe1635399d78f31f69beef52e708eb9611679df513d66bb39110f3ec1061cee8b4787362f9acc0c27e6958111b0c9e7e0da000072263672d16503c691cf9a455e7b3f4181138e4bbd86db6d4586770363590fa83a367e8cb15658d02c70e51fb076669295e6d50ea704c17d446c2ffb97b7a085bc7deac80339b4d37e52ef64e8d36ecca0dc3d38e328113372068068d55712288605e3607c729bfe07efce914e1793512af0c92824053a465da5126dd2aac3a1e2ac80af5fa2492e098de344003f7f3dd226feb996241ed8c498f50f91a52647c057ee6db8915d7199b5666b
def ttImg : List Byte :=
  leBytes 4 0x3154544C ++ leBytes 2 1 ++ leBytes 2 2 ++ leBytes 4 584 ++ [1] ++ leBytes 2 (3 + 3 * 8 + 3 * 64 + 3 * 512) ++ [0] ++ leBytes 4 1 ++ zeros 12
    ++ leBytes 4 1 ++ leBytes 4 64 ++ leBytes 4 512 ++ leBytes 4 0xe94cd2e8 ++ leBytes 4 7 ++ leBytes 4 576 ++ leBytes 4 8 ++ leBytes 4 0xaf595116
    ++ ttGrid ++ leBytes 8 0x1122334455667788 ++ [3, 0, 0, 0] ++ beBytes 384 rsaN ++ beBytes 384 sigTt
/-- The state with TT_LOAD of that image before its Registrar, the image at address 64. -/
def ttState : State :=
  on (regS 2 (leBytes 8 64 ++ leBytes 4 1356)) (fun d => { d with fuses := ttDev.fuses, mem := memWrite [] 64 ttImg })

def sStep : State := (st rdy).push .now
def sStepIdle : State := st rdy
/-- States and operands that meet the hypotheses of `Obligations.StepRunsFrontCommand`. -/
theorem test_stepRunsFrontCommand :
    (∃ (s : State) (i : Instr) (r : List Instr), s.pending = i :: r) ∧
    (∃ (s : State), s.pending = [] ∧ (∀ (p : Nat), p < 12 → (fabPort s.dev p).sending = none)) :=
  ⟨⟨sStep, Instr.now, ([]), by decide +kernel⟩,
    ⟨sStepIdle, by decide +kernel⟩⟩

/-- States and operands that meet the hypotheses of `Obligations.EveryCommandGoesOn`. -/
theorem test_everyCommandGoesOn :
    (∃ (i : Instr), i ≠ Instr.slowClockEdge ∧ i ≠ Instr.blockIdle ∧ i ≠ Instr.blockResetTimeout) :=
  ⟨(Instr.registerWrite 0 0 (some 20)), by decide +kernel⟩

def sSetaBase : State := cmd wSetaB
def sAdda : State := cmd wAdda
/-- States and operands that meet the hypotheses of `Obligations.AddressRegisters`. -/
theorem test_addressRegisters :
    (∃ (s : State) (v : Nat) (w : Nat), running s v ∧ issues s.dev v w = true ∧ cwOpc w = 4) ∧
    (∃ (s : State) (v : Nat) (w : Nat), running s v ∧ issues s.dev v w = true ∧ cwOpc w = 5) :=
  ⟨⟨sSetaBase, 0, 5501955730157087821399812, by unfold running; decide +kernel⟩,
    ⟨sAdda, 0, 19342813113834062500333317, by unfold running; decide +kernel⟩⟩

def sCmp : State := cmd wCmp
def sTag : State := cmd wTag
def sLoopZero : State := cmd wLoop
def sEndloopEnd : State := cmdC wEndloop (fun c => { c with loops := [{ start := winBase 0, stop := winBase 0, left := 1 }] })
def sSetl : State := cmd wSetl
def sSetlR : State := withCore run0 [(winBase 0, leBytes 16 wSetlR), (winBase 0 + 128, [1, 2, 3, 4])]
/-- States and operands that meet the hypotheses of `Obligations.LoopsComparatorsAndTags`. -/
theorem test_loopsComparatorsAndTags :
    (∃ (s : State) (v : Nat) (w : Nat), running s v ∧ issues s.dev v w = true ∧ cwOpc w = 7) ∧
    (∃ (s : State) (v : Nat) (w : Nat), running s v ∧ issues s.dev v w = true ∧ cwOpc w = 8) ∧
    (∃ (s : State) (v : Nat) (w : Nat), running s v ∧ issues s.dev v w = true ∧ cwOpc w = 2) ∧
    (∃ (s : State) (v : Nat) (w : Nat) (l : LoopEntry) (r : List LoopEntry), running s v ∧ issues s.dev v w = true ∧ cwOpc w = 3 ∧
        (coreOf s.dev v).loops = l :: r) ∧
    (∃ (s : State) (v : Nat) (w : Nat), running s v ∧ issues s.dev v w = true ∧ cwOpc w = 6 ∧ bit w 35 = false) ∧
    (∃ (s : State) (v : Nat) (w : Nat), running s v ∧ issues s.dev v w = true ∧ cwOpc w = 6 ∧ bit w 35 = true) :=
  ⟨⟨sCmp, 0, 9903520314283030615666198279, by unfold running; decide +kernel⟩,
    ⟨sTag, 0, 370440, by unfold running; decide +kernel⟩,
    ⟨sLoopZero, 0, 73014445826, by unfold running; decide +kernel⟩,
    ⟨sEndloopEnd, 0, 1795, ({ start := 35184372088832, stop := 35184372088832, left := 1 }), ([]),
      by unfold running; decide +kernel⟩,
    ⟨sSetl, 0, 295147905140698121990, by unfold running; decide +kernel⟩,
    ⟨sSetlR, 0, 201863464710, by unfold running; decide +kernel⟩⟩

def sSwaitHeld : State := cmdC wSwait (fun c => { c with ereg := [(7, 1)] })
def sSwait : State := cmdC wSwait (fun c => { c with ereg := [(7, 2)] })
def sBwaitHeld : State := belled (cmd wWait) {}
def sBwait : State := belled (cmd wWait) { done := 1 }
def sDrainHeld : State := cmdC wDrain (fun c => { c with cmds := [{ id := 0, word := 0x30, unit := .pool 0 }] })
def sDrain : State := cmd wDrain
/-- States and operands that meet the hypotheses of `Obligations.WaitCommands`. -/
theorem test_waitCommands_1 :
    (∃ (s : State) (v : Nat) (w : Nat), running s v ∧ issuing (coreOf s.dev v) = true ∧ fetchWord s.dev v = some w ∧ cmpHit (coreOf
        s.dev v) w = none ∧ malformed s.dev v w = none ∧ cwOpc w = 17 ∧ BitVec.toNat (mapGet 0 (coreOf s.dev v).ereg (bits w 32
        3)) < bits w 35 16) ∧
    (∃ (s : State) (v : Nat) (w : Nat), running s v ∧ issuing (coreOf s.dev v) = true ∧ fetchWord s.dev v = some w ∧ cmpHit (coreOf
        s.dev v) w = none ∧ malformed s.dev v w = none ∧ cwOpc w = 17 ∧ bits w 35 16 ≤ BitVec.toNat (mapGet 0 (coreOf s.dev
        v).ereg (bits w 32 3))) ∧
    (∃ (s : State) (v : Nat) (w : Nat), running s v ∧ issuing (coreOf s.dev v) = true ∧ fetchWord s.dev v = some w ∧ cmpHit (coreOf
        s.dev v) w = none ∧ malformed s.dev v w = none ∧ cwOpc w = 11 ∧ (bellOf s.dev (bits w 32 10)).done ≤ bellWaited s.dev
        (bits w 32 10) v) ∧
    (∃ (s : State) (v : Nat) (w : Nat), running s v ∧ issuing (coreOf s.dev v) = true ∧ fetchWord s.dev v = some w ∧ cmpHit (coreOf
        s.dev v) w = none ∧ malformed s.dev v w = none ∧ cwOpc w = 11 ∧ bit w 62 = false ∧ bellWaited s.dev (bits w 32 10) v <
        (bellOf s.dev (bits w 32 10)).done) ∧
    (∃ (s : State) (v : Nat) (w : Nat), running s v ∧ issuing (coreOf s.dev v) = true ∧ fetchWord s.dev v = some w ∧ cmpHit (coreOf
        s.dev v) w = none ∧ malformed s.dev v w = none ∧ cwOpc w = 9 ∧ pooled (coreOf s.dev v) ≠ 0) ∧
    (∃ (s : State) (v : Nat) (w : Nat), running s v ∧ issuing (coreOf s.dev v) = true ∧ fetchWord s.dev v = some w ∧ cmpHit (coreOf
        s.dev v) w = none ∧ malformed s.dev v w = none ∧ cwOpc w = 9 ∧ pooled (coreOf s.dev v) = 0) :=
  ⟨⟨sSwaitHeld, 0, 98784249617, by unfold running; decide +kernel⟩,
    ⟨sSwait, 0, 98784249617, by unfold running; decide +kernel⟩,
    ⟨sBwaitHeld, 0, 17179870987, by unfold running; decide +kernel⟩,
    ⟨sBwait, 0, 17179870987, by unfold running; decide +kernel⟩,
    ⟨sDrainHeld, 0, 1801, by unfold running; decide +kernel⟩,
    ⟨sDrain, 0, 1801, by unfold running; decide +kernel⟩⟩

def sBwaitRes : State := belled (cmd wWaitRes) { done := 1, results := [(0, 1)] }
/-- States and operands that meet the hypotheses of `Obligations.WaitCommands`. -/
theorem test_waitCommands_2 :
    (∃ (s : State) (v : Nat) (w : Nat) (x : Dword), running s v ∧ issues s.dev v w = true ∧ cwOpc w = 11 ∧ bit w 62 = true ∧
        (List.find? (fun r => r.fst == bellWaited s.dev (bits w 32 10) v) (bellOf s.dev (bits w 32 10)).results = some
        (bellWaited s.dev (bits w 32 10) v, x))) :=
  ⟨sBwaitRes, 0, 4611703627793303307, 1, by unfold running; decide +kernel⟩

def sJHalt : State := cmd wHalt
def sGo : State := cmdC wGo (fun c =>
    { c with areg := [(1, { base := 0x1000, stride := 0 }), (2, { base := 0x400, stride := 0xFFFFC0 })] })
def sFence : State := cmd wFence
def sRingDrn : State := belled (cmd wRingDrn) {}
/-- States and operands that meet the hypotheses of `Obligations.QueueingControlCommands`. -/
theorem test_queueingControlCommands :
    (∃ (s : State) (v : Nat) (w : Nat), running s v ∧ issues s.dev v w = true ∧ cwOpc w = 1) ∧
    (∃ (s : State) (v : Nat) (w : Nat), running s v ∧ issues s.dev v w = true ∧ cwOpc w = 16) ∧
    (∃ (s : State) (v : Nat) (w : Nat), running s v ∧ issues s.dev v w = true ∧ cwOpc w = 18) ∧
    (∃ (s : State) (v : Nat) (w : Nat), running s v ∧ issues s.dev v w = true ∧ cwOpc w = 10) :=
  ⟨⟨sJHalt, 0, 281470681745153, by unfold running; decide +kernel⟩,
    ⟨sGo, 0, 167348878351135468946704, by unfold running; decide +kernel⟩,
    ⟨sFence, 0, 1298, by unfold running; decide +kernel⟩,
    ⟨sRingDrn, 0, 36893501358738507530, by unfold running; decide +kernel⟩⟩

def sJHold3 : State := cmd 0xFE
def sJHold2 : State := cmdC wTag (fun c => { c with cmpr := [(1, { mode := 2, ctag := 0x5A })] })
def sJHold4 : State := cmdC wDrain (fun c => { c with cmds := [task3] })
/-- States and operands that meet the hypotheses of `Obligations.CommandHeldBack`. -/
theorem test_commandHeldBack :
    (∃ (d : Dev) (v : Nat), issuing (coreOf d v) = false) ∧
    (∃ (d : Dev) (v : Nat) (w : Nat) (row : Nat → Bool), issuing (coreOf d v) = true ∧ fetchWord d v = some w ∧ row w = false) ∧
    (∃ (d : Dev) (v : Nat) (w : Nat) (row : Nat → Bool) (n : Nat), issuing (coreOf d v) = true ∧ fetchWord d v = some w ∧ row w =
        true ∧ cmpHit (coreOf d v) w = some n) ∧
    (∃ (d : Dev) (v : Nat) (w : Nat) (row : Nat → Bool) (cause : Nat) (detail : Nat), issuing (coreOf d v) = true ∧ fetchWord d v =
        some w ∧ row w = true ∧ cmpHit (coreOf d v) w = none ∧ malformed d v w = some (cause, detail)) ∧
    (∃ (d : Dev) (v : Nat) (w : Nat) (row : Nat → Bool), issuing (coreOf d v) = true ∧ fetchWord d v = some w ∧ row w = true ∧
        cmpHit (coreOf d v) w = none ∧ malformed d v w = none ∧ (unmet d v w).isSome = true) ∧
    (∃ (d : Dev) (v : Nat), Safety.quiet d v = true) :=
  ⟨⟨sJHold3.dev, 1, by decide +kernel⟩,
    ⟨sJHold3.dev, 0, 254, (fun _ => false), by decide +kernel⟩,
    ⟨sJHold2.dev, 0, 370440, (fun _ => true), 1, by decide +kernel⟩,
    ⟨sJHold3.dev, 0, 254, (fun _ => true), 1, 0, by decide +kernel⟩,
    ⟨sJHold4.dev, 0, 1801, (fun _ => true), by decide +kernel⟩,
    ⟨sJHold3.dev, 0, by decide +kernel⟩⟩

def sStart : State := st
    { rdy with ttl := { state := .active, active := some ttBell }, cores := [(0, { run0 with state := .halted, areg := regs4, issue := 9, haltStall := 4 })], pace := { pacers := [(0, { state := .stable, released := true })] } }
def sStartIgnored : State := st { rdy with ttl := { state := .active, active := some ttBell }, cores := [(0, run0)] }
/-- States and operands that meet the hypotheses of `Obligations.StartRuns`. -/
theorem test_startRuns :
    (∃ (s : State) (v : Nat), v < gridCores s.dev ∧ served s ∧ isDetained s.dev v = false ∧ (pacerOf s.dev (coreRegion s.dev
        v)).released = true ∧ s.dev.ttl.active.isSome = true ∧ ((coreOf s.dev v).state = PState.idle ∨ (coreOf s.dev v).state =
        PState.halted ∨ (coreOf s.dev v).state = PState.faulted)) ∧
    (∃ (d : Dev) (v : Nat) (a : Nat), v < gridCores d ∧ a < 2 ^ 48) ∧
    (∃ (s : State) (v : Nat), awake s ∧ (s.dev.ttl.active = none ∨ ¬((coreOf s.dev v).state = PState.idle ∨ (coreOf s.dev v).state =
        PState.halted ∨ (coreOf s.dev v).state = PState.faulted))) :=
  ⟨⟨sStart, 0, by unfold served awake; decide +kernel⟩,
    ⟨sStartIgnored.dev, 188, 1030587418, by decide +kernel⟩,
    ⟨sStartIgnored, 0, by unfold awake; decide +kernel⟩⟩

def sHaltReq : State := st
    { rdy with cores := [(0, run0)], pace := { pacers := [(0, { state := .stable, released := true })] } }
def sResume : State := st
    { rdy with cores := [(0, { run0 with state := .brk })], pace := { pacers := [(0, { state := .stable, released := true })] } }
def sStopped : State := st { rdy with cores := [(0, { run0 with stop := .haltReq })] }
def sHalted : State := st { rdy with cores := [(0, { run0 with stop := .halt 0xFFFF })] }
def sBreak : State := st { rdy with cores := [(0, { run0 with stop := .brk 7, issue := 9 })] }
def sJFaulted : State := withCore { run0 with stop := .fault 0x0C 1 1 1 1 1 } []
/-- States and operands that meet the hypotheses of `Obligations.ProctorStateChanges`. -/
theorem test_proctorStateChanges_1 :
    (∃ (s : State) (v : Nat), running s v ∧ served s ∧ (pacerOf s.dev (coreRegion s.dev v)).released = true ∧ isDetained s.dev v =
        false ∧ issuing (coreOf s.dev v) = true) ∧
    (∃ (s : State) (v : Nat), running s v ∧ served s ∧ (pacerOf s.dev (coreRegion s.dev v)).released = true ∧ isDetained s.dev v =
        false ∧ (coreOf s.dev v).state = PState.brk) ∧
    (∃ (s : State) (v : Nat), running s v ∧ (coreOf s.dev v).state = PState.running ∧ (coreOf s.dev v).cmds = [] ∧ (coreOf s.dev
        v).stop = StopWhy.haltReq) ∧
    (∃ (s : State) (v : Nat) (code : BitVec 16), running s v ∧ (coreOf s.dev v).state = PState.running ∧ (coreOf s.dev v).cmds = []
        ∧ (coreOf s.dev v).stop = StopWhy.halt code ∧ (coreOf s.dev v).strm.lists = []) ∧
    (∃ (s : State) (v : Nat) (n : Nat), running s v ∧ (coreOf s.dev v).state = PState.running ∧ (coreOf s.dev v).cmds = [] ∧ (coreOf
        s.dev v).stop = StopWhy.brk n) ∧
    (∃ (s : State) (v : Nat) (cause : Byte) (opc : Byte) (que : BitVec 3) (tag : Byte) (detail : Byte) (fn : Byte), running s v ∧
        (coreOf s.dev v).state = PState.running ∧ (coreOf s.dev v).stop = StopWhy.fault cause opc que tag detail fn ∧ (coreOf
        s.dev v).cmds = []) :=
  ⟨⟨sHaltReq, 0, by unfold running served awake; decide +kernel⟩,
    ⟨sResume, 0, by unfold running served awake; decide +kernel⟩,
    ⟨sStopped, 0, by unfold running; decide +kernel⟩,
    ⟨sHalted, 0, 65535, by unfold running; decide +kernel⟩,
    ⟨sBreak, 0, 7, by unfold running; decide +kernel⟩,
    ⟨sJFaulted, 0, 12, 1, 1, 1, 1, 1, by unfold running; decide +kernel⟩⟩

def sJFaulted2 : State := withCore { run0 with stop := .fault 1 1 1 1 1 1, cmds := [task3] } []
def sFetchBlock : State := st { rdy with cores := [(0, { run0 with start := 0x1000, pc := 0x1010 })], mem := [(0x1005, 7)] }
/-- States and operands that meet the hypotheses of `Obligations.ProctorStateChanges`. -/
theorem test_proctorStateChanges_2 :
    (∃ (s : State) (v : Nat) (cause : Byte) (opc : Byte) (que : BitVec 3) (tag : Byte) (detail : Byte) (fn : Byte), running s v ∧
        (coreOf s.dev v).state = PState.running ∧ (coreOf s.dev v).stop = StopWhy.fault cause opc que tag detail fn ∧ (coreOf
        s.dev v).cmds ≠ []) ∧
    (∃ (s : State) (v : Nat) (a : Nat), running s v ∧ (coreOf s.dev v).state = PState.running ∧ (coreOf s.dev v).start.toNat <
        winBase 0 ∧ (coreOf s.dev v).strm.xfers = [] ∧ (coreOf s.dev v).strm.heldSlots = [] ∧ nextBlock s.dev v = some a ∧ rdBad
        s.dev a 2048 = none ∧ localStatus s.dev { core := some v } a 2048 false = 0) :=
  ⟨⟨sJFaulted2, 0, 1, 1, 1, 1, 1, 1, by unfold running; decide +kernel⟩,
    ⟨sFetchBlock, 0, 4096, by unfold running; decide +kernel⟩⟩

def sArrMmaF : State := cmdR wMmaF tiled xy
def sArrMmaT : State := cmdR wMmaT tiled xy
def sArrMmaO : State := cmdR wMmaO tiled xy
def sArrWload : State := cmdR wWload tiled xy
def sArrWswap : State := cmdR wWswap tiled xy
def sArrGbDrain : State := cmdR wGbd tiled []
/-- States and operands that meet the hypotheses of `Obligations.ArrayCommandsQueue`. -/
theorem test_arrayCommandsQueue_1 :
    (∃ (s : State) (v : Nat) (w : Nat), running s v ∧ issues s.dev v w = true ∧ cwOpc w = 32) ∧
    (∃ (s : State) (v : Nat) (w : Nat), running s v ∧ issues s.dev v w = true ∧ cwOpc w = 33) ∧
    (∃ (s : State) (v : Nat) (w : Nat), running s v ∧ issues s.dev v w = true ∧ cwOpc w = 34) ∧
    (∃ (s : State) (v : Nat) (w : Nat), running s v ∧ issues s.dev v w = true ∧ cwOpc w = 35) ∧
    (∃ (s : State) (v : Nat) (w : Nat), running s v ∧ issues s.dev v w = true ∧ cwOpc w = 36) ∧
    (∃ (s : State) (v : Nat) (w : Nat), running s v ∧ issues s.dev v w = true ∧ cwOpc w = 37) :=
  ⟨⟨sArrMmaF, 0, 1308215419511386042769021784293664, by unfold running; decide +kernel⟩,
    ⟨sArrMmaT, 0, 1308255197930701630896292640063777, by unfold running; decide +kernel⟩,
    ⟨sArrMmaO, 0, 39778571021900182788608360738, by unfold running; decide +kernel⟩,
    ⟨sArrWload, 0, 75853300424419781378339, by unfold running; decide +kernel⟩,
    ⟨sArrWswap, 0, 292, by unfold running; decide +kernel⟩,
    ⟨sArrGbDrain, 0, 64424509733, by unfold running; decide +kernel⟩⟩

def sArrGbClear : State := cmdR wGbc tiled []
/-- States and operands that meet the hypotheses of `Obligations.ArrayCommandsQueue`. -/
theorem test_arrayCommandsQueue_2 :
    (∃ (s : State) (v : Nat) (w : Nat), running s v ∧ issues s.dev v w = true ∧ cwOpc w = 38) :=
  ⟨sArrGbClear, 0, 140741783322918, by unfold running; decide +kernel⟩

def sWload : State := cmdR wWload tiled xy
def sWload0 : State := cmdR wWload0 tiled xy
def sWswap : State := cmdR wWswap tiled xy
/-- States and operands that meet the hypotheses of `Obligations.WeightsLoadAndSwap`. -/
theorem test_weightsLoadAndSwap :
    (∃ (s : State) (v : Nat) (w : Nat) (b : Nat), running s v ∧ issues s.dev v w = true ∧ Safety.quiet s.dev v = true ∧ cwOpc w = 35
        ∧ b ≠ (bits w 8 3)) ∧
    (∃ (s : State) (v : Nat) (w : Nat), running s v ∧ issues s.dev v w = true ∧ Safety.quiet s.dev v = true ∧ cwOpc w = 35 ∧ (aK w =
        0 ∨ aN w = 0)) ∧
    (∃ (s : State) (v : Nat) (w : Nat), running s v ∧ issues s.dev v w = true ∧ Safety.quiet s.dev v = true ∧ cwOpc w = 35 ∧ aK w ≠
        0 ∧ aN w ≠ 0) ∧
    (∃ (s : State) (v : Nat) (w : Nat) (b : Nat), running s v ∧ issues s.dev v w = true ∧ Safety.quiet s.dev v = true ∧ cwOpc w = 36
        ∧ b ≠ (bits w 8 3)) ∧
    (∃ (o : Operand) (k : Nat) (n : Nat) (r : Nat) (c : Nat) (j : Nat), r < 64 ∧ c < 64 ∧ j < packOf o.fmt ∧ k ≤ 64 * packOf o.fmt ∧
        n ≤ 64) :=
  ⟨⟨sWload, 0, 75853300424419781378339, 11, by unfold running; decide +kernel⟩,
    ⟨sWload0, 0, 75853299861469827957027, by unfold running; decide +kernel⟩,
    ⟨sWload, 0, 75853300424419781378339, by unfold running; decide +kernel⟩,
    ⟨sWswap, 0, 292, 3, by unfold running; decide +kernel⟩,
    ⟨({ base := 0, sbase := 4, q := 0, fmt := Fmt.int4, blk := 0, dirCol := true, cols := 0 }), 0, 0, 38, 54, 0, by decide +kernel⟩⟩

def sMmaF : State := cmdR wMmaF tiled xy
def sMmaT : State := cmdR wMmaT tiled xy
def sMmaO : State := cmdR wMmaO tiled xy
/-- States and operands that meet the hypotheses of `Obligations.ProductsWritten`. -/
theorem test_productsWritten :
    (∃ (s : State) (v : Nat) (w : Nat), running s v ∧ issues s.dev v w = true ∧ Safety.quiet s.dev v = true ∧ aM w ≠ 0 ∧ aK w ≠ 0 ∧
        aN w ≠ 0 ∧ aSplit w = 0 ∧ aFuse w = false ∧ aRing w = false ∧ cwOpc w = 32) ∧
    (∃ (s : State) (v : Nat) (w : Nat), running s v ∧ issues s.dev v w = true ∧ Safety.quiet s.dev v = true ∧ aM w ≠ 0 ∧ aK w ≠ 0 ∧
        aN w ≠ 0 ∧ aSplit w = 0 ∧ aFuse w = false ∧ aRing w = false ∧ cwOpc w = 33) ∧
    (∃ (s : State) (v : Nat) (w : Nat), running s v ∧ issues s.dev v w = true ∧ Safety.quiet s.dev v = true ∧ aM w ≠ 0 ∧ aK w ≠ 0 ∧
        aN w ≠ 0 ∧ aSplit w = 0 ∧ aFuse w = false ∧ aRing w = false ∧ cwOpc w = 34) :=
  ⟨⟨sMmaF, 0, 1308215419511386042769021784293664, by unfold running; decide +kernel⟩,
    ⟨sMmaT, 0, 1308255197930701630896292640063777, by unfold running; decide +kernel⟩,
    ⟨sMmaO, 0, 39778571021900182788608360738, by unfold running; decide +kernel⟩⟩

def sGbDrainNone : State := cmdR wGbd tiled []
def sGbDrain : State := cmdR wGbd (fun c => modArr c 1 (fun a =>
    { a with pend := some { k := 1, n := 2, split := 0, pack := 1 }, tPend := some { k := 1, n := 2, split := 0, pack := 1 }, acc := [(0, 0x3F800000)] }))
    []
def sGbClear : State := cmdR wGbc tiled [(winBase 0 + 0x840000, [1, 2])]
/-- States and operands that meet the hypotheses of `Obligations.GradebookCommands`. -/
theorem test_gradebookCommands :
    (∃ (s : State) (v : Nat) (w : Nat), running s v ∧ issues s.dev v w = true ∧ Safety.quiet s.dev v = true ∧ cwOpc w = 37 ∧ (arrOf
        (coreOf s.dev v) (bits w 8 3)).latch = [] ∧ (arrOf (coreOf s.dev v) (bits w 8 3)).pend = none) ∧
    (∃ (s : State) (v : Nat) (w : Nat) (t : PendTile), running s v ∧ issues s.dev v w = true ∧ Safety.quiet s.dev v = true ∧ cwOpc w
        = 37 ∧ (arrOf (coreOf s.dev v) (bits w 8 3)).latch = [] ∧ (arrOf (coreOf s.dev v) (bits w 8 3)).pend = some t) ∧
    (∃ (s : State) (v : Nat) (w : Nat), running s v ∧ issues s.dev v w = true ∧ Safety.quiet s.dev v = true ∧ cwOpc w = 38) :=
  ⟨⟨sGbDrainNone, 0, 64424509733, by unfold running; decide +kernel⟩,
    ⟨sGbDrain, 0, 64424509733, (((arrOf (coreOf sGbDrain.dev 0) (bits 64424509733 8 3)).pend).get (by decide +kernel)),
      by unfold running; decide +kernel⟩,
    ⟨sGbClear, 0, 140741783322918, by unfold running; decide +kernel⟩⟩

def sJRingOwn : State := on (ringed (ringI 1 1 0) flow0) (fun d =>
    { d with ttl := { d.ttl with ringFlow := [flow0, { flow0 with head := 1 }] } })
def sRingM : State := ringed (ringI 2 0 0) flow0
def sRingTake : State := ringed (ringI 1 0 0) flow0
def sJRingBusy : State := on (ringed (ringI 1 0 0) flow0) (fun d =>
    { d with cores := [(0, { coreOf d 0 with cmds := [{ id := 4, word := BitVec.ofNat 128 (wMma 0x20 1 2 2 []), unit := .array 1 }, ringI 1 0 0] })] })
def sRingBroken : State := on (ringed (ringI 1 0 0) flow0) (fun d => { d with ttl := { d.ttl with brokenRings := [0] } })
/-- States and operands that meet the hypotheses of `Obligations.RingCommandsTakenOrBroken`. -/
theorem test_ringCommandsTakenOrBroken_1 :
    (∃ (s : State) (ring : Nat) (m : Nat) (v : Nat) (a : Nat) (f : RingFlow) (g : RingFlow) (cause : Nat), s.dev.rp.pwr =
        PwrState.on ∧ (ringMembers s.dev ring)[m]? = some (v, a) ∧ flowAt s.dev ring m = some f ∧ s.dev.ttl.brokenRings.contains
        ring = false ∧ ownFlow s.dev f m = some g ∧ ((fun step mode rows pairing head => if step ≠ f.step then some 1 else if
        mode ≠ f.mode then some 2 else if rows ≠ f.m then some 3 else if pairing ≠ some f.pairing then some 4 else if head =
        true then some 5 else none) g.step g.mode g.m (some g.pairing) true = some cause)) ∧
    (∃ (s : State) (ring : Nat) (m : Nat) (v : Nat) (a : Nat) (f : RingFlow) (i : Issued) (cause : Nat), s.dev.rp.pwr = PwrState.on
        ∧ (ringMembers s.dev ring)[m]? = some (v, a) ∧ flowAt s.dev ring m = some f ∧ s.dev.ttl.brokenRings.contains ring =
        false ∧ ownFlow s.dev f m = none ∧ (List.find? (fun i => isRingCmd i a && !i.executed) (coreOf s.dev v).cmds = some i) ∧
        (((fun step mode rows pairing head => if step ≠ f.step then some 1 else if mode ≠ f.mode then some 2 else if rows ≠ f.m
        then some 3 else if pairing ≠ some f.pairing then some 4 else if head = true then some 5 else none) i.step (cwMode
        i.word.toNat) (aM i.word.toNat) (pairingOf (streamFmt i.word.toNat)) (aHead i.word.toNat)) = some cause)) ∧
    (∃ (s : State) (ring : Nat) (m : Nat) (v : Nat) (a : Nat) (f : RingFlow) (i : Issued), s.dev.rp.pwr = PwrState.on ∧ (ringMembers
        s.dev ring)[m]? = some (v, a) ∧ flowAt s.dev ring m = some f ∧ s.dev.ttl.brokenRings.contains ring = false ∧ ownFlow
        s.dev f m = none ∧ (List.find? (fun i => isRingCmd i a && !i.executed) (coreOf s.dev v).cmds = some i) ∧ (((fun step
        mode rows pairing head => if step ≠ f.step then some 1 else if mode ≠ f.mode then some 2 else if rows ≠ f.m then some 3
        else if pairing ≠ some f.pairing then some 4 else if head = true then some 5 else none) i.step (cwMode i.word.toNat) (aM
        i.word.toNat) (pairingOf (streamFmt i.word.toNat)) (aHead i.word.toNat)) = none) ∧ nextOf (coreOf s.dev v) (CUnit.array
        a) = some i ∧ ringSent s.dev v a = true) ∧
    (∃ (s : State) (ring : Nat) (m : Nat) (v : Nat) (a : Nat) (f : RingFlow) (i : Issued), s.dev.rp.pwr = PwrState.on ∧ (ringMembers
        s.dev ring)[m]? = some (v, a) ∧ flowAt s.dev ring m = some f ∧ s.dev.ttl.brokenRings.contains ring = false ∧ ownFlow
        s.dev f m = none ∧ (List.find? (fun i => isRingCmd i a && !i.executed) (coreOf s.dev v).cmds = some i) ∧ (((fun step
        mode rows pairing head => if step ≠ f.step then some 1 else if mode ≠ f.mode then some 2 else if rows ≠ f.m then some 3
        else if pairing ≠ some f.pairing then some 4 else if head = true then some 5 else none) i.step (cwMode i.word.toNat) (aM
        i.word.toNat) (pairingOf (streamFmt i.word.toNat)) (aHead i.word.toNat)) = none) ∧ (nextOf (coreOf s.dev v) (CUnit.array
        a) ≠ some i ∨ ringSent s.dev v a = false)) ∧
    (∃ (d : Dev) (r : Nat), d.ttl.brokenRings.contains r = true) ∧
    (∃ (d : Dev) (r : Nat) (v : Nat) (a : Nat) (cause : Nat) (f : RingFlow), d.ttl.brokenRings.contains r = false ∧ f ∈ (breakRing d
        r v a cause).ttl.ringFlow) :=
  ⟨⟨sJRingOwn, 0, 0, 0, 0, ((flowAt sJRingOwn.dev 0 0).get (by decide +kernel)), ((ownFlow sJRingOwn.dev (((flowAt sJRingOwn.dev 0
      0).get (by decide +kernel))) 0).get (by decide +kernel)), 5, by decide +kernel⟩,
    ⟨sRingM, 0, 1, 0, 1, ((flowAt sRingM.dev 0 1).get (by decide +kernel)),
      ({ id := 5, word := 0x4080000010100402000200800120, unit := CUnit.array 1, regions := [], ops := { x := 4096, xs := 0, x2 := 0, x2s := 0, y := 0, ys := 0, y2 := 0, y2s := 0, d := 12288, d2 := 0, ds := 0, c := 0, cs := 0, base := 0, recd := [] }, liveFmt := Fmt.bf16, pair := none, step := 0, shape := none, executed := false, taker := none, lost := false, undo := [] }),
      3, by decide +kernel⟩,
    ⟨sRingTake, 0, 1, 0, 1, ((flowAt sRingTake.dev 0 1).get (by decide +kernel)), ((nextOf (coreOf sRingTake.dev 0) (CUnit.array
      1)).get (by decide +kernel)), by decide +kernel⟩,
    ⟨sJRingBusy, 0, 1, 0, 1, ((flowAt sJRingBusy.dev 0 1).get (by decide +kernel)),
      ({ id := 5, word := 0x4080000010100402000100800120, unit := CUnit.array 1, regions := [], ops := { x := 4096, xs := 0, x2 := 0, x2s := 0, y := 0, ys := 0, y2 := 0, y2s := 0, d := 12288, d2 := 0, ds := 0, c := 0, cs := 0, base := 0, recd := [] }, liveFmt := Fmt.bf16, pair := none, step := 0, shape := none, executed := false, taker := none, lost := false, undo := [] }),
      by decide +kernel⟩,
    ⟨sRingBroken.dev, 0, by decide +kernel⟩,
    ⟨sRingM.dev, 17, 0, 0, 0,
      ({ ring := 0, step := 0, mode := MmaMode.f, m := 1, fmt := Fmt.bf16, pairing := 0, head := 0, rows := [[{ code := 16256, scale := 127 }, { code := 16384, scale := 127 }]], taken := [] }),
      by decide +kernel⟩⟩

def sRingHead : State := ringed (ringI 1 1 0) flow0
/-- States and operands that meet the hypotheses of `Obligations.RingCommandsTakenOrBroken`. -/
theorem test_ringCommandsTakenOrBroken_2 :
    (∃ (d : Dev) (r : Nat) (v : Nat) (a : Nat) (cause : Nat) (u : Nat) (b : Nat) (i : Issued), d.ttl.brokenRings.contains r = false
        ∧ (u, b) ∈ ringMembers d r ∧ i ∈ (coreOf (breakRing d r v a cause) u).cmds) ∧
    (∃ (d : Dev) (r : Nat), d.ttl.brokenRings.contains r = false ∧ (∀ (u b : Nat), (u, b) ∈ ringMembers d r → ∀ (i : Issued), i ∈
        (coreOf d u).cmds → i.undo = [])) ∧
    (∃ (d : Dev) (r : Nat), d.ttl.brokenRings.contains r = false ∧ plainMem d = true ∧ d.badWords = []) :=
  ⟨⟨sJRingBusy.dev, 0, 0, 11, 3, 0, 0,
      ({ id := 4, word := 0x4080000010100402000100000120, unit := CUnit.array 1, regions := [], ops := { x := 0, xs := 0, x2 := 0, x2s := 0, y := 0, ys := 0, y2 := 0, y2s := 0, d := 0, d2 := 0, ds := 0, c := 0, cs := 0, base := 0, recd := [] }, liveFmt := Fmt.bf16, pair := none, step := 0, shape := none, executed := false, taker := none, lost := false, undo := [] }),
      by decide +kernel⟩,
    ⟨sRingHead.dev, 0, by decide +kernel, fun u b h => (by decide +kernel : ∀ m ∈ ringMembers sRingHead.dev 0, ∀ i ∈ (coreOf
      sRingHead.dev m.1).cmds, i.undo = []) (u, b) h⟩,
    ⟨sRingM.dev, 17, by decide +kernel⟩⟩

def sVqPost : State := cmdR wPost id xy
def sVqVop : State := cmdR wVop id xy
def sVqVred : State := cmdR wVred id xy
def sVqVnorm : State := cmdR wVnorm id xy
def sVqVnormB : State := cmdR wVnormB id xy
def sVqVsmax : State := cmdR wVsmax id xy
/-- States and operands that meet the hypotheses of `Obligations.VectorCommandsQueue`. -/
theorem test_vectorCommandsQueue_1 :
    (∃ (s : State) (v : Nat) (w : Nat), running s v ∧ issues s.dev v w = true ∧ 48 ≤ cwOpc w ∧ cwOpc w ≤ 56 ∧ vPost w = true) ∧
    (∃ (s : State) (v : Nat) (w : Nat), running s v ∧ issues s.dev v w = true ∧ vPost w = false ∧ cwOpc w = 48) ∧
    (∃ (s : State) (v : Nat) (w : Nat), running s v ∧ issues s.dev v w = true ∧ vPost w = false ∧ cwOpc w = 49) ∧
    (∃ (s : State) (v : Nat) (w : Nat), running s v ∧ issues s.dev v w = true ∧ vPost w = false ∧ cwOpc w = 50) ∧
    (∃ (s : State) (v : Nat) (w : Nat), running s v ∧ issues s.dev v w = true ∧ vPost w = false ∧ cwOpc w = 51) ∧
    (∃ (s : State) (v : Nat) (w : Nat), running s v ∧ issues s.dev v w = true ∧ vPost w = false ∧ cwOpc w = 52) :=
  ⟨⟨sVqPost, 0, 84738285682036008475418728041859253296, by unfold running; decide +kernel⟩,
    ⟨sVqVop, 0, 950747621577801027948986238000, by unfold running; decide +kernel⟩,
    ⟨sVqVred, 0, 950737950171244110915588588593, by unfold running; decide +kernel⟩,
    ⟨sVqVnorm, 0, 990361702834933196745758213170, by unfold running; decide +kernel⟩,
    ⟨sVqVnormB, 0, 990361702834933196745758213171, by unfold running; decide +kernel⟩,
    ⟨sVqVsmax, 0, 990352031428376279712360563764, by unfold running; decide +kernel⟩⟩

def sVqVsmaxB : State := cmdR wVsmaxB id xy
def sVqVcast : State := cmdR wVcast id xy
def sVqVupd : State := cmdR wVupd id xy
def sVqVcount : State := cmdR wVcount id xy
/-- States and operands that meet the hypotheses of `Obligations.VectorCommandsQueue`. -/
theorem test_vectorCommandsQueue_2 :
    (∃ (s : State) (v : Nat) (w : Nat), running s v ∧ issues s.dev v w = true ∧ vPost w = false ∧ cwOpc w = 53) ∧
    (∃ (s : State) (v : Nat) (w : Nat), running s v ∧ issues s.dev v w = true ∧ vPost w = false ∧ cwOpc w = 54) ∧
    (∃ (s : State) (v : Nat) (w : Nat), running s v ∧ issues s.dev v w = true ∧ vPost w = false ∧ cwOpc w = 55) ∧
    (∃ (s : State) (v : Nat) (w : Nat), running s v ∧ issues s.dev v w = true ∧ vPost w = false ∧ cwOpc w = 56) :=
  ⟨⟨sVqVsmaxB, 0, 990361702834933196745758213173, by unfold running; decide +kernel⟩,
    ⟨sVqVcast, 0, 6021340351084161716902401410102, by unfold running; decide +kernel⟩,
    ⟨sVqVupd, 0, 6060964103747850802732571034679, by unfold running; decide +kernel⟩,
    ⟨sVqVcount, 0, 51656761959300420170783716803640, by unfold running; decide +kernel⟩⟩

def sVxVop : State := cmdR wVop id xy
def sVxVred : State := cmdR wVred id xy
def sVxVnorm : State := cmdR wVnorm id xy
def sVxVnormB : State := cmdR wVnormB id xy
def sVxVsmax : State := cmdR wVsmax id xy
def sVxVsmaxB : State := cmdR wVsmaxB id xy
/-- States and operands that meet the hypotheses of `Obligations.VectorCommandsExecute`. -/
theorem test_vectorCommandsExecute_1 :
    (∃ (s : State) (v : Nat) (w : Nat), running s v ∧ issues s.dev v w = true ∧ Safety.quiet s.dev v = true ∧ vPost w = false ∧
        vFsrc w = false ∧ vLive w = true ∧ cwOpc w = 48) ∧
    (∃ (s : State) (v : Nat) (w : Nat), running s v ∧ issues s.dev v w = true ∧ Safety.quiet s.dev v = true ∧ vPost w = false ∧
        vFsrc w = false ∧ vLive w = true ∧ cwOpc w = 49) ∧
    (∃ (s : State) (v : Nat) (w : Nat), running s v ∧ issues s.dev v w = true ∧ Safety.quiet s.dev v = true ∧ vPost w = false ∧
        vFsrc w = false ∧ vLive w = true ∧ cwOpc w = 50) ∧
    (∃ (s : State) (v : Nat) (w : Nat), running s v ∧ issues s.dev v w = true ∧ Safety.quiet s.dev v = true ∧ vPost w = false ∧
        vFsrc w = false ∧ vLive w = true ∧ cwOpc w = 51) ∧
    (∃ (s : State) (v : Nat) (w : Nat), running s v ∧ issues s.dev v w = true ∧ Safety.quiet s.dev v = true ∧ vPost w = false ∧
        vFsrc w = false ∧ vLive w = true ∧ cwOpc w = 52) ∧
    (∃ (s : State) (v : Nat) (w : Nat), running s v ∧ issues s.dev v w = true ∧ Safety.quiet s.dev v = true ∧ vPost w = false ∧
        vFsrc w = false ∧ vLive w = true ∧ cwOpc w = 53) :=
  ⟨⟨sVxVop, 0, 950747621577801027948986238000, by unfold running; decide +kernel⟩,
    ⟨sVxVred, 0, 950737950171244110915588588593, by unfold running; decide +kernel⟩,
    ⟨sVxVnorm, 0, 990361702834933196745758213170, by unfold running; decide +kernel⟩,
    ⟨sVxVnormB, 0, 990361702834933196745758213171, by unfold running; decide +kernel⟩,
    ⟨sVxVsmax, 0, 990352031428376279712360563764, by unfold running; decide +kernel⟩,
    ⟨sVxVsmaxB, 0, 990361702834933196745758213173, by unfold running; decide +kernel⟩⟩

def sVxVcast : State := cmdR wVcast id xy
def sVxVupd : State := cmdR wVupd id xy
def sVxVcount : State := cmdR wVcount id xy
/-- States and operands that meet the hypotheses of `Obligations.VectorCommandsExecute`. -/
theorem test_vectorCommandsExecute_2 :
    (∃ (s : State) (v : Nat) (w : Nat), running s v ∧ issues s.dev v w = true ∧ Safety.quiet s.dev v = true ∧ vPost w = false ∧
        vFsrc w = false ∧ vLive w = true ∧ cwOpc w = 54) ∧
    (∃ (s : State) (v : Nat) (w : Nat), running s v ∧ issues s.dev v w = true ∧ Safety.quiet s.dev v = true ∧ vPost w = false ∧
        vFsrc w = false ∧ vLive w = true ∧ cwOpc w = 55) ∧
    (∃ (s : State) (v : Nat) (w : Nat), running s v ∧ issues s.dev v w = true ∧ Safety.quiet s.dev v = true ∧ vPost w = false ∧
        vFsrc w = false ∧ vLive w = true ∧ cwOpc w = 56) :=
  ⟨⟨sVxVcast, 0, 6021340351084161716902401410102, by unfold running; decide +kernel⟩,
    ⟨sVxVupd, 0, 6060964103747850802732571034679, by unfold running; decide +kernel⟩,
    ⟨sVxVcount, 0, 51656761959300420170783716803640, by unfold running; decide +kernel⟩⟩

def sTake : State := withCore { run0 with cmds := [task3] } xy
def sComplete : State := withCore { run0 with cmds := [gone3] } []
/-- States and operands that meet the hypotheses of `Obligations.TasksAndCompletion`. -/
theorem test_tasksAndCompletion :
    (∃ (s : State) (v : Nat) (e : Nat) (i : Issued), running s v ∧ e < 2 ∧ enginesLive s.dev v = true ∧ mapGet? (coreOf s.dev
        v).vec.hand e = none ∧ queueWork (coreOf s.dev v) e = none ∧ oldestTask (coreOf s.dev v) = some i) ∧
    (∃ (s : State) (v : Nat) (id : Nat) (i : Issued), running s v ∧ Safety.quiet s.dev v = true ∧ (List.find? (fun i => i.id == id)
        (coreOf s.dev v).cmds = some i) ∧ (canComplete (coreOf s.dev v) i = false ∨ stepSent s.dev v i = false)) ∧
    (∃ (s : State) (v : Nat) (id : Nat) (i : Issued), running s v ∧ Safety.quiet s.dev v = true ∧ (List.find? (fun i => i.id == id)
        (coreOf s.dev v).cmds = some i) ∧ canComplete (coreOf s.dev v) i = true ∧ stepSent s.dev v i = true) :=
  ⟨⟨sTake, 0, 0, ((oldestTask (coreOf sTake.dev 0)).get (by decide +kernel)), by unfold running; decide +kernel⟩,
    ⟨sTake, 0, 3,
      ({ id := 3, word := 0x3fc0000c000800000100020000100430, unit := CUnit.pool 255, regions := [], ops := { x := 4096, xs := 0, x2 := 0, x2s := 0, y := 8192, ys := 0, y2 := 0, y2s := 0, d := 16384, d2 := 0, ds := 0, c := 0, cs := 0, base := 0, recd := [] }, liveFmt := Fmt.bf16, pair := none, step := 0, shape := none, executed := false, taker := none, lost := false, undo := [] }),
      by unfold running; decide +kernel⟩,
    ⟨sComplete, 0, 3,
      ({ id := 3, word := 0xc000800000100020000000430, unit := CUnit.vec, regions := [], ops := { x := 0, xs := 0, x2 := 0, x2s := 0, y := 0, ys := 0, y2 := 0, y2s := 0, d := 0, d2 := 0, ds := 0, c := 0, cs := 0, base := 0, recd := [] }, liveFmt := Fmt.bf16, pair := none, step := 0, shape := none, executed := true, taker := none, lost := false, undo := [] }),
      by unfold running; decide +kernel⟩⟩

def sCopyRuns : State := listed (entK 0)
def sJGrant2 : State := on (listed 0) (fun d => modStrm d (.core 0) (fun y =>
    { y with grants := 15, lists := [{ id := 5, base := 0x8000, count := 1, pri := 1 }, { id := 6, base := 0x9000, count := 1, pri := 2, nread := 1, buf := [ent 0 0 4 1 (here 0x1000) (here 0x3000)] }] }))
def sJGrant1 : State := on (listed 0) (fun d => modStrm d (.core 0) (fun y =>
    { y with lists := [{ id := 5, base := 0x8000, count := 1, pri := 1, nread := 1, buf := [ent 0 0 4 1 (here 0x1000) (here 0x2000)] }, { id := 6, base := 0x9000, count := 1, nread := 1, buf := [ent 0 0 4 1 (here 0x1000) (here 0x3000)] }, { id := 7, base := 0x9000, count := 1, pri := 2, nread := 1, buf := [ent 0 0 4 1 (here 0x1000) (here 0x4000)] }] }))
/-- States and operands that meet the hypotheses of `Obligations.TransferRowsStart`. -/
theorem test_transferRowsStart :
    (∃ (s : State) (e : Engine) (list : Nat) (l : BList) (p : Pick) (status : Nat) (t : Tx) (v : Nat), engineRuns s e ∧ startGrant
        (fillBuf s.dev e) e = some l ∧ l.id = list ∧ pickEntry l = some p ∧ pickStatus (fillBuf s.dev e) e l p = (status, t) ∧ e
        = Engine.core v) ∧
    (∃ (s : State) (e : Engine) (list : Nat) (i : Instr), engineRuns s e ∧ (∀ (l : BList), startGrant (fillBuf s.dev e) e = some l →
        l.id ≠ list) ∧ i ∈ transferRows e list) ∧
    (∃ (d : Dev) (e : Engine) (l : BList) (m : BList), startGrant d e = some l ∧ (strmOf d e).grants = 15 ∧ (m ∈ (List.take
        (List.findIdx (fun x => x == l) (strmOf d e).lists) (strmOf d e).lists))) ∧
    (∃ (d : Dev) (e : Engine) (l : BList) (m : BList), startGrant d e = some l ∧ (strmOf d e).grants ≠ 15 ∧ (m ∈ (List.take
        (List.findIdx (fun x => x == l) (strmOf d e).lists) (strmOf d e).lists)) ∧ listReady d e m = true) ∧
    (∃ (d : Dev) (e : Engine) (l : BList) (m : BList), startGrant d e = some l ∧ (strmOf d e).grants ≠ 15 ∧ (m ∈ (List.drop
        ((List.findIdx (fun x => x == l) (strmOf d e).lists) + 1) (strmOf d e).lists)) ∧ listReady d e m = true) :=
  ⟨⟨sCopyRuns, (Engine.core 0), 5, ((startGrant (fillBuf sCopyRuns.dev ((Engine.core 0))) ((Engine.core 0))).get (by
      decide +kernel)), ((pickEntry (((startGrant (fillBuf sCopyRuns.dev ((Engine.core 0))) ((Engine.core 0))).get (by
      decide +kernel)))).get (by decide +kernel)), 0, (pickStatus (fillBuf sCopyRuns.dev ((Engine.core 0))) ((Engine.core 0))
      (((startGrant (fillBuf sCopyRuns.dev ((Engine.core 0))) ((Engine.core 0))).get (by decide +kernel))) (((pickEntry
      (((startGrant (fillBuf sCopyRuns.dev ((Engine.core 0))) ((Engine.core 0))).get (by decide +kernel)))).get (by
      decide +kernel)))).2, 0, by unfold engineRuns; dsimp only [running]; decide +kernel⟩,
    ⟨sCopyRuns, (Engine.core 0), 0, (Instr.copy (Engine.core 0) 0), by unfold engineRuns; dsimp only [running]; decide +kernel⟩,
    ⟨sJGrant2.dev, (Engine.core 0), ((startGrant sJGrant2.dev ((Engine.core 0))).get (by decide +kernel)),
      ({ id := 5, base := 32768, count := 1, evt := 0, pri := 1, reloc := 0, next := 0, nread := 0, buf := [], stale := [] }),
      by decide +kernel⟩,
    ⟨sJGrant1.dev, (Engine.core 0), ((startGrant sJGrant1.dev ((Engine.core 0))).get (by decide +kernel)),
      ({ id := 5, base := 32768, count := 1, evt := 0, pri := 1, reloc := 0, next := 0, nread := 1, buf := [0x100000400000000ffff000000002000ffff000000001000], stale := [] }),
      by decide +kernel⟩,
    ⟨sJGrant1.dev, (Engine.core 0), ((startGrant sJGrant1.dev ((Engine.core 0))).get (by decide +kernel)),
      ({ id := 7, base := 36864, count := 1, evt := 0, pri := 2, reloc := 0, next := 0, nread := 1, buf := [0x100000400000000ffff000000004000ffff000000001000], stale := [] }),
      by decide +kernel⟩⟩

def sLaunchZero : State := st rdy
def sJLaunchHost : State := listed (ent 0 0 4 1 (here 0x400000000000) (here 0x2000))
/-- States and operands that meet the hypotheses of `Obligations.TransferEntersFlight`. -/
theorem test_transferEntersFlight_1 :
    (∃ (status : Nat), status ≠ 0) ∧
    (∃ (e : Engine) (status : Nat) (t : Tx) (v : Nat), status = 0 ∧ t.kind = 9 ∧ e = Engine.core v) ∧
    (∃ (status : Nat) (t : Tx), status = 0 ∧ t.kind ≠ 9 ∧ txZero t = true) ∧
    (∃ (d : Dev) (e : Engine) (l : BList) (slot : Nat) (status : Nat) (t : Tx), status = 0 ∧ t.kind ≠ 9 ∧ txZero t = false ∧
        (readRequests d e slot l.pri.toNat t) ≠ []) ∧
    (∃ (d : Dev) (e : Engine) (l : BList) (slot : Nat) (status : Nat) (t : Tx), status = 0 ∧ t.kind ≠ 9 ∧ txZero t = false ∧
        (readRequests d e slot l.pri.toNat t) = [] ∧ (touchesHost d t = true ∨ guardWaits d e l t = true)) ∧
    (∃ (d : Dev) (e : Engine) (l : BList) (slot : Nat) (status : Nat) (t : Tx), status = 0 ∧ t.kind ≠ 9 ∧ txZero t = false ∧
        (readRequests d e slot l.pri.toNat t) = [] ∧ touchesHost d t = false ∧ guardWaits d e l t = false) :=
  ⟨⟨4, by decide +kernel⟩,
    ⟨(Engine.core 0), 0,
      ({ kind := 9, src := 256, dst := 4096, sscl := 8192, dscl := 256, res := 0, sdesc := 2, ddesc := 16, len := 8, rows := 1, spitch := 4, dpitch := 4, plc := 7, skw := false, conv := true, ext := true, ord := false, role := true, k := 16, arr := true }),
      0, by decide +kernel⟩,
    ⟨0,
      ({ kind := 1, src := 1048576, dst := 8192, sscl := 1048576, dscl := 0, res := 0, sdesc := 2, ddesc := 2, len := 1, rows := 0, spitch := 0, dpitch := 0, plc := 0, skw := false, conv := false, ext := false, ord := false, role := false, k := 1, arr := false }),
      by decide +kernel⟩,
    ⟨sLaunchZero.dev, (Engine.core 2),
      ({ id := 0, base := 0, count := 1, evt := 0, pri := 0, reloc := 0, next := 0, nread := 0, buf := [], stale := [] }), 3, 0,
      ({ kind := 4, src := 1048576, dst := 844424930131968, sscl := 0, dscl := 1048576, res := 256, sdesc := 2, ddesc := 2, len := 1, rows := 2, spitch := 4, dpitch := 4, plc := 1, skw := false, conv := true, ext := false, ord := false, role := true, k := 8, arr := true }),
      by decide +kernel⟩,
    ⟨sJLaunchHost.dev, (Engine.hdma 3),
      ({ id := 5, base := 32768, count := 1, evt := 3, pri := 0, reloc := 0, next := 0, nread := 1, buf := [0x100000400000000ffff000000002000ffff400000000000], stale := [] }),
      0, 0,
      ({ kind := 0, src := 18446532967477018624, dst := 18446462598732849152, sscl := 0, dscl := 0, res := 0, sdesc := 0, ddesc := 0, len := 4, rows := 1, spitch := 0, dpitch := 0, plc := 0, skw := false, conv := false, ext := false, ord := false, role := false, k := 0, arr := false }),
      by decide +kernel⟩,
    ⟨sLaunchZero.dev, (Engine.core 0),
      ({ id := 0, base := 0, count := 1, evt := 0, pri := 0, reloc := 0, next := 0, nread := 0, buf := [], stale := [] }), 11,
      0,
      ({ kind := 1, src := 844424930131968, dst := 256, sscl := 0, dscl := 4096, res := 256, sdesc := 0, ddesc := 2, len := 8, rows := 3, spitch := 4, dpitch := 4, plc := 7, skw := false, conv := false, ext := false, ord := true, role := true, k := 8, arr := true }),
      by decide +kernel⟩⟩

def sJRun : State := on (flying { xfer2 with entryBits := ent 0 0 4 2 (here 0x1000) (here 0x2000) }) (fun d =>
    { d with mem := cells [(0x1000, [1, 2, 3, 4, 5, 6, 7, 8])] })
/-- The one transfer in flight of the state is the core's. -/
theorem sJRun_xfers (y : Engine) :
    (strmOf sJRun.dev y).xfers = if y = .core 0 then [(xferOf sJRun.dev (.core 0) 2).get (by decide +kernel)] else [] := by
  cases y with
  | core v =>
    by_cases h : v = 0
    · subst h; decide +kernel
    · simp [h, Ne.symm h, strmOf, coreOf, mapGet, mapGet?, sJRun, on, flying, st]
  | hdma c => rfl

/-- States and operands that meet the hypotheses of `Obligations.TransferEntersFlight`. -/
theorem test_transferEntersFlight_2 :
    (∃ (s : Dev) (d : Dev) (e : Engine) (slot : Nat) (x : Xfer) (l : BList) (y : Xfer), xferOf d e slot = some x ∧ x.slot = slot ∧
        (∀ (y : Engine), (strmOf d y).xfers = if y = e then [x] else []) ∧ listOf d e x.list = some l ∧ l.stale = [] ∧ x.undo =
        [] ∧ (xferTx d e x).kind = 0 ∧ (xferTx d e x).conv = false ∧ txZero (xferTx d e x) = false ∧ isSelf d ((xferTx d e
        x).src / 2 ^ 48) = true ∧ isSelf d ((xferTx d e x).dst / 2 ^ 48) = true ∧ ((xferTx d e x).src % 2 ^ 48) + (xferTx d e
        x).rows * srcPitch (xferTx d e x) ≤ hbmCap d ∧ ((xferTx d e x).dst % 2 ^ 48) + (xferTx d e x).rows * dstPitch (xferTx d
        e x) ≤ hbmCap d ∧ (xferTx d e x).len ≤ srcPitch (xferTx d e x) ∧ (xferTx d e x).len ≤ dstPitch (xferTx d e x) ∧ plainMem
        d = true ∧ d.badWords = [] ∧ xferOf (runXfer s d e slot) e slot = some y) :=
  ⟨sJRun.dev, sJRun.dev, (.core 0), 2, (xferOf sJRun.dev (.core 0) 2).get (by decide +kernel), (listOf sJRun.dev (.core 0) 5).get
      (by decide +kernel), (xferOf (runXfer sJRun.dev sJRun.dev (.core 0) 2) (.core 0) 2).get (by decide +kernel), by
      decide +kernel, by decide +kernel, sJRun_xfers, by decide +kernel⟩

/-- States and operands that meet the hypotheses of `Obligations.EntryFieldsAndRows`. -/
theorem test_entryFieldsAndRows_1 :
    (∃ (l : BList) (a : BitVec 256) (r : List (BitVec 256)), l.buf = a :: r ∧ bit a.toNat 251 = false) ∧
    (∃ (l : BList) (a : BitVec 256) (r : List (BitVec 256)), l.buf = a :: r ∧ bit a.toNat 251 = true ∧ l.next + 1 = l.count) ∧
    (∃ (l : BList) (a : BitVec 256) (r : List (BitVec 256)) (b : BitVec 256) (r2 : List (BitVec 256)), l.buf = a :: r ∧ bit a.toNat
        251 = true ∧ l.next + 1 ≠ l.count ∧ r = b :: r2) ∧
    (∃ (base : Nat), base < 2 ^ 48) ∧
    (∃ (t : Tx) (data : List (List Byte)), t.rows ≠ 0 ∧ t.len ≠ 0 ∧ t.conv = false ∧ t.kind = 0 ∧ data.length = t.rows) ∧
    (∃ (t : Tx), t.rows ≠ 0 ∧ t.len ≠ 0 ∧ t.conv = false ∧ t.kind = 1) :=
  ⟨⟨({ id := 5, base := 32768, count := 1, evt := 3, pri := 0, reloc := 0, next := 0, nread := 1, buf := [0x10000040000000000000000000000000000000000000000], stale := [] }),
      24519934499860771057345225249144277803031904578667806720, ([]), by decide +kernel⟩,
    ⟨({ id := 5, base := 32768, count := 1, evt := 3, pri := 0, reloc := 0, next := 0, nread := 1, buf := [0x800000000000000010000040000000000000000000000000000000000000000], stale := [] }),
      3618502788666131107011113216021357891472032246050411904036081404825953107968, ([]), by decide +kernel⟩,
    ⟨({ id := 5, base := 32768, count := 2, evt := 0, pri := 0, reloc := 0, next := 0, nread := 2, buf := [0x800000000000000010000040000000000000000000000000000000000000000, 7], stale := [] }),
      3618502788666131107011113216021357891472032246050411904036081404825953107968, ([7]), 7, ([]), by decide +kernel⟩,
    ⟨634079290, by decide +kernel⟩,
    ⟨({ kind := 0, src := 8192, dst := 1048576, sscl := 562949953425408, dscl := 0, res := 0, sdesc := 0, ddesc := 1, len := 1, rows := 2, spitch := 0, dpitch := 64, plc := 7, skw := true, conv := false, ext := false, ord := false, role := true, k := 16, arr := false }),
      ([[0], [16, 132, 0, 0]]), by decide +kernel⟩,
    ⟨({ kind := 1, src := 1048576, dst := 0, sscl := 844424930131968, dscl := 8192, res := 256, sdesc := 16, ddesc := 1, len := 4, rows := 2, spitch := 4, dpitch := 4, plc := 2, skw := true, conv := false, ext := true, ord := true, role := true, k := 2, arr := true }),
      by decide +kernel⟩⟩

/-- States and operands that meet the hypotheses of `Obligations.EntryFieldsAndRows`. -/
theorem test_entryFieldsAndRows_2 :
    (∃ (t : Tx), t.rows ≠ 0 ∧ t.len ≠ 0 ∧ t.conv = false ∧ (t.kind = 0 ∨ t.kind = 1)) :=
  ⟨({ kind := 1, src := 1048576, dst := 0, sscl := 844424930131968, dscl := 8192, res := 256, sdesc := 16, ddesc := 1, len := 4, rows := 2, spitch := 4, dpitch := 4, plc := 2, skw := true, conv := false, ext := true, ord := true, role := true, k := 2, arr := true }),
      by decide +kernel⟩

def sXBell : State := flying { xfer2 with bellHeld := true }
def sXDone : State := flying xfer2
def sJGuarded : State := flying { xfer2 with guard := true, entryBits := ent 0 0 4 1 (here 0x1000) (here 0x2000) }
/-- States and operands that meet the hypotheses of `Obligations.TransferCompletes`. -/
theorem test_transferCompletes_1 :
    (∃ (s : State) (e : Engine) (slot : Nat) (x : Xfer), engineRuns s e ∧ xferOf s.dev e slot = some x ∧ (x.bellHeld = true ∨
        x.waiting ≠ [] ∨ x.status = 0 ∧ stillGuarded s.dev e x = true)) ∧
    (∃ (s : State) (e : Engine) (slot : Nat) (x : Xfer), engineRuns s e ∧ xferOf s.dev e slot = some x ∧ x.bellHeld = false ∧
        x.waiting = [] ∧ (x.status = 0 → x.hostWait = false ∧ x.guard = false)) ∧
    (∃ (s : State) (e : Engine) (slot : Nat) (x : Xfer), engineRuns s e ∧ xferOf s.dev e slot = some x ∧ x.bellHeld = false ∧
        x.waiting = [] ∧ x.status = 0 ∧ stillGuarded s.dev e x = false ∧ (x.hostWait = true ∨ x.guard = true)) ∧
    (∃ (s : State) (e : Engine) (slot : Nat), engineRuns s e ∧ xferOf s.dev e slot = none) ∧
    (∃ (x : Xfer), x.status ≠ 0 ∧ x.status ≠ 6) ∧
    (∃ (x : Xfer), x.status = 6) :=
  ⟨⟨sXBell, (Engine.core 0), 2, ((xferOf sXBell.dev ((Engine.core 0)) 2).get (by decide +kernel)),
      by unfold engineRuns; dsimp only [running]; decide +kernel⟩,
    ⟨sXDone, (Engine.core 0), 2, ((xferOf sXDone.dev ((Engine.core 0)) 2).get (by decide +kernel)),
      by unfold engineRuns; dsimp only [running]; decide +kernel⟩,
    ⟨sJGuarded, (Engine.core 0), 2, ((xferOf sJGuarded.dev ((Engine.core 0)) 2).get (by decide +kernel)),
      by unfold engineRuns; dsimp only [running]; decide +kernel⟩,
    ⟨sXDone, (Engine.core 2), 0, by unfold engineRuns; dsimp only [running]; decide +kernel⟩,
    ⟨({ slot := 2, list := 5, entry := 0, entryAddr := 32768, kind := 0, status := 2, writes := [], undo := [], waiting := [], bellHeld := false, hostWait := false, guard := false, seen := [], adds := [], gathered := [], entryBits := 0, extBits := 0 }),
      by decide +kernel⟩,
    ⟨({ slot := 2, list := 5, entry := 0, entryAddr := 32768, kind := 0, status := 6, writes := [], undo := [], waiting := [], bellHeld := false, hostWait := false, guard := false, seen := [], adds := [], gathered := [], entryBits := 0, extBits := 0 }),
      by decide +kernel⟩⟩

def sListEnds : State := on (flying xfer2) (fun d => modCore d 0 (fun c =>
    { c with strm := { c.strm with xfers := [] }, ereg := [(3, 0xFFFFFFFF)], cmds := [{ id := 5, word := BitVec.ofNat 128 wGo, unit := .strm }] }))
def sJEndEmpty : State := on (listed 0) (fun d => modStrm d (.core 0) (fun y =>
    { y with lists := [{ id := 5, base := 0x8000, count := 1, next := 1, nread := 1, evt := 3 }, { id := 6, base := 0x9000, count := 0 }, { id := 7, base := 0x9000, count := 1 }, { id := 8, base := 0x9000, count := 0 }] }))
def sListRead : State := on (flying xfer2) (fun d => modCore d 0 (fun c =>
    { c with cmds := [{ id := 5, word := BitVec.ofNat 128 wGo, unit := .strm }] }))
def sListUnread : State := on (flying xfer2) (fun d => modCore d 0 (fun c =>
    { c with strm := { c.strm with lists := [{ id := 5, base := 0x8000, count := 257, evt := 3 }] }, cmds := [{ id := 5, word := BitVec.ofNat 128 wGo, unit := .strm }] }))
/-- States and operands that meet the hypotheses of `Obligations.TransferCompletes`. -/
theorem test_transferCompletes_2 :
    (∃ (d : Dev) (v : Nat) (id : Nat) (l : BList), listOf d (Engine.core v) id = some l ∧ listDone (coreOf d v) l = false) ∧
    (∃ (d : Dev) (v : Nat) (id : Nat) (l : BList), listOf d (Engine.core v) id = some l ∧ listDone (coreOf d v) l = true ∧ (∀ (m :
        BList), m ∈ (coreOf d v).strm.lists → m.count = 0 → m.id = l.id)) ∧
    (∃ (d : Dev) (v : Nat) (id : Nat) (l : BList) (m : BList), listOf d (Engine.core v) id = some l ∧ listDone (coreOf d v) l = true
        ∧ (m ∈ (endEmpty (coreOf d v).strm.lists.length ((fun c l =>
        { state := c.state, stop := c.stop, passBreak := c.passBreak, brkCmp := c.brkCmp, cause := c.cause, haltCode := c.haltCode, start := c.start, pc := c.pc, issue := c.issue, faultOpc := c.faultOpc, faultQue := c.faultQue, faultTag := c.faultTag, areg := c.areg, lreg := c.lreg, ereg := mapPut c.ereg l.evt (satAdd (mapGet 0 c.ereg l.evt) 1), cmpr := c.cmpr, loops := c.loops, code := c.code, fetchBuf := c.fetchBuf, cmds := List.filter (fun i => i.id != l.id) c.cmds, sbStall := c.sbStall, qfStall := c.qfStall, slotStall := c.slotStall, swaitStall := c.swaitStall, bwaitStall := c.bwaitStall, tdrainStall := c.tdrainStall, haltStall := c.haltStall, fetchStall := c.fetchStall, arrays := c.arrays, ringSteps := c.ringSteps, strm := have __src := c.strm; { lists := List.filter (fun m => m.id != l.id) c.strm.lists, xfers := __src.xfers, heldSlots := __src.heldSlots, errCnt := __src.errCnt, errCode := __src.errCode, errKind := __src.errKind, errEntry := __src.errEntry, errAddr := __src.errAddr, stalls := __src.stalls, grants := __src.grants, stale := __src.stale }, vec := c.vec, hostStop := c.hostStop })
        (coreOf d v) l)).strm.lists) ∧ m.count = 0) ∧
    (∃ (s : State) (v : Nat), running s v ∧ goInHand (coreOf s.dev v) = none) ∧
    (∃ (s : State) (v : Nat) (i : Issued) (l : BList), running s v ∧ goInHand (coreOf s.dev v) = some i ∧ listOf (fillBuf s.dev
        (Engine.core v)) (Engine.core v) i.id = some l ∧ l.count ≤ l.nread) ∧
    (∃ (s : State) (v : Nat) (i : Issued) (l : BList), running s v ∧ goInHand (coreOf s.dev v) = some i ∧ listOf (fillBuf s.dev
        (Engine.core v)) (Engine.core v) i.id = some l ∧ l.nread < l.count) :=
  ⟨⟨sXDone.dev, 0, 5, ((listOf sXDone.dev (Engine.core 0) 5).get (by decide +kernel)), by decide +kernel⟩,
    ⟨sListEnds.dev, 0, 5, ((listOf sListEnds.dev (Engine.core 0) 5).get (by decide +kernel)), by decide +kernel⟩,
    ⟨sJEndEmpty.dev, 0, 5, ((listOf sJEndEmpty.dev (Engine.core 0) 5).get (by decide +kernel)),
      ({ id := 8, base := 36864, count := 0, evt := 0, pri := 0, reloc := 0, next := 0, nread := 0, buf := [], stale := [] }),
      by decide +kernel⟩,
    ⟨sXDone, 0, by unfold running; decide +kernel⟩,
    ⟨sListRead, 0, ((goInHand (coreOf sListRead.dev 0)).get (by decide +kernel)), ((listOf (fillBuf sListRead.dev (Engine.core 0))
      (Engine.core 0) (((goInHand (coreOf sListRead.dev 0)).get (by decide +kernel))).id).get (by decide +kernel)),
      by unfold running; decide +kernel⟩,
    ⟨sListUnread, 0, ((goInHand (coreOf sListUnread.dev 0)).get (by decide +kernel)), ((listOf (fillBuf sListUnread.dev (Engine.core
      0)) (Engine.core 0) (((goInHand (coreOf sListUnread.dev 0)).get (by decide +kernel))).id).get (by decide +kernel)),
      by unfold running; decide +kernel⟩⟩

def sSlotReuse : State := flying xfer2
def sFabTimeout : State := flying { xfer2 with waiting := [{ dev := 2, rtag := 3, len := 4 }] }
def sHostTimeout : State := flying { xfer2 with hostWait := true }
def sJHdmaPoison : State := st { rdy with host :=
    { syll := true, hdma := [(3, { busy := true, count := 1, strm := { lists := [{ id := 0, base := 0x8000, count := 1, next := 1, nread := 1 }], xfers := [{ xfer2 with list := 0, hostWait := true, entryBits := ent 0 0 4 1 (here 0x400000000000) (here 0x2000) }] } })] }
    }
/-- States and operands that meet the hypotheses of `Obligations.TransferTimeouts`. -/
theorem test_transferTimeouts :
    (∃ (s : State) (v : Nat) (slot : Nat) (x : Xfer), running s v ∧ xferOf s.dev (Engine.core v) slot = some x ∧ x.waiting = []) ∧
    (∃ (s : State) (v : Nat) (slot : Nat) (x : Xfer), running s v ∧ xferOf s.dev (Engine.core v) slot = some x ∧ x.waiting ≠ []) ∧
    (∃ (s : State) (v : Nat) (slot : Nat), running s v ∧ xferOf s.dev (Engine.core v) slot = none) ∧
    (∃ (s : State) (e : Engine) (slot : Nat) (x : Xfer), engineRuns s e ∧ xferOf s.dev e slot = some x ∧ (x.hostWait = false ∨
        x.status ≠ 0)) ∧
    (∃ (s : State) (e : Engine) (slot : Nat) (x : Xfer) (v : Nat), engineRuns s e ∧ xferOf s.dev e slot = some x ∧ x.hostWait = true
        ∧ x.status = 0 ∧ e = Engine.core v) ∧
    (∃ (s : State) (e : Engine) (slot : Nat) (x : Xfer) (c : Nat), engineRuns s e ∧ xferOf s.dev e slot = some x ∧ x.hostWait = true
        ∧ x.status = 0 ∧ e = Engine.hdma c) :=
  ⟨⟨sSlotReuse, 0, 2, ((xferOf sSlotReuse.dev (Engine.core 0) 2).get (by decide +kernel)), by unfold running; decide +kernel⟩,
    ⟨sFabTimeout, 0, 2, ((xferOf sFabTimeout.dev (Engine.core 0) 2).get (by decide +kernel)), by unfold running; decide +kernel⟩,
    ⟨sSlotReuse, 0, 0, by unfold running; decide +kernel⟩,
    ⟨sSlotReuse, (Engine.core 0), 2, ((xferOf sSlotReuse.dev ((Engine.core 0)) 2).get (by decide +kernel)),
      by unfold engineRuns; dsimp only [running]; decide +kernel⟩,
    ⟨sHostTimeout, (Engine.core 0), 2, ((xferOf sHostTimeout.dev ((Engine.core 0)) 2).get (by decide +kernel)), 0,
      by unfold engineRuns; dsimp only [running]; decide +kernel⟩,
    ⟨sJHdmaPoison, (Engine.hdma 3), 2, ((xferOf sJHdmaPoison.dev ((Engine.hdma 3)) 2).get (by decide +kernel)), 3,
      by unfold engineRuns; dsimp only [running]; decide +kernel⟩⟩

def sStoreReads : State := st { rdy with mem := [(0x1000, 4)] }
/-- States and operands that meet the hypotheses of `Obligations.StoreReadsBack`. -/
theorem test_storeReadsBack :
    (∃ (d : Dev) (a : Nat) (bs : List Byte) (x : Nat), plainMem d = true ∧ d.badWords = [] ∧ (x < a ∨ a + bs.length ≤ x)) ∧
    (∃ (d : Dev), plainMem d = true ∧ d.badWords = [] ∧ memWf d.mem = true) :=
  ⟨⟨sStoreReads.dev, 13, ((List.replicate 40 0)), 0, by decide +kernel⟩,
    ⟨sStoreReads.dev, by decide +kernel⟩⟩

def sJGen2 : State := belled (st rdy) {}
def sJGen1 : State := belled (st rdy) { arrivals := [{ src := 0, op := 6, value := 5 }] }
/-- States and operands that meet the hypotheses of `Obligations.GenerationCompletes`. -/
theorem test_generationCompletes :
    (∃ (arr : List Arrival), (∀ (x : Arrival), x ∈ arr → x.op = 0)) ∧
    (∃ (op : BitVec 3) (a : Arrival) (arr : List Arrival), op ≠ 0 ∧ op ≠ 7 ∧ a.op = op ∧ (∀ (x : Arrival), x ∈ arr → x.op = 0 ∨ x.op
        = op)) ∧
    (∃ (arr : List Arrival) (x : Arrival) (y : Arrival), x ∈ arr ∧ y ∈ arr ∧ x.op ≠ 0 ∧ y.op ≠ 0 ∧ x.op ≠ y.op) ∧
    (∃ (s : State) (b : Nat), bellCompletes s.dev b = false) ∧
    (∃ (s : State) (b : Nat), b < 1016 ∧ copyCfg s.dev = none ∧ (bellTree s.dev b).snd = [] ∧ bellCompletes s.dev b = true) :=
  ⟨⟨([{ src := 4, op := 0, value := 0 }]), by decide +kernel⟩,
    ⟨6, ({ src := 0, op := 6, value := 1 }), ([]), by decide +kernel⟩,
    ⟨([{ src := 4, op := 0, value := 776 }, { src := 0, op := 1, value := 0x17fa2000 }, { src := 4, op := 7, value := 954 }]),
      ({ src := 0, op := 1, value := 0x17fa2000 }), ({ src := 4, op := 7, value := 954 }), by decide +kernel⟩,
    ⟨sJGen2, 4, by decide +kernel⟩,
    ⟨sJGen1, 4, by decide +kernel⟩⟩

def sBellNotDone : State := belled (st rdy) {}
def sJBellHeld : State := on (belled (st rdy) {}) (fun d => modBell d 4 (fun b =>
    { b with held := [{ core := 0, cmd := none, slot := some 2, op := 6, value := 3 }], sent := [(0, 5)] }))
def sBellSent : State := on (belled (withCore { run0 with cmds := [{ id := 5, word := BitVec.ofNat 128 wRing, unit := .bell }] }
    []) {}) (fun d => modBell d 4 (fun b =>
    { b with held := [{ core := 0, cmd := some 5, slot := none, op := 6, value := 3 }] }))
def sJBellSlot : State := on (belled (flying { xfer2 with bellHeld := true, kind := 9 }) {}) (fun d => modBell d 4 (fun b =>
    { b with held := [{ core := 0, cmd := none, slot := some 2, op := 6, value := 3 }] }))
/-- States and operands that meet the hypotheses of `Obligations.BellArrivals`. -/
theorem test_bellArrivals_1 :
    (∃ (s : State) (v : Nat) (b : Nat), running s v ∧ heldOf s.dev b v = none) ∧
    (∃ (s : State) (v : Nat) (b : Nat) (h : HeldArrival), running s v ∧ heldOf s.dev b v = some h ∧ heldReady s.dev b h = false) ∧
    (∃ (s : State) (v : Nat) (b : Nat) (h : HeldArrival) (id : Nat), running s v ∧ heldOf s.dev b v = some h ∧ heldReady s.dev b h =
        true ∧ h.cmd = some id) ∧
    (∃ (s : State) (v : Nat) (b : Nat) (h : HeldArrival) (slot : Nat), running s v ∧ heldOf s.dev b v = some h ∧ heldReady s.dev b h
        = true ∧ h.cmd = none ∧ h.slot = some slot) ∧
    (∃ (p : Nat) (f : BitVec 256), p < 12 ∧ flitOk f = false) ∧
    (∃ (p : Nat) (f : BitVec 256), p < 12 ∧ flitOk f = true ∧ flitType f ≠ 2) :=
  ⟨⟨sBellNotDone, 11, 0, by unfold running; decide +kernel⟩,
    ⟨sJBellHeld, 0, 4, ((heldOf sJBellHeld.dev 4 0).get (by decide +kernel)), by unfold running; decide +kernel⟩,
    ⟨sBellSent, 0, 4, ((heldOf sBellSent.dev 4 0).get (by decide +kernel)), 5, by unfold running; decide +kernel⟩,
    ⟨sJBellSlot, 0, 4, ((heldOf sJBellSlot.dev 4 0).get (by decide +kernel)), 2, by unfold running; decide +kernel⟩,
    ⟨2, 259, by decide +kernel⟩,
    ⟨0, (ctlF 13 435414120793088), by decide +kernel⟩⟩

def sJBellIn : State := on (fabS upQ id) (fun d =>
    { d with ttl := { state := .active, active := some ttFab }, bells := [(4, { done := 7 })] })
def sJBellRel : State := on (fabS upQ id) (fun d =>
    { d with ttl := { state := .active, active := some ttFab2 }, bells := [(4, { done := 7 })] })
/-- States and operands that meet the hypotheses of `Obligations.BellArrivals`. -/
theorem test_bellArrivals_2 :
    (∃ (p : Nat) (f : BitVec 256), p < 12 ∧ flitOk f = true ∧ flitType f ≠ 3) ∧
    (∃ (s : State) (p : Nat) (f : BitVec 256), p < 12 ∧ flitType f = 2 ∧ (linkAccept s.dev p f).snd = true ∧ bellLive ((linkAccept
        s.dev p f).fst) (bits f.toNat 14 10) = true ∧ (bits f.toNat 14 10) ≠ 1016 ∧ bits f.toNat 24 16 = (bellOf ((linkAccept
        s.dev p f).fst) (bits f.toNat 14 10)).done % 65536 ∧ p ∈ (bellTree ((linkAccept s.dev p f).fst) (bits f.toNat 14
        10)).snd) ∧
    (∃ (s : State) (p : Nat) (f : BitVec 256), p < 12 ∧ flitType f = 2 ∧ (¬((linkAccept s.dev p f).snd = true ∧ bellLive
        ((linkAccept s.dev p f).fst) (bits f.toNat 14 10) = true ∧ (bits f.toNat 14 10) ≠ 1016 ∧ bits f.toNat 24 16 = (bellOf
        ((linkAccept s.dev p f).fst) (bits f.toNat 14 10)).done % 65536) ∨ ¬p ∈ (bellTree ((linkAccept s.dev p f).fst) (bits
        f.toNat 14 10)).snd)) ∧
    (∃ (s : State) (p : Nat) (f : BitVec 256), p < 12 ∧ flitType f = 3 ∧ (linkAccept s.dev p f).snd = true ∧ bellLive ((linkAccept
        s.dev p f).fst) (bits f.toNat 14 10) = true ∧ (bits f.toNat 14 10) ≠ 1016 ∧ bits f.toNat 24 16 = (bellOf ((linkAccept
        s.dev p f).fst) (bits f.toNat 14 10)).done % 65536 ∧ (bellTree ((linkAccept s.dev p f).fst) (bits f.toNat 14 10)).fst =
        some p) ∧
    (∃ (s : State) (p : Nat) (f : BitVec 256), p < 12 ∧ flitType f = 3 ∧ (¬((linkAccept s.dev p f).snd = true ∧ bellLive
        ((linkAccept s.dev p f).fst) (bits f.toNat 14 10) = true ∧ (bits f.toNat 14 10) ≠ 1016 ∧ bits f.toNat 24 16 = (bellOf
        ((linkAccept s.dev p f).fst) (bits f.toNat 14 10)).done % 65536) ∨ (bellTree ((linkAccept s.dev p f).fst) (bits f.toNat
        14 10)).fst ≠ some p)) :=
  ⟨⟨0, (ctlF 13 435414120793088), by decide +kernel⟩,
    ⟨sJBellIn, 11, (bellF 2 4 7 1 5), by decide +kernel⟩,
    ⟨sBellNotDone, 4, (bellF 2 1020 0 3 3), by decide +kernel⟩,
    ⟨sJBellRel, 11, (bellF 3 4 7 1 5), by decide +kernel⟩,
    ⟨sBellNotDone, 2, 259, by decide +kernel⟩⟩

def sJTtNone : State := st rdy
def sJTtGate : State := on (regS 2 (leBytes 8 65 ++ leBytes 4 4)) (fun d =>
    { d with cxl := [(0, { waitActive := false }), (1, {})] })
def sTtJob : State := on (ttReq 64 []) (fun d =>
    { d with host := { syll := true, ctxs := [(3, { job := some { jobid := 1, vec := 0, seq := 0, cores := 1 } })] } })
def sJTtBad : State := on (ttReq 32 [1, 2, 3, 4]) (fun d => { d with badWords := [8] })
def sJTtChecks : State := ttState
/-- States and operands that meet the hypotheses of `Obligations.TimetableLoad`. -/
theorem test_timetableLoad :
    (∃ (s : State), (regAsked s.dev 2 = false ∨ s.dev.ttl.loading ≠ none ∨ cxlSettled s.dev = false)) ∧
    (∃ (s : State), regAsked s.dev 2 = true ∧ s.dev.ttl.loading = none ∧ cxlSettled s.dev = true ∧ (regGate s.dev 12 ((mbField
        s.dev.reg.mb 0 8) % 64 == 0 && decide ((mbField s.dev.reg.mb 0 8) + (mbField s.dev.reg.mb 8 4) ≤ hbmCap s.dev)) true
        true) ≠ 0) ∧
    (∃ (s : State), regAsked s.dev 2 = true ∧ s.dev.ttl.loading = none ∧ cxlSettled s.dev = true ∧ (regGate s.dev 12 ((mbField
        s.dev.reg.mb 0 8) % 64 == 0 && decide ((mbField s.dev.reg.mb 0 8) + (mbField s.dev.reg.mb 8 4) ≤ hbmCap s.dev)) true
        true) = 0 ∧ jobActive s.dev = true) ∧
    (∃ (s : State) (g : Nat), regAsked s.dev 2 = true ∧ s.dev.ttl.loading = none ∧ cxlSettled s.dev = true ∧ (regGate s.dev 12
        ((mbField s.dev.reg.mb 0 8) % 64 == 0 && decide ((mbField s.dev.reg.mb 0 8) + (mbField s.dev.reg.mb 8 4) ≤ hbmCap
        s.dev)) true true) = 0 ∧ jobActive s.dev = false ∧ rdBad s.dev (mbField s.dev.reg.mb 0 8) (mbField s.dev.reg.mb 8 4) =
        some g) ∧
    (∃ (img : List Byte), (img.length < 32 ∨ leAt img 0 4 ≠ 827610188 ∨ leAt img 4 2 ≠ 1)) ∧
    (∃ (d : Dev) (img : List Byte), 32 ≤ img.length ∧ leAt img 0 4 = 827610188 ∧ leAt img 4 2 = 1 ∧ (leAt img 8 4 < 32 ∨ ttSigned d
        img (leAt img 8 4) = false)) :=
  ⟨⟨sJTtNone, by decide +kernel⟩,
    ⟨sJTtGate, by decide +kernel⟩,
    ⟨sTtJob, by decide +kernel⟩,
    ⟨sJTtBad, 64, by decide +kernel⟩,
    ⟨([]), by decide +kernel⟩,
    ⟨sJTtChecks.dev, (([76, 84, 84, 49, 1, 0, 2] ++ List.replicate 25 0)), by decide +kernel⟩⟩

def sJTtNow : State := st { rdy with ttl := { loading := some ttBell } }
/-- States and operands that meet the hypotheses of `Obligations.TimetableTakesEffect`. -/
theorem test_timetableTakesEffect :
    (∃ (s : State), s.dev.ttl.loading = none) ∧
    (∃ (s : State) (t : Timetable), s.dev.ttl.loading = some t) ∧
    (∃ (d : Dev) (p : Nat), (cxlOf d p).filling = [] ∧ (∀ (l : CacheLine), l ∈ (cxlOf d p).lines → l.dirty = false)) ∧
    (∃ (b : Nat), b < 1016) :=
  ⟨⟨sJTtNone, by decide +kernel⟩,
    ⟨sJTtNow, ((sJTtNow.dev.ttl.loading).get (by decide +kernel)), by decide +kernel⟩,
    ⟨sJTtNone.dev, 0, by decide +kernel⟩,
    ⟨252, by decide +kernel⟩⟩

def sHbmRead : State := hbmS .ready
def sHbmUe : State := on (hbmS .ready) (fun d => { d with badWords := [32] })
def sJHbmBad : State := on (hbmS .ready) (fun d => { d with badWords := [32] })
def sUeNone : State := hbmS .ready
/-- States and operands that meet the hypotheses of `Obligations.HbmAccess`. -/
theorem test_hbmAccess :
    (∃ (s : State) (core : Option Nat) (addr : Nat) (len : Nat), 0 < len ∧ addr + len ≤ hbmCap s.dev ∧ (hbmOf s.dev (hbmCtlOf s.dev
        addr)).state = HbmState.ready ∧ (s.dev.det.device = true → core = none) ∧ rdBad s.dev addr len = none) ∧
    (∃ (s : State) (core : Option Nat) (addr : Nat) (len : Nat) (g : Nat), 0 < len ∧ addr + len ≤ hbmCap s.dev ∧ (hbmOf s.dev
        (hbmCtlOf s.dev addr)).state = HbmState.ready ∧ (s.dev.det.device = true → core = none) ∧ rdBad s.dev addr len = some g) ∧
    (∃ (s : State) (addr : Nat) (len : Nat) (bs : List Byte), 0 < len ∧ addr + len ≤ hbmCap s.dev ∧ (hbmOf s.dev (hbmCtlOf s.dev
        addr)).state = HbmState.ready ∧ s.dev.det.device = false ∧ bs.length = len ∧ badMerge s.dev addr len = none) ∧
    (∃ (s : State) (addr : Nat) (len : Nat) (bs : List Byte) (stop : Nat) (g : Nat), 0 < len ∧ addr + len ≤ hbmCap s.dev ∧ (hbmOf
        s.dev (hbmCtlOf s.dev addr)).state = HbmState.ready ∧ s.dev.det.device = false ∧ bs.length = len ∧ badMerge s.dev addr
        len = some (stop, g)) ∧
    (∃ (s : State) (core : Option Nat) (addr : Nat) (len : Nat) (wr : Option (List Byte)), 0 < len ∧ addr + len ≤ hbmCap s.dev ∧
        ((hbmOf s.dev (hbmCtlOf s.dev addr)).state ≠ HbmState.ready ∨ s.dev.det.device = true ∧ (wr ≠ none ∨ core ≠ none))) ∧
    (∃ (d : Dev) (v : Nat), v < gridCores d) :=
  ⟨⟨sHbmRead, none, 0, 3, by decide +kernel⟩,
    ⟨sHbmUe, (some 1), 0, 3200, 256, by decide +kernel⟩,
    ⟨sHbmRead, 0, 1, ([0]), by decide +kernel⟩,
    ⟨sJHbmBad, 257, 4, ([1, 2, 3, 4]), 257, 256, by decide +kernel⟩,
    ⟨sHbmRead, (some 0), 8192, 1, (some [0, 0]), by decide +kernel⟩,
    ⟨sUeNone.dev, 104, by decide +kernel⟩⟩

def sScrub : State := hbmS .ready
def sTrainOk : State := on (hbmS .training) (fun d =>
    { d with pace := { pacers := [(224, { state := .stable, released := true })] } })
/-- States and operands that meet the hypotheses of `Obligations.HbmUpkeepAndTraining`. -/
theorem test_hbmUpkeepAndTraining :
    (∃ (s : State) (c : Nat) (a : Nat), c < 12 ∧ ((hbmOf s.dev c).scrubEn = false ∨ pfault s.dev (589844 + 256 * c) = true ∨ (hbmOf
        s.dev c).state ≠ HbmState.ready ∨ hbmCap s.dev ≤ a ∨ hbmCtlOf s.dev a ≠ c)) ∧
    (∃ (s : State) (c : Nat) (a : Nat), c < 12 ∧ (hbmOf s.dev c).scrubEn = true ∧ pfault s.dev (589844 + 256 * c) = false ∧ (hbmOf
        s.dev c).state = HbmState.ready ∧ a < hbmCap s.dev ∧ hbmCtlOf s.dev a = c) ∧
    (∃ (s : State) (c : Nat), c < 12 ∧ ((hbmOf s.dev c).state ≠ HbmState.training ∨ (pacerOf s.dev (224 + c)).state =
        PacerState.inReset ∨ (pacerOf s.dev (224 + c)).state = PacerState.trimming)) ∧
    (∃ (s : State) (c : Nat), c < 12 ∧ (hbmOf s.dev c).state = HbmState.training ∧ ((pacerOf s.dev (224 + c)).state =
        PacerState.stable ∨ (pacerOf s.dev (224 + c)).state = PacerState.failed)) :=
  ⟨⟨sScrub, 1, 0, by decide +kernel⟩,
    ⟨sScrub, 0, 2032787858, by decide +kernel⟩,
    ⟨sScrub, 0, by decide +kernel⟩,
    ⟨sTrainOk, 0, by decide +kernel⟩⟩

def sCxlEnum : State := cxlS 1 { link := .training }
def sCxlDown : State := cxlS 0 upPort
def sCxlActive : State := cxlS 1 { link := .up32, lanes := 4, waitActive := true }
/-- States and operands that meet the hypotheses of `Obligations.CxlPorts`. -/
theorem test_cxlPorts_1 :
    (∃ (s : State) (p : Nat), p < 2 ∧ s.dev.host.syll = true ∧ s.dev.reg.fw = true ∧ (cxlOf s.dev p).link = CxlLink.training ∧
        (cxlOf s.dev p).waitActive = false ∧ (cxlOf s.dev p).active = false) ∧
    (∃ (s : State) (p : Nat), p < 2 ∧ (¬(s.dev.host.syll = true ∧ s.dev.reg.fw = true ∧ (cxlOf s.dev p).link = CxlLink.training ∧
        (cxlOf s.dev p).waitActive = false ∧ (cxlOf s.dev p).active = false))) ∧
    (∃ (s : State) (p : Nat), p < 2 ∧ (cxlOf s.dev p).waitActive = true) ∧
    (∃ (s : State) (p : Nat), p < 2 ∧ (cxlOf s.dev p).waitActive = false) ∧
    (∃ (s : State) (p : Nat), p < 2 ∧ ((cxlOf s.dev p).link = CxlLink.up64 ∨ (cxlOf s.dev p).link = CxlLink.up32) ∧ (∀ (e : Engine),
        e ∈ engines s.dev → (strmOf s.dev e).xfers = [])) ∧
    (∃ (s : State) (p : Nat), p < 2 ∧ (cxlOf s.dev p).link ≠ CxlLink.up64 ∧ (cxlOf s.dev p).link ≠ CxlLink.up32) :=
  ⟨⟨sCxlEnum, 1, by decide +kernel⟩,
    ⟨sCxlDown, 0, by decide +kernel⟩,
    ⟨sCxlActive, 1, by decide +kernel⟩,
    ⟨sCxlDown, 0, by decide +kernel⟩,
    ⟨sCxlDown, 0, by decide +kernel⟩,
    ⟨sCxlDown, 1, by decide +kernel⟩⟩

def sJPoisonX : State := on (cxlS 0 upPort) (fun d =>
    { d with cores := [(0, { run0 with strm := { lists := [{ id := 5, base := 0x8000, count := 1, next := 1, nread := 1 }], xfers := [{ xfer2 with entryBits := ent 0 0 4 1 (here (boardBase 0 + 64)) (here 0x2000) }] } })] })
def sJPoisonReq : State := cxlS 0 upPort
/-- States and operands that meet the hypotheses of `Obligations.CxlPorts`. -/
theorem test_cxlPorts_2 :
    (∃ (s : State) (p : Nat), p < 2 ∧ (cxlOf s.dev p).active = true ∧ s.dev.reg.fw = true) ∧
    (∃ (s : State) (p : Nat), p < 2 ∧ ((cxlOf s.dev p).active = false ∨ s.dev.reg.fw = false)) ∧
    (∃ (s : State) (p : Nat) (a : Nat) (e : Engine) (slot : Nat) (x : Xfer) (v : Nat), p < 2 ∧ addrKind s.dev a = AddrKind.board p ∧
        xferOf s.dev e slot = some x ∧ x.status = 0 ∧ (∃ r, r ∈ txReads (xferTx s.dev e x) ∧ isSelf s.dev (r.fst / 2 ^ 48) =
        true ∧ 0 < r.snd ∧ r.fst % 2 ^ 48 < (a / 64 * 64) + 64 ∧ (a / 64 * 64) < r.fst % 2 ^ 48 + r.snd) ∧ e = Engine.core v) ∧
    (∃ (s : State) (p : Nat) (a : Nat) (e : Engine) (slot : Nat) (x : Xfer), p < 2 ∧ addrKind s.dev a = AddrKind.board p ∧ xferOf
        s.dev e slot = some x ∧ (x.status ≠ 0 ∨ ¬∃ r, r ∈ txReads (xferTx s.dev e x) ∧ isSelf s.dev (r.fst / 2 ^ 48) = true ∧ 0
        < r.snd ∧ r.fst % 2 ^ 48 < (a / 64 * 64) + 64 ∧ (a / 64 * 64) < r.fst % 2 ^ 48 + r.snd)) ∧
    (∃ (s : State) (p : Nat) (a : Nat) (hdr : BitVec 256), p < 2 ∧ addrKind s.dev a = AddrKind.board p ∧ (bulkOf hdr).op = 2 ∧
        requestStatus s.dev (bulkOf hdr) (WOp.put []) = 0 ∧ 0 < bits (bulkOf hdr).aux 0 12 ∧ (bulkOf hdr).addr < (a / 64 * 64) +
        64 ∧ (a / 64 * 64) < (bulkOf hdr).addr + bits (bulkOf hdr).aux 0 12) ∧
    (∃ (s : State) (p : Nat) (a : Nat), p < 2 ∧ (∀ (q : Nat), addrKind s.dev a ≠ AddrKind.board q)) :=
  ⟨⟨sCxlDown, 0, by decide +kernel⟩,
    ⟨sCxlDown, 1, by decide +kernel⟩,
    ⟨sJPoisonX, 0, 17592186044480, (Engine.core 0), 2, ((xferOf sJPoisonX.dev ((Engine.core 0)) 2).get (by decide +kernel)), 0, by
      decide +kernel⟩,
    ⟨sJPoisonX, 0, 17592186044416, (Engine.core 0), 2, ((xferOf sJPoisonX.dev ((Engine.core 0)) 2).get (by decide +kernel)), by
      decide +kernel⟩,
    ⟨sJPoisonReq, 0, 17592186044480, (bulkF 4 0xFFFF 2 0 (boardBase 0 + 64) 4 [(68, 1)]), by decide +kernel⟩,
    ⟨sJPoisonReq, 0, 0x100, by decide, fun q => by rw [show addrKind sJPoisonReq.dev 0x100 = .hbm by decide +kernel]; exact nofun⟩⟩

def sJTierDet : State := on (cxlS 0 upPort) (fun d => { d with det := { device := true } })
def sJTierFill : State := cxlS 0
    { upPort with filling := [(0, [{ core := none, addr := boardBase 0, len := 4, wr := none, plc := 0 }])] }
def sTierWaits : State := cxlS 0 { upPort with filling := [(0, [])] }
def sTierMiss : State := cxlS 0 upPort
def sJTierUe : State := cxlS 0 { upPort with lines := [{ set := 0, way := 1, page := 0, dirty := true }] }
def sJTierUeClean : State := cxlS 0 { upPort with lines := [{ set := 0, way := 1, page := 0 }] }
/-- States and operands that meet the hypotheses of `Obligations.TierAccess`. -/
theorem test_tierAccess :
    (∃ (s : State) (p : Nat) (core : Option Nat) (addr : Nat) (len : Nat) (plc : BitVec 3) (wr : Option (List Byte)), boardPort addr
        = some p ∧ tierLarge s.dev = true ∧ 0 < len ∧ addr - boardBase p + len ≤ boardCap s.dev p ∧ (addr - boardBase p) % 65536
        + len ≤ 65536 ∧ plc.toNat ≤ 3 ∧ (∀ (bs : List Byte), wr = some bs → bs.length = len) ∧ s.dev.det.device = true ∧
        (wr.isSome = true ∨ core.isSome = true)) ∧
    (∃ (s : State) (p : Nat) (core : Option Nat) (addr : Nat) (len : Nat) (plc : BitVec 3) (wr : Option (List Byte)) (ws : List
        TierWait), boardPort addr = some p ∧ tierLarge s.dev = true ∧ 0 < len ∧ addr - boardBase p + len ≤ boardCap s.dev p ∧
        (addr - boardBase p) % 65536 + len ≤ 65536 ∧ plc.toNat ≤ 3 ∧ (∀ (bs : List Byte), wr = some bs → bs.length = len) ∧
        (s.dev.det.device = true → wr = none ∧ core = none) ∧ mapGet? (cxlOf s.dev p).filling ((addr - boardBase p) / 65536) =
        some ws) ∧
    (∃ (s : State) (p : Nat) (core : Option Nat) (addr : Nat) (len : Nat) (plc : BitVec 3) (wr : Option (List Byte)), boardPort addr
        = some p ∧ tierLarge s.dev = true ∧ 0 < len ∧ addr - boardBase p + len ≤ boardCap s.dev p ∧ (addr - boardBase p) % 65536
        + len ≤ 65536 ∧ plc.toNat ≤ 3 ∧ (∀ (bs : List Byte), wr = some bs → bs.length = len) ∧ (s.dev.det.device = true → wr =
        none ∧ core = none) ∧ mapGet? (cxlOf s.dev p).filling ((addr - boardBase p) / 65536) = none ∧ lineOf s.dev p ((addr -
        boardBase p) / 65536) = none ∧ (plc = 0 ∨ plc = 2) ∧ tierSets s.dev p ≠ 0 ∧ (wr.isSome = true → len ≠ 65536)) ∧
    (∃ (s : State) (p : Nat) (core : Option Nat) (addr : Nat) (len : Nat) (plc : BitVec 3) (wr : Option (List Byte)), boardPort addr
        = some p ∧ tierLarge s.dev = true ∧ 0 < len ∧ addr - boardBase p + len ≤ boardCap s.dev p ∧ (addr - boardBase p) % 65536
        + len ≤ 65536 ∧ plc.toNat ≤ 3 ∧ (∀ (bs : List Byte), wr = some bs → bs.length = len) ∧ (s.dev.det.device = true → wr =
        none ∧ core = none) ∧ mapGet? (cxlOf s.dev p).filling ((addr - boardBase p) / 65536) = none ∧ lineOf s.dev p ((addr -
        boardBase p) / 65536) = none ∧ (plc = 1 ∨ plc = 3 ∨ tierSets s.dev p = 0 ∨ wr.isSome = true ∧ len = 65536)) ∧
    (∃ (s : State) (p : Nat) (core : Option Nat) (addr : Nat) (len : Nat) (plc : BitVec 3) (wr : Option (List Byte)) (l :
        CacheLine), boardPort addr = some p ∧ tierLarge s.dev = true ∧ 0 < len ∧ addr - boardBase p + len ≤ boardCap s.dev p ∧
        (addr - boardBase p) % 65536 + len ≤ 65536 ∧ plc.toNat ≤ 3 ∧ (∀ (bs : List Byte), wr = some bs → bs.length = len) ∧
        (s.dev.det.device = true → wr = none ∧ core = none) ∧ mapGet? (cxlOf s.dev p).filling ((addr - boardBase p) / 65536) =
        none ∧ lineOf s.dev p ((addr - boardBase p) / 65536) = some l ∧ s.dev.badWords = [] ∧ wr = none ∧ (List.filter (fun m =>
        m.page == ((addr - boardBase p) / 65536)) (cxlOf s.dev p).lines = [l]) ∧ tierCbase (tierCfg s.dev) p % 8 = 0 ∧ l.dirty =
        true) ∧
    (∃ (s : State) (p : Nat) (core : Option Nat) (addr : Nat) (len : Nat) (plc : BitVec 3) (wr : Option (List Byte)) (l :
        CacheLine), boardPort addr = some p ∧ tierLarge s.dev = true ∧ 0 < len ∧ addr - boardBase p + len ≤ boardCap s.dev p ∧
        (addr - boardBase p) % 65536 + len ≤ 65536 ∧ plc.toNat ≤ 3 ∧ (∀ (bs : List Byte), wr = some bs → bs.length = len) ∧
        (s.dev.det.device = true → wr = none ∧ core = none) ∧ mapGet? (cxlOf s.dev p).filling ((addr - boardBase p) / 65536) =
        none ∧ lineOf s.dev p ((addr - boardBase p) / 65536) = some l ∧ s.dev.badWords = [] ∧ wr = none ∧ (List.filter (fun m =>
        m.page == ((addr - boardBase p) / 65536)) (cxlOf s.dev p).lines = [l]) ∧ tierCbase (tierCfg s.dev) p % 8 = 0 ∧ l.dirty =
        false) :=
  ⟨⟨sJTierDet, 0, (some 4), 17592186044480, 4, 0, (some [1, 2, 3, 4]), by decide +kernel⟩,
    ⟨sJTierFill, 0, none, 17592186044480, 4, 1, (some [1, 2, 3, 4]), ((mapGet? (cxlOf sJTierFill.dev 0).filling ((17592186044480 -
      boardBase 0) / 65536)).get (by decide +kernel)), by decide +kernel⟩,
    ⟨sTierWaits, 0, (some 0), 17592186109952, 1, 0, none, by decide +kernel⟩,
    ⟨sTierMiss, 0, (some 0), 17592186109952, 11, 3, none, by decide +kernel⟩,
    ⟨sJTierUe, 0, (some 0), 17592186044480, 3, 2, none, ((lineOf sJTierUe.dev 0 ((17592186044480 - boardBase 0) / 65536)).get (by
      decide +kernel)), by decide +kernel⟩,
    ⟨sJTierUeClean, 0, none, 17592186044480, 4, 2, none, ((lineOf sJTierUeClean.dev 0 ((17592186044480 - boardBase 0) / 65536)).get
      (by decide +kernel)), by decide +kernel⟩⟩

def sJFlushSmall : State := st rdy
def sPageFill : State := cxlS 1 { upPort with filling := [(3, [])] }
def sJFill : State := cxlS 1
    { upPort with filling := [(3, [{ core := none, addr := boardBase 1 + 0x30000, len := 4, wr := some [1, 2, 3, 4], plc := 0 }, { core := some 0, addr := boardBase 1 + 0x30004, len := 4, wr := none, plc := 2 }])] }
def sWriteBackClean : State := cxlS 1 { upPort with lines := [{ set := 0, way := 1, page := 3 }] }
def sFlush : State := cxlS 1 { upPort with lines := [{ set := 0, way := 1, page := 3, dirty := true }] }
/-- States and operands that meet the hypotheses of `Obligations.TierCacheUpkeep`. -/
theorem test_tierCacheUpkeep_1 :
    (∃ (s : State) (p : Nat) (page : Nat), p < 2 ∧ mapGet? (cxlOf s.dev p).filling page = none) ∧
    (∃ (s : State) (p : Nat) (page : Nat) (ws : List TierWait), p < 2 ∧ mapGet? (cxlOf s.dev p).filling page = some ws ∧ ws = []) ∧
    (∃ (s : State) (p : Nat) (page : Nat) (ws : List TierWait) (w : TierWait) (r : List TierWait), p < 2 ∧ mapGet? (cxlOf s.dev
        p).filling page = some ws ∧ ws = w :: r) ∧
    (∃ (s : State) (p : Nat) (page : Nat), p < 2 ∧ lineOf s.dev p page = none) ∧
    (∃ (s : State) (p : Nat) (page : Nat) (l : CacheLine), p < 2 ∧ lineOf s.dev p page = some l ∧ l.dirty = false) ∧
    (∃ (s : State) (p : Nat) (page : Nat) (l : CacheLine), p < 2 ∧ lineOf s.dev p page = some l ∧ l.dirty = true ∧ s.dev.badWords =
        [] ∧ s.dev.det.device = false) :=
  ⟨⟨sJFlushSmall, 0, 0, by decide +kernel⟩,
    ⟨sPageFill, 1, 3, ([]), by decide +kernel⟩,
    ⟨sJFill, 1, 3, ((mapGet? (cxlOf sJFill.dev 1).filling 3).get (by decide +kernel)),
      ({ core := none, addr := 19791209496576, len := 4, wr := some [1, 2, 3, 4], plc := 0 }),
      ([{ core := some 0, addr := 19791209496580, len := 4, wr := none, plc := 2 }]), by decide +kernel⟩,
    ⟨sJFlushSmall, 0, 0, by decide +kernel⟩,
    ⟨sWriteBackClean, 1, 3, ((lineOf sWriteBackClean.dev 1 3).get (by decide +kernel)), by decide +kernel⟩,
    ⟨sFlush, 1, 3, ((lineOf sFlush.dev 1 3).get (by decide +kernel)), by decide +kernel⟩⟩

def sJLogswap : State := on (cxlS 1 { upPort with hasLog := true }) (fun d =>
    { d with mem := [(0x2000000, 9), (0x2400000, 8)] })
def sFlushDone : State := cxlS 1 { upPort with flushing := true }
/-- States and operands that meet the hypotheses of `Obligations.TierCacheUpkeep`. -/
theorem test_tierCacheUpkeep_2 :
    (∃ (s : State) (p : Nat), p < 2 ∧ served s ∧ tierLarge s.dev = false) ∧
    (∃ (s : State) (p : Nat), p < 2 ∧ served s ∧ (tierLarge s.dev = false ∨ (cxlOf s.dev p).hasLog = false ∨ (cxlOf s.dev p).logBusy
        = true)) ∧
    (∃ (s : State) (p : Nat), p < 2 ∧ served s ∧ tierLarge s.dev = true ∧ (cxlOf s.dev p).hasLog = true ∧ (cxlOf s.dev p).logBusy =
        false) ∧
    (∃ (s : State) (p : Nat), p < 2 ∧ (cxlOf s.dev p).flushing = true ∧ (cxlOf s.dev p).flushPages = []) ∧
    (∃ (s : State) (p : Nat), p < 2 ∧ ((cxlOf s.dev p).flushing = false ∨ (cxlOf s.dev p).flushPages ≠ [])) :=
  ⟨⟨sJFlushSmall, 0, by unfold served awake; decide +kernel⟩,
    ⟨sJFlushSmall, 0, by unfold served awake; decide +kernel⟩,
    ⟨sJLogswap, 1, by unfold served awake; decide +kernel⟩,
    ⟨sFlushDone, 1, by decide +kernel⟩,
    ⟨sJFlushSmall, 0, by decide +kernel⟩⟩

def sFlitBulkShort : State := fabS upQ id
def sJPreempt : State := fabS { upQ with rxFlit := some (some 5, [5]) } id
def sFlitBulkBad : State := fabS upQ id
def sFlitBulk : State := fabS upQ id
def sJSlots : State := st rdy
/-- States and operands that meet the hypotheses of `Obligations.FlitsAcceptedInSequence`. -/
theorem test_flitsAcceptedInSequence_1 :
    (∃ (l : List Slot), l.length = 20) ∧
    (∃ (d : Dev) (p : Nat) (f : BitVec 256), flitRefused d p f = true) ∧
    (∃ (d : Dev) (p : Nat) (f : BitVec 256), flitRefused d p f = false ∧ (flitOk f = true ∧ (flitType f = 2 ∨ flitType f = 3) ∧
        (fabPort d p).rxFlit ≠ none)) ∧
    (∃ (d : Dev) (p : Nat) (f : BitVec 256), flitRefused d p f = false ∧ (¬(flitOk f = true ∧ (flitType f = 2 ∨ flitType f = 3) ∧
        (fabPort d p).rxFlit ≠ none)) ∧ (¬(flitOk f = true ∧ 1 ≤ flitType f ∧ flitType f ≤ 5 ∧ flitSeq f = (fabPort d
        p).rxSeq.toNat ∧ ((flitType f = 2 ∨ flitType f = 3) ∨ (fabPort d p).rxMsg = none)))) ∧
    (∃ (d : Dev) (p : Nat) (f : BitVec 256), flitRefused d p f = false ∧ (¬(flitOk f = true ∧ (flitType f = 2 ∨ flitType f = 3) ∧
        (fabPort d p).rxFlit ≠ none)) ∧ (flitOk f = true ∧ 1 ≤ flitType f ∧ flitType f ≤ 5 ∧ flitSeq f = (fabPort d
        p).rxSeq.toNat ∧ ((flitType f = 2 ∨ flitType f = 3) ∨ (fabPort d p).rxMsg = none))) ∧
    (∃ (d : Dev) (p : Nat), (fabPort d p).unacked + 1 < 32) :=
  ⟨⟨(List.replicate 20 { begins := true, body := ctlF 2 3 }), by decide +kernel⟩,
    ⟨sFlitBulkShort.dev, 1, 949, by decide +kernel⟩,
    ⟨sJPreempt.dev, 11, (bellF 3 4 0 1 5), by decide +kernel⟩,
    ⟨sFlitBulkBad.dev, 11, 16, by decide +kernel⟩,
    ⟨sFlitBulk.dev, 11, (ctlF 10 458755), by decide +kernel⟩,
    ⟨sJSlots.dev, 11, by decide +kernel⟩⟩

def sFlitAckNow : State := fabS { upQ with unacked := 31 } id
def sJDataIn : State := fabS { upQ with rxNext := some 5, rxMsg := some { hdr := bulkF 4 2 1 1 0x1000 4 [(68, 1)] } } id
def sJRefused : State := fabS { upQ with rxSeq := 6 } id
/-- States and operands that meet the hypotheses of `Obligations.FlitsAcceptedInSequence`. -/
theorem test_flitsAcceptedInSequence_2 :
    (∃ (d : Dev) (p : Nat), 32 ≤ (fabPort d p).unacked + 1) ∧
    (∃ (d : Dev) (p : Nat) (num : Option (BitVec 10)) (f : BitVec 2048) (m : RxMessage), (fabPort d p).rxMsg = some m ∧ num = some
        (fabPort d p).rxSeq ∧ dataOk f = true) ∧
    (∃ (d : Dev) (p : Nat) (num : Option (BitVec 10)) (f : BitVec 2048), ((fabPort d p).rxMsg = none ∨ num ≠ some (fabPort d
        p).rxSeq ∨ dataOk f = false)) ∧
    (∃ (p : Nat) (k : Nat) (f : BitVec 256) (i : Instr), p < 12 ∧ (k, i) ∈ ctlRows p f ∧ flitOk f = true ∧ (¬ctlIs f k)) ∧
    (∃ (s : State) (p : Nat) (k : Nat) (f : BitVec 256) (i : Instr), p < 12 ∧ (k, i) ∈ ctlRows p f ∧ (linkAccept s.dev p f).snd =
        false ∧ (flitOk f = false ∨ ctlIs f k)) :=
  ⟨⟨sFlitAckNow.dev, 11, by decide +kernel⟩,
    ⟨sJDataIn.dev, 11, (some 5),
      9257803961535897972854088254527556027620355562592231503680232695450705246125179284335473005859972746688031183087678218157830290851824715724760358291338443792966043193094142480798938243347363861665261086425742294958305549125543858093246349431084253265328439240245682731566882421003626066707246551862179249394609872189531971126677689688763313868590811944072448132629262368876245064566854364334124439774630036857450861565110815486467649364527455185542281196160976929564300473930679506560817541017115425287069311257191423158416701897013892960477951611960548419728251472455207705895964406294029920464130178458017715126785,
      (((fabPort sJDataIn.dev 11).rxMsg).get (by decide +kernel)), by decide +kernel⟩,
    ⟨sJSlots.dev, 1, (some 1),
      30386856508776777640715436515200737517187850015759348325024956742512174683188198538891237345293109843773683878177607775564723649352755041586193008268298923175014924101330268147944851958007725036828183225178223406667274772328722700539737578585970469914111602050957780035917564196461406689549466333219924346564435453430720919106728908222279772229294221470838964371339409986678414189590672565399349135250400690314062546539690435672534187980644359592132548077660349610393306950605457654936831158757216411488102380634313288943939103911512785073928055712913412920655678351006768188951569339041195473807979047351506109137409,
      by decide +kernel⟩,
    ⟨2, 11, (bellF 3 4 0 1 5), (Instr.offer 2 0x77a437e400000000000000000000000000000000000000000005010000010053),
      by unfold ctlIs; decide +kernel⟩,
    ⟨sJRefused, 11, 2, (ctlF 2 3), (.heartbeat 11 (ctlF 2 3)), by unfold ctlIs; decide +kernel⟩⟩

def sReserved : State := fabS upQ id
def sLinkNak8 : State := fabS
    { upQ with txSeq := 3, replays := 8, replay := [{ seq := 1, hdr := ctlF 2 3 }, { seq := 2, hdr := ctlF 2 4 }] } id
def sLinkAck : State := fabS { upQ with txSeq := 3, replay := [{ seq := 1, hdr := ctlF 2 3 }, { seq := 2, hdr := ctlF 2 4 }] }
    id
def sAckDue : State := fabS { upQ with unacked := 1 } id
/-- States and operands that meet the hypotheses of `Obligations.LinkRows`. -/
theorem test_linkRows_1 :
    (∃ (s : State) (p : Nat) (f : BitVec 256), p < 12 ∧ (portOpen (fabPort s.dev p) = false ∨ flitType f ≠ 0)) ∧
    (∃ (s : State) (p : Nat) (f : BitVec 256), p < 12 ∧ portOpen (fabPort s.dev p) = true ∧ flitType f = 0 ∧ flitOk f = false) ∧
    (∃ (s : State) (p : Nat) (f : BitVec 256), p < 12 ∧ portOpen (fabPort s.dev p) = true ∧ flitType f = 0 ∧ flitOk f = true ∧ (bit
        f.toNat 14 = false ∨ (dropAcked (ackedCount (fabPort s.dev p) (BitVec.ofNat 10 (bits f.toNat 4 10))) (fabPort s.dev
        p).replay) = [])) ∧
    (∃ (s : State) (p : Nat) (f : BitVec 256), p < 12 ∧ portOpen (fabPort s.dev p) = true ∧ flitType f = 0 ∧ flitOk f = true ∧ bit
        f.toNat 14 = true ∧ (dropAcked (ackedCount (fabPort s.dev p) (BitVec.ofNat 10 (bits f.toNat 4 10))) (fabPort s.dev
        p).replay) ≠ [] ∧ ((if 0 < (ackedCount (fabPort s.dev p) (BitVec.ofNat 10 (bits f.toNat 4 10))) then 0 else (fabPort
        s.dev p).replays) = 8)) ∧
    (∃ (s : State) (p : Nat) (f : BitVec 256), p < 12 ∧ portOpen (fabPort s.dev p) = true ∧ flitType f = 0 ∧ flitOk f = true ∧ bit
        f.toNat 14 = true ∧ (dropAcked (ackedCount (fabPort s.dev p) (BitVec.ofNat 10 (bits f.toNat 4 10))) (fabPort s.dev
        p).replay) ≠ [] ∧ ((if 0 < (ackedCount (fabPort s.dev p) (BitVec.ofNat 10 (bits f.toNat 4 10))) then 0 else (fabPort
        s.dev p).replays) ≠ 8)) ∧
    (∃ (s : State) (p : Nat), p < 12 ∧ portOpen (fabPort s.dev p) = true ∧ (fabPort s.dev p).unacked ≠ 0) :=
  ⟨⟨sReserved, 0, (bellF 3 5 0 1 4), by decide +kernel⟩,
    ⟨sReserved, 11, 896, by decide +kernel⟩,
    ⟨sReserved, 11, (linkF 0 0), by decide +kernel⟩,
    ⟨sLinkNak8, 11, (linkF 7 1), by decide +kernel⟩,
    ⟨sLinkAck, 11, (linkF 3 1), by decide +kernel⟩,
    ⟨sAckDue, 11, by decide +kernel⟩⟩

def sRetrainOk : State := fabS { upQ with state := .training, retraining := true } id
/-- States and operands that meet the hypotheses of `Obligations.LinkRows`. -/
theorem test_linkRows_2 :
    (∃ (s : State) (p : Nat), p < 12 ∧ (portOpen (fabPort s.dev p) = false ∨ (fabPort s.dev p).unacked = 0)) ∧
    (∃ (s : State) (p : Nat), p < 12 ∧ (fabPort s.dev p).retraining = false) ∧
    (∃ (s : State) (p : Nat), p < 12 ∧ (fabPort s.dev p).retraining = true) ∧
    (∃ (s : State) (p : Nat) (f : BitVec 256), p < 12 ∧ portOpen (fabPort s.dev p) = true ∧ s.dev.det.device = false ∧ 6 ≤ flitType
        f) ∧
    (∃ (s : State) (p : Nat) (f : BitVec 256), p < 12 ∧ (portOpen (fabPort s.dev p) = false ∨ s.dev.det.device = true ∨ flitType f <
        6)) ∧
    (∃ (s : State) (p : Nat) (full : Bool) (call : Bool) (lanes : BitVec 4) (far : BitVec 2), p < 12 ∧ (¬((fabPort s.dev p).en =
        true ∧ pfault s.dev (724992 + 256 * p) = false ∧ (fabPort s.dev p).retraining = false ∧ (fabPort s.dev p).state ≠
        PortState.up ∧ ((fabPort s.dev p).heldDown = false ∨ call = true ∧ rootBit s.dev = false) ∧ 6 ≤ s.dev.rp.step) ∨ full ≠
        s.dev.host.syll ∨ full = false ∧ ((fabPort s.dev p).state = PortState.boot ∨ far ≠ (fabPort s.dev p).chan ∨ lanes.toNat
        % 2 = 0))) :=
  ⟨⟨sReserved, 0, by decide +kernel⟩,
    ⟨sReserved, 0, by decide +kernel⟩,
    ⟨sRetrainOk, 11, by decide +kernel⟩,
    ⟨sReserved, 11, 170, by decide +kernel⟩,
    ⟨sReserved, 0, (ctlF 9 511), by decide +kernel⟩,
    ⟨sReserved, 1, false, true, 15, 1, by decide +kernel⟩⟩

def sTrainBoot : State := on (fabS { upQ with state := .training } id) (fun d => { d with host := {} })
def sFallback : State := fabS { upQ with state := .training } id
/-- States and operands that meet the hypotheses of `Obligations.LinkRows`. -/
theorem test_linkRows_3 :
    (∃ (s : State) (p : Nat) (full : Bool) (call : Bool) (lanes : BitVec 4) (far : BitVec 2), p < 12 ∧ ((fabPort s.dev p).en = true
        ∧ pfault s.dev (724992 + 256 * p) = false ∧ (fabPort s.dev p).retraining = false ∧ (fabPort s.dev p).state ≠
        PortState.up ∧ ((fabPort s.dev p).heldDown = false ∨ call = true ∧ rootBit s.dev = false) ∧ 6 ≤ s.dev.rp.step) ∧ full =
        true ∧ s.dev.host.syll = true ∧ (far ≠ (fabPort s.dev p).chan ∨ (trainedWidth (isA0 s.dev) lanes.toNat) = 0)) ∧
    (∃ (s : State) (p : Nat) (full : Bool) (call : Bool) (lanes : BitVec 4) (far : BitVec 2), p < 12 ∧ ((fabPort s.dev p).en = true
        ∧ pfault s.dev (724992 + 256 * p) = false ∧ (fabPort s.dev p).retraining = false ∧ (fabPort s.dev p).state ≠
        PortState.up ∧ ((fabPort s.dev p).heldDown = false ∨ call = true ∧ rootBit s.dev = false) ∧ 6 ≤ s.dev.rp.step) ∧ full =
        true ∧ s.dev.host.syll = true ∧ far = (fabPort s.dev p).chan ∧ (trainedWidth (isA0 s.dev) lanes.toNat) ≠ 0) ∧
    (∃ (s : State) (p : Nat) (full : Bool) (call : Bool) (lanes : BitVec 4) (far : BitVec 2), p < 12 ∧ ((fabPort s.dev p).en = true
        ∧ pfault s.dev (724992 + 256 * p) = false ∧ (fabPort s.dev p).retraining = false ∧ (fabPort s.dev p).state ≠
        PortState.up ∧ ((fabPort s.dev p).heldDown = false ∨ call = true ∧ rootBit s.dev = false) ∧ 6 ≤ s.dev.rp.step) ∧ full =
        false ∧ s.dev.host.syll = false ∧ (fabPort s.dev p).state ≠ PortState.boot ∧ far = (fabPort s.dev p).chan ∧ lanes.toNat
        % 2 = 1) ∧
    (∃ (s : State) (p : Nat) (far : BitVec 2), p < 12 ∧ (fabPort s.dev p).en = true ∧ (fabPort s.dev p).retraining = false ∧
        (fabPort s.dev p).state = PortState.training ∧ s.dev.host.syll = true ∧ far = (fabPort s.dev p).chan) ∧
    (∃ (s : State) (p : Nat) (far : BitVec 2), p < 12 ∧ (¬((fabPort s.dev p).en = true ∧ (fabPort s.dev p).retraining = false ∧
        (fabPort s.dev p).state = PortState.training ∧ s.dev.host.syll = true ∧ far = (fabPort s.dev p).chan))) ∧
    (∃ (p : Nat) (st : PortState) (u : Nat), p < 12 ∧ (st = PortState.up ∨ st = PortState.boot) ∧ u ≠ p) :=
  ⟨⟨sReserved, 2, true, false, 15, 0, by decide +kernel⟩,
    ⟨sReserved, 0, true, true, 14, 2, by decide +kernel⟩,
    ⟨sTrainBoot, 5, false, false, 15, 2, by decide +kernel⟩,
    ⟨sFallback, 11, 2, by decide +kernel⟩,
    ⟨sReserved, 0, 3, by decide +kernel⟩,
    ⟨1, PortState.up, 3, by decide +kernel⟩⟩

def sHeartbeat : State := fabS upQ id
def sHello : State := fabS upQ id
def sAbsentOld : State := fabS upQ (fun f => { f with seenAbsent := [(3, 7)] })
def sHbSend : State := fabS upQ id
def sJAbsent : State := fabS upQ (fun f => { f with absentSet := [3] })
/-- States and operands that meet the hypotheses of `Obligations.Attendance`. -/
theorem test_attendance_1 :
    (∃ (s : State) (p : Nat) (f : BitVec 256) (d : Dev), accepted s p f d ∧ ctlIs f 1) ∧
    (∃ (s : State) (p : Nat) (f : BitVec 256) (d : Dev), accepted s p f d ∧ ctlIs f 2) ∧
    (∃ (s : State) (p : Nat) (f : BitVec 256) (d : Dev), accepted s p f d ∧ ctlIs f 8) ∧
    (∃ (s : State) (p : Nat) (f : BitVec 256) (d : Dev), accepted s p f d ∧ ctlIs f 9 ∧ ((bits f.toNat 20 16), (bits f.toNat 36 8))
        ∈ d.fab.seenAbsent) ∧
    (∃ (s : State) (p : Nat) (f : BitVec 256) (d : Dev), accepted s p f d ∧ ctlIs f 9 ∧ (¬((bits f.toNat 20 16), (bits f.toNat 36
        8)) ∈ d.fab.seenAbsent)) ∧
    (∃ (d : Dev) (gone : Nat), gone ∈ d.fab.absentSet) :=
  ⟨⟨sHeartbeat, 11, (ctlF 1 5), (linkAccept sHeartbeat.dev 11 ((ctlF 1 5))).1, by unfold accepted ctlIs; decide +kernel⟩,
    ⟨sHello, 11, (ctlF 2 3), (linkAccept sHello.dev 11 ((ctlF 2 3))).1, by unfold accepted ctlIs; decide +kernel⟩,
    ⟨sHello, 11, (ctlF 8 5), (linkAccept sHello.dev 11 ((ctlF 8 5))).1, by unfold accepted ctlIs; decide +kernel⟩,
    ⟨sAbsentOld, 11, (ctlF 9 458755), (linkAccept sAbsentOld.dev 11 ((ctlF 9 458755))).1, by unfold accepted ctlIs; decide +kernel⟩,
    ⟨sHbSend, 11, (ctlF 9 5), (linkAccept sHbSend.dev 11 ((ctlF 9 5))).1, by unfold accepted ctlIs; decide +kernel⟩,
    ⟨sJAbsent.dev, 3, by decide +kernel⟩⟩

def sJAbsentX : State := on (flying
    { xfer2 with waiting := [{ dev := 3, rtag := 0, len := 4 }, { dev := 1, rtag := 0, len := 4 }] }) (fun d =>
    { d with fab := { id := 2, rc := .complete, count := 4, epoch := 7, parent := 11, ports := [(11, upQ)] }, bells := [(1020, { done := 3 })] })
def sJRootDown : State := fabS upQ (fun f => { f with rc := .running })
def sJDetained : State := on (fabS upQ id) (fun d => { d with det := { device := true } })
/-- States and operands that meet the hypotheses of `Obligations.Attendance`. -/
theorem test_attendance_2 :
    (∃ (d : Dev) (gone : Nat) (tree : Byte) (v : Nat) (x : Xfer) (o : Outstanding), (¬gone ∈ d.fab.absentSet) ∧ x ∈ (coreOf
        (absentApply d gone tree) v).strm.xfers ∧ o ∈ x.waiting) ∧
    (∃ (d : Dev) (gone : Nat) (b : Nat), (¬gone ∈ d.fab.absentSet) ∧ d.copy.due = false ∧ 1017 ≤ b) ∧
    (∃ (d : Dev), d.fab.rc ≠ RcState.complete) ∧
    (∃ (s : State), s.dev.det.device = true) ∧
    (∃ (s : State), s.dev.det.device = false) ∧
    (∃ (s : State) (p : Nat), p < 12 ∧ (fabPort s.dev p).state ≠ PortState.up) :=
  ⟨⟨sJAbsentX.dev, 3, 12, 0,
      ({ slot := 2, list := 5, entry := 0, entryAddr := 32768, kind := 0, status := 5, writes := [], undo := [], waiting := [{ dev := 1, rtag := 0, len := 4, dest := [], read := false }], bellHeld := false, hostWait := false, guard := false, seen := [], adds := [], gathered := [], entryBits := 0, extBits := 0 }),
      ({ dev := 1, rtag := 0, len := 4, dest := [], read := false }), by decide +kernel⟩,
    ⟨sJAbsentX.dev, 0, 1020, by decide +kernel⟩,
    ⟨sJRootDown.dev, by decide +kernel⟩,
    ⟨sJDetained, by decide +kernel⟩,
    ⟨sHello, by decide +kernel⟩,
    ⟨sHello, 0, by decide +kernel⟩⟩

def sHbSeen : State := fabS { upQ with hbSeen := true } id
def sHbMiss3 : State := fabS { upQ with missRun := 2 } id
/-- States and operands that meet the hypotheses of `Obligations.Attendance`. -/
theorem test_attendance_3 :
    (∃ (s : State) (p : Nat), p < 12 ∧ (fabPort s.dev p).state = PortState.up ∧ (fabPort s.dev p).hbSeen = true) ∧
    (∃ (s : State) (p : Nat), p < 12 ∧ (fabPort s.dev p).state = PortState.up ∧ (fabPort s.dev p).hbSeen = false ∧ (fabPort s.dev
        p).missRun + 1 < 3) ∧
    (∃ (s : State) (p : Nat), p < 12 ∧ (fabPort s.dev p).state = PortState.up ∧ (fabPort s.dev p).hbSeen = false ∧ 3 ≤ (fabPort
        s.dev p).missRun + 1) :=
  ⟨⟨sHbSeen, 11, by decide +kernel⟩,
    ⟨sHello, 11, by decide +kernel⟩,
    ⟨sHbMiss3, 11, by decide +kernel⟩⟩

def sAssignOn : State := fabS upQ id
def sRcgoJob : State := on (fabS upQ (fun f => { f with root := true, id := 0 })) (fun d =>
    { d with host := { syll := true, ctxs := [(0, { job := some { jobid := 1, vec := 0, seq := 0, cores := 1 } })] } })
def sAssignRoot : State := fabS upQ (fun f => { f with root := true })
def sJRcBegin : State := fabS { upQ with nserial := 9, helloSeen := true } (fun f =>
    { f with rc := .running, root := true, id := 0xFFFF })
/-- States and operands that meet the hypotheses of `Obligations.RollCall`. -/
theorem test_rollCall_1 :
    (∃ (s : State), served s ∧ (clearFault s.dev 720900).fab.root = false) ∧
    (∃ (s : State), served s ∧ (clearFault s.dev 720900).fab.root = true ∧ jobActive (clearFault s.dev 720900) = true) ∧
    (∃ (s : State), served s ∧ (clearFault s.dev 720900).fab.root = true ∧ jobActive (clearFault s.dev 720900) = false) ∧
    (∃ (d : Dev), (d.fab.rc ≠ RcState.running ∨ d.fab.devs ≠ [] ∨ ∃ p, p < 12 ∧ (fabPort d p).rcWait = true)) ∧
    (∃ (d : Dev), d.fab.rc = RcState.running ∧ d.fab.devs = [] ∧ (∀ (p : Nat), p < 12 → (fabPort d p).rcWait = false)) ∧
    (∃ (s : State) (p : Nat) (f : BitVec 256) (d : Dev), accepted s p f d ∧ ctlIs f 3 ∧ (bits f.toNat 26 6) < (bits f.toNat 20 6)) :=
  ⟨⟨sAssignOn, by unfold served awake; decide +kernel⟩,
    ⟨sRcgoJob, by unfold served awake; decide +kernel⟩,
    ⟨sAssignRoot, by unfold served awake; decide +kernel⟩,
    ⟨sAssignOn.dev, by decide +kernel⟩,
    ⟨sJRcBegin.dev, by decide +kernel⟩,
    ⟨sAssignOn, 11, (ctlF 3 5), (linkAccept sAssignOn.dev 11 ((ctlF 3 5))).1, by unfold accepted ctlIs; decide +kernel⟩⟩

def sTopo : State := fabS upQ (fun f => { f with rc := .numbered })
def sJAssignJob : State := on (fabS upQ (fun f => { f with rc := .none, id := 0xFFFF, parent := 12 })) (fun d =>
    { d with host := { syll := true, ctxs := [(0, { job := some job1 })] } })
def sAssignLast : State := fabS upQ id
def sRcgo : State := fabS upQ (fun f => { f with root := true, id := 0 })
def sRefuse : State := fabS upQ (fun f => { f with rc := .numbered })
/-- States and operands that meet the hypotheses of `Obligations.RollCall`. -/
theorem test_rollCall_2 :
    (∃ (s : State) (p : Nat) (f : BitVec 256) (d : Dev), accepted s p f d ∧ ctlIs f 3 ∧ (bits f.toNat 20 6) ≤ (bits f.toNat 26 6) ∧
        (rootBit d = true ∨ d.fab.rc = RcState.numbered ∧ d.fab.epoch ≠ (BitVec.ofNat 8 (bits f.toNat 216 8)) ∧ ¬(p =
        d.fab.parent ∧ (BitVec.ofNat 8 (bits f.toNat 216 8)) = d.fab.epoch + 1))) ∧
    (∃ (s : State) (p : Nat) (f : BitVec 256) (d : Dev), accepted s p f d ∧ ctlIs f 3 ∧ (bits f.toNat 20 6) ≤ (bits f.toNat 26 6) ∧
        (¬(rootBit d = true ∨ d.fab.rc = RcState.numbered ∧ d.fab.epoch ≠ (BitVec.ofNat 8 (bits f.toNat 216 8)) ∧ ¬(p =
        d.fab.parent ∧ (BitVec.ofNat 8 (bits f.toNat 216 8)) = d.fab.epoch + 1))) ∧ (d.fab.id = 65535 ∨ d.fab.epoch ≠
        (BitVec.ofNat 8 (bits f.toNat 216 8))) ∧ jobActive d = true) ∧
    (∃ (s : State) (p : Nat) (f : BitVec 256) (d : Dev), accepted s p f d ∧ ctlIs f 3 ∧ (bits f.toNat 20 6) ≤ (bits f.toNat 26 6) ∧
        (¬(rootBit d = true ∨ d.fab.rc = RcState.numbered ∧ d.fab.epoch ≠ (BitVec.ofNat 8 (bits f.toNat 216 8)) ∧ ¬(p =
        d.fab.parent ∧ (BitVec.ofNat 8 (bits f.toNat 216 8)) = d.fab.epoch + 1))) ∧ (d.fab.id = 65535 ∨ d.fab.epoch ≠
        (BitVec.ofNat 8 (bits f.toNat 216 8)) → jobActive d = false)) ∧
    (∃ (s : State) (p : Nat) (f : BitVec 256) (d : Dev), accepted s p f d ∧ ctlIs f 4 ∧ rootBit d = false) ∧
    (∃ (s : State) (p : Nat) (f : BitVec 256) (d : Dev), accepted s p f d ∧ ctlIs f 4 ∧ rootBit d = true) ∧
    (∃ (s : State) (p : Nat) (f : BitVec 256) (d : Dev), accepted s p f d ∧ ctlIs f 5) :=
  ⟨⟨sTopo, 11, (ctlF 3 2052), (linkAccept sTopo.dev 11 ((ctlF 3 2052))).1, by unfold accepted ctlIs; decide +kernel⟩,
    ⟨sJAssignJob, 11, (ctlF 3 (1 + 2 ^ 6 + 5 * 2 ^ 180 + 8 * 2 ^ 196)), (linkAccept sJAssignJob.dev 11 ((ctlF 3 (1 + 2 ^ 6 + 5 * 2 ^
      180 + 8 * 2 ^ 196)))).1, by unfold accepted ctlIs; decide +kernel⟩,
    ⟨sAssignLast, 11, (ctlF 3 803476684607199467215272837905717052807019590587007335661633), (linkAccept sAssignLast.dev 11 ((ctlF 3
      803476684607199467215272837905717052807019590587007335661633))).1, by unfold accepted ctlIs; decide +kernel⟩,
    ⟨sAssignOn, 11, (ctlF 4 2), (linkAccept sAssignOn.dev 11 ((ctlF 4 2))).1, by unfold accepted ctlIs; decide +kernel⟩,
    ⟨sRcgo, 11, (ctlF 4 2), (linkAccept sRcgo.dev 11 ((ctlF 4 2))).1, by unfold accepted ctlIs; decide +kernel⟩,
    ⟨sRefuse, 11, (ctlF 5 5), (linkAccept sRefuse.dev 11 ((ctlF 5 5))).1, by unfold accepted ctlIs; decide +kernel⟩⟩

def sJTopoIn : State := fabS upQ (fun f => { f with rc := .numbered })
def sJDoneIn : State := fabS upQ (fun f => { f with rc := .numbered, pieces := [(0, 5)] })
def sRcTimeout3 : State := fabS upQ (fun f =>
    { f with root := true, rc := .running, devs := [{ serial := 2, id := 1, level := 1, parent := 0, route := [11], attempts := 3 }] })
/-- States and operands that meet the hypotheses of `Obligations.RollCall`. -/
theorem test_rollCall_3 :
    (∃ (s : State) (p : Nat) (f : BitVec 256) (d : Dev), accepted s p f d ∧ ctlIs f 6 ∧ (¬(bits f.toNat 20 8 = BitVec.toNat
        d.fab.epoch ∧ d.fab.rc = RcState.numbered))) ∧
    (∃ (s : State) (p : Nat) (f : BitVec 256) (d : Dev), accepted s p f d ∧ ctlIs f 6 ∧ bits f.toNat 20 8 = BitVec.toNat d.fab.epoch
        ∧ d.fab.rc = RcState.numbered) ∧
    (∃ (s : State) (p : Nat) (f : BitVec 256) (d : Dev), accepted s p f d ∧ ctlIs f 7 ∧ (¬(bits f.toNat 20 8 = BitVec.toNat
        d.fab.epoch ∧ d.fab.rc = RcState.numbered))) ∧
    (∃ (s : State) (p : Nat) (f : BitVec 256) (d : Dev), accepted s p f d ∧ ctlIs f 7 ∧ bits f.toNat 20 8 = BitVec.toNat d.fab.epoch
        ∧ d.fab.rc = RcState.numbered) ∧
    (∃ (s : State) (dev : Nat), (s.dev.fab.rc ≠ RcState.running ∨ ∀ (x : RcDev), List.find? (fun y => y.id == dev) s.dev.fab.devs =
        some x → reported x = true)) ∧
    (∃ (s : State) (dev : Nat) (x : RcDev), s.dev.fab.rc = RcState.running ∧ (List.find? (fun y => y.id == dev) s.dev.fab.devs =
        some x) ∧ reported x = false ∧ 3 ≤ x.attempts) :=
  ⟨⟨sAssignLast, 11, (ctlF 6 2050), (linkAccept sAssignLast.dev 11 ((ctlF 6 2050))).1, by unfold accepted ctlIs; decide +kernel⟩,
    ⟨sJTopoIn, 11, (ctlF 6 (7 + 2 ^ 8 + 5 * 2 ^ 40)), (linkAccept sJTopoIn.dev 11 ((ctlF 6 (7 + 2 ^ 8 + 5 * 2 ^ 40)))).1,
      by unfold accepted ctlIs; decide +kernel⟩,
    ⟨sRefuse, 11, (ctlF 7 2048), (linkAccept sRefuse.dev 11 ((ctlF 7 2048))).1, by unfold accepted ctlIs; decide +kernel⟩,
    ⟨sJDoneIn, 11, (ctlF 7 (7 + 4 * 2 ^ 8 + 5 * 2 ^ 23)), (linkAccept sJDoneIn.dev 11 ((ctlF 7 (7 + 4 * 2 ^ 8 + 5 * 2 ^ 23)))).1,
      by unfold accepted ctlIs; decide +kernel⟩,
    ⟨sAssignOn, 0, by decide +kernel⟩,
    ⟨sRcTimeout3, 1, ((List.find? (fun y => y.id == 1) sRcTimeout3.dev.fab.devs).get (by decide +kernel)), by decide +kernel⟩⟩

def sRcTimeout2 : State := fabS upQ (fun f =>
    { f with root := true, rc := .running, devs := [{ serial := 2, id := 1, level := 1, parent := 0, route := [11], attempts := 2 }] })
/-- States and operands that meet the hypotheses of `Obligations.RollCall`. -/
theorem test_rollCall_4 :
    (∃ (s : State) (dev : Nat) (x : RcDev), s.dev.fab.rc = RcState.running ∧ (List.find? (fun y => y.id == dev) s.dev.fab.devs =
        some x) ∧ reported x = false ∧ x.attempts < 3) :=
  ⟨sRcTimeout2, 1, ((List.find? (fun y => y.id == 1) sRcTimeout2.dev.fab.devs).get (by decide +kernel)), by decide +kernel⟩

def sBulkOn : State := fabS upQ id
def sBulkDrop : State := fabS upQ id
def sBulkStatus : State := fabS upQ id
def sJBad : State := fabS upQ id
/-- States and operands that meet the hypotheses of `Obligations.BulkMessages`. -/
theorem test_bulkMessages_1 :
    (∃ (s : State) (op : Nat) (p : Nat) (words : List Codeword), 1 ≤ op ∧ op ≤ 9 ∧ (¬(p < 12 ∧ portOpen (fabPort s.dev p) = true ∧ ∀
        (w : Codeword), w ∈ words → w.fec ≠ Fec.lost → ∀ (x : Slot), x ∈ slotsOf w.word → x.begins = true → flitOk x.body = true
        → flitType x.body = 4 ∨ flitType x.body = 5 → (bulkOf x.body).op = op ∧ (flitType x.body = 5 ↔ op = 3 ∨ op = 4)))) ∧
    (∃ (s : State) (op : Nat) (p : Nat) (words : List Codeword), 1 ≤ op ∧ op ≤ 9 ∧ (p < 12 ∧ portOpen (fabPort s.dev p) = true ∧ ∀
        (w : Codeword), w ∈ words → w.fec ≠ Fec.lost → ∀ (x : Slot), x ∈ slotsOf w.word → x.begins = true → flitOk x.body = true
        → flitType x.body = 4 ∨ flitType x.body = 5 → (bulkOf x.body).op = op ∧ (flitType x.body = 5 ↔ op = 3 ∨ op = 4))) ∧
    (∃ (d : Dev) (d1 : Dev) (p : Nat) (f : BitVec 256) (okay : Bool), (flitType f = 4 ∨ flitType f = 5) ∧ linkAccept d p f = (d1,
        okay)) ∧
    (∃ (d : Dev) (p : Nat) (g : BitVec 2048) (m : RxMessage), (fabPort d p).rxMsg = some m ∧ (fabPort d p).rxFlit = none ∧ (fabPort
        d p).rxHeld = [] ∧ flitRefused d p m.hdr = false ∧ (fabPort d p).rxNext = some (fabPort d p).rxSeq ∧ dataOk g = true) ∧
    (∃ (d : Dev) (hdr : BitVec 256), (bulkOf hdr).dst ≠ ownId d) ∧
    (∃ (d : Dev) (hdr : BitVec 256) (data : List (BitVec 2048)), (bulkOf hdr).dst = ownId d ∧ flitType hdr = 4 ∧ requestStatus d
        (bulkOf hdr) (requestOp (bulkOf hdr) data) ≠ 0) :=
  ⟨⟨sBulkOn, 3, 11, ((packWords { begins := true, body := linkF 4 0 } 10 (messageSlots (bulkF 4 2 1 1 0x1000 4 []) (dataFlits 1 [1,
      2, 3, 4]))).map (fun w => { word := w })), by decide +kernel⟩,
    ⟨sBulkOn, 1, 11, ((packWords { begins := true, body := linkF 4 0 } 10 (messageSlots (bulkF 4 2 1 1 0x1000 4 []) (dataFlits 1 [1,
      2, 3, 4]))).map (fun w => { word := w })), by decide +kernel⟩,
    ⟨sBulkDrop.dev, sBulkDrop.dev, 3, (bulkF 4 2 5 1 4096 4 []), false, by decide +kernel⟩,
    ⟨sJDataIn.dev, 11,
      9257803961535897972854088254527556027620355562592231503680232695450705246125179284335473005859972746688031183087678218157830290851824715724760358291338443792966043193094142480798938243347363861665261086425742294958305549125543858093246349431084253265328439240245682731566882421003626066707246551862179249394609872189531971126677689688763313868590811944072448132629262368876245064566854364334124439774630036857450861565110815486467649364527455185542281196160976929564300473930679506560817541017115425287069311257191423158416701897013892960477951611960548419728251472455207705895964406294029920464130178458017715126785,
      (((fabPort sJDataIn.dev 11).rxMsg).get (by decide +kernel)), by decide +kernel⟩,
    ⟨sBulkStatus.dev, 353, by decide +kernel⟩,
    ⟨sJBad.dev, (bulkF 4 2 1 1 0x500000000000 4 [(68, 1)]),
      ([6620788773966250547671758236055601682742800726234737065977690417179284944842125510280108720334749141842280069797233636123474094821967046393598603473688435168717259128173813841919686997980753241448060333362847858034222214676427953619368831145343542205546446226458288969126427796080783646206438513260581529215320471997514855200688815259055644259457816848520811608291510943901048269633857872268584199159571225071674262370146493208588707262856118922722427368935415261170932212788397184683917260851191499450361923628592437280707596899465952530862440828116955045144227320090683083999225743805673760625208834661487500001793,
      13116122765151197121903333215406211531717188711204937809142865527980674733127969026315900181752600231563111248332996422611785539872298052157576846306746696590804354422855754285317827058934711610487145809965883773320738287054731413250235450351343034057529851543389033368780540523273178957821584377760433771412598502760263139923866551853348564345386526553448612078923428823843290729807076131080853511331280082373126839818293470773605651993571603522951511886437920397841660426620228925527848325217163761332547392098648689870408329752401801434994064356101701998197386946144549979626066779738160714896731123826755972890624]),
      by decide +kernel⟩⟩

def sJRecords : State := on (fabS upQ id) (fun d => { d with mem := cells [(0x1000, [0, 0, 0x80, 0x3F])] })
def sJAnswers : State := on (flying
    { xfer2 with waiting := [{ dev := 9, rtag := 0x10, len := 4, dest := [0], read := true }], entryBits := ent 0 0 4 1 (9 * 2 ^ 48 + 0x1000) (2 * 2 ^ 48 + 0x2000) })
    (fun d => { d with fab := { id := 2, rc := .complete, count := 16, epoch := 7, parent := 11, ports := [(11, upQ)] } })
/-- States and operands that meet the hypotheses of `Obligations.BulkMessages`. -/
theorem test_bulkMessages_2 :
    (∃ (d : Dev) (hdr : BitVec 256) (data : List (BitVec 2048)), (bulkOf hdr).dst = ownId d ∧ flitType hdr = 4 ∧ requestStatus d
        (bulkOf hdr) (requestOp (bulkOf hdr) data) = 0 ∧ d.badWords = [] ∧ (bulkOf hdr).op = 2 ∧ (touchRead d (bulkOf hdr).addr
        (bits (bulkOf hdr).aux 0 12) 0).badWords = []) ∧
    (∃ (d : Dev) (hdr : BitVec 256) (data : List (BitVec 2048)), (bulkOf hdr).dst = ownId d ∧ flitType hdr = 4 ∧ requestStatus d
        (bulkOf hdr) (requestOp (bulkOf hdr) data) = 0 ∧ d.badWords = [] ∧ (List.flatMap (fun x => (strmOf d x).xfers) (engines
        d) = []) ∧ metBefore d none (wopRanges (bulkOf hdr).addr (requestOp (bulkOf hdr) data)) = [] ∧ (bulkOf hdr).op = 1) ∧
    (∃ (d : Dev) (hdr : BitVec 256) (data : List (BitVec 2048)), (bulkOf hdr).dst = ownId d ∧ flitType hdr = 4 ∧ requestStatus d
        (bulkOf hdr) (requestOp (bulkOf hdr) data) = 0 ∧ d.badWords = [] ∧ (List.flatMap (fun x => (strmOf d x).xfers) (engines
        d) = []) ∧ metBefore d none (wopRanges (bulkOf hdr).addr (requestOp (bulkOf hdr) data)) = [] ∧ 5 ≤ (bulkOf hdr).op ∧
        (bulkOf hdr).op ≤ 7 ∧ (∀ (i : Nat), i < (unpackRow ((fmtOf (bulkOf hdr).fmt).getD Fmt.fp32) ((bits (bulkOf hdr).aux 0
        12) / (fmtBits ((fmtOf (bulkOf hdr).fmt).getD Fmt.fp32) / 8)) (messageBytes data (bits (bulkOf hdr).aux 0 12))).length →
        boardPort ((bulkOf hdr).addr + 4 * i) = none)) ∧
    (∃ (d : Dev) (hdr : BitVec 256) (data : List (BitVec 2048)), (bulkOf hdr).dst = ownId d ∧ flitType hdr = 4 ∧ requestStatus d
        (bulkOf hdr) (requestOp (bulkOf hdr) data) = 0 ∧ d.badWords = [] ∧ (List.flatMap (fun x => (strmOf d x).xfers) (engines
        d) = []) ∧ metBefore d none (wopRanges (bulkOf hdr).addr (requestOp (bulkOf hdr) data)) = [] ∧ 8 ≤ (bulkOf hdr).op ∧
        (bulkOf hdr).op ≤ 9 ∧ bits (bulkOf hdr).aux 36 24 ≠ 0 ∧ (∀ (x : Nat × Nat), x ∈ (List.map (fun x => (recordAddr (bulkOf
        hdr).addr (bits (bulkOf hdr).aux 12 24) (bits (bulkOf hdr).aux 36 24) (bits (bulkOf hdr).aux 60 20) x.fst, x.snd))
        (recordValues ((bulkOf hdr).op == 8) (bits (bulkOf hdr).aux 0 12) (messageBytes data (data.length * 252)))) → boardPort
        x.fst = none)) ∧
    (∃ (d : Dev) (hdr : BitVec 256), (bulkOf hdr).dst = ownId d ∧ flitType hdr = 5 ∧ (bulkOf hdr).core ≠ 255 ∧ xferOf d (Engine.core
        (bulkOf hdr).core) (bulkOf hdr).slot = none) ∧
    (∃ (d : Dev) (hdr : BitVec 256) (x : Xfer), (bulkOf hdr).dst = ownId d ∧ flitType hdr = 5 ∧ (bulkOf hdr).core ≠ 255 ∧ xferOf d
        (Engine.core (bulkOf hdr).core) (bulkOf hdr).slot = some x ∧ answeredBy x (bulkOf hdr) (bits (bulkOf hdr).aux 0 12) =
        none) :=
  ⟨⟨sBulkOn.dev, (bulkF 4 2 2 2 4096 4 [(68, 0)]), ([]), by decide +kernel⟩,
    ⟨sBulkOn.dev, (bulkF 4 2 1 1 4096 4 []), ([]), by decide +kernel⟩,
    ⟨sJBad.dev, (bulkF 4 2 5 1 4096 4 []), ([]), by decide +kernel⟩,
    ⟨sJRecords.dev, (bulkF 4 2 8 1 0x1000 (2 + 4 * 2 ^ 36 + 16 * 2 ^ 60) [(68, 1)]),
      ([20719223206498018809847608605135520710739168490683714643131285839508051307660854561125098624052955650568342708514544191131196311666592352232614672238717689775242936608512309193126090387679865501124716248997129040694920162578333080186387212367473625175699791944211585922765716237088939478745491004416522097131696412232345489916629474937883714801232705022669792285369941857458842821974413693594298314439716490588384207197407673863016324253283948642814606649434318956641995454507526670472868182636437159032562733249113027738905927403605381437681976058332962394002827318364875557170844670604621429948349227308399911255936]),
      by decide +kernel⟩,
    ⟨sBulkOn.dev, (bulkF 5 2 4 0 0 0 [(68, 0)]), by decide +kernel⟩,
    ⟨sJAnswers.dev, (bulkF 5 2 4 0 0 0 [(76, 2)]), ((xferOf sJAnswers.dev (Engine.core (bulkOf ((bulkF 5 2 4 0 0 0 [(76,
      2)]))).core) (bulkOf ((bulkF 5 2 4 0 0 0 [(76, 2)]))).slot).get (by decide +kernel)), by decide +kernel⟩⟩

def sJAnswersMore : State := on (flying
    { xfer2 with waiting := [{ dev := 9, rtag := 0x10, len := 4, dest := [0], read := true }, { dev := 9, rtag := 0x20, len := 4, dest := [4], read := true }], entryBits := ent 0 0 8 1 (9 * 2 ^ 48 + 0x1000) (2 * 2 ^ 48 + 0x2000) })
    (fun d => { d with fab := { id := 2, rc := .complete, count := 16, epoch := 7, parent := 11, ports := [(11, upQ)] } })
/-- States and operands that meet the hypotheses of `Obligations.BulkMessages`. -/
theorem test_bulkMessages_3 :
    (∃ (d : Dev) (hdr : BitVec 256) (x : Xfer) (o : Outstanding), (bulkOf hdr).dst = ownId d ∧ flitType hdr = 5 ∧ (bulkOf hdr).core
        ≠ 255 ∧ xferOf d (Engine.core (bulkOf hdr).core) (bulkOf hdr).slot = some x ∧ answeredBy x (bulkOf hdr) (bits (bulkOf
        hdr).aux 0 12) = some o ∧ (bulkOf hdr).op ≠ 3) ∧
    (∃ (d : Dev) (hdr : BitVec 256) (data : List (BitVec 2048)) (x : Xfer) (o : Outstanding), (bulkOf hdr).dst = ownId d ∧ flitType
        hdr = 5 ∧ (bulkOf hdr).core ≠ 255 ∧ xferOf d (Engine.core (bulkOf hdr).core) (bulkOf hdr).slot = some x ∧ answeredBy x
        (bulkOf hdr) (bits (bulkOf hdr).aux 0 12) = some o ∧ (bulkOf hdr).op = 3 ∧ (((eraseWait x.waiting o).any fun x =>
        x.read) = true ∨ x.status ≠ 0 ∨ x.hostWait = true ∨ stillGuarded (modXfer d (Engine.core (bulkOf hdr).core) (bulkOf
        hdr).slot fun x => (gatherAt
        { slot := x.slot, list := x.list, entry := x.entry, entryAddr := x.entryAddr, kind := x.kind, status := x.status, writes := x.writes, undo := x.undo, waiting := (eraseWait x.waiting o), bellHeld := x.bellHeld, hostWait := x.hostWait, guard := x.guard, seen := x.seen, adds := x.adds, gathered := x.gathered, entryBits := x.entryBits, extBits := x.extBits }
        o.rtag.toNat (messageBytes data (bits (bulkOf hdr).aux 0 12)))) (Engine.core (bulkOf hdr).core) (gatherAt
        { slot := x.slot, list := x.list, entry := x.entry, entryAddr := x.entryAddr, kind := x.kind, status := x.status, writes := x.writes, undo := x.undo, waiting := (eraseWait x.waiting o), bellHeld := x.bellHeld, hostWait := x.hostWait, guard := x.guard, seen := x.seen, adds := x.adds, gathered := x.gathered, entryBits := x.entryBits, extBits := x.extBits }
        o.rtag.toNat (messageBytes data (bits (bulkOf hdr).aux 0 12))) = true)) ∧
    (∃ (d : Dev) (hdr : BitVec 256) (data : List (BitVec 2048)) (x : Xfer) (o : Outstanding), (bulkOf hdr).dst = ownId d ∧ flitType
        hdr = 5 ∧ (bulkOf hdr).core ≠ 255 ∧ xferOf d (Engine.core (bulkOf hdr).core) (bulkOf hdr).slot = some x ∧ answeredBy x
        (bulkOf hdr) (bits (bulkOf hdr).aux 0 12) = some o ∧ (bulkOf hdr).op = 3 ∧ (((eraseWait x.waiting o).any fun x =>
        x.read) = false) ∧ x.status = 0 ∧ x.hostWait = false ∧ (stillGuarded (modXfer d (Engine.core (bulkOf hdr).core) (bulkOf
        hdr).slot fun x => (gatherAt
        { slot := x.slot, list := x.list, entry := x.entry, entryAddr := x.entryAddr, kind := x.kind, status := x.status, writes := x.writes, undo := x.undo, waiting := (eraseWait x.waiting o), bellHeld := x.bellHeld, hostWait := x.hostWait, guard := x.guard, seen := x.seen, adds := x.adds, gathered := x.gathered, entryBits := x.entryBits, extBits := x.extBits }
        o.rtag.toNat (messageBytes data (bits (bulkOf hdr).aux 0 12)))) (Engine.core (bulkOf hdr).core) (gatherAt
        { slot := x.slot, list := x.list, entry := x.entry, entryAddr := x.entryAddr, kind := x.kind, status := x.status, writes := x.writes, undo := x.undo, waiting := (eraseWait x.waiting o), bellHeld := x.bellHeld, hostWait := x.hostWait, guard := x.guard, seen := x.seen, adds := x.adds, gathered := x.gathered, entryBits := x.entryBits, extBits := x.extBits }
        o.rtag.toNat (messageBytes data (bits (bulkOf hdr).aux 0 12))) = false)) :=
  ⟨⟨sJAnswers.dev, (bulkF 5 2 4 0 0 5 [(76, 2)]), ((xferOf sJAnswers.dev (Engine.core (bulkOf ((bulkF 5 2 4 0 0 5 [(76,
      2)]))).core) (bulkOf ((bulkF 5 2 4 0 0 5 [(76, 2)]))).slot).get (by decide +kernel)), ((answeredBy (((xferOf sJAnswers.dev
      (Engine.core (bulkOf ((bulkF 5 2 4 0 0 5 [(76, 2)]))).core) (bulkOf ((bulkF 5 2 4 0 0 5 [(76, 2)]))).slot).get (by
      decide +kernel))) (bulkOf ((bulkF 5 2 4 0 0 5 [(76, 2)]))) (bits (bulkOf ((bulkF 5 2 4 0 0 5 [(76, 2)]))).aux 0 12)).get
      (by decide +kernel)), by decide +kernel⟩,
    ⟨sJAnswersMore.dev, (bulkF 5 2 3 1 0x10 4 [(76, 2)]),
      ([9257803961535897972854088254527556027620355562592231503680232695450705246125179284335473005859972746688031183087678218157830290851824715724760358291338443792966043193094142480798938243347363861665261086425742294958305549125543858093246349431084253265328439240245682731566882421003626066707246551862179249394609872189531971126677689688763313868590811944072448132629262368876245064566854364334124439774630036857450861565110815486467649364527455185542281196160976929564300473930679506560817541017115425287069311257191423158416701897013892960477951611960548419728251472455207705895964406294029920464130178458017715126785]),
      ((xferOf sJAnswersMore.dev (Engine.core (bulkOf ((bulkF 5 2 3 1 0x10 4 [(76, 2)]))).core) (bulkOf ((bulkF 5 2 3 1 0x10 4
      [(76, 2)]))).slot).get (by decide +kernel)), ((answeredBy (((xferOf sJAnswersMore.dev (Engine.core (bulkOf ((bulkF 5 2 3 1
      0x10 4 [(76, 2)]))).core) (bulkOf ((bulkF 5 2 3 1 0x10 4 [(76, 2)]))).slot).get (by decide +kernel))) (bulkOf ((bulkF 5 2
      3 1 0x10 4 [(76, 2)]))) (bits (bulkOf ((bulkF 5 2 3 1 0x10 4 [(76, 2)]))).aux 0 12)).get (by decide +kernel)), by
      decide +kernel⟩,
    ⟨sJAnswers.dev, (bulkF 5 2 3 1 0x10 4 [(76, 2)]),
      ([9257803961535897972854088254527556027620355562592231503680232695450705246125179284335473005859972746688031183087678218157830290851824715724760358291338443792966043193094142480798938243347363861665261086425742294958305549125543858093246349431084253265328439240245682731566882421003626066707246551862179249394609872189531971126677689688763313868590811944072448132629262368876245064566854364334124439774630036857450861565110815486467649364527455185542281196160976929564300473930679506560817541017115425287069311257191423158416701897013892960477951611960548419728251472455207705895964406294029920464130178458017715126785]),
      ((xferOf sJAnswers.dev (Engine.core (bulkOf ((bulkF 5 2 3 1 0x10 4 [(76, 2)]))).core) (bulkOf ((bulkF 5 2 3 1 0x10 4 [(76,
      2)]))).slot).get (by decide +kernel)), ((answeredBy (((xferOf sJAnswers.dev (Engine.core (bulkOf ((bulkF 5 2 3 1 0x10 4
      [(76, 2)]))).core) (bulkOf ((bulkF 5 2 3 1 0x10 4 [(76, 2)]))).slot).get (by decide +kernel))) (bulkOf ((bulkF 5 2 3 1
      0x10 4 [(76, 2)]))) (bits (bulkOf ((bulkF 5 2 3 1 0x10 4 [(76, 2)]))).aux 0 12)).get (by decide +kernel)), by
      decide +kernel⟩⟩

def sResetReqOn : State := fabS upQ id
def sAgreeWait : State := on (fabS upQ (fun f => { f with ag := .waiting })) (fun d =>
    { d with ttl := { state := .active, active := some ttBell } })
def sAgree : State := on (fabS upQ (fun f => { f with ag := .agreed })) (fun d =>
    { d with ttl := { state := .active, active := some ttBell } })
def sJResetIn : State := fabS upQ (fun f => { f with ag := .agreed, fp := 0x33 })
def sRefclkStop : State := fabS upQ id
/-- States and operands that meet the hypotheses of `Obligations.AgreementAndResetRequests`. -/
theorem test_agreementAndResetRequests_1 :
    (∃ (s : State), served s ∧ (¬((clearFault s.dev 720900).ttl.active ≠ none ∧ (clearFault s.dev 720900).fab.rc =
        RcState.complete))) ∧
    (∃ (s : State), served s ∧ (clearFault s.dev 720900).ttl.active ≠ none ∧ (clearFault s.dev 720900).fab.rc = RcState.complete ∧
        (clearFault s.dev 720900).fab.ag = AgState.waiting) ∧
    (∃ (s : State), served s ∧ (clearFault s.dev 720900).ttl.active ≠ none ∧ (clearFault s.dev 720900).fab.rc = RcState.complete ∧
        (clearFault s.dev 720900).fab.ag ≠ AgState.waiting) ∧
    (∃ (s : State) (p : Nat) (f : BitVec 256) (d : Dev), accepted s p f d ∧ ctlIs f 10 ∧ bits f.toNat 20 16 = d.fab.id.toNat ∧
        resetReqWhy d f = 0) ∧
    (∃ (s : State) (p : Nat) (f : BitVec 256) (d : Dev), accepted s p f d ∧ ctlIs f 10 ∧ bits f.toNat 20 16 = d.fab.id.toNat ∧
        resetReqWhy d f ≠ 0) ∧
    (∃ (s : State) (p : Nat) (f : BitVec 256) (d : Dev), accepted s p f d ∧ ctlIs f 10 ∧ bits f.toNat 20 16 ≠ d.fab.id.toNat ∧
        nextHop d (bits f.toNat 36 16) (bits f.toNat 20 16) 0 p = none) :=
  ⟨⟨sResetReqOn, by unfold served awake; decide +kernel⟩,
    ⟨sAgreeWait, by unfold served awake; decide +kernel⟩,
    ⟨sAgree, by unfold served awake; decide +kernel⟩,
    ⟨sJResetIn, 11, (ctlF 10 (2 + 3 * 2 ^ 16 + 0x33 * 2 ^ 32 + 1 * 2 ^ 96)), (linkAccept sJResetIn.dev 11 ((ctlF 10 (2 + 3 * 2 ^ 16
      + 0x33 * 2 ^ 32 + 1 * 2 ^ 96)))).1, by unfold accepted ctlIs; decide +kernel⟩,
    ⟨sRefclkStop, 11, (ctlF 10 79228162514264337593544146946), (linkAccept sRefclkStop.dev 11 ((ctlF 10
      79228162514264337593544146946))).1, by unfold accepted ctlIs; decide +kernel⟩,
    ⟨sResetReqOn, 11, (ctlF 10 29360128), (linkAccept sResetReqOn.dev 11 ((ctlF 10 29360128))).1,
      by unfold accepted ctlIs; decide +kernel⟩⟩

def sJResetOn : State := on (fabS { upQ with nid := 3 } (fun f => { f with record := [2, 4, 1, 1] })) (fun d =>
    { d with ttl := { state := .active, active := some { ttBell with devices := 4, route := some { torus := false, x := 4, y := 1, z := 1, switch := 0, topo := 0, plan := [], entries := [(1, 0x800), (3, 0x800)] } } } })
/-- States and operands that meet the hypotheses of `Obligations.AgreementAndResetRequests`. -/
theorem test_agreementAndResetRequests_2 :
    (∃ (s : State) (p : Nat) (f : BitVec 256) (d : Dev) (u : Nat) (ln : Nat), accepted s p f d ∧ ctlIs f 10 ∧ bits f.toNat 20 16 ≠
        d.fab.id.toNat ∧ nextHop d (bits f.toNat 36 16) (bits f.toNat 20 16) 0 p = some (u, ln)) ∧
    (∃ (i : Nat), i < 6) :=
  ⟨⟨sJResetOn, 11, (ctlF 10 (1 + 3 * 2 ^ 16)), (linkAccept sJResetOn.dev 11 ((ctlF 10 (1 + 3 * 2 ^ 16)))).1, 11, 0,
      by unfold accepted ctlIs; decide +kernel⟩,
    ⟨0, by decide +kernel⟩⟩

def sCadence2 : State := copyS { state := .idle } 2
def sArmIt : State := copyS { state := .idle } 0
def sJDrainNot : State := copyS { state := .opened, waits := [(0, 0)] } 0
def sDrainDone : State := copyS { state := .frozen } 0
/-- States and operands that meet the hypotheses of `Obligations.CheckpointRounds`. -/
theorem test_checkpointRounds_1 :
    (∃ (s : State) (c : CopyCfg), copyCfg s.dev = some c ∧ s.dev.fab.id ≠ 0 ∧ served s) ∧
    (∃ (s : State) (c : CopyCfg), copyCfg s.dev = some c ∧ s.dev.fab.id = 0 ∧ served s) ∧
    (∃ (s : State) (c : CopyCfg), copyCfg s.dev = some c ∧ s.dev.copy.state ≠ CopyState.frozen) ∧
    (∃ (s : State) (c : CopyCfg), copyCfg s.dev = some c ∧ s.dev.copy.waits ≠ []) ∧
    (∃ (s : State) (c : CopyCfg), copyCfg s.dev = some c ∧ s.dev.copy.state = CopyState.frozen ∧ s.dev.copy.waits = []) ∧
    (∃ (s : State) (c : CopyCfg), copyCfg s.dev = some c ∧ served s ∧ ((s.dev.copy.state = CopyState.opened ∨ s.dev.copy.state =
        CopyState.frozen) ∧ s.dev.copy.arrived1021 = false)) :=
  ⟨⟨sCadence2, ((copyCfg sCadence2.dev).get (by decide +kernel)), by unfold served awake; decide +kernel⟩,
    ⟨sArmIt, ((copyCfg sArmIt.dev).get (by decide +kernel)), by unfold served awake; decide +kernel⟩,
    ⟨sArmIt, ((copyCfg sArmIt.dev).get (by decide +kernel)), by decide +kernel⟩,
    ⟨sJDrainNot, ((copyCfg sJDrainNot.dev).get (by decide +kernel)), by decide +kernel⟩,
    ⟨sDrainDone, ((copyCfg sDrainDone.dev).get (by decide +kernel)), by decide +kernel⟩,
    ⟨sDrainDone, ((copyCfg sDrainDone.dev).get (by decide +kernel)), by unfold served awake; decide +kernel⟩⟩

def sCadenceF : State := on (copyS { state := .idle } 0) (fun d =>
    { d with ttl := { state := .active, active := some { ttBell with copy := some (cc 60) } } })
/-- States and operands that meet the hypotheses of `Obligations.CheckpointRounds`. -/
theorem test_checkpointRounds_2 :
    (∃ (s : State) (c : CopyCfg), copyCfg s.dev = some c ∧ served s ∧ (¬(s.dev.copy.state = CopyState.opened ∨ s.dev.copy.state =
        CopyState.frozen) ∨ s.dev.copy.arrived1021 = true)) ∧
    (∃ (s : State) (c : CopyCfg), copyCfg s.dev = some c ∧ s.dev.fab.id = 0 ∧ c.fixed ≠ 0) ∧
    (∃ (s : State) (c : CopyCfg), copyCfg s.dev = some c ∧ s.dev.fab.id = 0 ∧ c.fixed = 0) ∧
    (∃ (s : State) (c : CopyCfg), copyCfg s.dev = some c ∧ ((clearFault s.dev 786432).copy.state = CopyState.opened ∨ (clearFault
        s.dev 786432).copy.state = CopyState.frozen)) :=
  ⟨⟨sArmIt, ((copyCfg sArmIt.dev).get (by decide +kernel)), by unfold served awake; decide +kernel⟩,
    ⟨sCadenceF, ((copyCfg sCadenceF.dev).get (by decide +kernel)), by decide +kernel⟩,
    ⟨sArmIt, ((copyCfg sArmIt.dev).get (by decide +kernel)), by decide +kernel⟩,
    ⟨sDrainDone, ((copyCfg sDrainDone.dev).get (by decide +kernel)), by decide +kernel⟩⟩

def sWorkIdle : State := st rdy
def sJDetained2 : State := st
    { rdy with det := { device := true, stopping := true }, cores := (0, run0) :: (List.range 255).map (fun v => (v + 1, { run0 with state := .halted })) }
/-- States and operands that meet the hypotheses of `Obligations.DetentionEntered`. -/
theorem test_detentionEntered_1 :
    (∃ (s : State), served s) ∧
    (∃ (d : Dev) (v : Nat) (cause : Nat) (u : Nat), v < gridCores d ∧ isDetained d v = false ∧ cause < 16 ∧ u < gridCores d) ∧
    (∃ (d : Dev) (v : Nat), (gridCores d ≤ v ∨ isDetained d v = true)) ∧
    (∃ (d : Dev) (cause : Nat) (v : Nat), d.det.device = false ∧ cause < 16 ∧ v < gridCores d) ∧
    (∃ (d : Dev), d.det.device = true) ∧
    (∃ (s : State), s.dev.det.stopping = false) :=
  ⟨⟨sWorkIdle, by unfold served awake; decide +kernel⟩,
    ⟨sWorkIdle.dev, 170, 0, 45, by decide +kernel⟩,
    ⟨sJDetained2.dev, 3201, by decide +kernel⟩,
    ⟨sWorkIdle.dev, 0, 9, by decide +kernel⟩,
    ⟨sJDetained2.dev, by decide +kernel⟩,
    ⟨sWorkIdle, by decide +kernel⟩⟩

def sJWorkBusy : State := st
    { rdy with det := { device := true, stopping := true }, cores := [(0, { run0 with state := .running })], rp := { rdy.rp with blockReset := some { block := 3, requester := 1, since := 0 } } }
def sWorkNone : State := st { rdy with det := { stopping := true } }
/-- States and operands that meet the hypotheses of `Obligations.DetentionEntered`. -/
theorem test_detentionEntered_2 :
    (∃ (s : State), s.dev.det.stopping = true ∧ s.dev.rp.blockReset ≠ none) ∧
    (∃ (s : State), s.dev.det.stopping = true ∧ s.dev.rp.blockReset = none ∧ ((List.filter (fun v => !coreStopped (coreOf s.dev
        v).state) (List.range (gridCores s.dev))) = [])) ∧
    (∃ (s : State) (b : BitVec 8) (r : List (BitVec 8)), s.dev.det.stopping = true ∧ s.dev.rp.blockReset = none ∧ ((List.map (fun u
        => BitVec.ofNat 8 (coreBlock s.dev u)) (List.filter (fun v => !coreStopped (coreOf s.dev v).state) (List.range
        (gridCores s.dev)))) = b :: r)) :=
  ⟨⟨sJWorkBusy, by decide +kernel⟩,
    ⟨sWorkNone, by decide +kernel⟩,
    ⟨sJDetained2, 0, ([]), by decide +kernel⟩⟩

def sSyncTo : State := st rdy
def sJTrim : State := st
    { rdy with pace := { pacers := [(0, { state := .trimming, inBand := 7, released := true }), (1, { state := .trimming, inBand := 8 }), (2, { state := .trimming, inBand := 9 })] } }
def sEdgeParity : State := st { rdy with glb := { parityWrong := [0xC0000] } }
/-- States and operands that meet the hypotheses of `Obligations.ClocksAndBeats`. -/
theorem test_clocksAndBeats_1 :
    (∃ (s : State), s.dev.edgeWrites = [] ∧ s.dev.glb.parityWrong = [] ∧ s.dev.prefect.offers = []) ∧
    (∃ (d : Dev) (r : Nat), r < 236 ∧ ((pacerOf d r).state = PacerState.inReset ∨ d.rp.pwr ≠ PwrState.on)) ∧
    (∃ (d : Dev) (v : Nat), v < gridCores d ∧ (pacerOf d (coreRegion d v)).released = true ∧ isDetained d v = false ∧ (coreOf d
        v).state ≠ PState.running) ∧
    (∃ (d : Dev) (o : Nat), d.glb.parityWrong = [o] ∧ d.glb.faulted.contains o = false ∧ 786432 ≤ o) ∧
    (∃ (s : State) (r : Nat), (236 ≤ r ∨ pacerRuns s.dev r = false)) ∧
    (∃ (s : State) (r : Nat) (v : Nat), r < 236 ∧ pacerRuns s.dev r = true ∧ regionCore s.dev r = some v ∧ (pacerOf s.dev
        r).released = true) :=
  ⟨⟨sSyncTo, by decide +kernel⟩,
    ⟨sSyncTo.dev, 10, by decide +kernel⟩,
    ⟨sJTrim.dev, 0, by decide +kernel⟩,
    ⟨sEdgeParity.dev, 786432, by decide +kernel⟩,
    ⟨sSyncTo, 0, by decide +kernel⟩,
    ⟨sJTrim, 0, 0, by decide +kernel⟩⟩

def sClrCnt : State := st { rdy with pace := { pacers := [(0, { state := .stable, beats := 5 })] } }
/-- States and operands that meet the hypotheses of `Obligations.ClocksAndBeats`. -/
theorem test_clocksAndBeats_2 :
    (∃ (s : State) (r : Nat), r < 236 ∧ pacerRuns s.dev r = true ∧ (regionCore s.dev r = none ∨ (pacerOf s.dev r).released = false)) ∧
    (∃ (s : State), served s) :=
  ⟨⟨sClrCnt, 0, by decide +kernel⟩,
    ⟨sSyncTo, by unfold served awake; decide +kernel⟩⟩

def sPaceSame : State := st { rdy with pace := {} }
def sPaceDown : State := st { rdy with pace := { cur := 0x29 } }
def sPaceHeld : State := st { rdy with pace := { tgt := 0x7D, therm := 0x7D, lowRun := 9 } }
def sPaceUp : State := st { rdy with pace := { tgt := 0x7D, therm := 0x7D, lowRun := 10, epoch := 0xFF } }
def sRails : State := st { rdy with pace := { busy := true, phase := .rails 0x2D } }
/-- States and operands that meet the hypotheses of `Obligations.Pacing`. -/
theorem test_pacing_1 :
    (∃ (s : State), (s.dev.pace.busy = true ∨ s.dev.rp.pwr ≠ PwrState.on ∨ paceN s.dev = BitVec.toNat s.dev.pace.cur)) ∧
    (∃ (s : State), s.dev.pace.busy = false ∧ s.dev.rp.pwr = PwrState.on ∧ paceN s.dev < BitVec.toNat s.dev.pace.cur) ∧
    (∃ (s : State), s.dev.pace.busy = false ∧ s.dev.rp.pwr = PwrState.on ∧ BitVec.toNat s.dev.pace.cur < paceN s.dev ∧
        (s.dev.pace.upBlocked = true ∨ s.dev.pace.lowRun < 10)) ∧
    (∃ (s : State), s.dev.pace.busy = false ∧ s.dev.rp.pwr = PwrState.on ∧ BitVec.toNat s.dev.pace.cur < paceN s.dev ∧
        s.dev.pace.upBlocked = false ∧ 10 ≤ s.dev.pace.lowRun) ∧
    (∃ (s : State) (n : Byte), s.dev.pace.phase = EpochPhase.rails n) ∧
    (∃ (s : State), (∀ (n : Byte), s.dev.pace.phase ≠ EpochPhase.rails n)) :=
  ⟨⟨sPaceSame, by decide +kernel⟩,
    ⟨sPaceDown, by decide +kernel⟩,
    ⟨sPaceHeld, by decide +kernel⟩,
    ⟨sPaceUp, by decide +kernel⟩,
    ⟨sRails, 45, by decide +kernel⟩,
    ⟨sPaceSame, by decide +kernel⟩⟩

def sJMembers : State := st
    { rdy with pace := { members := [0, 5], phase := .announced 0x30, pacers := [(0, { state := .stable, released := true, standby := 5 }), (5, { state := .stable, released := true, standby := 6 })] } }
def sPacerLate : State := st { rdy with pace := { pacers := [(235, { state := .trimming })] } }
def sPowerStr : State := st { rdy with pace := {} }
def sCritical : State := st { rdy with pace := { pacers := [(235, { critRun := 1024 })] } }
/-- States and operands that meet the hypotheses of `Obligations.Pacing`. -/
theorem test_pacing_2 :
    (∃ (d : Dev) (r : Nat), r ∈ d.pace.members) ∧
    (∃ (d : Dev) (r : Nat), (¬r ∈ d.pace.members)) ∧
    (∃ (s : State) (r : Nat), r < 236 ∧ (pacerOf s.dev r).state = PacerState.trimming) ∧
    (∃ (s : State) (r : Nat), r < 236 ∧ (pacerOf s.dev r).state ≠ PacerState.trimming) ∧
    (∃ (r : Nat) (level : BitVec 2), r < 236 ∧ level ≠ 3) ∧
    (∃ (s : State) (r : Nat), r < 236 ∧ 1024 ≤ (pacerOf s.dev r).critRun) :=
  ⟨⟨sJMembers.dev, 0, by decide +kernel⟩,
    ⟨sPaceSame.dev, 6, by decide +kernel⟩,
    ⟨sPacerLate, 235, by decide +kernel⟩,
    ⟨sPowerStr, 38, by decide +kernel⟩,
    ⟨38, 0, by decide +kernel⟩,
    ⟨sCritical, 235, by decide +kernel⟩⟩

def sPowerWin : State := st { rdy with pace := { ceilRun := 99, ceil := 0x9F, cur := 0x29 } }
/-- States and operands that meet the hypotheses of `Obligations.Pacing`. -/
theorem test_pacing_3 :
    (∃ (s : State) (r : Nat), r < 236 ∧ (pacerOf s.dev r).critRun < 1024) ∧
    (∃ (s : State) (w : Nat), (max 1500 (min 3200 s.dev.pace.limit.toNat)) < w) ∧
    (∃ (s : State) (w : Nat), w ≤ (max 1500 (min 3200 s.dev.pace.limit.toNat)) ∧ (decide (100 * w ≤ 97 * (max 1500 (min 3200
        s.dev.pace.limit.toNat)))) = true ∧ 99 ≤ s.dev.pace.ceilRun) ∧
    (∃ (s : State) (w : Nat), w ≤ (max 1500 (min 3200 s.dev.pace.limit.toNat)) ∧ (decide (100 * w ≤ 97 * (max 1500 (min 3200
        s.dev.pace.limit.toNat)))) = true ∧ s.dev.pace.ceilRun < 99) ∧
    (∃ (s : State) (w : Nat), w ≤ (max 1500 (min 3200 s.dev.pace.limit.toNat)) ∧ (decide (100 * w ≤ 97 * (max 1500 (min 3200
        s.dev.pace.limit.toNat)))) = false) ∧
    (∃ (d : Dev), BitVec.toNat d.pace.cur ≤ paceN d) :=
  ⟨⟨sPowerStr, 38, by decide +kernel⟩,
    ⟨sPowerStr, 8192, by decide +kernel⟩,
    ⟨sPowerWin, 0, by decide +kernel⟩,
    ⟨sPaceSame, 0, by decide +kernel⟩,
    ⟨sPaceSame, 3200, by decide +kernel⟩,
    ⟨sPaceSame.dev, by decide +kernel⟩⟩

/-- States and operands that meet the hypotheses of `Obligations.Pacing`. -/
theorem test_pacing_4 :
    (∃ (s : State) (w : Nat), max (max 1500 (min 3200 s.dev.pace.limit.toNat)) (min 3600 s.dev.pace.fast.toNat) < w ∧
        s.dev.pace.pstr = false) ∧
    (∃ (s : State) (w : Nat), (w ≤ max (max 1500 (min 3200 s.dev.pace.limit.toNat)) (min 3600 s.dev.pace.fast.toNat) ∨
        s.dev.pace.pstr = true)) :=
  ⟨⟨sPowerStr, 8192, by decide +kernel⟩,
    ⟨sPaceSame, 0, by decide +kernel⟩⟩

def sCoresOk : State := ctxS 3 {}
def sDoorbellOff : State := ctxS 3 {}
def sJDoorOff : State := hostS {}
def sJDoorSyll : State := st { rdy with host := { syll := false } }
/-- States and operands that meet the hypotheses of `Obligations.HostJobs`. -/
theorem test_hostJobs_1 :
    (∃ (s : State) (k : Nat) (bs : List Byte), k < 4 ∧ served s ∧ (bs.length = 4 ∨ bs.length = 8)) ∧
    (∃ (s : State) (k : Nat) (off : Nat) (bs : List Byte), k < 4 ∧ served s ∧ bs ≠ [] ∧ off + bs.length ≤ 65536 ∧ off + bs.length ≤
        1024) ∧
    (∃ (s : State) (k : Nat) (off : Nat) (bs : List Byte), k < 4 ∧ served s ∧ bs ≠ [] ∧ off + bs.length ≤ 65536 ∧ off < 4104 ∧ 4096
        < off + bs.length ∧ (off ≠ 4096 ∨ bs.length ≠ 4 ∧ bs.length ≠ 8) ∧ (off ≠ 4100 ∨ bs.length ≠ 4)) ∧
    (∃ (s : State) (k : Nat) (off : Nat) (bs : List Byte), k < 4 ∧ awake s ∧ syllActive s.dev = false ∧ bs ≠ [] ∧ off + bs.length ≤
        65536) ∧
    (∃ (k : Nat) (d : Dev) (off : Nat) (bs : List Byte) (o : Nat), k < 4 ∧ off ≤ o ∧ o < off + bs.length ∧ pendCount (ctxOf d k) =
        0) ∧
    (∃ (s : State) (k : Nat), k < 4 ∧ ((ctxOf s.dev k).en = false ∨ ctxFault s.dev k = true ∨ (ctxOf s.dev k).job ≠ none ∨ (ctxOf
        s.dev k).tail = (ctxOf s.dev k).head)) :=
  ⟨⟨sCoresOk, 1, ([16, 132, 0, 0]), by unfold served awake; decide +kernel⟩,
    ⟨sDoorbellOff, 1, 11, ([0, 0]), by unfold served awake; decide +kernel⟩,
    ⟨sJDoorOff, 0, 4099, ([0, 0]), by unfold served awake; decide +kernel⟩,
    ⟨sJDoorSyll, 0, 3, ((List.replicate 64 7)), by unfold awake; decide +kernel⟩,
    ⟨0, sDoorbellOff.dev, 7, ([16, 132, 0, 0]), 7, by decide +kernel⟩,
    ⟨sCoresOk, 0, by decide +kernel⟩⟩

def sEn1 : State := ctxS 1 { en := true, head := 5, tail := 9 }
def sTakeJob : State := on (ctxS 3 { en := true, tail := 1, cores := 3, slots := slots1 }) (fun d =>
    { d with pace := { pacers := [(0, { state := .stable, released := true }), (1, { state := .stable, released := true })] } })
def sStopTimeNo : State := ctxS 3 { en := true, head := 1, tail := 1, job := some job1 }
def sJJobDet : State := ctxS 3 { en := true, job := some { job1 with detained := true } }
def sStopTime : State := on (ctxS 3 { en := true, head := 1, tail := 1, job := some { job1 with stopReq := true } }) (fun d =>
    { d with cores := [(0, run0)] })
/-- States and operands that meet the hypotheses of `Obligations.HostJobs`. -/
theorem test_hostJobs_2 :
    (∃ (s : State) (k : Nat) (r : Nat), k < 4 ∧ (ctxOf s.dev k).en = true ∧ ctxFault s.dev k = false ∧ (ctxOf s.dev k).job = none ∧
        (ctxOf s.dev k).tail ≠ (ctxOf s.dev k).head ∧ descRefusal s.dev (ctxOf s.dev k) (ctxOf s.dev k).head = some r) ∧
    (∃ (s : State) (k : Nat), k < 4 ∧ (ctxOf s.dev k).en = true ∧ ctxFault s.dev k = false ∧ (ctxOf s.dev k).job = none ∧ (ctxOf
        s.dev k).tail ≠ (ctxOf s.dev k).head ∧ descRefusal s.dev (ctxOf s.dev k) (ctxOf s.dev k).head = none) ∧
    (∃ (s : State) (k : Nat) (j : Job), k < 4 ∧ (ctxOf s.dev k).job = some j ∧ (∃ v, v ∈ coreList j.cores ∧ jobCoreOver j (coreOf
        s.dev v) = false)) ∧
    (∃ (s : State) (k : Nat) (j : Job), k < 4 ∧ (ctxOf s.dev k).job = some j ∧ (∀ (v : Nat), v ∈ coreList j.cores → jobCoreOver j
        (coreOf s.dev v) = true)) ∧
    (∃ (s : State) (k : Nat) (j : Job), k < 4 ∧ (ctxOf s.dev k).job = some j ∧ j.detained = true) ∧
    (∃ (s : State) (k : Nat) (j : Job), k < 4 ∧ (ctxOf s.dev k).job = some j ∧ j.detained = false ∧ j.stopReq = true) :=
  ⟨⟨sEn1, 1, 7, by decide +kernel⟩,
    ⟨sTakeJob, 3, by decide +kernel⟩,
    ⟨sStopTimeNo, 3, (((ctxOf sStopTimeNo.dev 3).job).get (by decide +kernel)), by decide +kernel⟩,
    ⟨sJJobDet, 3, (((ctxOf sJJobDet.dev 3).job).get (by decide +kernel)), by decide +kernel⟩,
    ⟨sJJobDet, 3, (((ctxOf sJJobDet.dev 3).job).get (by decide +kernel)), by decide +kernel⟩,
    ⟨sStopTime, 3, (((ctxOf sStopTime.dev 3).job).get (by decide +kernel)), by decide +kernel⟩⟩

def sJJobHalt : State := on (ctxS 3 { en := true, job := some job1 }) (fun d =>
    { d with cores := [(0, { run0 with state := .halted }), (1, { run0 with state := .halted })] })
def sJobEnds : State := on (ctxS 3 { en := true, head := 1, tail := 1, cores := 3, job := some job1 }) (fun d =>
    { d with cores := [(0, { state := .halted }), (1, { state := .faulted })] })
def sTakeRefused : State := ctxS 3 { en := true, tail := 1, cores := 1, slots := slots1 }
/-- States and operands that meet the hypotheses of `Obligations.HostJobs`. -/
theorem test_hostJobs_3 :
    (∃ (s : State) (k : Nat) (j : Job), k < 4 ∧ (ctxOf s.dev k).job = some j ∧ j.detained = false ∧ j.stopReq = false ∧ (∀ (v :
        Nat), v ∈ coreList j.cores → (fun v => (coreOf s.dev v).state) v = PState.halted)) ∧
    (∃ (s : State) (k : Nat) (j : Job), k < 4 ∧ (ctxOf s.dev k).job = some j ∧ j.detained = false ∧ j.stopReq = false ∧ (∀ (v :
        Nat), v ∈ coreList j.cores → (fun v => (coreOf s.dev v).state) v ≠ PState.stopped) ∧ (∃ v, v ∈ coreList j.cores ∧ (fun v
        => (coreOf s.dev v).state) v = PState.faulted)) ∧
    (∃ (s : State) (k : Nat), k < 4 ∧ awake s ∧ (ctxOf s.dev k).tail = (ctxOf s.dev k).head) ∧
    (∃ (s : State) (k : Nat), k < 4 ∧ awake s ∧ (ctxOf s.dev k).tail = (ctxOf s.dev k).head + 1) ∧
    (∃ (s : State) (k : Nat) (value : Word), k < 4 ∧ awake s ∧ bit (BitVec.toNat value) 3 = false) ∧
    (∃ (s : State) (k : Nat) (value : Word), k < 4 ∧ awake s ∧ bit (BitVec.toNat value) 3 = true ∧ ((ctxOf (modCtx (clearFault s.dev
        (393472 + 256 * k)) k fun x =>
        { en := bit (BitVec.toNat value) 0, fence := bit (BitVec.toNat value) 1, remote := bit (BitVec.toNat value) 2, head := if (bit (BitVec.toNat value) 0 && !(ctxOf s.dev k).en) = true then 0 else x.head, tail := if (bit (BitVec.toNat value) 0 && !(ctxOf s.dev k).en) = true then 0 else x.tail, cpl := x.cpl, cores := x.cores, fences := x.fences, slots := x.slots, job := x.job })
        k).tail = (ctxOf (modCtx (clearFault s.dev (393472 + 256 * k)) k fun x =>
        { en := bit (BitVec.toNat value) 0, fence := bit (BitVec.toNat value) 1, remote := bit (BitVec.toNat value) 2, head := if (bit (BitVec.toNat value) 0 && !(ctxOf s.dev k).en) = true then 0 else x.head, tail := if (bit (BitVec.toNat value) 0 && !(ctxOf s.dev k).en) = true then 0 else x.tail, cpl := x.cpl, cores := x.cores, fences := x.fences, slots := x.slots, job := x.job })
        k).head)) :=
  ⟨⟨sJJobHalt, 3, (((ctxOf sJJobHalt.dev 3).job).get (by decide +kernel)), by decide +kernel⟩,
    ⟨sJobEnds, 3, (((ctxOf sJobEnds.dev 3).job).get (by decide +kernel)), by decide +kernel⟩,
    ⟨sCoresOk, 0, by unfold awake; decide +kernel⟩,
    ⟨sTakeRefused, 3, by unfold awake; decide +kernel⟩,
    ⟨sJDoorOff, 1, 34, by unfold awake; decide +kernel⟩,
    ⟨sCoresOk, 0, 4294967295, by unfold awake; decide +kernel⟩⟩

/-- States and operands that meet the hypotheses of `Obligations.HostJobs`. -/
theorem test_hostJobs_4 :
    (∃ (s : State) (k : Nat) (n : Nat) (value : Word), k < 4 ∧ awake s ∧ n < 8 ∧ ((ctxOf s.dev k).job = none ∧ (ctxOf s.dev k).tail
        = (ctxOf s.dev k).head ∧ (setBits (ctxOf s.dev k).cores.toNat (32 * n) 32 (BitVec.toNat value)) < 2 ^ gridCores s.dev ∧
        ∀ (j : Nat), j < 4 → j ≠ k → (ctxOf s.dev j).cores.toNat &&& (setBits (ctxOf s.dev k).cores.toNat (32 * n) 32
        (BitVec.toNat value)) = 0)) ∧
    (∃ (s : State) (k : Nat) (n : Nat) (value : Word), k < 4 ∧ awake s ∧ n < 8 ∧ (¬((ctxOf s.dev k).job = none ∧ (ctxOf s.dev
        k).tail = (ctxOf s.dev k).head ∧ (setBits (ctxOf s.dev k).cores.toNat (32 * n) 32 (BitVec.toNat value)) < 2 ^ gridCores
        s.dev ∧ ∀ (j : Nat), j < 4 → j ≠ k → (ctxOf s.dev j).cores.toNat &&& (setBits (ctxOf s.dev k).cores.toNat (32 * n) 32
        (BitVec.toNat value)) = 0))) :=
  ⟨⟨sCoresOk, 0, 0, 0, by unfold awake; decide +kernel⟩,
    ⟨sCoresOk, 0, 7, 44, by unfold awake; decide +kernel⟩⟩

def sJWinOff : State := st { rdy with host := { syll := false } }
def sJWinCause : State := hostS { winHi := 0xFFF }
def sJWinBad : State := on (hostS {}) (fun d =>
    { d with badWords := [32], hbm := (List.range 12).map (fun c => (c, { state := .ready })) })
def sD3 : State := hostS {}
/-- States and operands that meet the hypotheses of `Obligations.HostFunction`. -/
theorem test_hostFunction_1 :
    (∃ (k : Nat), k < 4) ∧
    (∃ (s : State) (off : Nat) (len : Nat) (bs : List Byte), 0 < len ∧ off + len ≤ 2 ^ 36 ∧ awake s ∧ (s.dev.host.winHi.toNat * 2 ^
        36 + off) % 4096 + len ≤ 4096 ∧ (syllActive s.dev = false ∨ pfault s.dev 393228 = true) ∧ bs.length = len) ∧
    (∃ (s : State) (off : Nat) (len : Nat) (cause : Nat), 0 < len ∧ off + len ≤ 2 ^ 36 ∧ awake s ∧ (s.dev.host.winHi.toNat * 2 ^ 36
        + off) % 4096 + len ≤ 4096 ∧ served s ∧ pfault s.dev 393228 = false ∧ boardPort (s.dev.host.winHi.toNat * 2 ^ 36 + off)
        = none ∧ windowCause s.dev (s.dev.host.winHi.toNat * 2 ^ 36 + off) len false = cause ∧ cause ≠ 0 ∧ cause ≠ 7) ∧
    (∃ (s : State) (off : Nat) (len : Nat) (g : Nat), 0 < len ∧ off + len ≤ 2 ^ 36 ∧ awake s ∧ (s.dev.host.winHi.toNat * 2 ^ 36 +
        off) % 4096 + len ≤ 4096 ∧ served s ∧ pfault s.dev 393228 = false ∧ boardPort (s.dev.host.winHi.toNat * 2 ^ 36 + off) =
        none ∧ windowCause s.dev (s.dev.host.winHi.toNat * 2 ^ 36 + off) len false = 7 ∧ rdBad s.dev (s.dev.host.winHi.toNat * 2
        ^ 36 + off) len = some g) ∧
    (∃ (s : State) (off : Nat) (len : Nat), 0 < len ∧ off + len ≤ 2 ^ 36 ∧ awake s ∧ (s.dev.host.winHi.toNat * 2 ^ 36 + off) % 4096
        + len ≤ 4096 ∧ served s ∧ pfault s.dev 393228 = false ∧ boardPort (s.dev.host.winHi.toNat * 2 ^ 36 + off) = none ∧
        addrKind s.dev (s.dev.host.winHi.toNat * 2 ^ 36 + off) = AddrKind.hbm ∧ windowCause s.dev (s.dev.host.winHi.toNat * 2 ^
        36 + off) len false = 0) ∧
    (∃ (s : State) (off : Nat) (len : Nat) (bs : List Byte) (cause : Nat), 0 < len ∧ off + len ≤ 2 ^ 36 ∧ awake s ∧
        (s.dev.host.winHi.toNat * 2 ^ 36 + off) % 4096 + len ≤ 4096 ∧ served s ∧ pfault s.dev 393228 = false ∧ bs.length = len ∧
        windowCause s.dev (s.dev.host.winHi.toNat * 2 ^ 36 + off) len true = cause ∧ cause ≠ 0) :=
  ⟨⟨0, by decide +kernel⟩,
    ⟨sJWinOff, 0, 4, ([1, 2, 3, 4]), by unfold awake; decide +kernel⟩,
    ⟨sJWinCause, 64, 64, 1, by unfold served awake; decide +kernel⟩,
    ⟨sJWinBad, 64, 256, 256, by unfold served awake; decide +kernel⟩,
    ⟨sD3, 0, 29, by unfold served awake; decide +kernel⟩,
    ⟨sJWinCause, 4, 4, ([1, 2, 3, 4]), 1, by unfold served awake; decide +kernel⟩⟩

def sJWinDet : State := on (hostS {}) (fun d =>
    { d with det := { device := true }, hbm := (List.range 12).map (fun c => (c, { state := .ready })) })
def sPerstUp : State := st rdy
def sJHdmaEmpty : State := on (hostS { hdma := [(0, { list := 0x1000 })], ctxs := [(0, { en := true })] }) (fun d =>
    { d with ttl := { state := .active, active := some ttBell }, fab := { rc := .complete, ag := .agreed } })
def sMsix : State := hostS { msixEn := true, msixPend := 0x8000 }
/-- States and operands that meet the hypotheses of `Obligations.HostFunction`. -/
theorem test_hostFunction_2 :
    (∃ (s : State) (off : Nat) (len : Nat) (bs : List Byte), 0 < len ∧ off + len ≤ 2 ^ 36 ∧ awake s ∧ (s.dev.host.winHi.toNat * 2 ^
        36 + off) % 4096 + len ≤ 4096 ∧ served s ∧ pfault s.dev 393228 = false ∧ bs.length = len ∧ windowCause s.dev
        (s.dev.host.winHi.toNat * 2 ^ 36 + off) len true = 0 ∧ s.dev.det.device = true) ∧
    (∃ (s : State) (off : Nat) (len : Nat) (bs : List Byte), 0 < len ∧ off + len ≤ 2 ^ 36 ∧ awake s ∧ (s.dev.host.winHi.toNat * 2 ^
        36 + off) % 4096 + len ≤ 4096 ∧ served s ∧ pfault s.dev 393228 = false ∧ bs.length = len ∧ windowCause s.dev
        (s.dev.host.winHi.toNat * 2 ^ 36 + off) len true = 0 ∧ s.dev.det.device = false ∧ addrKind s.dev (s.dev.host.winHi.toNat
        * 2 ^ 36 + off) = AddrKind.hbm ∧ s.dev.badWords = []) ∧
    (∃ (s : State) (c : Nat) (value : Word), c < 4 ∧ awake s ∧ (bit (BitVec.toNat value) 22 = false ∨ (hdmaOf s.dev c).busy = true ∨
        hdmaFault (modHdma (clearFault s.dev (395272 + 64 * c)) c fun h =>
        { list := h.list, count := BitVec.ofNat 16 (BitVec.toNat value), ctx := BitVec.ofNat 4 (bits (BitVec.toNat value) 16 4), pri := BitVec.ofNat 2 (bits (BitVec.toNat value) 20 2), busy := h.busy, last := h.last, errCnt := h.errCnt, strm := h.strm })
        c = true)) ∧
    (∃ (s : State) (c : Nat) (value : Word), c < 4 ∧ awake s ∧ bit (BitVec.toNat value) 22 = true ∧ (hdmaOf s.dev c).busy = false ∧
        (hdmaFault (modHdma (clearFault s.dev (395272 + 64 * c)) c fun h =>
        { list := h.list, count := BitVec.ofNat 16 (BitVec.toNat value), ctx := BitVec.ofNat 4 (bits (BitVec.toNat value) 16 4), pri := BitVec.ofNat 2 (bits (BitVec.toNat value) 20 2), busy := h.busy, last := h.last, errCnt := h.errCnt, strm := h.strm })
        c = false) ∧ BitVec.toNat value % 65536 ≠ 0) ∧
    (∃ (s : State) (c : Nat) (value : Word), c < 4 ∧ awake s ∧ bit (BitVec.toNat value) 22 = true ∧ (hdmaOf s.dev c).busy = false ∧
        (hdmaFault (modHdma (clearFault s.dev (395272 + 64 * c)) c fun h =>
        { list := h.list, count := BitVec.ofNat 16 (BitVec.toNat value), ctx := BitVec.ofNat 4 (bits (BitVec.toNat value) 16 4), pri := BitVec.ofNat 2 (bits (BitVec.toNat value) 20 2), busy := h.busy, last := h.last, errCnt := h.errCnt, strm := h.strm })
        c = false) ∧ BitVec.toNat value % 65536 = 0 ∧ (hdmaOf s.dev c).strm.xfers = []) ∧
    (∃ (s : State) (vec : Nat), vec < 16 ∧ awake s ∧ s.dev.host.msixEn = true ∧ s.dev.host.msixAll = false ∧ bit
        s.dev.host.msixPend.toNat vec = true) :=
  ⟨⟨sJWinDet, 4, 64, ((List.replicate 64 7)), by unfold served awake; decide +kernel⟩,
    ⟨sPerstUp, 1, 1, ([0]), by unfold served awake; decide +kernel⟩,
    ⟨sD3, 0, 455, by unfold awake; decide +kernel⟩,
    ⟨sD3, 1, 4294967295, by unfold awake; decide +kernel⟩,
    ⟨sJHdmaEmpty, 0, 5242880, by unfold awake; decide +kernel⟩,
    ⟨sMsix, 15, by unfold awake; decide +kernel⟩⟩

def sWinD3 : State := hostS { d3hot := true, winHi := 0xFFF }
/-- States and operands that meet the hypotheses of `Obligations.HostFunction`. -/
theorem test_hostFunction_3 :
    (∃ (s : State) (vec : Nat), vec < 16 ∧ awake s ∧ (s.dev.host.msixEn = false ∨ s.dev.host.msixAll = true ∨ bit
        s.dev.host.msixPend.toNat vec = false)) ∧
    (∃ (s : State), s.dev.rp.perstLow = false) ∧
    (∃ (s : State) (off : Nat) (size : Nat), awake s ∧ 0 < size ∧ off < 16777216 ∧ (¬(size = 4 ∧ off % 4 = 0)) ∧ (¬(size = 8 ∧ off %
        8 = 0))) ∧
    (∃ (s : State) (off : Nat), awake s ∧ off < 196608 ∧ off % 4 = 0) ∧
    (∃ (s : State) (v : Nat) (o : Nat), awake s ∧ v < gridCores s.dev ∧ o < 4096 ∧ o % 4 = 0 ∧ syllActive s.dev = true) ∧
    (∃ (s : State) (i : Instr) (off : Nat), s.dev.host.d3hot = true ∧ requestOffset s.dev i = some off) :=
  ⟨⟨sD3, 0, by unfold awake; decide +kernel⟩,
    ⟨sD3, by decide +kernel⟩,
    ⟨sD3, 3127646, 3, by unfold awake; decide +kernel⟩,
    ⟨sD3, 154776, by unfold awake; decide +kernel⟩,
    ⟨sD3, 146, 80, by unfold awake; decide +kernel⟩,
    ⟨sWinD3, (Instr.registerWrite 3 3 none), 3, by decide +kernel⟩⟩

/-- States and operands that meet the hypotheses of `Obligations.MailboxResponses`. -/
theorem test_mailboxResponses :
    (∃ (m : Mailbox), m.state ≠ MbState.busy) ∧
    (∃ (m : Mailbox), m.state = MbState.busy) :=
  ⟨⟨({ state := MbState.idle, count := 0, buf := [] }), by decide +kernel⟩,
    ⟨(mbox 3 [1]), by decide +kernel⟩⟩

def sDeliverNoMaster : State := st
    { rdy with host := {  }, prefect := { boot := .waiting, mb := mbox 3 (leBytes 8 0x1000 ++ leBytes 2 3) } }
def sJManBad : State := bootS .receiving (some { port := 12, nblk := 5 })
def sActivate : State := bootS .activating (some { port := 12, nblk := 3, manifest := some man1, verified := true })
def sJActivation : State := bootS .activating (some
    { port := 12, nblk := 3, verified := true, manifest := some { man1 with comps := [] }, blocks := [(0, []), (1, [])] })
/-- States and operands that meet the hypotheses of `Obligations.HostDelivery`. -/
theorem test_hostDelivery_1 :
    (∃ (s : State), prfAsked s.dev 3 = true) ∧
    (∃ (s : State), prfAsked s.dev 3 = false) ∧
    (∃ (s : State) (data : List Byte), (receiving s.dev = false ∨ (∀ (b : Bundle), s.dev.prefect.bundle = some b → b.port ≠ 12 ∨
        b.verified = true) ∨ data.length ≠ 65536)) ∧
    (∃ (s : State), (receiving s.dev = false ∨ ∀ (b : Bundle), s.dev.prefect.bundle = some b → b.port ≠ 12)) ∧
    (∃ (s : State), s.dev.prefect.boot ≠ BootState.activating) ∧
    (∃ (s : State) (fails : List Nat) (wrong : List (Nat × Nat × Byte)) (b : Bundle) (m : Manifest), s.dev.prefect.boot =
        BootState.activating ∧ s.dev.prefect.bundle = some b ∧ b.manifest = some m ∧ ((m.comps.all fun c => !fails.contains
        c.type && leNat (sha256 (mapGet [] (copied b m fails wrong) c.type)) == c.hash.toNat) = true)) :=
  ⟨⟨sDeliverNoMaster, by decide +kernel⟩,
    ⟨sJManBad, by decide +kernel⟩,
    ⟨sJManBad, (([16, 132, 1, 255] ++ List.replicate 33 0)), by decide +kernel⟩,
    ⟨sActivate, by decide +kernel⟩,
    ⟨sJManBad, by decide +kernel⟩,
    ⟨sJActivation, ([0]), ([]), ((sJActivation.dev.prefect.bundle).get (by decide +kernel)),
      (((((sJActivation.dev.prefect.bundle).get (by decide +kernel))).manifest).get (by decide +kernel)), by decide +kernel⟩⟩

/-- States and operands that meet the hypotheses of `Obligations.HostDelivery`. -/
theorem test_hostDelivery_2 :
    (∃ (s : State) (fails : List Nat) (wrong : List (Nat × Nat × Byte)) (b : Bundle) (m : Manifest), s.dev.prefect.boot =
        BootState.activating ∧ s.dev.prefect.bundle = some b ∧ b.manifest = some m ∧ ((m.comps.all fun c => !fails.contains
        c.type && leNat (sha256 (mapGet [] (copied b m fails wrong) c.type)) == c.hash.toNat) = false)) ∧
    (∃ (c : Nat), c < 12) ∧
    (∃ (p : Nat), p < 2) :=
  ⟨⟨sActivate, ([0, 0, 3]), ([(0, 0, 1), (0, 0, 1)]), ((sActivate.dev.prefect.bundle).get (by decide +kernel)),
      (((((sActivate.dev.prefect.bundle).get (by decide +kernel))).manifest).get (by decide +kernel)), by decide +kernel⟩,
    ⟨0, by decide +kernel⟩,
    ⟨0, by decide +kernel⟩⟩

def sJOfferWait : State := chainS { boot := .error }
def sOfferNo_active : State := chainS { boot := .active }
def sDataVerified : State := chainS
    { boot := .receiving, bundle := some { port := 11, nblk := 4, asked := 4, verified := true } }
def sDataPort : State := chainS { boot := .receiving, bundle := some { port := 10, nblk := 4, asked := 4 } }
def sData : State := chainS { boot := .receiving, bundle := some { port := 11, nblk := 4, asked := 4 } }
def sChainLost_receiving : State := chainS { boot := .receiving, bundle := some { port := 11, nblk := 4 }, chainLost := true }
/-- States and operands that meet the hypotheses of `Obligations.ChainDelivery`. -/
theorem test_chainDelivery_1 :
    (∃ (s : State) (p : Nat) (f : BitVec 256) (d : Dev), accepted s p f d ∧ ctlIs f 11 ∧ (d.prefect.boot = BootState.selfTest ∨
        d.prefect.boot = BootState.error)) ∧
    (∃ (s : State) (p : Nat) (f : BitVec 256) (d : Dev), accepted s p f d ∧ ctlIs f 11 ∧ (d.prefect.boot = BootState.active ∨
        d.prefect.boot = BootState.activating)) ∧
    (∃ (s : State) (p : Nat) (f : BitVec 256) (d : Dev) (b : Bundle), accepted s p f d ∧ ctlIs f 11 ∧ d.prefect.bundle = some b ∧
        b.verified = true ∧ d.prefect.boot ≠ BootState.selfTest ∧ d.prefect.boot ≠ BootState.error) ∧
    (∃ (s : State) (p : Nat) (f : BitVec 256) (d : Dev) (b : Bundle), accepted s p f d ∧ ctlIs f 11 ∧ (d.prefect.boot =
        BootState.receiving ∨ d.prefect.boot = BootState.recReceiving) ∧ d.prefect.bundle = some b ∧ d.prefect.chainLost = false
        ∧ b.port < 12 ∧ b.pfx = (BitVec.ofNat 128 (bits f.toNat 62 128))) ∧
    (∃ (s : State) (p : Nat) (f : BitVec 256) (d : Dev) (b : Bundle), accepted s p f d ∧ ctlIs f 11 ∧ (d.prefect.boot =
        BootState.receiving ∨ d.prefect.boot = BootState.recReceiving) ∧ d.prefect.bundle = some b ∧ b.verified = false ∧ (b.pfx
        ≠ (BitVec.ofNat 128 (bits f.toNat 62 128)) ∨ 12 ≤ b.port ∧ d.prefect.chainLost = false)) ∧
    (∃ (s : State) (p : Nat) (f : BitVec 256) (d : Dev) (b : Bundle), accepted s p f d ∧ ctlIs f 11 ∧ (d.prefect.boot =
        BootState.receiving ∨ d.prefect.boot = BootState.recReceiving) ∧ d.prefect.bundle = some b ∧ b.verified = false ∧
        d.prefect.chainLost = true ∧ b.pfx = (BitVec.ofNat 128 (bits f.toNat 62 128))) :=
  ⟨⟨sJOfferWait, 11, (ctlF 0xB (5 + 99 * 2 ^ 42)), (linkAccept sJOfferWait.dev 11 ((ctlF 0xB (5 + 99 * 2 ^ 42)))).1,
      by unfold accepted ctlIs; decide +kernel⟩,
    ⟨sOfferNo_active, 11, (ctlF 11 0), (linkAccept sOfferNo_active.dev 11 ((ctlF 11 0))).1,
      by unfold accepted ctlIs; decide +kernel⟩,
    ⟨sDataVerified, 11, (ctlF 11 5), (linkAccept sDataVerified.dev 11 ((ctlF 11 5))).1, ((((linkAccept sDataVerified.dev 11 ((ctlF
      11 5))).1).prefect.bundle).get (by decide +kernel)), by unfold accepted ctlIs; decide +kernel⟩,
    ⟨sDataPort, 11, (ctlF 11 6), (linkAccept sDataPort.dev 11 ((ctlF 11 6))).1, ((((linkAccept sDataPort.dev 11 ((ctlF 11
      6))).1).prefect.bundle).get (by decide +kernel)), by unfold accepted ctlIs; decide +kernel⟩,
    ⟨sData, 11, (ctlF 11 435406604599301), (linkAccept sData.dev 11 ((ctlF 11 435406604599301))).1, ((((linkAccept sData.dev 11
      ((ctlF 11 435406604599301))).1).prefect.bundle).get (by decide +kernel)), by unfold accepted ctlIs; decide +kernel⟩,
    ⟨sChainLost_receiving, 11, (ctlF 11 29360128), (linkAccept sChainLost_receiving.dev 11 ((ctlF 11 29360128))).1, ((((linkAccept
      sChainLost_receiving.dev 11 ((ctlF 11 29360128))).1).prefect.bundle).get (by decide +kernel)),
      by unfold accepted ctlIs; decide +kernel⟩⟩

def sOffer4 : State := chainS { boot := .waiting, source := .chain }
def sOfferRejected : State := chainS { boot := .recWaiting, rejected := [99] }
def sPull : State := chainS
    { boot := .activating, bundle := some { port := 12, nblk := 3, verified := true, blocks := [(2, [1, 2])] } }
/-- States and operands that meet the hypotheses of `Obligations.ChainDelivery`. -/
theorem test_chainDelivery_2 :
    (∃ (s : State) (p : Nat) (f : BitVec 256) (d : Dev), accepted s p f d ∧ ctlIs f 11 ∧ d.prefect.bundle = none ∧ d.prefect.boot =
        BootState.waiting ∧ d.prefect.source ≠ BootSource.recovery) ∧
    (∃ (s : State) (p : Nat) (f : BitVec 256) (d : Dev), accepted s p f d ∧ ctlIs f 11 ∧ d.prefect.bundle = none ∧ d.prefect.boot =
        BootState.recWaiting) ∧
    (∃ (s : State) (p : Nat) (f : BitVec 256) (d : Dev), accepted s p f d ∧ ctlIs f 12 ∧ d.prefect.bundle = none) ∧
    (∃ (s : State) (p : Nat) (f : BitVec 256) (d : Dev) (b : Bundle), accepted s p f d ∧ ctlIs f 12 ∧ d.prefect.bundle = some b ∧
        (b.verified = false ∨ (bits f.toNat 30 3) = 0 ∨ 4 < (bits f.toNat 30 3) ∨ b.nblk < (bits f.toNat 20 10) + (bits f.toNat
        30 3))) ∧
    (∃ (s : State) (p : Nat) (f : BitVec 256) (d : Dev) (b : Bundle), accepted s p f d ∧ ctlIs f 12 ∧ d.prefect.bundle = some b ∧
        b.verified = true ∧ 0 < (bits f.toNat 30 3) ∧ (bits f.toNat 30 3) ≤ 4 ∧ (bits f.toNat 20 10) + (bits f.toNat 30 3) ≤
        b.nblk) ∧
    (∃ (s : State) (p : Nat) (f : BitVec 256) (d : Dev), accepted s p f d ∧ ctlIs f 13 ∧ d.prefect.bundle = none) :=
  ⟨⟨sOffer4, 11, (ctlF 11 435406604599301), (linkAccept sOffer4.dev 11 ((ctlF 11 435406604599301))).1,
      by unfold accepted ctlIs; decide +kernel⟩,
    ⟨sOfferRejected, 11, (ctlF 11 435414120793087), (linkAccept sOfferRejected.dev 11 ((ctlF 11 435414120793087))).1,
      by unfold accepted ctlIs; decide +kernel⟩,
    ⟨sOffer4, 11, (ctlF 12 2), (linkAccept sOffer4.dev 11 ((ctlF 12 2))).1, by unfold accepted ctlIs; decide +kernel⟩,
    ⟨sData, 11, (ctlF 12 1028), (linkAccept sData.dev 11 ((ctlF 12 1028))).1, ((((linkAccept sData.dev 11 ((ctlF 12
      1028))).1).prefect.bundle).get (by decide +kernel)), by unfold accepted ctlIs; decide +kernel⟩,
    ⟨sPull, 11, (ctlF 12 2048), (linkAccept sPull.dev 11 ((ctlF 12 2048))).1, ((((linkAccept sPull.dev 11 ((ctlF 12
      2048))).1).prefect.bundle).get (by decide +kernel)), by unfold accepted ctlIs; decide +kernel⟩,
    ⟨sJOfferWait, 11, (ctlF 13 29360128), (linkAccept sJOfferWait.dev 11 ((ctlF 13 29360128))).1,
      by unfold accepted ctlIs; decide +kernel⟩⟩

def sDataUnasked : State := chainS { boot := .receiving, bundle := some { port := 11, nblk := 9, asked := 3 } }
def sChainNo : State := bootS .receiving none
def sJTakeOffers : State := chainS { boot := .waiting, offers := [(11, 5, 1)] }
/-- States and operands that meet the hypotheses of `Obligations.ChainDelivery`. -/
theorem test_chainDelivery_3 :
    (∃ (s : State) (p : Nat) (f : BitVec 256) (d : Dev) (b : Bundle), accepted s p f d ∧ ctlIs f 13 ∧ d.prefect.bundle = some b ∧
        (b.port ≠ p ∨ b.verified = true ∨ b.asked ≤ (bits f.toNat 20 10) ∨ mapGet? b.blocks (bits f.toNat 20 10) ≠ none ∨
        d.prefect.chainLost = true ∨ receiving d = false)) ∧
    (∃ (s : State) (p : Nat) (f : BitVec 256) (d : Dev) (b : Bundle), accepted s p f d ∧ ctlIs f 13 ∧ d.prefect.bundle = some b ∧
        b.port = p ∧ b.verified = false ∧ (bits f.toNat 20 10) < b.asked ∧ mapGet? b.blocks (bits f.toNat 20 10) = none ∧
        d.prefect.chainLost = false ∧ receiving d = true) ∧
    (∃ (s : State) (p : Nat) (f : BitVec 256) (d : Dev), accepted s p f d ∧ ctlIs f 14) ∧
    (∃ (d : Dev), d.prefect.offers = []) ∧
    (∃ (d : Dev) (q : Nat) (nblk : Nat) (pfx : BitVec 128) (rest : List (Nat × Nat × BitVec 128)), d.prefect.offers = (q, nblk, pfx)
        :: rest ∧ q < 12 ∧ (fabPort d q).state = PortState.boot ∧ d.prefect.boot = BootState.waiting ∧ d.prefect.source ≠
        BootSource.recovery ∧ (∀ (o : Nat × Nat × BitVec 128), o ∈ rest → q < o.fst ∧ ((fabPort d o.fst).state = PortState.boot
        → o.snd.snd ≠ pfx)) ∧ 4 ≤ nblk) ∧
    (∃ (d : Dev), (∀ (b : Bundle), d.prefect.bundle = some b → b.verified = true ∨ b.asked = b.nblk ∨ b.asked = List.length b.blocks
        + 4)) :=
  ⟨⟨sData, 11, (ctlF 13 5), (linkAccept sData.dev 11 ((ctlF 13 5))).1, ((((linkAccept sData.dev 11 ((ctlF 13
      5))).1).prefect.bundle).get (by decide +kernel)), by unfold accepted ctlIs; decide +kernel⟩,
    ⟨sDataUnasked, 11, (ctlF 13 29360128), (linkAccept sDataUnasked.dev 11 ((ctlF 13 29360128))).1, ((((linkAccept sDataUnasked.dev
      11 ((ctlF 13 29360128))).1).prefect.bundle).get (by decide +kernel)), by unfold accepted ctlIs; decide +kernel⟩,
    ⟨sOfferNo_active, 11, (ctlF 14 1), (linkAccept sOfferNo_active.dev 11 ((ctlF 14 1))).1,
      by unfold accepted ctlIs; decide +kernel⟩,
    ⟨sChainNo.dev, by decide +kernel⟩,
    ⟨sJTakeOffers.dev, 11, 5, 1, ([]), by decide +kernel⟩,
    ⟨sChainNo.dev, by decide +kernel⟩⟩

def sRepeatNo : State := bootS .receiving (some { port := 11, nblk := 4 })
def sRepeat : State := chainS
    { boot := .activating, bundle := some { port := 11, nblk := 4, verified := true, manifest := some man1 } }
/-- States and operands that meet the hypotheses of `Obligations.ChainDelivery`. -/
theorem test_chainDelivery_4 :
    (∃ (d : Dev) (b : Bundle), d.prefect.bundle = some b ∧ b.verified = false ∧ List.length b.blocks ≤ b.asked ∧ 0 < (min (4 -
        (b.asked - List.length b.blocks)) (b.nblk - b.asked))) ∧
    (∃ (s : State), s.dev.prefect.bundle = none) ∧
    (∃ (s : State) (b : Bundle), s.dev.prefect.bundle = some b ∧ b.verified = false) ∧
    (∃ (s : State) (b : Bundle) (m : Manifest), s.dev.prefect.bundle = some b ∧ b.verified = true ∧ b.manifest = some m) ∧
    (∃ (s : State), (s.dev.prefect.chainLost = false ∨ receiving s.dev = false)) ∧
    (∃ (s : State), receiving s.dev = true ∧ s.dev.prefect.chainLost = true) :=
  ⟨⟨sRepeatNo.dev, ((sRepeatNo.dev.prefect.bundle).get (by decide +kernel)), by decide +kernel⟩,
    ⟨sChainNo, by decide +kernel⟩,
    ⟨sRepeatNo, ((sRepeatNo.dev.prefect.bundle).get (by decide +kernel)), by decide +kernel⟩,
    ⟨sRepeat, ((sRepeat.dev.prefect.bundle).get (by decide +kernel)), (((((sRepeat.dev.prefect.bundle).get (by
      decide +kernel))).manifest).get (by decide +kernel)), by decide +kernel⟩,
    ⟨sChainNo, by decide +kernel⟩,
    ⟨sChainLost_receiving, by decide +kernel⟩⟩

def sStatus : State := prfS 1 []
def sPrfReserved0 : State := prfS 0 [1]
def sEntropy : State := prfS 2 []
def sJEntropy : State := st { rdy with prefect := { boot := .error } }
def sNonce : State := prfS 4 []
/-- States and operands that meet the hypotheses of `Obligations.PrefectCommands`. -/
theorem test_prefectCommands_1 :
    (∃ (s : State), prfAsked s.dev 1 = true) ∧
    (∃ (s : State) (c : Nat), prfAsked s.dev c = true ∧ c = mbCmd s.dev.prefect.mb ∧ (c = 0 ∨ 10 ≤ c)) ∧
    (∃ (s : State), prfAsked s.dev 2 = true) ∧
    (∃ (s : State), (s.dev.prefect.boot = BootState.error ∨ s.dev.prefect.boot = BootState.selfTest)) ∧
    (∃ (s : State), s.dev.prefect.boot ≠ BootState.error ∧ s.dev.prefect.boot ≠ BootState.selfTest) ∧
    (∃ (e : Dev), e.host.syll = true) :=
  ⟨⟨sStatus, by decide +kernel⟩,
    ⟨sPrfReserved0, 0, by decide +kernel⟩,
    ⟨sEntropy, by decide +kernel⟩,
    ⟨sJEntropy, by decide +kernel⟩,
    ⟨sNonce, by decide +kernel⟩,
    ⟨sNonce.dev, by decide +kernel⟩⟩

def sJSyll : State := st
    { rdy with host := { syll := false }, prefect := { boot := .receiving, bundle := some { port := 12, nblk := 3 } } }
def sEnrolUsed : State := on (prfS 5 [7, 0, 0, 0]) (fun d =>
    { d with fuses := { owner := [(7, { used := true })] } })
def sJRevoke : State := signedCmd 6 [7, 0, 0, 0] sigRevoke
theorem sJRevoke_read (off n : Nat) (h : off + n ≤ 784) :
    mbRead sJRevoke.dev.prefect.mb off n = ((signedBytes 6 [7, 0, 0, 0] sigRevoke).drop off).take n := signed_read 6 [7, 0, 0, 0] sigRevoke off n h
def sJCommitErr : State := on (prfS 7 []) (fun d => { d with prefect := { d.prefect with boot := .error } })
/-- States and operands that meet the hypotheses of `Obligations.PrefectCommands`. -/
theorem test_prefectCommands_2 :
    (∃ (e : Dev), e.host.syll = false) ∧
    (∃ (e : Dev) (b : Bundle), e.prefect.bundle = some b ∧ b.verified = false) ∧
    (∃ (s : State), prfAsked s.dev 4 = true) ∧
    (∃ (s : State), prfAsked s.dev 5 = true) ∧
    (∃ (s : State), prfAsked s.dev 6 = true) ∧
    (∃ (s : State), prfAsked s.dev 7 = true ∧ s.dev.prefect.boot = BootState.error) :=
  ⟨⟨sJSyll.dev, by decide +kernel⟩,
    ⟨sJSyll.dev, ((sJSyll.dev.prefect.bundle).get (by decide +kernel)), by decide +kernel⟩,
    ⟨sNonce, by decide +kernel⟩,
    ⟨sEnrolUsed, by decide +kernel⟩,
    ⟨sJRevoke, by
      unfold prfAsked mbCmd
      rw [sJRevoke_read 0 2 (by decide)]
      decide +kernel⟩,
    ⟨sJCommitErr, by decide +kernel⟩⟩

def sJCommitLen : State := prfS 7 [1]
def sJCommitBoot : State := on (signedCmd 7 [] sigCommit) (fun d => { d with prefect := { d.prefect with boot := .waiting } })
theorem sJCommitBoot_read (off n : Nat) (h : off + n ≤ 780) :
    mbRead sJCommitBoot.dev.prefect.mb off n = ((signedBytes 7 [] sigCommit).drop off).take n := signed_read 7 [] sigCommit off n h
def sCommitBad : State := on (prfS 7 []) (fun d =>
    { d with prefect := { d.prefect with nonce := some 5, mb := { state := .busy, buf := [(0, 7), (2, 4), (3, 3)] } } })
def sJCommit : State := signedCmd 7 [] sigCommit
theorem sJCommit_read (off n : Nat) (h : off + n ≤ 780) :
    mbRead sJCommit.dev.prefect.mb off n = ((signedBytes 7 [] sigCommit).drop off).take n := signed_read 7 [] sigCommit off n h
def sUnlock : State := on (prfS 8 (zeros 4)) (fun d => { d with prefect := { d.prefect with scopes := 0xF } })
def sJUnlock : State := signedCmd 8 [3, 0, 0, 0] sigRevoke
theorem sJUnlock_read (off n : Nat) (h : off + n ≤ 784) :
    mbRead sJUnlock.dev.prefect.mb off n = ((signedBytes 8 [3, 0, 0, 0] sigRevoke).drop off).take n := signed_read 8 [3, 0, 0, 0] sigRevoke off n h
/-- States and operands that meet the hypotheses of `Obligations.PrefectCommands`. -/
theorem test_prefectCommands_3 :
    (∃ (s : State), prfAsked s.dev 7 = true ∧ (¬s.dev.prefect.boot = BootState.error) ∧ (prfLen s.dev ≠ 772 ∨ prfField s.dev 1 3 ≠
        0)) ∧
    (∃ (s : State), prfAsked s.dev 7 = true ∧ (¬s.dev.prefect.boot = BootState.error) ∧ prfLen s.dev = 772 ∧ prfField s.dev 1 3 = 0
        ∧ s.dev.prefect.boot ≠ BootState.active) ∧
    (∃ (s : State), prfAsked s.dev 7 = true ∧ (¬s.dev.prefect.boot = BootState.error) ∧ prfLen s.dev = 772 ∧ prfField s.dev 1 3 = 0
        ∧ s.dev.prefect.boot = BootState.active ∧ authOk s.dev 7 0 false = false) ∧
    (∃ (s : State) (m : Manifest), prfAsked s.dev 7 = true ∧ (¬s.dev.prefect.boot = BootState.error) ∧ prfLen s.dev = 772 ∧ prfField
        s.dev 1 3 = 0 ∧ s.dev.prefect.boot = BootState.active ∧ authOk s.dev 7 0 false = true ∧ s.dev.prefect.active = some m) ∧
    (∃ (s : State), prfAsked s.dev 8 = true ∧ s.dev.prefect.boot = BootState.active ∧ prfField s.dev 1 3 = 0 ∧ prfLen s.dev = 4 ∧
        prfField s.dev 0 1 = 0) ∧
    (∃ (s : State), prfAsked s.dev 8 = true ∧ s.dev.prefect.boot = BootState.active ∧ prfField s.dev 1 3 = 0 ∧ prfLen s.dev = 776 ∧
        prfField s.dev 0 1 ≠ 0 ∧ prfField s.dev 0 1 ≤ 15 ∧ prfField s.dev 5 3 = 0) :=
  ⟨⟨sJCommitLen, by decide +kernel⟩,
    ⟨sJCommitBoot, by
      unfold prfAsked prfLen prfField mbField mbLen mbCmd
      rw [sJCommitBoot_read 0 2 (by decide),
        sJCommitBoot_read 2 2 (by decide),
        sJCommitBoot_read (8 + 1) 3 (by decide)]
      decide +kernel⟩,
    ⟨sCommitBad, by decide +kernel⟩,
    ⟨sJCommit, ((sJCommit.dev.prefect.active).get (by decide +kernel)), by
      unfold prfAsked prfLen prfField authOk mbBytes mbField mbLen mbCmd
      rw [sJCommit_read 0 2 (by decide),
        sJCommit_read 2 2 (by decide),
        sJCommit_read (8 + 1) 3 (by decide),
        sJCommit_read (8 + 0) 772 (by decide),
        sJCommit_read (8 + 0) 0 (by decide)]
      decide +kernel⟩,
    ⟨sUnlock, by decide +kernel⟩,
    ⟨sJUnlock, by
      unfold prfAsked prfLen prfField mbField mbLen mbCmd
      rw [sJUnlock_read 0 2 (by decide),
        sJUnlock_read (8 + 1) 3 (by decide),
        sJUnlock_read 2 2 (by decide),
        sJUnlock_read (8 + 0) 1 (by decide),
        sJUnlock_read (8 + 5) 3 (by decide)]
      decide +kernel⟩⟩

def sJUnlockErr : State := on (prfS 8 [0, 0, 0, 0]) (fun d => { d with prefect := { d.prefect with boot := .error } })
def sJUnlockBoot : State := on (prfS 8 [0, 0, 0, 0]) (fun d => { d with prefect := { d.prefect with boot := .waiting } })
def sJZeroErr : State := on (prfS 9 [0, 0, 0, 0]) (fun d => { d with prefect := { d.prefect with boot := .error } })
def sJZeroBad : State := prfS 9 [2, 0, 0, 0]
def sZeroise0 : State := prfS 9 (zeros 4)
def sJZeroSig : State := signedCmd 9 [1, 0, 0, 0] sigCommit
theorem sJZeroSig_read (off n : Nat) (h : off + n ≤ 784) :
    mbRead sJZeroSig.dev.prefect.mb off n = ((signedBytes 9 [1, 0, 0, 0] sigCommit).drop off).take n := signed_read 9 [1, 0, 0, 0] sigCommit off n h
/-- States and operands that meet the hypotheses of `Obligations.PrefectCommands`. -/
theorem test_prefectCommands_4 :
    (∃ (s : State), prfAsked s.dev 8 = true ∧ s.dev.prefect.boot = BootState.error ∧ prfField s.dev 0 1 = 0) ∧
    (∃ (s : State), prfAsked s.dev 8 = true ∧ (¬s.dev.prefect.boot = BootState.error) ∧ s.dev.prefect.boot ≠ BootState.active ∧
        prfField s.dev 0 4 = 0 ∧ prfLen s.dev = 4) ∧
    (∃ (s : State), prfAsked s.dev 9 = true ∧ s.dev.prefect.boot = BootState.error) ∧
    (∃ (s : State), prfAsked s.dev 9 = true ∧ (¬s.dev.prefect.boot = BootState.error) ∧ (1 < prfField s.dev 0 1 ∨ prfField s.dev 1 3
        ≠ 0)) ∧
    (∃ (s : State), prfAsked s.dev 9 = true ∧ (¬s.dev.prefect.boot = BootState.error) ∧ prfField s.dev 0 4 = 0) ∧
    (∃ (s : State), prfAsked s.dev 9 = true ∧ (¬s.dev.prefect.boot = BootState.error) ∧ prfField s.dev 0 4 = 1 ∧ prfLen s.dev = 776
        ∧ prfField s.dev 5 3 = 0 ∧ authOk s.dev 9 4 true = false) :=
  ⟨⟨sJUnlockErr, by decide +kernel⟩,
    ⟨sJUnlockBoot, by decide +kernel⟩,
    ⟨sJZeroErr, by decide +kernel⟩,
    ⟨sJZeroBad, by decide +kernel⟩,
    ⟨sZeroise0, by decide +kernel⟩,
    ⟨sJZeroSig, by
      unfold prfAsked prfLen prfField authOk mbBytes mbField mbLen mbCmd
      rw [sJZeroSig_read 0 2 (by decide),
        sJZeroSig_read (8 + 0) 4 (by decide),
        sJZeroSig_read 2 2 (by decide),
        sJZeroSig_read (8 + 5) 3 (by decide),
        sJZeroSig_read (8 + 4) 772 (by decide)]
      decide +kernel⟩⟩

def sJZero : State := signedCmd 9 [1, 0, 0, 0] sigZeroise
theorem sJZero_read (off n : Nat) (h : off + n ≤ 784) :
    mbRead sJZero.dev.prefect.mb off n = ((signedBytes 9 [1, 0, 0, 0] sigZeroise).drop off).take n := signed_read 9 [1, 0, 0, 0] sigZeroise off n h
/-- States and operands that meet the hypotheses of `Obligations.PrefectCommands`. -/
theorem test_prefectCommands_5 :
    (∃ (s : State), prfAsked s.dev 9 = true ∧ (¬s.dev.prefect.boot = BootState.error) ∧ prfField s.dev 0 4 = 1 ∧ prfLen s.dev = 776
        ∧ prfField s.dev 5 3 = 0 ∧ authOk s.dev 9 4 true = true) ∧
    (∃ (s : State) (c : Nat), prfAsked s.dev c = false ∧ c = 1) ∧
    (∃ (s : State) (c : Nat), prfAsked s.dev c = false ∧ c = 2) ∧
    (∃ (s : State) (c : Nat), prfAsked s.dev c = false ∧ c = 4) ∧
    (∃ (s : State) (c : Nat), prfAsked s.dev c = false ∧ c = 5) ∧
    (∃ (s : State) (c : Nat), prfAsked s.dev c = false ∧ c = 6) :=
  ⟨⟨sJZero, by
      unfold prfAsked prfLen prfField authOk mbBytes mbField mbLen mbCmd
      rw [sJZero_read 0 2 (by decide),
        sJZero_read (8 + 0) 4 (by decide),
        sJZero_read 2 2 (by decide),
        sJZero_read (8 + 5) 3 (by decide),
        sJZero_read (8 + 4) 772 (by decide)]
      decide +kernel⟩,
    ⟨sNonce, 1, by decide +kernel⟩,
    ⟨sNonce, 2, by decide +kernel⟩,
    ⟨sStatus, 4, by decide +kernel⟩,
    ⟨sEntropy, 5, by decide +kernel⟩,
    ⟨sStatus, 6, by decide +kernel⟩⟩

def sPrfReserved10 : State := prfS 10 [1]
/-- States and operands that meet the hypotheses of `Obligations.PrefectCommands`. -/
theorem test_prefectCommands_6 :
    (∃ (s : State) (c : Nat), prfAsked s.dev c = false ∧ c = 7) ∧
    (∃ (s : State) (c : Nat), prfAsked s.dev c = false ∧ c = 8) ∧
    (∃ (s : State) (c : Nat), prfAsked s.dev c = false ∧ c = 9) :=
  ⟨⟨sPrfReserved10, 7, by decide +kernel⟩,
    ⟨sEntropy, 8, by decide +kernel⟩,
    ⟨sJCommitLen, 9, by decide +kernel⟩⟩

def sSpdmBusy_getDigests : State := bootS .waiting none
def sSpdm_early : State := spdmS { version := true }
def sSpdm_getCertificate : State := spdmS
    { version := true, caps := true, algs := true, transcript := [3], measTranscript := [4] }
def sSpdm_getDigests : State := spdmS { version := true, caps := true, algs := true, transcript := [3], measTranscript := [4] }
/-- States and operands that meet the hypotheses of `Obligations.AttestationAndJtag`. -/
theorem test_attestationAndJtag_1 :
    (∃ (s : State) (t : SpdmPort) (req : List Byte) (r : Nat × Nat × Bool × Instr), (r ∈ ([(132, 4, true, Instr.getVersion t req),
        (225, 20, (spdmConn s.dev t).version && !(spdmConn s.dev t).caps && !(spdmConn s.dev t).algs, Instr.getCapabilities t
        req), (227, 32, (spdmConn s.dev t).caps && !(spdmConn s.dev t).algs, Instr.negotiateAlgorithms t req), (129, 4,
        (spdmConn s.dev t).algs, Instr.getDigests t req), (130, 8, (spdmConn s.dev t).algs, Instr.getCertificate t req), (131,
        36, (spdmConn s.dev t).algs, Instr.challenge t req), (224, if bit (leAt req 2 1) 0 = true then 37 else 4, (spdmConn
        s.dev t).algs, Instr.getMeasurements t req)])) ∧ spdmCode req ≠ r.fst) ∧
    (∃ (s : State) (t : SpdmPort) (req : List Byte) (r : Nat × Nat × Bool × Instr), (r ∈ ([(132, 4, true, Instr.getVersion t req),
        (225, 20, (spdmConn s.dev t).version && !(spdmConn s.dev t).caps && !(spdmConn s.dev t).algs, Instr.getCapabilities t
        req), (227, 32, (spdmConn s.dev t).caps && !(spdmConn s.dev t).algs, Instr.negotiateAlgorithms t req), (129, 4,
        (spdmConn s.dev t).algs, Instr.getDigests t req), (130, 8, (spdmConn s.dev t).algs, Instr.getCertificate t req), (131,
        36, (spdmConn s.dev t).algs, Instr.challenge t req), (224, if bit (leAt req 2 1) 0 = true then 37 else 4, (spdmConn
        s.dev t).algs, Instr.getMeasurements t req)])) ∧ spdmCode req = r.fst ∧ s.dev.prefect.boot ≠ BootState.active) ∧
    (∃ (s : State) (t : SpdmPort) (req : List Byte) (r : Nat × Nat × Bool × Instr), (r ∈ ([(132, 4, true, Instr.getVersion t req),
        (225, 20, (spdmConn s.dev t).version && !(spdmConn s.dev t).caps && !(spdmConn s.dev t).algs, Instr.getCapabilities t
        req), (227, 32, (spdmConn s.dev t).caps && !(spdmConn s.dev t).algs, Instr.negotiateAlgorithms t req), (129, 4,
        (spdmConn s.dev t).algs, Instr.getDigests t req), (130, 8, (spdmConn s.dev t).algs, Instr.getCertificate t req), (131,
        36, (spdmConn s.dev t).algs, Instr.challenge t req), (224, if bit (leAt req 2 1) 0 = true then 37 else 4, (spdmConn
        s.dev t).algs, Instr.getMeasurements t req)])) ∧ spdmCode req = r.fst ∧ s.dev.prefect.boot = BootState.active ∧
        r.snd.snd.fst = false) ∧
    (∃ (s : State) (t : SpdmPort) (req : List Byte) (r : Nat × Nat × Bool × Instr), (r ∈ ([(132, 4, true, Instr.getVersion t req),
        (225, 20, (spdmConn s.dev t).version && !(spdmConn s.dev t).caps && !(spdmConn s.dev t).algs, Instr.getCapabilities t
        req), (227, 32, (spdmConn s.dev t).caps && !(spdmConn s.dev t).algs, Instr.negotiateAlgorithms t req), (129, 4,
        (spdmConn s.dev t).algs, Instr.getDigests t req), (130, 8, (spdmConn s.dev t).algs, Instr.getCertificate t req), (131,
        36, (spdmConn s.dev t).algs, Instr.challenge t req), (224, if bit (leAt req 2 1) 0 = true then 37 else 4, (spdmConn
        s.dev t).algs, Instr.getMeasurements t req)])) ∧ spdmCode req = r.fst ∧ s.dev.prefect.boot = BootState.active ∧
        r.snd.snd.fst = true ∧ (leAt req 0 1 ≠ if r.fst = 132 then 16 else 18)) ∧
    (∃ (s : State) (t : SpdmPort) (req : List Byte) (r : Nat × Nat × Bool × Instr), (r ∈ ([(132, 4, true, Instr.getVersion t req),
        (225, 20, (spdmConn s.dev t).version && !(spdmConn s.dev t).caps && !(spdmConn s.dev t).algs, Instr.getCapabilities t
        req), (227, 32, (spdmConn s.dev t).caps && !(spdmConn s.dev t).algs, Instr.negotiateAlgorithms t req), (129, 4,
        (spdmConn s.dev t).algs, Instr.getDigests t req), (130, 8, (spdmConn s.dev t).algs, Instr.getCertificate t req), (131,
        36, (spdmConn s.dev t).algs, Instr.challenge t req), (224, if bit (leAt req 2 1) 0 = true then 37 else 4, (spdmConn
        s.dev t).algs, Instr.getMeasurements t req)])) ∧ spdmCode req = r.fst ∧ s.dev.prefect.boot = BootState.active ∧
        r.snd.snd.fst = true ∧ (leAt req 0 1 = if r.fst = 132 then 16 else 18) ∧ (req.length < r.snd.fst ∨ 4096 < req.length)) ∧
    (∃ (req : List Byte), spdmCode req ∈ [132, 225, 227, 129, 130, 131, 224]) :=
  ⟨⟨sSpdmBusy_getDigests, SpdmPort.pcie, ([]), ((132, 4, true, Instr.getVersion (SpdmPort.pcie) [])), by decide +kernel⟩,
    ⟨sSpdmBusy_getDigests, SpdmPort.smbus, ([16, 132, 0, 0]), ((132, 4, true, Instr.getVersion (SpdmPort.smbus) [16, 132, 0, 0])),
      by decide +kernel⟩,
    ⟨sSpdm_early, SpdmPort.smbus, ([16, 225, 1, 0, 0, 0, 0, 0]), ((225, 20, false, Instr.getCapabilities (SpdmPort.smbus) [16, 225,
      1, 0, 0, 0, 0, 0])), by decide +kernel⟩,
    ⟨sSpdm_getCertificate, SpdmPort.pcie, ([16, 129, 0, 255, 0, 0, 0, 0]), ((129, 4, true, Instr.getDigests (SpdmPort.pcie) [16,
      129, 0, 255, 0, 0, 0, 0])), by decide +kernel⟩,
    ⟨sSpdm_getDigests, SpdmPort.pcie, (([18, 224, 1, 5] ++ List.replicate 16 0)), ((224, 37, true, Instr.getMeasurements
      (SpdmPort.pcie) [18, 224, 1, 5, 0, 0, 0, 0, 0, 0, 0, 0, 0, 0, 0, 0, 0, 0, 0, 0])), by decide +kernel⟩,
    ⟨([18, 225, 1, 1]), by decide +kernel⟩⟩

def sJSpdmV : State := spdmS { version := true }
def sJSpdmC : State := spdmS { version := true, caps := true }
def sSpdm_meas9 : State := spdmS { version := true, caps := true, algs := true, transcript := [3], measTranscript := [4] }
/-- States and operands that meet the hypotheses of `Obligations.AttestationAndJtag`. -/
theorem test_attestationAndJtag_2 :
    (∃ (req : List Byte), (¬spdmCode req ∈ [132, 225, 227, 129, 130, 131, 224])) ∧
    (∃ (s : State) (req : List Byte), s.dev.prefect.boot = BootState.active ∧ spdmCode req = 132 ∧ leAt req 0 1 = 16 ∧ 4 ≤
        req.length ∧ req.length ≤ 4096) ∧
    (∃ (s : State) (t : SpdmPort) (req : List Byte), s.dev.prefect.boot = BootState.active ∧ leAt req 0 1 = 18 ∧ req.length ≤ 4096 ∧
        spdmCode req = 225 ∧ 20 ≤ req.length ∧ (spdmConn s.dev t).version = true ∧ (spdmConn s.dev t).caps = false ∧ (spdmConn
        s.dev t).algs = false) ∧
    (∃ (s : State) (t : SpdmPort) (req : List Byte), s.dev.prefect.boot = BootState.active ∧ leAt req 0 1 = 18 ∧ req.length ≤ 4096 ∧
        spdmCode req = 227 ∧ 32 ≤ req.length ∧ (spdmConn s.dev t).caps = true ∧ (spdmConn s.dev t).algs = false) ∧
    (∃ (s : State) (t : SpdmPort) (req : List Byte), s.dev.prefect.boot = BootState.active ∧ leAt req 0 1 = 18 ∧ req.length ≤ 4096 ∧
        (spdmConn s.dev t).algs = true ∧ spdmCode req = 129 ∧ 4 ≤ req.length) ∧
    (∃ (s : State) (t : SpdmPort) (req : List Byte), s.dev.prefect.boot = BootState.active ∧ leAt req 0 1 = 18 ∧ req.length ≤ 4096 ∧
        (spdmConn s.dev t).algs = true ∧ spdmCode req = 130 ∧ 8 ≤ req.length ∧ (leAt req 2 1 % 16 ≠ 0 ∨ (certChain s.dev).length
        ≤ leAt req 4 2)) :=
  ⟨⟨([]), by decide +kernel⟩,
    ⟨sJSpdmV, ([16, 132, 0, 0]), by decide +kernel⟩,
    ⟨sJSpdmV, SpdmPort.pcie, (([18, 225] ++ List.replicate 18 0)), by decide +kernel⟩,
    ⟨sJSpdmC, SpdmPort.pcie, (([18, 227] ++ List.replicate 30 0)), by decide +kernel⟩,
    ⟨sSpdm_meas9, SpdmPort.pcie, ([18, 129, 1, 0]), by decide +kernel⟩,
    ⟨sSpdm_getDigests, SpdmPort.pcie, (([18, 130, 1, 1] ++ List.replicate 33 0)), by decide +kernel⟩⟩

def sSpdm_chal3 : State := on (spdmS { version := true, caps := true, algs := true, transcript := [3], measTranscript := [4] })
    (fun d => { d with fuses := { keyKill := true } })
def sJSpdmK : State := on (spdmS { version := true, caps := true, algs := true }) (fun d =>
    { d with fuses := { d.fuses with keyKill := true } })
def sJSpdmA : State := spdmS { version := true, caps := true, algs := true }
/-- States and operands that meet the hypotheses of `Obligations.AttestationAndJtag`. -/
theorem test_attestationAndJtag_3 :
    (∃ (s : State) (t : SpdmPort) (req : List Byte), s.dev.prefect.boot = BootState.active ∧ leAt req 0 1 = 18 ∧ req.length ≤ 4096 ∧
        (spdmConn s.dev t).algs = true ∧ spdmCode req = 130 ∧ 8 ≤ req.length ∧ leAt req 2 1 % 16 = 0 ∧ leAt req 4 2 < (certChain
        s.dev).length) ∧
    (∃ (s : State) (t : SpdmPort) (req : List Byte), s.dev.prefect.boot = BootState.active ∧ leAt req 0 1 = 18 ∧ req.length ≤ 4096 ∧
        (spdmConn s.dev t).algs = true ∧ spdmCode req = 131 ∧ 36 ≤ req.length ∧ lifeCycle s.dev.fuses = 3) ∧
    (∃ (s : State) (t : SpdmPort) (req : List Byte), s.dev.prefect.boot = BootState.active ∧ leAt req 0 1 = 18 ∧ req.length ≤ 4096 ∧
        (spdmConn s.dev t).algs = true ∧ spdmCode req = 131 ∧ 36 ≤ req.length ∧ lifeCycle s.dev.fuses ≠ 3 ∧ leAt req 2 1 = 0 ∧
        (leAt req 3 1 = 0 ∨ leAt req 3 1 = 1 ∨ leAt req 3 1 = 255)) ∧
    (∃ (s : State) (t : SpdmPort) (req : List Byte), s.dev.prefect.boot = BootState.active ∧ leAt req 0 1 = 18 ∧ req.length ≤ 4096 ∧
        (spdmConn s.dev t).algs = true ∧ spdmCode req = 224 ∧ 4 ≤ req.length ∧ (leAt req 3 1 ≤ 9 ∨ leAt req 3 1 = 255) ∧ bit
        (leAt req 2 1) 0 = false) ∧
    (∃ (s : State) (t : SpdmPort) (req : List Byte), s.dev.prefect.boot = BootState.active ∧ leAt req 0 1 = 18 ∧ req.length ≤ 4096 ∧
        (spdmConn s.dev t).algs = true ∧ spdmCode req = 224 ∧ 4 ≤ req.length ∧ (leAt req 3 1 ≤ 9 ∨ leAt req 3 1 = 255) ∧ bit
        (leAt req 2 1) 0 = true ∧ 37 ≤ req.length ∧ lifeCycle s.dev.fuses = 3) ∧
    (∃ (s : State) (t : SpdmPort) (req : List Byte), s.dev.prefect.boot = BootState.active ∧ leAt req 0 1 = 18 ∧ req.length ≤ 4096 ∧
        (spdmConn s.dev t).algs = true ∧ spdmCode req = 224 ∧ 4 ≤ req.length ∧ (leAt req 3 1 ≤ 9 ∨ leAt req 3 1 = 255) ∧ bit
        (leAt req 2 1) 0 = true ∧ 37 ≤ req.length ∧ lifeCycle s.dev.fuses ≠ 3 ∧ leAt req 36 1 % 16 = 0) :=
  ⟨⟨sSpdm_chal3, SpdmPort.pcie, (([18, 130] ++ List.replicate 30 0)), by decide +kernel⟩,
    ⟨sJSpdmK, SpdmPort.pcie, (([18, 131] ++ List.replicate 34 0)), by decide +kernel⟩,
    ⟨sJSpdmA, SpdmPort.pcie, (([18, 131] ++ List.replicate 34 0)), by decide +kernel⟩,
    ⟨sJSpdmA, SpdmPort.pcie, ([18, 224, 0, 255, 0, 0, 0, 0]), by decide +kernel⟩,
    ⟨sJSpdmK, SpdmPort.pcie, (([18, 224, 1, 1] ++ List.replicate 33 0)), by decide +kernel⟩,
    ⟨sJSpdmA, SpdmPort.pcie, (([18, 224, 1, 255] ++ List.replicate 33 0)), by decide +kernel⟩⟩

def sJTogether : State := on (st rdy) (fun d =>
    { d with rp := { d.rp with lastKind := .cold, resetAt := some 0 }, glb := { d.glb with timeUs := 0 } })
def sJMem : State := on (st rdy) (fun d => { d with glb := { d.glb with timeUs := 5000 } })
/-- States and operands that meet the hypotheses of `Obligations.ResetEffects`. -/
theorem test_resetEffects :
    (∃ (d : Dev) (cause : Nat) (src : Nat), cause < 16 ∧ src < 65536 ∧ resetTogether d = true ∧ d.rp.lastKind = ResetKind.cold) ∧
    (∃ (d : Dev) (cause : Nat) (src : Nat) (a : Nat), cause < 16 ∧ src < 65536 ∧ resetTogether d = false ∧ copyCfg d = none ∧ a <
        17592186044416) ∧
    (∃ (d : Dev) (cause : Nat) (src : Nat) (a : Nat), cause < 16 ∧ src < 65536 ∧ resetTogether d = false ∧ copyCfg d = none ∧
        35184372088832 ≤ a ∧ a < 52776558133248) ∧
    (∃ (d : Dev) (cause : Nat) (src : Nat) (a : Nat), cause < 16 ∧ src < 65536 ∧ resetTogether d = false ∧ copyCfg d = none ∧
        52776558133248 ≤ a) :=
  ⟨⟨sJTogether.dev, 0, 3391, by decide +kernel⟩,
    ⟨sJMem.dev, 1, 54792, 0, by decide +kernel⟩,
    ⟨sJMem.dev, 0, 43298, 35184372092928, by decide +kernel⟩,
    ⟨sJMem.dev, 0, 32958, 52776558133248, by decide +kernel⟩⟩

def sWd : State := st rdy
def sPowerOn : State := st { rdy with rp := { rdy.rp with vauxOk := false } }
def sVinGoodOpen : State := st { rdy with rp := { rdy.rp with switchOpen := true } }
def sJVin : State := on (st rdy) (fun d => { d with rp := { d.rp with vinGood := false } })
/-- States and operands that meet the hypotheses of `Obligations.PowerAndResetSources`. -/
theorem test_powerAndResetSources_1 :
    (∃ (s : State), s.dev.rp.vauxOk = true) ∧
    (∃ (s : State), s.dev.rp.vauxOk = false) ∧
    (∃ (s : State), (s.dev.rp.switchOpen = true ∨ s.dev.rp.overvolt = true)) ∧
    (∃ (s : State), s.dev.rp.switchOpen = false ∧ s.dev.rp.overvolt = false ∧ s.dev.rp.vinGood = true) ∧
    (∃ (s : State), s.dev.rp.switchOpen = false ∧ s.dev.rp.overvolt = false ∧ s.dev.rp.vinGood = false) ∧
    (∃ (c : BitVec 8), c.toNat < 105) :=
  ⟨⟨sWd, by decide +kernel⟩,
    ⟨sPowerOn, by decide +kernel⟩,
    ⟨sVinGoodOpen, by decide +kernel⟩,
    ⟨sWd, by decide +kernel⟩,
    ⟨sJVin, by decide +kernel⟩,
    ⟨2, by decide +kernel⟩⟩

def sWarn : State := st { rdy with reg := { running := true } }
/-- States and operands that meet the hypotheses of `Obligations.PowerAndResetSources`. -/
theorem test_powerAndResetSources_2 :
    (∃ (s : State) (c : BitVec 8), 105 ≤ c.toNat ∧ s.dev.reg.fw = false) ∧
    (∃ (s : State) (c : BitVec 8), 105 ≤ c.toNat ∧ s.dev.reg.fw = true) ∧
    (∃ (s : State), awake s) :=
  ⟨⟨sWarn, 250, by decide +kernel⟩,
    ⟨sWd, 255, by decide +kernel⟩,
    ⟨sWd, by unfold awake; decide +kernel⟩⟩

def sRel1 : State := stepS 1 3
def sJStep1 : State := on (stepS 1 0) (fun d => { d with rp := { d.rp with vauxOk := false, resetInLow := true } })
def sRel2 : State := stepS 2 0
def sStrap : State := st rdy
def sJTrimV : State := on (stepS 3 0) (fun d => { d with rp := { d.rp with trimV := false } })
/-- States and operands that meet the hypotheses of `Obligations.ReleaseOrder`. -/
theorem test_releaseOrder_1 :
    (∃ (s : State), s.dev.rp.step = 1 ∧ s.dev.rp.vauxOk = true ∧ s.dev.rp.resetInLow = false) ∧
    (∃ (s : State), s.dev.rp.step = 1 ∧ (s.dev.rp.vauxOk = false ∨ s.dev.rp.resetInLow = true)) ∧
    (∃ (mv : List Nat) (x : Nat), (∀ (i : Nat), i < 8 → mv[i]? = some x)) ∧
    (∃ (s : State) (p : Nat), s.dev.rp.step = 2 ∧ p < 12) ∧
    (∃ (s : State), s.dev.rp.step ≠ 2) ∧
    (∃ (s : State), s.dev.rp.step = 3 ∧ s.dev.rp.trimV = false) :=
  ⟨⟨sRel1, by decide +kernel⟩,
    ⟨sJStep1, by decide +kernel⟩,
    ⟨([750, 750, 750, 750, 750, 750, 750, 750]), 750, by decide +kernel⟩,
    ⟨sRel2, 0, by decide +kernel⟩,
    ⟨sStrap, by decide +kernel⟩,
    ⟨sJTrimV, by decide +kernel⟩⟩

def sRelNot2 : State := stepS 3 0
def sRel4 : State := stepS 4 0
def sRel5 : State := stepS 5 0
def sRel5No : State := on (stepS 5 0) (fun d => { d with rp := { d.rp with vinGood := false } })
def sRel6 : State := stepS 6 3
/-- States and operands that meet the hypotheses of `Obligations.ReleaseOrder`. -/
theorem test_releaseOrder_2 :
    (∃ (s : State) (pass : Bool), s.dev.rp.step = 3 ∧ s.dev.rp.trimV = true ∧ pass = false) ∧
    (∃ (s : State) (pass : Bool), s.dev.rp.step = 3 ∧ s.dev.rp.trimV = true ∧ pass = true ∧ (lifeCycle s.dev.fuses ≠ 0 ∨
        s.dev.fuses.idMod ≠ 0)) ∧
    (∃ (s : State), s.dev.rp.step = 4) ∧
    (∃ (s : State), s.dev.rp.step = 5 ∧ s.dev.rp.vinGood = true ∧ s.dev.rp.perstLow = false ∧ s.dev.rp.resetInLow = false ∧
        s.dev.rp.thold = false ∧ s.dev.rp.switchOpen = false) ∧
    (∃ (s : State), s.dev.rp.step = 5 ∧ (s.dev.rp.vinGood = false ∨ s.dev.rp.perstLow = true ∨ s.dev.rp.resetInLow = true ∨
        s.dev.rp.thold = true ∨ s.dev.rp.switchOpen = true)) ∧
    (∃ (s : State), s.dev.rp.step = 6) :=
  ⟨⟨sRelNot2, false, by decide +kernel⟩,
    ⟨sRelNot2, true, by decide +kernel⟩,
    ⟨sRel4, by decide +kernel⟩,
    ⟨sRel5, by decide +kernel⟩,
    ⟨sRel5No, by decide +kernel⟩,
    ⟨sRel6, by decide +kernel⟩⟩

def sRel7a0 : State := on (stepS 7 0) (fun d => { d with pace := { pacers := [(224, { state := .inReset })] } })
def sRel7b0 : State := on (stepS 7 0) (fun d => { d with pace := { pacers := [(224, { state := .trimming })] } })
def sRel7c0 : State := on (stepS 7 0) (fun d => { d with pace := { pacers := [(224, { state := .stable })] } })
def sJDie : State := stepS 8 0
def sRel8a1 : State := stepS 8 1
def sRel8b1 : State := on (stepS 8 1) (fun d =>
    { d with pace := { pacers := sorted8 (rowRegions 0 0) |>.map (fun q => (q, { state := .stable })) } })
/-- States and operands that meet the hypotheses of `Obligations.ReleaseOrder`. -/
theorem test_releaseOrder_3 :
    (∃ (s : State), s.dev.rp.step = 7 ∧ (pacerOf s.dev (224 + s.dev.rp.turn)).state = PacerState.inReset) ∧
    (∃ (s : State), s.dev.rp.step = 7 ∧ (pacerOf s.dev (224 + s.dev.rp.turn)).state = PacerState.trimming) ∧
    (∃ (s : State), s.dev.rp.step = 7 ∧ ((pacerOf s.dev (224 + s.dev.rp.turn)).state = PacerState.stable ∨ (pacerOf s.dev (224 +
        s.dev.rp.turn)).state = PacerState.failed)) ∧
    (∃ (s : State) (die : Nat) (sub : Nat), (s.dev.rp.step = 8 ∧ die = 0 ∧ sub = s.dev.rp.turn ∨ s.dev.rp.step = 9 ∧ die = 1 +
        s.dev.rp.turn / 8 ∧ sub = s.dev.rp.turn % 8) ∧ sub = 0) ∧
    (∃ (s : State) (die : Nat) (sub : Nat), (s.dev.rp.step = 8 ∧ die = 0 ∧ sub = s.dev.rp.turn ∨ s.dev.rp.step = 9 ∧ die = 1 +
        s.dev.rp.turn / 8 ∧ sub = s.dev.rp.turn % 8) ∧ 0 < sub ∧ groupReady s.dev (rowRegions die (sub - 1)) = false) ∧
    (∃ (s : State) (die : Nat) (sub : Nat), (s.dev.rp.step = 8 ∧ die = 0 ∧ sub = s.dev.rp.turn ∨ s.dev.rp.step = 9 ∧ die = 1 +
        s.dev.rp.turn / 8 ∧ sub = s.dev.rp.turn % 8) ∧ 0 < sub ∧ groupReady s.dev (rowRegions die (sub - 1)) = true) :=
  ⟨⟨sRel7a0, by decide +kernel⟩,
    ⟨sRel7b0, by decide +kernel⟩,
    ⟨sRel7c0, by decide +kernel⟩,
    ⟨sJDie, 0, 0, by decide +kernel⟩,
    ⟨sRel8a1, 0, 1, by decide +kernel⟩,
    ⟨sRel8b1, 0, 1, by decide +kernel⟩⟩

def sRel10 : State := stepS 10 0
def sJFailed : State := on (stepS 9 8) (fun d =>
    { d with pace := { pacers := [(0, { state := .failed }), (1, { state := .failed })] } })
/-- States and operands that meet the hypotheses of `Obligations.ReleaseOrder`. -/
theorem test_releaseOrder_4 :
    (∃ (s : State), s.dev.rp.step = 10) ∧
    (∃ (s : State), (s.dev.rp.step = 0 ∨ 11 ≤ s.dev.rp.step)) ∧
    (∃ (e : Dev) (q : Nat), (pacerOf e q).state = PacerState.failed) ∧
    (∃ (e : Dev) (rs : List Nat) (c : Crossing), c.a ∈ rs ∧ c.a < 236 ∧ c.b < 236 ∧ (pacerOf e c.a).state = PacerState.stable ∧
        (pacerOf e c.b).state = PacerState.stable) :=
  ⟨⟨sRel10, by decide +kernel⟩,
    ⟨sStrap, by decide +kernel⟩,
    ⟨sJFailed.dev, 0, by decide +kernel⟩,
    ⟨sRel8b1.dev, ([0, 0, 1]), ({ a := 0, b := 3, kind := CrossKind.ringCore, fwd := 0, trip := 8 }), by decide +kernel⟩⟩

def sBlkNone : State := st rdy
def sJBlkPort : State := on (fabS { upQ with replay := [{ seq := 1, hdr := ctlF 2 3 }] } id) (fun d =>
    { d with rp := { d.rp with blockReset := some { block := 251, requester := 1, since := 0 } } })
def sBlkGoBusy : State := st { rdy with rp := { rdy.rp with blockReset := some { block := 3, requester := 0, since := 0 } } }
/-- States and operands that meet the hypotheses of `Obligations.BlockResets`. -/
theorem test_blockResets_1 :
    (∃ (s : State) (value : Word), awake s ∧ bit (BitVec.toNat value) 8 = false) ∧
    (∃ (s : State) (value : Word) (why : Nat), awake s ∧ bit (BitVec.toNat value) 8 = true ∧ blockRefused s.dev (BitVec.toNat value
        % 256) = why ∧ why ≠ 0) ∧
    (∃ (s : State) (value : Word) (v : Nat), awake s ∧ bit (BitVec.toNat value) 8 = true ∧ blockRefused s.dev (BitVec.toNat value %
        256) = 0 ∧ (BitVec.toNat value % 256) < 224 ∧ regionCore s.dev (BitVec.toNat value % 256) = some v) ∧
    (∃ (s : State) (value : Word), awake s ∧ bit (BitVec.toNat value) 8 = true ∧ blockRefused s.dev (BitVec.toNat value % 256) = 0 ∧
        224 ≤ (BitVec.toNat value % 256)) ∧
    (∃ (s : State) (b : BlockReset), s.dev.rp.blockReset = some b ∧ blockIsIdle s.dev (BitVec.toNat b.block) = false) ∧
    (∃ (s : State) (b : BlockReset), s.dev.rp.blockReset = some b ∧ blockIsIdle s.dev (BitVec.toNat b.block) = true) :=
  ⟨⟨sBlkNone, 4, by unfold awake; decide +kernel⟩,
    ⟨sBlkNone, 4294967295, 2, by unfold awake; decide +kernel⟩,
    ⟨sBlkNone, 211999059, 67, by unfold awake; decide +kernel⟩,
    ⟨sBlkNone, 498, by unfold awake; decide +kernel⟩,
    ⟨sJBlkPort, ((sJBlkPort.dev.rp.blockReset).get (by decide +kernel)), by decide +kernel⟩,
    ⟨sBlkGoBusy, ((sBlkGoBusy.dev.rp.blockReset).get (by decide +kernel)), by decide +kernel⟩⟩

def sBlkTime : State := on (st
    { rdy with rp := { rdy.rp with blockReset := some { block := 0xE0 - 0xE0, requester := 1, since := 0 } }, glb := { timeUs := 100 }, cores := [(0, { state := .running, ringSteps := [(0, 5)] })] })
    id
def sJBlkHbm : State := on (hbmS .ready) (fun d =>
    { d with rp := { d.rp with blockReset := some { block := 225, requester := 1, since := 0 } } })
def sJBlkTier : State := on (cxlS 1 { upPort with lines := [{ set := 0, way := 1, page := 0 }], hit := 5, logBank := true })
    (fun d => { d with rp := { d.rp with blockReset := some { block := 237, requester := 1, since := 0 } } })
/-- States and operands that meet the hypotheses of `Obligations.BlockResets`. -/
theorem test_blockResets_2 :
    (∃ (s : State) (b : BlockReset), s.dev.rp.blockReset = some b ∧ nowUs s.dev < b.since + blockTimeout s.dev) ∧
    (∃ (s : State) (b : BlockReset), s.dev.rp.blockReset = some b ∧ b.since + blockTimeout s.dev ≤ nowUs s.dev) ∧
    (∃ (s : State), s.dev.rp.blockReset = none) ∧
    (∃ (d : Dev) (b : BlockReset) (v : Nat), d.rp.blockReset = some b ∧ d.rp.blockQueue = [] ∧ BitVec.toNat b.block < 224 ∧
        regionCore d (BitVec.toNat b.block) = some v) ∧
    (∃ (d : Dev) (b : BlockReset) (c : Nat), d.rp.blockReset = some b ∧ d.rp.blockQueue = [] ∧ c < 12 ∧ BitVec.toNat b.block = 224 +
        c) ∧
    (∃ (d : Dev) (b : BlockReset) (p : Nat), d.rp.blockReset = some b ∧ d.rp.blockQueue = [] ∧ p < 2 ∧ BitVec.toNat b.block = 236 +
        p) :=
  ⟨⟨sBlkGoBusy, ((sBlkGoBusy.dev.rp.blockReset).get (by decide +kernel)), by decide +kernel⟩,
    ⟨sBlkTime, ((sBlkTime.dev.rp.blockReset).get (by decide +kernel)), by decide +kernel⟩,
    ⟨sBlkNone, by decide +kernel⟩,
    ⟨sBlkGoBusy.dev, ((sBlkGoBusy.dev.rp.blockReset).get (by decide +kernel)), 3, by decide +kernel⟩,
    ⟨sJBlkHbm.dev, ((sJBlkHbm.dev.rp.blockReset).get (by decide +kernel)), 1, by decide +kernel⟩,
    ⟨sJBlkTier.dev, ((sJBlkTier.dev.rp.blockReset).get (by decide +kernel)), 1, by decide +kernel⟩⟩

/-- States and operands that meet the hypotheses of `Obligations.BlockResets`. -/
theorem test_blockResets_3 :
    (∃ (d : Dev) (b : BlockReset) (p : Nat), d.rp.blockReset = some b ∧ d.rp.blockQueue = [] ∧ p < 12 ∧ BitVec.toNat b.block = 240 +
        p) :=
  ⟨sJBlkPort.dev, ((sJBlkPort.dev.rp.blockReset).get (by decide +kernel)), 11, by decide +kernel⟩

def sInfo : State := regS 1 []
def sLogRead1 : State := on (regS 3 (leBytes 4 0 ++ leBytes 2 1)) (fun d => logEvent (logEvent d 1 2 3 []) 2 3 4 [5])
def sTopoNot : State := regS 4 (leBytes 4 1 ++ leBytes 2 1)
def sPaceReqBad39 : State := regS 5 [39]
def sPaceReq40 : State := regS 5 [40]
def sSettingsRead : State := regS 7 []
/-- States and operands that meet the hypotheses of `Obligations.RegistrarCommands`. -/
theorem test_registrarCommands_1 :
    (∃ (s : State), regAsked s.dev 1 = true) ∧
    (∃ (s : State), regAsked s.dev 3 = true) ∧
    (∃ (s : State), regAsked s.dev 4 = true) ∧
    (∃ (s : State), regAsked s.dev 5 = true ∧ (¬(mbLen s.dev.reg.mb = 1 ∧ 40 ≤ (mbField s.dev.reg.mb 0 1) ∧ (mbField s.dev.reg.mb 0
        1) ≤ 160 ∧ s.dev.reg.fw = true ∧ s.dev.reg.write = none ∧ s.dev.reg.sag = none))) ∧
    (∃ (s : State), regAsked s.dev 5 = true ∧ mbLen s.dev.reg.mb = 1 ∧ 40 ≤ (mbField s.dev.reg.mb 0 1) ∧ (mbField s.dev.reg.mb 0 1)
        ≤ 160 ∧ s.dev.reg.fw = true ∧ s.dev.reg.write = none ∧ s.dev.reg.sag = none) ∧
    (∃ (s : State), regAsked s.dev 7 = true) :=
  ⟨⟨sInfo, by decide +kernel⟩,
    ⟨sLogRead1, by decide +kernel⟩,
    ⟨sTopoNot, by decide +kernel⟩,
    ⟨sPaceReqBad39, by decide +kernel⟩,
    ⟨sPaceReq40, by decide +kernel⟩,
    ⟨sSettingsRead, by decide +kernel⟩⟩

def sWdog10 : State := regS 10 (leBytes 4 10)
def sRegRes0 : State := regS 0 []
def sJPower : State := regS 6 [1]
/-- States and operands that meet the hypotheses of `Obligations.RegistrarCommands`. -/
theorem test_registrarCommands_2 :
    (∃ (s : State), regAsked s.dev 10 = true) ∧
    (∃ (s : State), regAsked s.dev (mbCmd s.dev.reg.mb) = true ∧ (mbCmd s.dev.reg.mb = 0 ∨ 11 ≤ mbCmd s.dev.reg.mb)) ∧
    (∃ (s : State), regAsked s.dev 6 = true) ∧
    (∃ (e : Dev) (v : Nat), v < gridCores e) ∧
    (∃ (s : State) (x : Nat × Instr), x ∈ [(1, Instr.info), (3, Instr.logRead), (4, Instr.topoRead), (5, Instr.paceReq), (6,
        Instr.powerState), (7, Instr.settingsRead), (10, Instr.watchdog)] ∧ regAsked s.dev x.fst = false) :=
  ⟨⟨sWdog10, by decide +kernel⟩,
    ⟨sRegRes0, by decide +kernel⟩,
    ⟨sJPower, by decide +kernel⟩,
    ⟨sInfo.dev, 40, by decide +kernel⟩,
    ⟨sInfo, ((3, Instr.logRead)), by decide +kernel⟩⟩

def sReNo : State := on (regS 8 []) (fun d =>
    { d with reg := { d.reg with write := some { body := [1], base := 0xB0000 } }, rp := { d.rp with huValid := false, ehMj := 9000 } })
def sPs0 : State := regS 6 [0]
def sSagNone : State := regS 9 []
def sSagEnd : State := on (regS 9 []) (fun d => { d with reg := { d.reg with sag := some { mw := 200000, v1 := 54000 } } })
/-- States and operands that meet the hypotheses of `Obligations.HoldUpAndSettings`. -/
theorem test_holdUpAndSettings_1 :
    (∃ (s : State), s.dev.reg.write ≠ none ∧ s.dev.reg.sag = none ∧ s.dev.rp.huValid = false ∧ s.dev.rp.vinGood = true) ∧
    (∃ (s : State), s.dev.reg.write = none ∧ s.dev.reg.sag = none ∧ regAsked s.dev 9 = false) ∧
    (∃ (s : State), s.dev.reg.write = none ∧ s.dev.reg.sag = none ∧ regAsked s.dev 9 = true) ∧
    (∃ (s : State) (g : Sag) (v2 : Nat) (ns : Nat), (s.dev.reg.sag = none ∨ s.dev.reg.sag = some g ∧ (20000 < ns ∨ ns < 20000 ∧ g.v1
        < v2 + 1000))) ∧
    (∃ (s : State) (g : Sag) (v2 : Nat) (ns : Nat), s.dev.reg.sag = some g ∧ (ns = 20000 ∨ ns < 20000 ∧ v2 + 1000 ≤ g.v1) ∧ 0 <
        (g.v1 * g.v1 - v2 * v2) ∧ (2 * g.mw * ns / (g.v1 * g.v1 - v2 * v2)) < 65536) ∧
    (∃ (s : State) (g : Sag) (v2 : Nat) (ns : Nat), s.dev.reg.sag = some g ∧ (ns = 20000 ∨ ns < 20000 ∧ v2 + 1000 ≤ g.v1) ∧ 0 <
        (g.v1 * g.v1 - v2 * v2) ∧ (g.mw * ns * (g.v1 * g.v1 - 41000 * 41000) / ((g.v1 * g.v1 - v2 * v2) * 1000000000)) < 65536) :=
  ⟨⟨sReNo, by decide +kernel⟩,
    ⟨sPs0, by decide +kernel⟩,
    ⟨sSagNone, by decide +kernel⟩,
    ⟨sPs0, ({ mw := 150000, v1 := 54000 }), 0, 0, by decide +kernel⟩,
    ⟨sSagEnd, ({ mw := 200000, v1 := 54000 }), 3, 0, by decide +kernel⟩,
    ⟨sSagEnd, ({ mw := 200000, v1 := 54000 }), 3, 0, by decide +kernel⟩⟩

def sJSagWrite : State := on (st rdy) (fun d =>
    { d with reg := { d.reg with sag := some { mw := 150000, v1 := 54000 }, write := some { body := List.replicate 64 3, base := 0xA0000 } } })
def sSetBad : State := regS 8 (zeros 64)
/-- States and operands that meet the hypotheses of `Obligations.HoldUpAndSettings`. -/
theorem test_holdUpAndSettings_2 :
    (∃ (s : State), s.dev.reg.sag ≠ none ∧ s.dev.reg.write ≠ none) ∧
    (∃ (s : State), s.dev.reg.sag ≠ none ∧ s.dev.reg.write = none) ∧
    (∃ (s : State), (regAsked s.dev 8 = false ∨ s.dev.reg.write ≠ none)) ∧
    (∃ (s : State), regAsked s.dev 8 = true ∧ s.dev.reg.write = none) ∧
    (∃ (s : State), (s.dev.reg.write = none ∨ s.dev.reg.sag ≠ none)) ∧
    (∃ (e : Dev) (w : FlashWrite), e.reg.write = some w ∧ energyOk e = false) :=
  ⟨⟨sJSagWrite, by decide +kernel⟩,
    ⟨sSagEnd, by decide +kernel⟩,
    ⟨sPs0, by decide +kernel⟩,
    ⟨sSetBad, by decide +kernel⟩,
    ⟨sPs0, by decide +kernel⟩,
    ⟨sReNo.dev, ((sReNo.dev.reg.write).get (by decide +kernel)), by decide +kernel⟩⟩

def sJFlash1 : State := on (st rdy) (fun d =>
    { d with reg := { d.reg with write := some { body := List.replicate 64 3, base := 0xA0000 } }, rp := { d.rp with huValid := true, ehMj := 60000, vinGood := true, vinMv := 54000 } })
def sJFlash2 : State := on (st rdy) (fun d =>
    { d with reg := { d.reg with write := some { body := List.replicate 64 3, base := 0xA0000, commit := true } }, rp := { d.rp with huValid := true, ehMj := 60000, vinGood := true, vinMv := 54000 } })
/-- States and operands that meet the hypotheses of `Obligations.HoldUpAndSettings`. -/
theorem test_holdUpAndSettings_3 :
    (∃ (e : Dev) (w : FlashWrite), e.reg.write = some w ∧ energyOk e = true ∧ w.commit = false) ∧
    (∃ (e : Dev) (w : FlashWrite), e.reg.write = some w ∧ energyOk e = true ∧ w.commit = true) ∧
    (∃ (e : Dev) (body : List Byte) (a : Nat), body.length = 64 ∧ settingsSeq e + 1 < 2 ^ 32 ∧ (List.Pairwise (fun p q => p.fst <
        q.fst) e.flash) ∧ (a < (spareCopy e) ∨ (spareCopy e) + 65536 ≤ a)) :=
  ⟨⟨sJFlash1.dev, ((sJFlash1.dev.reg.write).get (by decide +kernel)), by decide +kernel⟩,
    ⟨sJFlash2.dev, ((sJFlash2.dev.reg.write).get (by decide +kernel)), by decide +kernel⟩,
    ⟨sPs0.dev, ((List.replicate 64 0)), 0, by decide +kernel⟩⟩
/-- A 64 KiB block whose CRC holds: four bytes of ones bring the CRC register to zero, where zero bytes keep it (R45). -/
def blockOf (crc : List Byte) : List Byte := List.replicate 4 0xFF ++ List.replicate 65528 0 ++ crc
theorem crc_zeros (n : Nat) : (List.replicate n (0 : Byte)).foldl crcByte 0 = 0 := by
  induction n with
  | zero => rfl
  | succ n ih => rw [List.replicate_succ, List.foldl_cons, show crcByte 0 0 = 0 by decide, ih]
theorem blockOf_crc (crc : List Byte) : crc32c ((blockOf crc).take 65532) = 0xFFFFFFFF := by
  have h : (blockOf crc).take 65532 = List.replicate 4 0xFF ++ List.replicate 65528 0 :=
    List.take_left' (by simp [-List.reduceReplicate])
  rw [h, crc32c, List.foldl_append, show (List.replicate 4 (0xFF : Byte)).foldl crcByte 0xFFFFFFFF = 0 by decide, crc_zeros]
  decide
theorem blockOf_field (crc : List Byte) : leAt (blockOf crc) 65532 4 = leNat (slice crc 0 4) := by
  have h : (blockOf crc).drop 65532 = crc := List.drop_left' (by simp [-List.reduceReplicate])
  simp only [leAt, slice, h, List.drop_zero]
theorem error_of {α : Type} (x : Except Nat α) (e : Nat) (h : (match x with | .error a => a == e | .ok _ => false) = true) : x = .error e := by
  cases x with
  | error a => rw [eq_of_beq h]
  | ok _ => simp at h
theorem blockOf_length (crc : List Byte) (h : crc.length = 4) : (blockOf crc).length = 65536 := by
  simp [blockOf, h, -List.reduceReplicate]
/-- The block whose CRC holds, and the bundle of a delivery that has received blocks of the manifest's components. -/
def good : List Byte := blockOf [0xFF, 0xFF, 0xFF, 0xFF]
theorem good_crc : crc32c (good.take 65532) = leAt good 65532 4 := by rw [good, blockOf_crc, blockOf_field]; decide
def part (comps : List Component) (n nblk : Nat) : Bundle :=
  { port := 12, nblk := nblk, manifest := some { man1 with comps := comps }, blocks := (List.range n).map (fun i => (i, [])) }
/-- The bundle with the block that comes next. -/
def next (b : Bundle) (m : Manifest) : Bundle :=
  { b with manifest := some m, blocks := mapPut b.blocks b.blocks.length (good.take 65532) }
/-- The block completes a component whose hash does not match (R458). -/
def mismatch (b : Bundle) (m : Manifest) : Bool :=
  (m.comps.filter (fun c => decide (c.first ≤ b.blocks.length) && decide (b.blocks.length < c.first + c.blocks) &&
    compWhole (next b m) c)).any fun c => leNat (sha256 (compBytes (next b m) c)) != c.hash.toNat
/-- The hypotheses of `Obligations.HostDelivery` on a block of the host: a wrong CRC, a manifest that fails a check, a component with a
wrong hash, a block among others and the last one. -/
theorem test_hostDelivery_blocks :
    (∃ (s : State) (b : Bundle) (data : List Byte), s.dev.prefect.bundle = some b ∧ b.port = 12 ∧ b.verified = false ∧
      receiving s.dev = true ∧ data.length = 65536 ∧ crc32c (data.take 65532) ≠ leAt data 65532 4) ∧
    (∃ (s : State) (b : Bundle) (e : Nat), s.dev.prefect.bundle = some b ∧ b.port = 12 ∧ b.verified = false ∧
      receiving s.dev = true ∧ good.length = 65536 ∧ crc32c (good.take 65532) = leAt good 65532 4 ∧ b.blocks.length = 0 ∧
      manifestCheck s.dev (good.take 65532) b.nblk = .error e) ∧
    (∃ (s : State) (b : Bundle) (m : Manifest), s.dev.prefect.bundle = some b ∧ b.port = 12 ∧ b.verified = false ∧
      receiving s.dev = true ∧ b.blocks.length ≠ 0 ∧ b.manifest = some m ∧ mismatch b m = true) ∧
    (∃ (s : State) (b : Bundle) (m : Manifest), s.dev.prefect.bundle = some b ∧ b.port = 12 ∧ b.verified = false ∧
      receiving s.dev = true ∧ b.blocks.length ≠ 0 ∧ b.manifest = some m ∧ mismatch b m = false ∧ (next b m).blocks.length ≠ b.nblk) ∧
    (∃ (s : State) (b : Bundle) (m : Manifest), s.dev.prefect.bundle = some b ∧ b.port = 12 ∧ b.verified = false ∧
      receiving s.dev = true ∧ b.blocks.length ≠ 0 ∧ b.manifest = some m ∧ mismatch b m = false ∧ (next b m).blocks.length = b.nblk) :=
  ⟨⟨bootS .receiving (some (part [] 2 5)), part [] 2 5, blockOf [1, 2, 3, 4], rfl, rfl, rfl, by decide, blockOf_length _ rfl,
     by rw [blockOf_crc, blockOf_field]; decide⟩,
   ⟨bootS .receiving (some { port := 12, nblk := 5 }), { port := 12, nblk := 5 }, 2, rfl, rfl, rfl, by decide, blockOf_length _ rfl,
     good_crc, rfl, error_of _ _ (by decide +kernel)⟩,
   ⟨bootS .receiving (some (part man1.comps 1 5)), part man1.comps 1 5, man1, rfl, rfl, rfl, by decide, by decide, rfl, by decide +kernel⟩,
   ⟨bootS .receiving (some (part man1.comps 2 5)), part man1.comps 2 5, man1, rfl, rfl, rfl, by decide, by decide, rfl, by decide +kernel,
     by decide +kernel⟩,
   ⟨bootS .receiving (some (part [] 2 3)), part [] 2 3, { man1 with comps := [] }, rfl, rfl, rfl, by decide, by decide, rfl,
     by decide +kernel, by decide +kernel⟩⟩
theorem ok_of_isSome (x : Except Nat Timetable) (h : x.toOption.isSome = true) : ∃ t, x = .ok t := by
  cases x with
  | error e => simp [Except.toOption] at h
  | ok t => exact ⟨t, rfl⟩
theorem memRead_memWrite (m : List Host.Cell) (a : Nat) (bs : List Byte) : memRead (memWrite m a bs) a bs.length = bs := by
  apply List.ext_getElem
  · simp [memRead]
  · intro i h1 h2
    simp [memRead, memByte_write_in m a bs i h2]
theorem ttState_read : rdBytes ttState.dev 64 1356 = ttImg := by
  rw [rdBytes, if_pos (by decide +kernel), show (1356 : Nat) = ttImg.length by decide +kernel]
  exact memRead_memWrite [] 64 ttImg
theorem signed_of_ok (d : Dev) (img : List Byte) (t : Timetable) (h : ttCheck d img = .ok t) : ttSigned d img (leAt img 8 4) = true := by
  cases hs : ttSigned d img (leAt img 8 4) with
  | true => rfl
  | false =>
    simp only [ttCheck, hs] at h
    split at h <;> simp at h
theorem ttSigned_congr (d e : Dev) (img : List Byte) (n : Nat) (h : d.fuses.owner = e.fuses.owner)
    (hl : lifeCycle d.fuses = lifeCycle e.fuses) : ttSigned d img n = ttSigned e img n := by
  simp only [ttSigned, h, hl]
theorem ttImage_ok : ∃ t, ttCheck ttState.dev ttImg = .ok t := ok_of_isSome _ (by decide +kernel)
theorem ttDev_signed : ttSigned ttDev ttImg (leAt ttImg 8 4) = true := by
  obtain ⟨t, ht⟩ := ttImage_ok
  rw [ttSigned_congr ttDev ttState.dev ttImg _ rfl (by decide)]
  exact signed_of_ok _ _ t ht
/-- A signed image in HBM passes every check of R38: the hypotheses of `Obligations.TimetableLoad` for a load that begins. -/
theorem test_timetableLoad_image : ∃ (s : State) (addr n : Nat) (t : Timetable), regAsked s.dev 2 = true ∧
    s.dev.ttl.loading = none ∧ cxlSettled s.dev = true ∧ mbField s.dev.reg.mb 0 8 = addr ∧ mbField s.dev.reg.mb 8 4 = n ∧
    regGate s.dev 12 (addr % 64 == 0 && decide (addr + n ≤ hbmCap s.dev)) true true = 0 ∧
    jobActive s.dev = false ∧ rdBad s.dev addr n = none ∧ ttCheck s.dev (rdBytes s.dev addr n) = .ok t := by
  obtain ⟨t, ht⟩ := ttImage_ok
  exact ⟨ttState, 64, 1356, t, by decide +kernel, by decide +kernel, by decide +kernel, by decide +kernel, by decide +kernel, by decide +kernel,
    by decide +kernel, by decide +kernel, by rw [ttState_read]; exact ht⟩
/-- An image that fails a check, in HBM: the hypotheses of `Obligations.TimetableLoad` for a load that fails. -/
theorem test_timetableLoad_fails : ∃ (s : State) (e : Nat), regAsked s.dev 2 = true ∧ s.dev.ttl.loading = none ∧
    cxlSettled s.dev = true ∧ jobActive s.dev = false ∧
    (let addr := mbField s.dev.reg.mb 0 8
     let n := mbField s.dev.reg.mb 8 4
     regGate s.dev 12 (addr % 64 == 0 && decide (addr + n ≤ hbmCap s.dev)) true true = 0 ∧ rdBad s.dev addr n = none ∧
       ttCheck s.dev (rdBytes s.dev addr n) = .error e) :=
  ⟨ttReq 32 [], 1, by decide +kernel, by decide +kernel, by decide +kernel, by decide +kernel, by decide +kernel, by decide +kernel,
    error_of _ _ (by decide +kernel)⟩
/-- Images that meet the hypotheses of each check of `Obligations.TimetableLoad`: one too short, one whose size is too small, and the
signed one on a device of grade 2 and on one with another dark row. -/
theorem test_timetableLoad_checks :
    (∃ img : List Byte, img.length < 0x20) ∧
    (∃ img : List Byte, 0x20 ≤ img.length ∧ leAt img 0 4 = 0x3154544C ∧ leAt img 4 2 = 1 ∧ leAt img 8 4 < 0x20) ∧
    (∃ (d : Dev) (img : List Byte), 0x20 ≤ img.length ∧ leAt img 0 4 = 0x3154544C ∧ leAt img 4 2 = 1 ∧ 0x20 ≤ leAt img 8 4 ∧
      ttSigned d img (leAt img 8 4) = true ∧ leAt img 0x0C 1 ≠ d.fuses.grade.toNat) ∧
    (∃ (d : Dev) (img : List Byte), 0x20 ≤ img.length ∧ leAt img 0 4 = 0x3154544C ∧ leAt img 4 2 = 1 ∧ 0x20 ≤ leAt img 8 4 ∧
      ttSigned d img (leAt img 8 4) = true ∧ leAt img 0x0C 1 = d.fuses.grade.toNat ∧ leAt img 0x0D 2 ≠ ttlFuse d) := by
  refine ⟨⟨[], by decide⟩, ⟨ttImg.take 8 ++ zeros 24, by decide +kernel⟩, ⟨{ ttDev with fuses := { ttDev.fuses with grade := 2 } }, ttImg, ?_⟩,
    ⟨{ ttDev with fuses := { ttDev.fuses with dark0 := 2 } }, ttImg, ?_⟩⟩
  · refine ⟨by decide +kernel, by decide +kernel, by decide +kernel, by decide +kernel, ?_, by decide +kernel⟩
    exact (ttSigned_congr _ _ ttImg _ rfl (by decide)).trans ttDev_signed
  · refine ⟨by decide +kernel, by decide +kernel, by decide +kernel, by decide +kernel, ?_, by decide +kernel, by decide +kernel⟩
    exact (ttSigned_congr _ _ ttImg _ rfl (by decide)).trans ttDev_signed

/-! ### Ill-formed commands, one for each check, beside a well-formed one at its bound -/

theorem test_wellFormed_numbers :
    Instr.wellFormed (.prcStart 191) = true ∧ Instr.wellFormed (.prcStart 192) = false ∧
    Instr.wellFormed (.copy (.hdma 3) 0) = true ∧ Instr.wellFormed (.copy (.hdma 4) 0) = false ∧
    Instr.wellFormed (.ringHeader 65535 0) = true ∧ Instr.wellFormed (.ringHeader 65536 0) = false ∧
    Instr.wellFormed (.ringHeader 0 65535) = true ∧ Instr.wellFormed (.ringHeader 0 65536) = false ∧
    Instr.wellFormed (.transferComplete (.core 0) 1023) = true ∧ Instr.wellFormed (.transferComplete (.core 0) 1024) = false ∧
    Instr.wellFormed (.hostCompletionTimeout (.core 191) 0 .timeout) = true ∧ Instr.wellFormed (.hostCompletionTimeout (.core 192) 0 .timeout) = false ∧
    Instr.wellFormed (.bellArrivalSent 0 1015) = true ∧ Instr.wellFormed (.bellArrivalSent 0 1016) = false ∧
    Instr.wellFormed (.bellGenerationComplete 1023) = true ∧ Instr.wellFormed (.bellGenerationComplete 1024) = false ∧
    Instr.wellFormed (.taskTake 0 1) = true ∧ Instr.wellFormed (.taskTake 0 2) = false ∧
    Instr.wellFormed (.bellTransfer 191 0) = true ∧ Instr.wellFormed (.bellTransfer 192 0) = false ∧
    Instr.wellFormed (.fabTimeout 191 1023) = true ∧ Instr.wellFormed (.fabTimeout 191 1024) = false := by decide
theorem test_wellFormed_units :
    Instr.wellFormed (.refresh 11) = true ∧ Instr.wellFormed (.refresh 12) = false ∧
    Instr.wellFormed (.flush 1) = true ∧ Instr.wellFormed (.flush 2) = false ∧
    Instr.wellFormed (.cxlEnumerate 0 .gt64 16 true 0) = true ∧ Instr.wellFormed (.cxlEnumerate 0 .gt64 17 true 0) = false ∧
    Instr.wellFormed (.ackDue 11) = true ∧ Instr.wellFormed (.ackDue 12) = false ∧
    Instr.wellFormed (.rcReportTimeout 16383) = true ∧ Instr.wellFormed (.rcReportTimeout 16384) = false ∧
    Instr.wellFormed (.beat 235) = true ∧ Instr.wellFormed (.beat 236) = false ∧
    Instr.wellFormed (.marginStretch 0 2) = true ∧ Instr.wellFormed (.marginStretch 0 3) = false ∧
    Instr.wellFormed (.jobEnd 3 .ok) = true ∧ Instr.wellFormed (.jobEnd 4 .ok) = false ∧
    Instr.wellFormed (.coresWrite 3 7 0) = true ∧ Instr.wellFormed (.coresWrite 3 8 0) = false ∧
    Instr.wellFormed (.hdmaGo 3 0) = true ∧ Instr.wellFormed (.hdmaGo 4 0) = false ∧
    Instr.wellFormed (.msixUnmask 15) = true ∧ Instr.wellFormed (.msixUnmask 16) = false ∧
    Instr.wellFormed (.refresh 0) = true ∧ Instr.wellFormed (.refresh 13) = false ∧
    Instr.wellFormed (.poisonedResponse (.core 191) 0) = true ∧ Instr.wellFormed (.poisonedResponse (.core 192) 0) = false ∧
    Instr.wellFormed (.poisonedResponse (.xfer (.hdma 3) 1023) 0) = true ∧ Instr.wellFormed (.poisonedResponse (.xfer (.hdma 3) 1024) 0) = false := by decide
theorem test_wellFormed_data :
    Instr.wellFormed (.hbmAccess (some 191) 0 2 (some [1, 2]) .clean) = true ∧ Instr.wellFormed (.hbmAccess (some 192) 0 2 none .clean) = false ∧
    Instr.wellFormed (.hbmAccess none 0 1 none .clean) = true ∧ Instr.wellFormed (.hbmAccess none 0 0 none .clean) = false ∧
    Instr.wellFormed (.hbmAccess none (2 ^ 48 - 2) 2 none .clean) = true ∧ Instr.wellFormed (.hbmAccess none (2 ^ 48 - 1) 2 none .clean) = false ∧
    Instr.wellFormed (.hbmAccess none 0 1 (some [1]) .clean) = true ∧ Instr.wellFormed (.hbmAccess none 0 2 (some [1]) .clean) = false ∧
    Instr.wellFormed (.tierAccess none 0 1 none 3 .clean) = true ∧ Instr.wellFormed (.tierAccess none 0 1 none 4 .clean) = false ∧
    Instr.wellFormed (.eventRecordPoll 0 [List.replicate 128 0]) = true ∧ Instr.wellFormed (.eventRecordPoll 0 [List.replicate 129 0]) = false ∧
    Instr.wellFormed (.windowAccess (2 ^ 36 - 1) 1 none false) = true ∧ Instr.wellFormed (.windowAccess (2 ^ 36 - 1) 2 none false) = false ∧
    Instr.wellFormed (.doorbell 0 0xFFFF 1 none) = true ∧ Instr.wellFormed (.doorbell 0 0xFFFF 2 none) = false ∧
    Instr.wellFormed (.doorbell 3 0 4 (some [1, 2, 3, 4])) = true ∧ Instr.wellFormed (.doorbell 3 0 4 (some [1, 2, 3])) = false ∧
    Instr.wellFormed (.fabWrite 11 none []) = true ∧ Instr.wellFormed (.fabWrite 12 none []) = false ∧
    Instr.wellFormed (.getVersion .pcie [0x10, 0x84, 0, 0]) = true ∧ Instr.wellFormed (.getVersion .pcie [0x10]) = false ∧
    Instr.wellFormed (.registerWrite 0x203FFFF 8 (some 0)) = true ∧ Instr.wellFormed (.registerWrite 0x2040000 8 (some 0)) = false ∧
    Instr.wellFormed (.registerWrite 0 1 none) = true ∧ Instr.wellFormed (.registerWrite 0 0 none) = false ∧
    Instr.wellFormed (.scrub 11 (some (2 ^ 48 - 1, .single))) = true ∧ Instr.wellFormed (.scrub 11 (some (2 ^ 48, .single))) = false ∧
    Instr.wellFormed (.bundleBlock []) = false := by decide

/-! ### Hypotheses on plain data -/

/-- Codes that meet the hypotheses of `Obligations.FloatCodesRoundTrip`: the largest of each narrow format, and minus zero. -/
theorem test_floatCodesRoundTrip :
    ((fmtWideFloat .e2m1 || fmtNarrowFloat .e2m1) = true ∧ 0xF < 2 ^ fmtBits .e2m1 ∧ numIsNan (numDecode .e2m1 0xF) = false) ∧
    ((fmtWideFloat .e5m2 || fmtNarrowFloat .e5m2) = true ∧ 0x7B < 2 ^ fmtBits .e5m2 ∧ numIsNan (numDecode .e5m2 0x7B) = false) ∧
    ((fmtWideFloat .fp32 || fmtNarrowFloat .fp32) = true ∧ 0x80000000 < 2 ^ fmtBits .fp32 ∧
      numIsNan (numDecode .fp32 0x80000000) = false) := by decide +kernel
/-- 1.5, 2.5 and −2.5 to whole numbers in every mode, ties to even (R58; hypotheses of `Obligations.RoundingModes`). -/
theorem test_roundingModes :
    ((-1 : Int) < 0 ∧ 5 % 2 ≠ 0 ∧ 2 * (5 % 2) = 2) ∧ roundAt .rne false 3 (-1) 0 = 2 ∧ roundAt .rne false 5 (-1) 0 = 2 ∧
    roundAt .rtz false 5 (-1) 0 = 2 ∧ roundAt .rup false 5 (-1) 0 = 3 ∧ roundAt .rdn true 5 (-1) 0 = 3 ∧
    roundAt .rto false 5 (-1) 0 = 3 ∧ roundAt .rup true 5 (-1) 0 = 2 := by decide


/-- The boundary positions of `Obligations.WeightsLoadAndSwap`'s tile: a full FP4 tile and its last position. -/
theorem test_weightTile : ∃ (o : Operand) (k n r c j : Nat), o.fmt = .e2m1 ∧ r < 64 ∧ c < 64 ∧ j < packOf o.fmt ∧ k ≤ 64 * packOf o.fmt ∧
    n ≤ 64 ∧ packOf o.fmt * r + j + 1 = k ∧ c + 1 = n :=
  ⟨{ fmt := .e2m1, base := 0, sbase := 0, q := 64, blk := 16, dirCol := false, cols := 64 }, 64 * packOf .e2m1, 64, 63, 63, packOf .e2m1 - 1, by decide⟩
/-- Reset memory has its form, and from reset a command goes on (`StepKeepsMemoryForm`, `FusesOnlyBurn`). -/
theorem test_reset_memory : memOk State.reset := by unfold memOk; decide
theorem test_reset_steps : ∃ t, step ((State.reset).push .now) = .next t := ⟨_, rfl⟩

/-! ### The spec's worked values -/

/-- The CRC-32C of the bytes 31 to 39 (the algorithm's check value) and the SHA-256 of "abc" (FIPS 180-4). -/
theorem test_crc32c : crc32c [0x31, 0x32, 0x33, 0x34, 0x35, 0x36, 0x37, 0x38, 0x39] = 0xE3069283 := by decide +kernel
theorem test_sha256 : beNat (sha256 [0x61, 0x62, 0x63]) =
    0xba7816bf8f01cfea414140de5dae2223b00361a396177a9cb410ff61f20015ad := by decide +kernel
/-- The part of the worked example of 01_organisation.md: dark rows 2, 5, 0 and 6. -/
def darkPart : Dev :=
  { rdy with fuses := { dark0 := 2, dark1 := 5, dark2 := 0, dark3 := 6 }, ttl := { state := .active, active := some ttBell } }
/-- Its four distance-table entries of row 34 (R33). -/
theorem test_distances : [56, 193, 204, 205].map (distEntry darkPart 34) = [0x001D0107, 0x000E0003, 0x00130403, 0x0030050A] := by
  decide +kernel
/-- The HBM controller of address 0x0024_0001_2345 on TH4-288A (R295). -/
theorem test_hbmController : hbmCtlOf rdy 0x002400012345 = 6 := by decide +kernel
/-- A row of 16 FP32 values written to E2M1 with a scale (R65 to R68, worked example of 02_number_formats.md). -/
theorem test_scaleOnWrite :
    (fun b : Nat × List Nat => (b.1, packRow .e2m1 b.2)) (writeBlock .e2m1 .rne none ([0x3F400000, 0xC0200000, 0x41100000, 0x3DCCCCCD,
      0xC1300000, 0x40400000, 0, 0x80000000, 0x40866666, 0x3F800000, 0xC0D00000, 0x3E99999A, 0x40000000, 0x40FCCCCD, 0xBF19999A,
      0x40A00000].map (numDecode .fp32))) = (0x80, [0xA1, 0x06, 0x3F, 0x80, 0x14, 0x0D, 0x62, 0x49]) := by decide +kernel
/-- DSILU of minus infinity with b = 2.0 is minus zero; DSIGMOID of infinity with b minus infinity is a NaN (R571). -/
theorem test_derivatives : vopFloat 0x17 false (numRound .fp32 .rne) (.inf true) (.fin false 2 0) .nan = 0x80000000 ∧
    vopFloat 0x15 false (numRound .fp32 .rne) (.inf false) (.inf true) .nan = (fmtNan .fp32).getD 0 := by decide +kernel
/-- The first cadence of the worked example of 10_resilience.md: T² = 3,888 s² for C = 0.060 s and M = 32,400 s (R397, R398). -/
theorem test_cadence : (cadence { rdy with
    fab := { rc := .complete, id := 0, root := true }, copy := { costs := [16 * 60000] },
    ttl := { state := .active, active := some { ttBell with copy := some { cc 0 with elapsed0 := 604800, mtbf0 := 43200, fail0 := 19 } } }
    }).copy.tSq = 3888 * 10 ^ 12 := by decide +kernel

end Sys2Proof.Tests
end

section
/-!
What a store does where nothing redirects and no word holds an uncorrectable error (R10, R43): it writes memory itself, so the laws of
`memWrite` give what reads see afterwards.
-/
namespace Sys2Proof.Machine

/-- Such a store writes memory and nothing else. -/
theorem wrBytes_plain {d : Dev} (a : Nat) (bs : List Byte) (hp : plainMem d = true) (hb : d.badWords = []) :
    wrBytes d a bs = { d with mem := memWrite d.mem a bs } := by
  simp [wrBytes, wrBytes', wrPlace, hp, hb]

/-- Where nothing redirects, every address lies at itself. -/
theorem placeOf_plain {d : Dev} (a : Nat) (hp : plainMem d = true) : placeOf d a = a := by
  simp only [plainMem, Bool.and_eq_true, Option.isNone_iff_eq_none, List.isEmpty_iff] at hp
  obtain ⟨⟨hc, h0⟩, h1⟩ := hp
  have hline : ∀ p page, boardPort a = some p → lineOf d p page = none := by
    intro p page h
    unfold boardPort at h
    split at h
    · cases h; simp [lineOf, h0]
    · split at h
      · cases h; simp [lineOf, h1]
      · cases h
  simp only [placeOf, protRange, hc, Option.bind_none]
  cases h : boardPort a with
  | none => rfl
  | some p => simp [hline p _ h]

/-- A byte read where nothing redirects is the byte of memory. -/
theorem rdByte_plain {d : Dev} (a : Nat) (hp : plainMem d = true) : rdByte d a = memByte d.mem a := by
  rw [rdByte, placeOf_plain a hp]

/-- A run of bytes just written reads back. -/
theorem memRead_memWrite (m : List Host.Cell) (a : Nat) (bs : List Byte) : memRead (memWrite m a bs) a bs.length = bs := by
  apply List.ext_getElem
  · simp [memRead]
  · intro i _ hi
    simp [memRead, memByte_write_in m a bs i hi]

/-- Settles O25: a plain store is one `memWrite`, whose bytes read back and which leaves every other byte. -/
theorem storeReadsBack : Obligations.StoreReadsBack := by
  intro d a bs hp hb
  have hw := wrBytes_plain a bs hp hb
  have hp' : plainMem (wrBytes d a bs) = true := by rw [hw]; exact hp
  refine ⟨?_, fun x hx => ?_, wrBytes_wf d a bs⟩
  · rw [rdBytes, if_pos hp', hw]
    exact memRead_memWrite d.mem a bs
  · rw [rdByte_plain x hp', rdByte_plain x hp, hw]
    exact memByte_write_out d.mem a bs x hx

end Sys2Proof.Machine
end

section
/-!
What every operation keeps, whatever it does besides: a memory in canonical form stays so, and fuses only burn. The operations
that write neither are record updates (`Keeps.update`); those that write memory go through the laws of `memWrite`, `memClear`
and `memCopy`; those that burn a fuse go through `FusesBurn`. One lemma per operation, and its proof follows the definition:
`.ite` for a choice, `.foldl` for a loop, `.update` for a record update, and the lemma of each operation called.
-/
namespace Sys2Proof.Machine
open Sys2Proof.Safety

/-! ### Fuses that only burn (R4, R21, R474, R476, R477, R479, R496) -/

/-- The part that the fuses name: grade, silicon step, dark rows, half-bit and BLANK. -/
def Fuses.part (f : Fuses) : BitVec 4 × BitVec 4 × BitVec 3 × BitVec 3 × BitVec 3 × BitVec 3 × Bool × Bool :=
  (f.grade, f.step, f.dark0, f.dark1, f.dark2, f.dark3, f.half, f.blank)

/-- From one owner slot to another nothing is taken back: a used slot stays used and keeps its hash, a revoked one stays revoked. -/
structure OwnerBurns (k l : KeySlot) : Prop where
  used : k.used = true → l.used = true ∧ l.hash = k.hash
  revoked : k.revoked = true → l.revoked = true

/-- From one vendor slot to another only a revocation is added. -/
structure VendorBurns (k l : KeySlot) : Prop where
  hash : l.hash = k.hash
  revoked : k.revoked = true → l.revoked = true

/-- The fuses `g` come from `f` by burning alone. -/
structure FusesBurn (f g : Fuses) : Prop where
  part : g.part = f.part
  identity : lifeCycle f ≠ 0 ∨ f.idMod ≠ 0 → g.idMod = f.idMod ∧ g.idExp = f.idExp
  svn : f.svnMin ≤ g.svnMin
  kill : f.keyKill = true → g.keyKill = true
  owner : ∀ i, OwnerBurns (mapGet {} f.owner i) (mapGet {} g.owner i)
  vendor : ∀ i, VendorBurns (mapGet {} f.vendor i) (mapGet {} g.vendor i)

theorem OwnerBurns.refl (k : KeySlot) : OwnerBurns k k := ⟨fun h => ⟨h, rfl⟩, id⟩
theorem VendorBurns.refl (k : KeySlot) : VendorBurns k k := ⟨rfl, id⟩
theorem OwnerBurns.trans {k l m : KeySlot} (h : OwnerBurns k l) (g : OwnerBurns l m) : OwnerBurns k m :=
  ⟨fun hu => ⟨(g.used (h.used hu).1).1, (g.used (h.used hu).1).2.trans (h.used hu).2⟩, fun hr => g.revoked (h.revoked hr)⟩
theorem VendorBurns.trans {k l m : KeySlot} (h : VendorBurns k l) (g : VendorBurns l m) : VendorBurns k m :=
  ⟨g.hash.trans h.hash, fun hr => g.revoked (h.revoked hr)⟩

/-- A part is out of BLANK in the life cycle when its BLANK fuse is 0 or its keys are killed (R476). -/
theorem lifeCycle_ne_zero (f : Fuses) : lifeCycle f ≠ 0 ↔ f.keyKill = true ∨ f.blank = false := by
  unfold lifeCycle
  split
  · simp [*]
  · split
    · simp [*]
    · split <;> simp [*]

theorem FusesBurn.refl (f : Fuses) : FusesBurn f f :=
  ⟨rfl, fun _ => ⟨rfl, rfl⟩, Nat.le_refl _, id, fun _ => .refl _, fun _ => .refl _⟩

/-- Fuses that have left BLANK do not come back to it. -/
theorem FusesBurn.lifeCycle {f g : Fuses} (h : FusesBurn f g) (hf : lifeCycle f ≠ 0) : lifeCycle g ≠ 0 := by
  have hb : g.blank = f.blank := congrArg (fun p => p.2.2.2.2.2.2.2) h.part
  rw [lifeCycle_ne_zero] at hf ⊢
  exact hf.imp h.kill (hb.trans ·)

theorem FusesBurn.trans {f g k : Fuses} (h : FusesBurn f g) (h' : FusesBurn g k) : FusesBurn f k where
  part := h'.part.trans h.part
  identity hf := by
    obtain ⟨hm, he⟩ := h.identity hf
    obtain ⟨hm', he'⟩ := h'.identity (hf.imp h.lifeCycle (hm.symm ▸ ·))
    exact ⟨hm'.trans hm, he'.trans he⟩
  svn := h.svn.trans h'.svn
  kill hk := h'.kill (h.kill hk)
  owner i := (h.owner i).trans (h'.owner i)
  vendor i := (h.vendor i).trans (h'.vendor i)

/-- One slot of a table that burns, with every other slot as it was. -/
theorem mapGet_mapMod_rel {α : Type} {r : α → α → Prop} {z : α} {m : NMap α} {i : Nat} {f : α → α} (hr : ∀ k, r k k)
    (hf : r (mapGet z m i) (f (mapGet z m i))) (j : Nat) : r (mapGet z m j) (mapGet z (mapMod z m i f) j) := by
  by_cases hj : j = i
  · subst hj
    simpa [mapMod] using hf
  · rw [mapMod, mapGet_mapPut_other _ _ _ _ _ hj]
    exact hr _

/-- A burn of one owner slot. -/
theorem fusesBurn_owner {f : Fuses} {i : Nat} {k : KeySlot → KeySlot}
    (h : OwnerBurns (mapGet {} f.owner i) (k (mapGet {} f.owner i))) :
    FusesBurn f { f with owner := mapMod {} f.owner i k } :=
  { FusesBurn.refl f with owner := mapGet_mapMod_rel OwnerBurns.refl h }
/-- The revocation of a vendor slot. -/
theorem fusesBurn_vendor {f : Fuses} {i : Nat} :
    FusesBurn f { f with vendor := mapMod {} f.vendor i (fun k => { k with revoked := true }) } :=
  { FusesBurn.refl f with
    vendor := mapGet_mapMod_rel (f := fun k => { k with revoked := true }) VendorBurns.refl ⟨rfl, fun _ => rfl⟩ }
/-- A raised security version. -/
theorem fusesBurn_svn {f : Fuses} {n : Nat} : FusesBurn f { f with svnMin := max f.svnMin n } :=
  { FusesBurn.refl f with svn := Nat.le_max_left _ _ }
/-- The key-kill fuse. -/
theorem fusesBurn_kill {f : Fuses} : FusesBurn f { f with keyKill := true } :=
  { FusesBurn.refl f with kill := fun _ => rfl }
/-- An identity key made in BLANK, where there was none. -/
theorem fusesBurn_identity {f : Fuses} {m e : Nat} (hl : lifeCycle f = 0) (hm : f.idMod = 0) :
    FusesBurn f { f with idMod := m, idExp := e } :=
  { FusesBurn.refl f with identity := fun h => absurd h (by simp [hl, hm]) }

/-! ### Copied memory -/

theorem memWf_shift {m : List Host.Cell} {a b : Nat} (hw : memWf m = true) (ha : memFrom a m) :
    memWf (m.map (fun c => (c.1 - a + b, c.2))) = true := by
  induction m with
  | nil => rfl
  | cons c r ih =>
    have hc := ha c (List.mem_cons_self ..)
    have hr := ih (memWf_tail hw) (fun x hx => ha x (List.mem_cons_of_mem _ hx))
    refine memWf_cons (show c.2 ≠ memDefault from memWf_head hw) ?_ hr
    intro x hx
    obtain ⟨y, hy, rfl⟩ := List.mem_map.mp hx
    have := memWf_rises hw y hy
    dsimp only
    omega
/-- A copied range keeps the canonical form. -/
theorem memCopy_wf {m : List Host.Cell} (src dst n : Nat) (h : memWf m = true) : memWf (memCopy m src dst n) = true := by
  have hmid : ∀ c ∈ (m.filter (fun c => decide (src ≤ c.1) && decide (c.1 < src + n))).map (fun c => (c.1 - src + dst, c.2)),
      dst ≤ c.1 ∧ c.1 < dst + n := by
    intro c hc
    obtain ⟨x, hx, rfl⟩ := List.mem_map.mp hc
    have := (List.mem_filter.mp hx).2
    simp only [Bool.and_eq_true, decide_eq_true_eq] at this
    dsimp only
    omega
  have hsrc : memFrom src (m.filter (fun c => decide (src ≤ c.1) && decide (c.1 < src + n))) := by
    intro c hc
    have := (List.mem_filter.mp hc).2
    simp only [Bool.and_eq_true, decide_eq_true_eq] at this
    exact this.1
  refine memWf_append (dst + n) (memWf_append dst (memWf_filter _ h) (memWf_shift (memWf_filter _ h) hsrc) ?_ ?_)
    (memWf_filter _ h) ?_ ?_
  · intro c hc; simpa using (List.mem_filter.mp hc).2
  · intro c hc; exact (hmid c hc).1
  · intro c hc
    rcases List.mem_append.mp hc with hc | hc
    · have := (List.mem_filter.mp hc).2; simp at this; omega
    · exact (hmid c hc).2
  · intro c hc; simpa using (List.mem_filter.mp hc).2

/-- A fold keeps the canonical form when each of its steps does. -/
theorem memWf_foldl {β : Type} {f : List Host.Cell → β → List Host.Cell} (hf : ∀ m x, memWf m = true → memWf (f m x) = true)
    {l : List β} {m : List Host.Cell} (h : memWf m = true) : memWf (l.foldl f m) = true :=
  List.foldlRecOn (motive := fun m => memWf m = true) l f h (fun _ hm _ _ => hf _ _ hm)

/-! ### Devices that keep their form -/

/-- The device `d` keeps what `d₀` had: the canonical form of memory, and every burnt fuse. -/
structure Keeps (d₀ d : Dev) : Prop where
  mem : memWf d₀.mem = true → memWf d.mem = true
  fuses : FusesBurn d₀.fuses d.fuses

variable {d₀ d : Dev}

theorem Keeps.refl (d : Dev) : Keeps d d := ⟨id, .refl _⟩

/-- A record update that leaves memory and fuses. -/
theorem Keeps.update {bw co be tt hb cx fa cp de pa ho fl pr re rp gl ew fc ou} (h : Keeps d₀ d) :
    Keeps d₀ ⟨d.mem, bw, co, be, tt, hb, cx, fa, cp, de, pa, ho, d.fuses, fl, pr, re, rp, gl, ew, fc, ou⟩ :=
  ⟨h.mem, h.fuses⟩
/-- A record update that also writes memory. -/
theorem Keeps.setMem {m bw co be tt hb cx fa cp de pa ho fl pr re rp gl ew fc ou} (h : Keeps d₀ d)
    (hm : memWf d.mem = true → memWf m = true) :
    Keeps d₀ ⟨m, bw, co, be, tt, hb, cx, fa, cp, de, pa, ho, d.fuses, fl, pr, re, rp, gl, ew, fc, ou⟩ :=
  ⟨hm ∘ h.mem, h.fuses⟩
/-- A record update that also burns fuses. -/
theorem Keeps.burn {bw co be tt hb cx fa cp de pa ho fu fl pr re rp gl ew fc ou} (h : Keeps d₀ d) (hf : FusesBurn d.fuses fu) :
    Keeps d₀ ⟨d.mem, bw, co, be, tt, hb, cx, fa, cp, de, pa, ho, fu, fl, pr, re, rp, gl, ew, fc, ou⟩ :=
  ⟨h.mem, h.fuses.trans hf⟩
/-- A store. -/
theorem Keeps.store {e : Dev} (h : Keeps d₀ d) (hs : sameButMem d e) (hm : memWf d.mem = true → memWf e.mem = true) :
    Keeps d₀ e := by
  rw [hs]
  exact h.setMem hm
theorem Keeps.ite {c : Prop} [Decidable c] {a b : Dev} (ha : Keeps d₀ a) (hb : Keeps d₀ b) : Keeps d₀ (if c then a else b) := by
  split
  · exact ha
  · exact hb
theorem Keeps.foldl {β : Type} {f : Dev → β → Dev} (hf : ∀ {e : Dev} {x : β}, Keeps d₀ e → Keeps d₀ (f e x)) {l : List β}
    (h : Keeps d₀ d) : Keeps d₀ (l.foldl f d) :=
  List.foldlRecOn l f h (fun _ he _ _ => hf he)
theorem Keeps.repeat {f : Dev → Dev} (hf : ∀ {e : Dev}, Keeps d₀ e → Keeps d₀ (f e)) {n : Nat} (h : Keeps d₀ d) :
    Keeps d₀ (Nat.repeat f n d) := by
  induction n with
  | zero => exact h
  | succ n ih => exact hf ih
/-- The device of a pair that an operation answers. -/
theorem Keeps.fst {β : Type} {p : Dev × β} {e : Dev} {b : β} (hp : p = (e, b)) (h : Keeps d₀ p.1) : Keeps d₀ e := by
  rw [hp] at h
  exact h
/-- A fold over what a transfer has moved. -/
theorem Keeps.foldlMoved {β : Type} {f : Moved → β → Moved} (hf : ∀ {m : Moved} {x : β}, Keeps d₀ m.dev → Keeps d₀ (f m x).dev)
    {l : List β} {m : Moved} (h : Keeps d₀ m.dev) : Keeps d₀ (l.foldl f m).dev :=
  List.foldlRecOn (motive := fun m => Keeps d₀ m.dev) l f h (fun _ hm _ _ => hf hm)


/-! ### Parts of the device, stores, messages and the event log -/

theorem modStrm_keeps {e : Engine} {f : StreamState → StreamState} (h : Keeps d₀ d) : Keeps d₀ (modStrm d e f) := by
  unfold modStrm
  split <;> exact .update h
theorem wrPlace_keeps {a : Nat} {bs : List Byte} (h : Keeps d₀ d) : Keeps d₀ (wrPlace d a bs).1 :=
  h.store (wrPlace_same d a bs) (wrPlace_wf d a bs)
theorem wrBytes_keeps {a : Nat} {bs : List Byte} (h : Keeps d₀ d) : Keeps d₀ (wrBytes d a bs) :=
  h.store (wrBytes_same d a bs) (wrBytes_wf d a bs)
theorem wipe_keeps {a len : Nat} (h : Keeps d₀ d) : Keeps d₀ (wipe d a len) := .update (h.setMem (memClear_wf a len))
theorem winWrite_keeps {v off : Nat} {bs : List Byte} (h : Keeps d₀ d) : Keeps d₀ (winWrite d v off bs) := wrBytes_keeps h
theorem signal_keeps {vec : Nat} (h : Keeps d₀ d) : Keeps d₀ (signal d vec) := .ite (.ite (.update h) (.update h)) h
theorem logEvent_keeps {code src arg : Nat} {data : List Byte} (h : Keeps d₀ d) : Keeps d₀ (logEvent d code src arg data) :=
  signal_keeps (.update h)

/-! ### Shared operations on cores: races, lost commands, ring breaks, Detention -/

theorem seen_keeps (h : Keeps d₀ d) : Keeps d₀ (seen d) := by
  refine .ite h (h.setMem (memWf_foldl fun m p hm => ?_))
  split
  · exact memWrite_wf _ _ hm
  · exact hm
theorem noteCells_keeps {cells : List Host.Cell} (h : Keeps d₀ d) : Keeps d₀ (noteCells d cells) :=
  .foldl (fun h => .ite (modStrm_keeps h) h) h
theorem noteOver_keeps {cells : List Host.Cell} (h : Keeps d₀ d) : Keeps d₀ (noteOver d cells) :=
  .ite h (.foldl (fun h => .ite (modStrm_keeps h) h) h)
theorem raced_keeps {f : Dev → Dev} (hf : ∀ {e : Dev}, Keeps d₀ e → Keeps d₀ (f e)) (h : Keeps d₀ d) :
    Keeps d₀ (raced d f) := by
  have h2 := hf (seen_keeps h)
  refine .ite (hf h) (.ite ⟨h.mem, h2.fuses⟩ (noteCells_keeps (h2.setMem (memWf_foldl fun m c hm => ?_))))
  split
  · exact hm
  · exact memWrite_wf _ _ hm
theorem undoUnits_keeps {unit : Nat → Nat} {cells : List Host.Cell} (h : Keeps d₀ d) : Keeps d₀ (undoUnits d unit cells) :=
  .update (.foldl (fun h => .ite h (wrBytes_keeps h)) h)
theorem undoBytes_keeps {cells : List Host.Cell} (h : Keeps d₀ d) : Keeps d₀ (undoBytes d cells) := undoUnits_keeps h
theorem loseStolen_keeps {v : Nat} (h : Keeps d₀ d) : Keeps d₀ (loseStolen d v) :=
  .foldl (fun h => .ite h (.ite h (.foldl logEvent_keeps (.update h)))) h
theorem loseOwn_keeps {v : Nat} {detained : Bool} (h : Keeps d₀ d) : Keeps d₀ (loseOwn d v detained) := .foldl logEvent_keeps h
theorem abandonCore_keeps {v : Nat} {keep : Bool} (h : Keeps d₀ d) : Keeps d₀ (abandonCore d v keep) :=
  .update (.update (loseStolen_keeps (loseOwn_keeps (.update (undoBytes_keeps h)))))
theorem undoRing_keeps {v a : Nat} (h : Keeps d₀ d) : Keeps d₀ (undoRing d v a) :=
  .ite (.update (undoUnits_keeps h)) (undoUnits_keeps h)
theorem breakRing_keeps {r v a cause : Nat} (h : Keeps d₀ d) : Keeps d₀ (breakRing d r v a cause) :=
  .ite h (logEvent_keeps (.foldl (fun h => .update (undoRing_keeps h)) (.update h)))
theorem breakRingsOf_keeps {v cause : Nat} (h : Keeps d₀ d) : Keeps d₀ (breakRingsOf d v cause) := by
  unfold breakRingsOf
  refine .foldl (fun h => ?_) h
  split
  · exact breakRing_keeps h
  · exact h
theorem copyStopRound_keeps {why : CopyLast} (h : Keeps d₀ d) : Keeps d₀ (copyStopRound d why) := by
  unfold copyStopRound
  split
  · exact signal_keeps (logEvent_keeps (.update h))
  · exact signal_keeps (logEvent_keeps (.update h))
  · exact h
theorem detainStop_keeps {v : Nat} (h : Keeps d₀ d) : Keeps d₀ (detainStop d v) :=
  .update (breakRingsOf_keeps (abandonCore_keeps h))
theorem detainCore_keeps {v cause : Nat} (h : Keeps d₀ d) : Keeps d₀ (detainCore d v cause) :=
  .ite h (.foldl .update (.foldl (fun h => .ite h (.update h)) (signal_keeps (logEvent_keeps (.update (detainStop_keeps h))))))
theorem detainDevice_keeps {cause : Nat} (h : Keeps d₀ d) : Keeps d₀ (detainDevice d cause) :=
  .ite h (signal_keeps (logEvent_keeps (.foldl .update (copyStopRound_keeps
    (.foldl (fun h => .ite h (detainStop_keeps h)) (.update h))))))
theorem ueEvent_keeps {granule : Nat} {core : Option Nat} (h : Keeps d₀ d) : Keeps d₀ (ueEvent d granule core) := by
  unfold ueEvent
  dsimp only
  split
  · refine detainCore_keeps ?_
    split <;> exact logEvent_keeps (.update h)
  · split <;> exact logEvent_keeps (.update h)

/-! ### Arrays -/

theorem writeRows32_keeps {v base pitch : Nat} {rows : List (List Nat)} (h : Keeps d₀ d) :
    Keeps d₀ (writeRows32 d v base pitch rows) :=
  .foldl winWrite_keeps h
theorem deliver_keeps {v a id w : Nat} {o : Opnds} {r : List (List Nat) × List (List Nat)} (h : Keeps d₀ d) :
    Keeps d₀ (deliver d v a id w o r) :=
  .ite (.update h) (.ite (writeRows32_keeps h) (writeRows32_keeps (writeRows32_keeps h)))
theorem execMmaOn_keeps {v a id w : Nat} {o : Opnds} {f : Fmt} {rows : List (List WElem)} (h : Keeps d₀ d) :
    Keeps d₀ (execMmaOn d v a id w o f rows) := by
  unfold execMmaOn
  refine .ite (.ite (.update h) h) ?_
  dsimp only
  split
  · exact deliver_keeps (.ite (.update h) h)
  · exact deliver_keeps (.ite (.update h) h)
  · exact .update (.ite (.update h) h)
theorem drainAdd_keeps {v a id t0 p : Nat} {acc : NMap Word} {kn : Nat × Nat} (h : Keeps d₀ d) :
    Keeps d₀ (drainAdd v a id t0 p acc d kn) :=
  winWrite_keeps h
theorem execDrain_keeps {v a id t0 : Nat} (h : Keeps d₀ d) : Keeps d₀ (execDrain d v a id t0) := by
  unfold execDrain
  dsimp only
  split
  · exact h
  · exact .foldl drainAdd_keeps (.update h)
theorem execClear_keeps {v a mask : Nat} (h : Keeps d₀ d) : Keeps d₀ (execClear d v a mask) := .foldl winWrite_keeps h
theorem execLoad_keeps {v a w : Nat} {o : Opnds} (h : Keeps d₀ d) : Keeps d₀ (execLoad d v a w o) := .ite h (.update h)
theorem injectStep_keeps {v a w : Nat} {step : BitVec 16} {f : Fmt} {rows : List (List WElem)} (h : Keeps d₀ d) :
    Keeps d₀ (injectStep d v a w step f rows) := by
  unfold injectStep
  split
  · exact h
  · exact .update h
theorem execArrayCmd_keeps {v a : Nat} {i : Issued} (h : Keeps d₀ d) : Keeps d₀ (execArrayCmd d v a i) := by
  unfold execArrayCmd
  dsimp only
  split
  · exact execLoad_keeps h
  · exact .update h
  · exact execDrain_keeps h
  · exact execClear_keeps h
  · exact execMmaOn_keeps (.ite (injectStep_keeps h) h)

/-! ### Vector engines -/

theorem vStore_keeps {v base : Nat} {f : Fmt} {cols : Nat} {skw top : Bool} {rows : List (List Nat)} (h : Keeps d₀ d) :
    Keeps d₀ (vStore d v base f cols skw top rows) :=
  .foldl (fun h => .ite (winWrite_keeps h) (winWrite_keeps h)) h
theorem vWrite_keeps {v base sbase desc cols : Nat} {skw top : Bool} {codes : List (List Nat)} (h : Keeps d₀ d) :
    Keeps d₀ (vWrite d v base sbase desc cols skw top codes) :=
  .ite (winWrite_keeps (vStore_keeps h)) (vStore_keeps h)
theorem vPut_keeps {v w : Nat} {o : Opnds} {codes : List (List Nat)} (h : Keeps d₀ d) : Keeps d₀ (vPut d v w o codes) :=
  vWrite_keeps h
theorem execCast_keeps {v w : Nat} {o : Opnds} {fused : List (List Word)} (h : Keeps d₀ d) :
    Keeps d₀ (execCast d v w o fused) :=
  .ite (winWrite_keeps (vStore_keeps h)) (.ite (winWrite_keeps (vStore_keeps h))
    (.ite (.ite (vStore_keeps h) (vStore_keeps h)) (.ite (vStore_keeps h) (vStore_keeps h))))
theorem execCount_keeps {v w : Nat} {o : Opnds} {fused : List (List Word)} (h : Keeps d₀ d) :
    Keeps d₀ (execCount d v w o fused) :=
  winWrite_keeps h
theorem execNorm_keeps {v w : Nat} {o : Opnds} {fused : List (List Word)} (h : Keeps d₀ d) :
    Keeps d₀ (execNorm d v w o fused) :=
  .ite (winWrite_keeps (vPut_keeps h)) (vPut_keeps h)
theorem addInto_keeps {v off : Nat} {sums : List Num} (h : Keeps d₀ d) : Keeps d₀ (addInto d v off sums) :=
  .foldl winWrite_keeps h
theorem execNormB_keeps {v w : Nat} {o : Opnds} {fused : List (List Word)} (h : Keeps d₀ d) :
    Keeps d₀ (execNormB d v w o fused) :=
  .ite (.ite (addInto_keeps (addInto_keeps (vPut_keeps h))) (addInto_keeps (vPut_keeps h))) (vPut_keeps h)
theorem execSmax_keeps {v w : Nat} {o : Opnds} {fused : List (List Word)} (h : Keeps d₀ d) :
    Keeps d₀ (execSmax d v w o fused) :=
  .ite (winWrite_keeps (vPut_keeps h)) (vPut_keeps h)
theorem execSmaxB_keeps {v w : Nat} {o : Opnds} {fused : List (List Word)} (h : Keeps d₀ d) :
    Keeps d₀ (execSmaxB d v w o fused) :=
  vPut_keeps h
theorem execUpd_keeps {v w : Nat} {o : Opnds} {fused : List (List Word)} (h : Keeps d₀ d) : Keeps d₀ (execUpd d v w o fused) :=
  .ite (vWrite_keeps (vWrite_keeps (.foldl winWrite_keeps (vStore_keeps h))))
    (vWrite_keeps (.foldl winWrite_keeps (vStore_keeps h)))
theorem execVecCmd_keeps {v : Nat} {i : Issued} {fused : List (List Word)} (h : Keeps d₀ d) :
    Keeps d₀ (execVecCmd d v i fused) := by
  unfold execVecCmd
  refine .ite h ?_
  split
  · exact .ite (vStore_keeps h) (vPut_keeps h)
  · exact vStore_keeps h
  · exact execNorm_keeps h
  · exact execNormB_keeps h
  · exact execSmax_keeps h
  · exact execSmaxB_keeps h
  · exact execCast_keeps h
  · exact execUpd_keeps h
  · exact execCount_keeps h

/-! ### Fabric links -/

theorem emitSlots_keeps {p : Nat} {slots : List Slot} (h : Keeps d₀ d) : Keeps d₀ (emitSlots d p slots) := .foldl .update h
theorem txSend_keeps {p : Nat} {t : TxFlit} (h : Keeps d₀ d) : Keeps d₀ (txSend d p t) :=
  emitSlots_keeps (.update (.ite (.update h) h))
theorem txInsert_keeps {p k : Nat} {t : TxFlit} (h : Keeps d₀ d) : Keeps d₀ (txInsert d p k t) := emitSlots_keeps (.update h)
theorem txFinish_keeps {p : Nat} (h : Keeps d₀ d) : Keeps d₀ (txFinish d p) := by
  unfold txFinish
  dsimp only
  split
  · exact emitSlots_keeps (.update h)
  · exact h
theorem txResume_keeps {p : Nat} (h : Keeps d₀ d) : Keeps d₀ (txResume d p) := by
  unfold txResume
  split
  · exact h
  · exact txFinish_keeps (.foldl (fun h => .ite (txInsert_keeps h) h) h)
theorem txPump_keeps {n p : Nat} (h : Keeps d₀ d) : Keeps d₀ (txPump n d p) := by
  induction n generalizing d with
  | zero => exact h
  | succ n ih =>
    unfold txPump
    split
    · exact h
    · exact ih (txSend_keeps h)
theorem txGo_keeps {p : Nat} (h : Keeps d₀ d) : Keeps d₀ (txGo d p) := .ite h (txPump_keeps (txResume_keeps h))
theorem txQueueFrom_keeps {p : Nat} {hdr : BitVec 256} {data : List (BitVec 2048)} {arr lane : Nat} (h : Keeps d₀ d) :
    Keeps d₀ (txQueueFrom d p hdr data arr lane) :=
  txGo_keeps (.update h)
theorem txQueue_keeps {p : Nat} {hdr : BitVec 256} {data : List (BitVec 2048)} (h : Keeps d₀ d) :
    Keeps d₀ (txQueue d p hdr data) :=
  txQueueFrom_keeps h
theorem txSettle_keeps (h : Keeps d₀ d) : Keeps d₀ (txSettle d) := .foldl (fun h => .ite (txGo_keeps h) h) h
theorem sendAck_keeps {p : Nat} {nak : Bool} (h : Keeps d₀ d) : Keeps d₀ (sendAck d p nak) := emitSlots_keeps (.update h)
theorem replayAll_keeps {p : Nat} (h : Keeps d₀ d) : Keeps d₀ (replayAll d p) := emitSlots_keeps (txFinish_keeps h)
theorem framingError_keeps {p : Nat} (h : Keeps d₀ d) : Keeps d₀ (framingError d p) := .ite h (sendAck_keeps h)
theorem acceptOne_keeps {p ch slots : Nat} (h : Keeps d₀ d) : Keeps d₀ (acceptOne d p ch slots) :=
  .ite (sendAck_keeps (.update h)) (.update h)
theorem linkAccept_keeps {p : Nat} {f : BitVec 256} (h : Keeps d₀ d) : Keeps d₀ (linkAccept d p f).1 := by
  unfold linkAccept
  split
  · exact h
  · dsimp only
    split
    · exact .update h
    · split
      · exact framingError_keeps (.update h)
      · exact acceptOne_keeps (.update h)
theorem dataAccept_keeps {p : Nat} {num : Option (BitVec 10)} {f : BitVec 2048} (h : Keeps d₀ d) :
    Keeps d₀ (dataAccept d p num f) := by
  unfold dataAccept
  dsimp only
  split
  · exact .ite (acceptOne_keeps (.update h)) (framingError_keeps h)
  · exact framingError_keeps h
theorem sendCtl_keeps {p ctype body : Nat} (h : Keeps d₀ d) : Keeps d₀ (sendCtl d p ctype body) := .ite (txQueue_keeps h) h
theorem sendUp_keeps {ctype body : Nat} (h : Keeps d₀ d) : Keeps d₀ (sendUp d ctype body) := .ite (sendCtl_keeps h) h
theorem sendDown_keeps {ctype body : Nat} (h : Keeps d₀ d) : Keeps d₀ (sendDown d ctype body) :=
  .foldl (fun h => .ite (sendCtl_keeps h) h) h
theorem sendFlood_keeps {but ctype body : Nat} (h : Keeps d₀ d) : Keeps d₀ (sendFlood d but ctype body) :=
  .foldl (fun h => .ite (sendCtl_keeps h) h) h

/-! ### Bulk messages on their routes -/

theorem routeOut_keeps {b : Bulk} {data : List (BitVec 2048)} {arr : Nat} (h : Keeps d₀ d) :
    Keeps d₀ (routeOut d b data arr).1 := by
  unfold routeOut
  split
  · exact txQueueFrom_keeps h
  · exact h
theorem dropBulk_keeps {b : Bulk} (h : Keeps d₀ d) : Keeps d₀ (dropBulk d b) :=
  .ite (.update h) (.ite (routeOut_keeps (.update h)) (.update (routeOut_keeps (.update h))))
theorem sendBulk_keeps {b : Bulk} {data : List (BitVec 2048)} {arr : Nat} (h : Keeps d₀ d) : Keeps d₀ (sendBulk d b data arr) :=
  .ite (routeOut_keeps h) (dropBulk_keeps (routeOut_keeps h))
theorem forwardBulk_keeps {b : Bulk} {data : List (BitVec 2048)} {arr : Nat} (h : Keeps d₀ d) :
    Keeps d₀ (forwardBulk d b data arr) :=
  .ite (dropBulk_keeps h) (sendBulk_keeps h)

/-! ### Bells on the trees -/

theorem bellForward_keeps {b : Nat} (h : Keeps d₀ d) : Keeps d₀ (bellForward d b) := by
  unfold bellForward
  refine .ite h ?_
  split
  · exact h
  · exact txQueue_keeps (.update h)
theorem bellArrive_keeps {b src : Nat} {op : BitVec 3} {value : Dword} (h : Keeps d₀ d) :
    Keeps d₀ (bellArrive d b src op value) :=
  .ite h (bellForward_keeps (.ite (logEvent_keeps (.update h)) (.update h)))
theorem systemArrive_keeps {b : Nat} {op : BitVec 3} {value : Dword} (h : Keeps d₀ d) : Keeps d₀ (systemArrive d b op value) :=
  bellArrive_keeps h
theorem bellRelease_keeps {b : Nat} {op : BitVec 3} {value : Dword} (h : Keeps d₀ d) : Keeps d₀ (bellRelease d b op value) :=
  .foldl txQueue_keeps (.update h)

/-! ### HBM controllers, board ports and the tier cache -/

theorem makeKeep_keeps {p page : Nat} (h : Keeps d₀ d) : Keeps d₀ (makeKeep d p page) := by
  unfold makeKeep
  dsimp only
  split
  · exact h
  · refine .ite h (.update (.ite ?_ h))
    split
    · exact .update h
    · exact h
theorem tierErrorEvent_keeps {p page dirty : Nat} (h : Keeps d₀ d) : Keeps d₀ (tierErrorEvent d p page dirty) :=
  logEvent_keeps h
theorem writeBackLine_keeps {p : Nat} {l : CacheLine} (h : Keeps d₀ d) : Keeps d₀ (writeBackLine d p l) := by
  unfold writeBackLine
  extract_lets way home bad m1 m2 d1 d2
  have hm (h0 : memWf d.mem = true) : memWf m2 = true :=
    memWf_foldl (fun _ _ hm => memWrite_wf _ _ hm) (memCopy_wf _ _ _ h0)
  have h2 : Keeps d₀ d2 := .update (.update (h.setMem hm))
  exact .ite h2 (detainDevice_keeps (tierErrorEvent_keeps h2))
theorem fillPage_keeps {p page : Nat} {rd : Bool} (h : Keeps d₀ d) : Keeps d₀ (fillPage d p page rd) := by
  unfold fillPage
  extract_lets set way d1 w d2
  have h1 : Keeps d₀ d1 := by
    unfold d1
    split
    · exact .update (.update (.ite (writeBackLine_keeps h) h))
    · exact h
  exact .update (.ite (.update (h1.setMem (memCopy_wf _ _ _))) h1)
theorem setLogBit_keeps {p page : Nat} (h : Keeps d₀ d) : Keeps d₀ (setLogBit d p page) := .ite (wrPlace_keeps h) h
theorem acceptAccess_keeps {p addr : Nat} {wr : Option (List Byte)} {plc : Nat} (h : Keeps d₀ d) :
    Keeps d₀ (acceptAccess d p addr wr plc) :=
  .ite (setLogBit_keeps h) h
theorem logSwapAt_keeps {p : Nat} (h : Keeps d₀ d) : Keeps d₀ (logSwapAt d p) := .ite h (.update (wipe_keeps h))
theorem tierServe_keeps {p addr len : Nat} {wr : Option (List Byte)} {plc : Nat} (h : Keeps d₀ d) :
    Keeps d₀ (tierServe d p addr len wr plc) := by
  unfold tierServe
  extract_lets page keep fills m d1 t k d2
  have h1 : Keeps d₀ d1 := .ite h (.ite (.update h) (.ite (fillPage_keeps (.update h)) (.update h)))
  have hk : Keeps d₀ k := .ite (makeKeep_keeps (.update (.update h1))) (.update (.update h1))
  have h2 : Keeps d₀ d2 := .ite (.ite (.update hk) hk) h1
  split
  · exact wrBytes_keeps h2
  · exact h2
theorem tierAnswer_keeps {p addr len : Nat} {wr : Option (List Byte)} {plc : Nat} (h : Keeps d₀ d) :
    Keeps d₀ (tierAnswer d p addr len wr plc) :=
  .ite (.update (tierServe_keeps h)) (tierServe_keeps h)
theorem finishFill_keeps {p page : Nat} (h : Keeps d₀ d) : Keeps d₀ (finishFill d p page) := by
  unfold finishFill
  split
  · exact h
  · extract_lets d1 d2 hits
    have h2 : Keeps d₀ d2 := .ite (.update h) (fillPage_keeps (.update h))
    split
    · exact h2
    · exact .foldl tierAnswer_keeps (.update (tierAnswer_keeps h2))
theorem tierPiece_keeps {p addr len : Nat} {wr : Option (List Byte)} {plc : Nat} (h : Keeps d₀ d) :
    Keeps d₀ (tierPiece d p addr len wr plc) := by
  unfold tierPiece
  refine .ite (tierServe_keeps (acceptAccess_keeps (finishFill_keeps h))) ?_
  split
  · exact wrBytes_keeps h
  · exact h
theorem tierSpan_keeps {n p addr len : Nat} {wr : Option (List Byte)} {plc : Nat} (h : Keeps d₀ d) :
    Keeps d₀ (tierSpan n d p addr len wr plc) := by
  induction n generalizing d addr len wr with
  | zero => exact h
  | succ n ih => exact .ite h (ih (tierPiece_keeps h))
theorem healClean_keeps {p addr len : Nat} {wr : Bool} (h : Keeps d₀ d) : Keeps d₀ (healClean d p addr len wr) :=
  .ite h (.foldl (fun h => tierErrorEvent_keeps (.update (.update h))) h)
theorem heal_keeps {addr len : Nat} {wr : Bool} (h : Keeps d₀ d) : Keeps d₀ (heal d addr len wr) := by
  unfold heal
  split
  · exact healClean_keeps h
  · exact h
theorem storeBytes_keeps {addr : Nat} {bs : List Byte} {plc : Nat} (h : Keeps d₀ d) : Keeps d₀ (storeBytes d addr bs plc) := by
  unfold storeBytes
  split
  · exact tierSpan_keeps (healClean_keeps h)
  · exact wrBytes_keeps h
theorem touchRead_keeps {addr len plc : Nat} (h : Keeps d₀ d) : Keeps d₀ (touchRead d addr len plc) := by
  unfold touchRead
  split
  · exact tierSpan_keeps (healClean_keeps h)
  · exact h
theorem tierHit_keeps {core : Option Nat} {p addr len : Nat} {wr : Option (List Byte)} {plc : Nat} (h : Keeps d₀ d) :
    Keeps d₀ (tierHit d core p addr len wr plc) := by
  unfold tierHit
  extract_lets d1
  have h1 : Keeps d₀ d1 := acceptAccess_keeps (healClean_keeps h)
  split
  · split
    · exact ueEvent_keeps h1
    · exact tierAnswer_keeps h1
  · split
    · exact ueEvent_keeps (.ite h1 (tierServe_keeps h1))
    · exact tierServe_keeps h1
theorem tierAccessAt_keeps {core : Option Nat} {addr len : Nat} {wr : Option (List Byte)} {plc : Nat}
    {ecc : Ecc} (h : Keeps d₀ d) :
    Keeps d₀ (tierAccessAt d core addr len wr plc ecc) := by
  unfold tierAccessAt
  split
  · exact h
  · refine .ite h ?_
    split
    · exact .update (acceptAccess_keeps h)
    · split
      · dsimp only
        split
        · exact tierHit_keeps h
        · exact tierHit_keeps (.update h)
        · exact tierHit_keeps (.update h)
      · exact .ite (.update (acceptAccess_keeps h)) (.ite (tierServe_keeps (acceptAccess_keeps h)) (tierAnswer_keeps h))
theorem writeBackAt_keeps {p page : Nat} {ecc : Ecc} (h : Keeps d₀ d) : Keeps d₀ (writeBackAt d p page ecc) := by
  unfold writeBackAt
  split
  · exact h
  · refine .ite h ?_
    dsimp only
    split
    · exact writeBackLine_keeps h
    · exact writeBackLine_keeps (.update h)
    · exact writeBackLine_keeps (.update (.update h))
theorem flushStart_keeps {p : Nat} (h : Keeps d₀ d) : Keeps d₀ (flushStart d p) := .ite h (.update h)
theorem flushEnd_keeps {p : Nat} (h : Keeps d₀ d) : Keeps d₀ (flushEnd d p) := .ite (.update h) h
theorem flushAndEmpty_keeps {p : Nat} (h : Keeps d₀ d) : Keeps d₀ (flushAndEmpty d p) :=
  .update (.foldl writeBackLine_keeps (.foldl finishFill_keeps h))
theorem hbmAccessAt_keeps {core : Option Nat} {addr len : Nat} {wr : Option (List Byte)} {ecc : Ecc} (h : Keeps d₀ d) :
    Keeps d₀ (hbmAccessAt d core addr len wr ecc) := by
  unfold hbmAccessAt
  extract_lets here ctl wrOk d1
  have h1 : Keeps d₀ d1 := by
    unfold d1
    split
    · exact .update h
    · exact .update h
    · exact h
  refine .ite h ?_
  split
  · split
    · exact ueEvent_keeps h1
    · exact .update h1
  · split
    · exact ueEvent_keeps (wrBytes_keeps h1)
    · exact wrBytes_keeps h1
theorem scrubUe_keeps {ctl a : Nat} (h : Keeps d₀ d) : Keeps d₀ (scrubUe d ctl a) := by
  unfold scrubUe
  dsimp only
  split
  · exact .ite (detainDevice_keeps (tierErrorEvent_keeps (.update h))) (tierErrorEvent_keeps (.update (.update (.update h))))
  · exact logEvent_keeps (.update (.update h))
theorem scrubAt_keeps {ctl : Nat} {found : Option (Nat × Ecc)} (h : Keeps d₀ d) : Keeps d₀ (scrubAt d ctl found) := by
  unfold scrubAt
  refine .ite (.update h) ?_
  split
  · exact .update h
  · refine .ite (.update h) ?_
    split
    · exact .update h
    · exact .update (.update h)
    · exact scrubUe_keeps (.update h)
theorem trainHbm_keeps {ctl : Nat} {ok : Bool} (h : Keeps d₀ d) : Keeps d₀ (trainHbm d ctl ok) :=
  .ite h (.ite (.update h) (detainDevice_keeps (logEvent_keeps (.update h))))
theorem cxlEnumerateAt_keeps {p : Nat} {rate : CxlRate} {lanes : Nat} {mem : Bool} {hdm : Nat} (h : Keeps d₀ d) :
    Keeps d₀ (cxlEnumerateAt d p rate lanes mem hdm) :=
  .ite h (.ite (.update h) (.update h))
theorem memoryActiveAt_keeps {p capacity : Nat} (h : Keeps d₀ d) : Keeps d₀ (memoryActiveAt d p capacity) :=
  .ite h (logEvent_keeps (.update h))
theorem memoryTimeoutAt_keeps {p : Nat} (h : Keeps d₀ d) : Keeps d₀ (memoryTimeoutAt d p) := .ite h (.update h)
theorem eventPollAt_keeps {p : Nat} {recs : List (List Byte)} (h : Keeps d₀ d) : Keeps d₀ (eventPollAt d p recs) :=
  .ite h (.foldl logEvent_keeps h)
theorem linkRetryAt_keeps {p : Nat} (h : Keeps d₀ d) : Keeps d₀ (linkRetryAt d p) := .ite (.update h) h
theorem cxlGone_keeps {p : Nat} (h : Keeps d₀ d) : Keeps d₀ (cxlGone d p) :=
  signal_keeps (logEvent_keeps (.update (.update (.foldl ueEvent_keeps h))))

/-! ### The Copybook and agreement -/

theorem setAg_keeps {a : AgState} (h : Keeps d₀ d) : Keeps d₀ (setAg d a) := .ite h (signal_keeps (.update h))
theorem setRc_keeps {r : RcState} (h : Keeps d₀ d) : Keeps d₀ (setRc d r) := .ite h (signal_keeps (.update h))
theorem agreeBegin_keeps (h : Keeps d₀ d) : Keeps d₀ (agreeBegin d) :=
  systemArrive_keeps (systemArrive_keeps (setAg_keeps (.update h)))
theorem agreeStart_keeps (h : Keeps d₀ d) : Keeps d₀ (agreeStart d) := .ite h (.ite (.update h) (agreeBegin_keeps h))
theorem agreeEnd_keeps {a : AgState} (h : Keeps d₀ d) : Keeps d₀ (agreeEnd d a) :=
  .ite (setAg_keeps (.update h)) (agreeBegin_keeps (.update (setAg_keeps (.update h))))
theorem agreeDrop_keeps (h : Keeps d₀ d) : Keeps d₀ (agreeDrop d) := setAg_keeps (.update h)
theorem agreeCompare_keeps (h : Keeps d₀ d) : Keeps d₀ (agreeCompare d) := by
  unfold agreeCompare
  split
  · exact .ite (agreeEnd_keeps h) (systemArrive_keeps h)
  · exact h
theorem agreeRelease_keeps {b : Nat} {v : Dword} (h : Keeps d₀ d) : Keeps d₀ (agreeRelease d b v) :=
  .ite h (.ite (agreeCompare_keeps (.update h)) (.ite (agreeCompare_keeps (.update h))
    (.ite (agreeEnd_keeps h) (agreeEnd_keeps (logEvent_keeps h)))))
theorem copyWrite_keeps {c : CopyCfg} {addr : Nat} {bs : List Byte} (h : Keeps d₀ d) : Keeps d₀ (copyWrite d c addr bs) :=
  sendBulk_keeps (.update h)
theorem drainFails_keeps {status addr : Nat} (h : Keeps d₀ d) : Keeps d₀ (drainFails d status addr) :=
  logEvent_keeps (.update h)
theorem drainWrite_keeps {c : CopyCfg} {dst from_ n : Nat} (h : Keeps d₀ d) : Keeps d₀ (drainWrite d c dst from_ n) :=
  .ite (drainFails_keeps (ueEvent_keeps (heal_keeps h))) (copyWrite_keeps (heal_keeps h))
theorem drainAll_keeps {c : CopyCfg} {gen : Nat} (h : Keeps d₀ d) : Keeps d₀ (drainAll d c gen) :=
  .ite h (.ite (drainFails_keeps h) (.foldl (fun h => .foldl drainWrite_keeps h) (.foldl copyWrite_keeps h)))
theorem freezeAt_keeps {c : CopyCfg} {gen : Nat} (h : Keeps d₀ d) : Keeps d₀ (freezeAt d c gen) :=
  drainAll_keeps (.update (.foldl logSwapAt_keeps h))
theorem freezeOn_keeps {b g : Nat} (h : Keeps d₀ d) : Keeps d₀ (freezeOn d b g) := by
  unfold freezeOn
  split
  · exact .ite (freezeAt_keeps h) h
  · exact h
theorem joinRound_keeps {c : CopyCfg} (h : Keeps d₀ d) : Keeps d₀ (joinRound d c) := systemArrive_keeps (.update h)
theorem startArrives_keeps (h : Keeps d₀ d) : Keeps d₀ (startArrives d) := by
  unfold startArrives
  split
  · exact .ite (joinRound_keeps h) h
  · exact h
theorem sendStart_keeps (h : Keeps d₀ d) : Keeps d₀ (sendStart d) := .ite (startArrives_keeps (bellRelease_keeps h)) h
theorem roundNext_keeps (h : Keeps d₀ d) : Keeps d₀ (roundNext d) := .ite (sendStart_keeps h) h
theorem roundDue_keeps (h : Keeps d₀ d) : Keeps d₀ (roundDue d) := .ite h (roundNext_keeps (.update h))
theorem roundStartAt_keeps {ready : Bool} (h : Keeps d₀ d) : Keeps d₀ (roundStartAt d ready) :=
  .ite (startArrives_keeps h) (.ite (sendStart_keeps h) h)
theorem drainEnd_keeps {d0 : Dev} {ok : Bool} (h : Keeps d₀ d0) : Keeps d₀ (drainEnd d0 ok) :=
  .ite h (systemArrive_keeps (.update (.update (.ite h (drainFails_keeps h)))))
theorem roundAbort_keeps (h : Keeps d₀ d) : Keeps d₀ (roundAbort d) := by
  unfold roundAbort
  split
  · exact .ite h (systemArrive_keeps (copyStopRound_keeps h))
  · exact .ite h (systemArrive_keeps (copyStopRound_keeps h))
  · exact h
theorem cadence_keeps (h : Keeps d₀ d) : Keeps d₀ (cadence d) := by
  unfold cadence
  split
  · exact h
  · exact .update h
theorem roundFails_keeps (h : Keeps d₀ d) : Keeps d₀ (roundFails d) := copyStopRound_keeps h
theorem roundCommits_keeps {c : CopyCfg} (h : Keeps d₀ d) : Keeps d₀ (roundCommits d c) :=
  signal_keeps (logEvent_keeps (.ite (cadence_keeps (.update (.ite h (copyWrite_keeps h))))
    (.update (.ite h (copyWrite_keeps h)))))
theorem copyRelease_keeps {b : Nat} {v : Dword} (h : Keeps d₀ d) : Keeps d₀ (copyRelease d b v) := by
  unfold copyRelease
  split
  · exact h
  · exact .ite (.ite (.update h) h) (.ite (roundNext_keeps (.ite (roundCommits_keeps h) (roundFails_keeps h)))
      (roundNext_keeps h))
theorem foldCopy_keeps (h : Keeps d₀ d) : Keeps d₀ (foldCopy d) := by
  unfold foldCopy
  split
  · exact h
  · refine .update (.foldl (fun h => ?_) (copyStopRound_keeps (roundAbort_keeps h)))
    split
    · exact h.setMem (memWrite_wf _ _)
    · exact h
theorem activateCopy_keeps (h : Keeps d₀ d) : Keeps d₀ (activateCopy d) := by
  unfold activateCopy
  split
  · exact .update h
  · exact cadence_keeps (.update (.update h))

/-! ### Mailboxes -/

theorem regRespond_keeps {status : Nat} {payload : List Byte} (h : Keeps d₀ d) : Keeps d₀ (regRespond d status payload) :=
  signal_keeps (.update h)

/-! ### Power, reset and release -/

theorem loseMemory_keeps {keepHbm : Bool} (h : Keeps d₀ d) : Keeps d₀ (loseMemory d keepHbm) := h.setMem (memWf_filter _)
theorem recordReset_keeps {cause : Nat} {kind : ResetKind} {block srcid : Nat} (h : Keeps d₀ d) :
    Keeps d₀ (recordReset d cause kind block srcid) :=
  .ite (.update h) (.update h)
theorem clearDomains_keeps {keep : Bool} (h : Keeps d₀ d) : Keeps d₀ (clearDomains d keep) := .update (loseMemory_keeps h)
theorem warmReset_keeps {cause srcid : Nat} (h : Keeps d₀ d) : Keeps d₀ (warmReset d cause srcid) :=
  .ite (recordReset_keeps h) (.update (clearDomains_keeps (recordReset_keeps h)))
theorem coldReset_keeps {cause srcid : Nat} (h : Keeps d₀ d) : Keeps d₀ (coldReset d cause srcid) :=
  .update (clearDomains_keeps (recordReset_keeps h))
theorem kindReset_keeps {cold : Bool} {cause srcid : Nat} (h : Keeps d₀ d) : Keeps d₀ (kindReset d cold cause srcid) :=
  .ite (coldReset_keeps h) (warmReset_keeps h)
theorem powerOnReset_keeps (h : Keeps d₀ d) : Keeps d₀ (powerOnReset d) := .ite h (.update (coldReset_keeps (.update h)))
theorem vauxLossAt_keeps {vbakOk : Bool} (h : Keeps d₀ d) : Keeps d₀ (vauxLossAt d vbakOk) :=
  .ite h (.ite (.update (clearDomains_keeps h)) (.update (.update (.update (clearDomains_keeps h)))))
theorem vinGoodAt_keeps (h : Keeps d₀ d) : Keeps d₀ (vinGoodAt d) := .ite h (.update (.update h))
theorem railFaultAt_keeps (h : Keeps d₀ d) : Keeps d₀ (railFaultAt d) := .ite (warmReset_keeps h) h
theorem powerFailAt_keeps {mv : Nat} (h : Keeps d₀ d) : Keeps d₀ (powerFailAt d mv) := .ite h (logEvent_keeps (.update h))
theorem toStandby_keeps {cause : Nat} (h : Keeps d₀ d) : Keeps d₀ (toStandby d cause) := .update (warmReset_keeps (.update h))
theorem vinLossAt_keeps (h : Keeps d₀ d) : Keeps d₀ (vinLossAt d) := .ite h (toStandby_keeps h)
theorem overvoltAt_keeps {mv : Nat} (h : Keeps d₀ d) : Keeps d₀ (overvoltAt d mv) :=
  .ite h (logEvent_keeps (.update (toStandby_keeps h)))
theorem overvoltClearAt_keeps (h : Keeps d₀ d) : Keeps d₀ (overvoltClearAt d) := .ite (.update h) h
theorem thermalTripAt_keeps {t : Nat} (h : Keeps d₀ d) : Keeps d₀ (thermalTripAt d t) := .ite h (.update (warmReset_keeps h))
theorem thermalWarningAt_keeps {sensor t : Nat} (h : Keeps d₀ d) : Keeps d₀ (thermalWarningAt d sensor t) :=
  .ite h (logEvent_keeps (.update h))
theorem perstAt_keeps {low : Bool} (h : Keeps d₀ d) : Keeps d₀ (perstAt d low) :=
  .ite (.ite h (warmReset_keeps (.update h))) (.update h)
theorem resetInAt_keeps {low : Bool} (h : Keeps d₀ d) : Keeps d₀ (resetInAt d low) :=
  .ite (.ite h (coldReset_keeps (.update h))) (.update h)
theorem watchdogAt_keeps (h : Keeps d₀ d) : Keeps d₀ (watchdogAt d) := .ite (warmReset_keeps h) h
theorem startPacers_keeps {rs : List Nat} (h : Keeps d₀ d) : Keeps d₀ (startPacers d rs) := .update (.foldl .update h)
theorem calibrate_keeps {rs : List Nat} {cs : List Crossing} (h : Keeps d₀ d) : Keeps d₀ (calibrate d rs cs) :=
  .foldl (fun h => .ite h (.ite (.update h) (logEvent_keeps (.ite (.update (.ite (.update h) h)) (.ite (.update h) h))))) h
theorem releaseGroup_keeps {rs : List Nat} {cs : List Crossing} (h : Keeps d₀ d) : Keeps d₀ (releaseGroup d rs cs) :=
  .foldl (fun h => .ite (.update h) (logEvent_keeps h)) (calibrate_keeps h)
theorem trimLoaded_keeps {fromFlash : Bool} (h : Keeps d₀ d) : Keeps d₀ (trimLoaded d fromFlash) :=
  .ite h (.ite (.update (.update (.update h))) (logEvent_keeps (.update (.update (.update h)))))
theorem prefectError_keeps (h : Keeps d₀ d) : Keeps d₀ (prefectError d) :=
  .ite (detainDevice_keeps (logEvent_keeps (.update (.update (.update h))))) (logEvent_keeps (.update (.update (.update h))))
theorem drbgReady_keeps (h : Keeps d₀ d) : Keeps d₀ (drbgReady d) := .ite (.update (.update h)) h
theorem drbgUsed_keeps {n : Nat} (h : Keeps d₀ d) : Keeps d₀ (drbgUsed d n) := .update (drbgReady_keeps h)
theorem identityKey_keeps (h : Keeps d₀ d) : Keeps d₀ (identityKey d) := by
  unfold identityKey
  split
  · exact h
  · rename_i hc
    simp only [Bool.or_eq_true, bne_iff_ne, not_or, not_not] at hc
    obtain ⟨hl, hm⟩ := hc
    have hf : (drbgReady d).fuses = d.fuses := by
      unfold drbgReady
      dsimp only
      split <;> rfl
    exact (drbgReady_keeps h).burn (fusesBurn_identity (by rw [hf, hl]) (by rw [hf, hm]))
theorem releasePrefect_keeps {testsPass : Bool} (h : Keeps d₀ d) : Keeps d₀ (releasePrefect d testsPass) :=
  .update (.ite (identityKey_keeps (.update h)) (prefectError_keeps h))
theorem releaseHbm_keeps {cs : List Crossing} (h : Keeps d₀ d) : Keeps d₀ (releaseHbm d cs) := by
  unfold releaseHbm
  dsimp only
  split
  · exact startPacers_keeps h
  · exact h
  · exact .update (releaseGroup_keeps h)
theorem releaseDie_keeps {die sub : Nat} {cs : List Crossing} (h : Keeps d₀ d) : Keeps d₀ (releaseDie d die sub cs) :=
  .ite (.update (startPacers_keeps h)) (.ite h (.ite (.update (releaseGroup_keeps h))
    (.ite (.update (releaseGroup_keeps h)) (.update (releaseGroup_keeps h)))))
theorem releaseStepAt_keeps {mv : List Nat} {testsPass : Bool} {cs : List Crossing} (h : Keeps d₀ d) :
    Keeps d₀ (releaseStepAt d mv testsPass cs) := by
  unfold releaseStepAt
  dsimp only
  split
  · exact .ite (.update (.update h)) h
  · exact .ite (releasePrefect_keeps h) h
  · exact .update (.update h)
  · exact .ite (.update (.update (.update h))) h
  · exact .update h
  · exact releaseHbm_keeps h
  · exact releaseDie_keeps h
  · exact releaseDie_keeps h
  · exact logEvent_keeps (.update (.update h))
  · exact h
theorem pacerTimeoutAt_keeps {r : Nat} (h : Keeps d₀ d) : Keeps d₀ (pacerTimeoutAt d r) := .ite (.update h) h
theorem blockStart_keeps {blk requester : Nat} (h : Keeps d₀ d) : Keeps d₀ (blockStart d blk requester) := by
  unfold blockStart
  refine .ite (logEvent_keeps h) ?_
  dsimp only
  split
  · exact .ite (.update (.update h)) (.update h)
  · exact .update h
theorem resetCore_keeps {v : Nat} {honoured : Bool} (h : Keeps d₀ d) : Keeps d₀ (resetCore d v honoured) :=
  .update (breakRingsOf_keeps (.ite (.update (loseOwn_keeps h)) (abandonCore_keeps h)))
theorem loseController_keeps {c : Nat} (h : Keeps d₀ d) : Keeps d₀ (loseController d c) := h.setMem (memWf_filter _)
theorem resetHbm_keeps {c : Nat} {honoured : Bool} (h : Keeps d₀ d) : Keeps d₀ (resetHbm d c honoured) :=
  .update (.ite h (loseController_keeps h))
theorem shadowReset_keeps {sh : Dev} {blk : Nat} (h : Keeps d₀ sh) : Keeps d₀ (shadowReset sh blk) := by
  unfold shadowReset
  refine .ite ?_ (.ite (.update h) (.ite (.update h) (.update h)))
  split
  · exact .update h
  · exact h
theorem registrarGo_keeps {blk : Byte} (h : Keeps d₀ d) : Keeps d₀ (registrarGo d blk) := blockStart_keeps (.update (.update h))
theorem blockDone_keeps {honoured : Bool} (h : Keeps d₀ d) : Keeps d₀ (blockDone d honoured) := by
  unfold blockDone
  split
  · exact h
  · extract_lets blk _ d1 d2 d3
    have h1 : Keeps d₀ d1 := recordReset_keeps (.update (.update h))
    have h2 : Keeps d₀ d2 := by
      refine .ite ?_ (.ite (resetHbm_keeps h1) (.ite (.update (.update h1)) (.update h1)))
      split
      · exact resetCore_keeps h1
      · exact h1
    have h3 : Keeps d₀ d3 := logEvent_keeps h2
    split
    · exact h3
    · exact registrarGo_keeps (.update h3)
theorem registrarResets_keeps {vs : List Nat} (h : Keeps d₀ d) : Keeps d₀ (registrarResets d vs) := by
  unfold registrarResets
  refine .ite (.update h) ?_
  split
  · exact h
  · exact registrarGo_keeps (.update h)
theorem wakeUp_keeps (h : Keeps d₀ d) : Keeps d₀ (wakeUp d) := .update (.update (.foldl resetCore_keeps h))
theorem enterPower_keeps {s : PwrState} (h : Keeps d₀ d) : Keeps d₀ (enterPower d s) := by
  unfold enterPower
  split <;> exact .update h

/-! ### Pacing -/

theorem trimPacers_keeps (h : Keeps d₀ d) : Keeps d₀ (trimPacers d) := .ite h (.update (.update h))
theorem announce_keeps {n : Byte} (h : Keeps d₀ d) : Keeps d₀ (announce d n) :=
  .foldl bellArrive_keeps (.update (.update (.foldl .update h)))
theorem epochBegin_keeps {n : Nat} (h : Keeps d₀ d) : Keeps d₀ (epochBegin d n) :=
  .ite (.update (.update h)) (announce_keeps (.update h))
theorem paceEpochAt_keeps (h : Keeps d₀ d) : Keeps d₀ (paceEpochAt d) := .ite h (.ite h (epochBegin_keeps h))
theorem paceChanged_keeps (h : Keeps d₀ d) : Keeps d₀ (paceChanged d) := by
  unfold paceChanged
  split
  · exact .ite (epochBegin_keeps (.update h)) h
  · exact h
theorem paceFall_keeps (h : Keeps d₀ d) : Keeps d₀ (paceFall d) := .ite (paceEpochAt_keeps (paceChanged_keeps h)) h
theorem railsSettledAt_keeps (h : Keeps d₀ d) : Keeps d₀ (railsSettledAt d) := by
  unfold railsSettledAt
  split
  · exact announce_keeps (.update h)
  · exact h
theorem railTimeoutAt_keeps (h : Keeps d₀ d) : Keeps d₀ (railTimeoutAt d) := by
  unfold railTimeoutAt
  split
  · exact logEvent_keeps (.update (.update h))
  · exact h
theorem switchCodes_keeps {n : Byte} (h : Keeps d₀ d) : Keeps d₀ (switchCodes d n) :=
  .foldl bellArrive_keeps (.update (.foldl .update h))
theorem paceRelease_keeps (h : Keeps d₀ d) : Keeps d₀ (paceRelease d) := by
  unfold paceRelease
  split
  · exact switchCodes_keeps h
  · exact .update (.update h)
  · exact h
theorem writeTgt_keeps {c : Nat} (h : Keeps d₀ d) : Keeps d₀ (writeTgt d c) :=
  .ite (paceChanged_keeps (.update h)) (logEvent_keeps (.update h))
theorem writeTherm_keeps {c : Nat} (h : Keeps d₀ d) : Keeps d₀ (writeTherm d c) :=
  .ite (paceChanged_keeps (.update h)) (logEvent_keeps h)
theorem thermPolicy_keeps (h : Keeps d₀ d) : Keeps d₀ (thermPolicy d) := .ite (writeTherm_keeps (.update h)) h
theorem marginAt_keeps {r : Nat} {level : BitVec 2} (h : Keeps d₀ d) : Keeps d₀ (marginAt d r level) := .ite h (.update h)
theorem criticalAt_keeps {r : Nat} (h : Keeps d₀ d) : Keeps d₀ (criticalAt d r) := .ite h (logEvent_keeps (.update h))
theorem powerWindowAt_keeps {w : Nat} (h : Keeps d₀ d) : Keeps d₀ (powerWindowAt d w) :=
  .ite (paceFall_keeps (.ite (logEvent_keeps (.update h)) (.update h))) (.ite (logEvent_keeps (.update h)) (.update h))
theorem powerStretchAt_keeps {w : Nat} (h : Keeps d₀ d) : Keeps d₀ (powerStretchAt d w) := .ite h (.update h)

/-! ### The Proctor -/

theorem issueWait_keeps {v w : Nat} (h : Keeps d₀ d) : Keeps d₀ (issueWait d v w) :=
  .ite (noteOver_keeps (raced_keeps winWrite_keeps (.update h))) (.update h)
theorem issueCmd_keeps {v w : Nat} (h : Keeps d₀ d) : Keeps d₀ (issueCmd d v w) := by
  unfold issueCmd
  split
  · exact .update h
  · exact .update h
  · refine .update (.ite (.update (.update h)) (.ite (.update (.update h)) ?_))
    split
    · exact .update h
    · exact .update h
    · exact .update (.update h)
    · exact issueWait_keeps h
    · exact .update (.update h)
    · exact .update h
    · exact .update h
theorem markDone_keeps {before after : Dev} {v : Nat} {i : Issued} (h : Keeps d₀ after) :
    Keeps d₀ (markDone before after v i) :=
  .update (noteOver_keeps h)
theorem pumpArray_keeps {n v a : Nat} (h : Keeps d₀ d) : Keeps d₀ (pumpArray n d v a) := by
  induction n generalizing d with
  | zero => exact h
  | succ n ih =>
    unfold pumpArray
    split
    · exact h
    · exact .ite (ih (markDone_keeps (raced_keeps execArrayCmd_keeps h))) h
theorem pumpVec_keeps {n v : Nat} (h : Keeps d₀ d) : Keeps d₀ (pumpVec n d v) := by
  induction n generalizing d with
  | zero => exact h
  | succ n ih =>
    unfold pumpVec
    split
    · exact h
    · refine .ite ?_ (ih (markDone_keeps (raced_keeps execVecCmd_keeps h)))
      dsimp only
      split
      · exact h
      · exact ih (markDone_keeps (.update (raced_keeps execVecCmd_keeps h)))
theorem pump_keeps {v : Nat} (h : Keeps d₀ d) : Keeps d₀ (pump d v) := pumpVec_keeps (.foldl pumpArray_keeps h)
theorem attempt_keeps {v : Nat} {row : Nat → Bool} (h : Keeps d₀ d) : Keeps d₀ (attempt d v row) := by
  unfold attempt
  refine .ite h ?_
  split
  · exact h
  · refine .ite h ?_
    split
    · exact .update h
    · split
      · exact .update h
      · exact .ite h (pump_keeps (issueCmd_keeps h))
theorem startCore_keeps {v : Nat} (h : Keeps d₀ d) : Keeps d₀ (startCore d v) := .ite h (.update h)
theorem noteFault_keeps {v : Nat} (h : Keeps d₀ d) : Keeps d₀ (noteFault d v) := by
  unfold noteFault
  refine .ite h (.ite (.update h) ?_)
  split
  · exact h
  · refine .ite h ?_
    split
    · exact .update h
    · exact h
theorem finishFault_keeps {v : Nat} (h : Keeps d₀ d) : Keeps d₀ (finishFault d v) := by
  unfold finishFault
  dsimp only
  split
  · exact .ite (signal_keeps (logEvent_keeps (.update h))) h
  · exact h
theorem noteBreak_keeps {v : Nat} (h : Keeps d₀ d) : Keeps d₀ (noteBreak d v) := by
  unfold noteBreak
  refine .ite h ?_
  split
  · exact h
  · split
    · exact .update h
    · exact h
theorem finishBreak_keeps {v : Nat} (h : Keeps d₀ d) : Keeps d₀ (finishBreak d v) := by
  unfold finishBreak
  dsimp only
  split
  · exact .ite (signal_keeps (logEvent_keeps (.update h))) h
  · exact h
theorem completeAt_keeps {v id : Nat} (h : Keeps d₀ d) : Keeps d₀ (completeAt d v id) := by
  unfold completeAt
  dsimp only
  split
  · exact h
  · refine .ite h (pump_keeps ?_)
    split
    · exact .update (.update h)
    · exact .update h
theorem completeCmd_keeps {v id : Nat} (h : Keeps d₀ d) : Keeps d₀ (completeCmd d v id) := completeAt_keeps (pump_keeps h)
theorem takeTask_keeps {v e u : Nat} {i : Issued} (h : Keeps d₀ d) : Keeps d₀ (takeTask d v e u i) := by
  unfold takeTask
  extract_lets d1 d2 d3
  have h3 : Keeps d₀ d3 := .update (markDone_keeps (raced_keeps execVecCmd_keeps (.update h)))
  exact .ite (.update h3) (.update (.update h3))
theorem taskTakeAt_keeps {v e : Nat} (h : Keeps d₀ d) : Keeps d₀ (taskTakeAt d v e) := by
  unfold taskTakeAt
  refine .ite h ?_
  split
  · exact .update h
  · refine .ite h ?_
    split
    · exact takeTask_keeps h
    · refine .ite h ?_
      split
      · split
        · exact takeTask_keeps h
        · exact h
      · exact h
theorem ringHeaderAt_keeps {r m : Nat} (h : Keeps d₀ d) : Keeps d₀ (ringHeaderAt d r m) := by
  unfold ringHeaderAt
  split
  · refine .ite h ?_
    split
    · exact breakRing_keeps h
    · split
      · exact h
      · dsimp only
        split
        · exact breakRing_keeps h
        · exact .ite h (pump_keeps (markDone_keeps (raced_keeps execMmaOn_keeps (.update h))))
  · exact h

/-! ### Bell generations and Detention writes -/

theorem releaseBell_keeps {b : Nat} {op : BitVec 3} {v : Dword} (h : Keeps d₀ d) : Keeps d₀ (releaseBell d b op v) := by
  unfold releaseBell
  extract_lets d1
  have h1 : Keeps d₀ d1 := bellRelease_keeps (freezeOn_keeps h)
  exact .ite (paceRelease_keeps h1) (.ite (agreeRelease_keeps h1) (.ite (copyRelease_keeps h1) (.ite (startArrives_keeps h1) h1)))
theorem generationAt_keeps {b : Nat} (h : Keeps d₀ d) : Keeps d₀ (generationAt d b) := .ite h (releaseBell_keeps h)
theorem arrivalSentAt_keeps {v b : Nat} (h : Keeps d₀ d) : Keeps d₀ (arrivalSentAt d v b) := by
  unfold arrivalSentAt
  split
  · exact h
  · refine .ite h (pump_keeps (bellArrive_keeps ?_))
    split
    · exact .update (.update h)
    · split
      · exact modStrm_keeps (.update h)
      · exact .update h
theorem bellIn_keeps {p : Nat} {f : BitVec 256} (h : Keeps d₀ d) : Keeps d₀ (bellIn d p f) := by
  have h1 : Keeps d₀ (linkAccept d p f).1 := linkAccept_keeps h
  exact .ite (.ite (.ite (bellArrive_keeps h1) h1) (.ite (releaseBell_keeps h1) h1)) h1
theorem bellArrivalAt_keeps {p : Nat} {f : BitVec 256} (h : Keeps d₀ d) : Keeps d₀ (bellArrivalAt d p f) :=
  .ite h (bellIn_keeps h)
theorem bellReleaseAt_keeps {p : Nat} {f : BitVec 256} (h : Keeps d₀ d) : Keeps d₀ (bellReleaseAt d p f) :=
  .ite h (bellIn_keeps h)
theorem dcoreAt_keeps {value : Nat} (h : Keeps d₀ d) : Keeps d₀ (dcoreAt d value) :=
  .ite (detainDevice_keeps (.ite (detainCore_keeps (.update h)) (.update h))) (.ite (detainCore_keeps (.update h)) (.update h))
theorem workStopAt_keeps (h : Keeps d₀ d) : Keeps d₀ (workStopAt d) := .ite h (registrarResets_keeps (.update h))

/-! ### Roll Call, Attendance and ports -/

theorem linkUp_keeps {p : Nat} {s : PortState} {width : Nat} {rev : Bool} (h : Keeps d₀ d) :
    Keeps d₀ (linkUp d p s width rev) :=
  sendCtl_keeps (.update (.update h))
theorem absentApply_keeps {dev : Nat} {tree : Byte} (h : Keeps d₀ d) : Keeps d₀ (absentApply d dev tree) := by
  unfold absentApply
  extract_lets _ d1 d2 d3
  have h3 : Keeps d₀ d3 := roundNext_keeps (agreeDrop_keeps (copyStopRound_keeps (.update (.update (.update h)))))
  exact .ite h (.ite (cadence_keeps (.update h3)) h3)
theorem declareAbsent_keeps {dev : Nat} (h : Keeps d₀ d) : Keeps d₀ (declareAbsent d dev) :=
  .ite h (absentApply_keeps (sendFlood_keeps (.update h)))
theorem rootLinkDown_keeps {dev port nbr : Nat} (h : Keeps d₀ d) : Keeps d₀ (rootLinkDown d dev port nbr) :=
  .ite h (.ite (.update h) (declareAbsent_keeps (declareAbsent_keeps (.update h))))
theorem chainPortDown_keeps {p : Nat} (h : Keeps d₀ d) : Keeps d₀ (chainPortDown d p) := .ite (.update h) h
theorem dropOwn_keeps {b : Bulk} (h : Keeps d₀ d) : Keeps d₀ (dropOwn d b) :=
  .ite (.ite (drainFails_keeps (.update (.update h))) (.update h)) (modStrm_keeps (.update h))
theorem resend_keeps {t : TxFlit} (h : Keeps d₀ d) : Keeps d₀ (resend d t) :=
  .ite (routeOut_keeps h) (.ite (dropOwn_keeps h) (dropBulk_keeps h))
theorem portDown_keeps {p : Nat} {held : Bool} (h : Keeps d₀ d) : Keeps d₀ (portDown d p held) := by
  unfold portDown
  extract_lets q msgs d1 d2 d3
  have h2 : Keeps d₀ d2 := chainPortDown_keeps (signal_keeps (logEvent_keeps (.update h)))
  exact .ite (.update h) (.foldl resend_keeps (.ite (rootLinkDown_keeps h2) (sendUp_keeps h2)))
theorem retrainDoneAt_keeps {p : Nat} {ok : Bool} (h : Keeps d₀ d) : Keeps d₀ (retrainDoneAt d p ok) :=
  .ite h (.ite (portDown_keeps h) (txGo_keeps (replayAll_keeps (.update h))))
theorem linkFlitAt_keeps {p : Nat} {f : BitVec 256} (h : Keeps d₀ d) : Keeps d₀ (linkFlitAt d p f) :=
  .ite h (.ite (framingError_keeps h) (.ite (.ite (.update (.update h)) (txGo_keeps (replayAll_keeps (.update (.update h)))))
    (txGo_keeps (.update h))))
theorem ackDueAt_keeps {p : Nat} (h : Keeps d₀ d) : Keeps d₀ (ackDueAt d p) := .ite (sendAck_keeps h) h
theorem reservedFlitAt_keeps {p : Nat} {f : BitVec 256} (h : Keeps d₀ d) : Keeps d₀ (reservedFlitAt d p f) :=
  .ite (framingError_keeps h) h
theorem refclkStopAt_keeps {south : Bool} (h : Keeps d₀ d) : Keeps d₀ (refclkStopAt d south) := .foldl portDown_keeps h
theorem dropTimetable_keeps (h : Keeps d₀ d) : Keeps d₀ (dropTimetable d) :=
  agreeDrop_keeps (.update (.update (.update ((copyStopRound_keeps h).setMem (memWf_filter _)))))
theorem rcFail_keeps {cause : Nat} (h : Keeps d₀ d) : Keeps d₀ (rcFail d cause) := setRc_keeps (.update h)
theorem sendAssign_keeps {x : RcDev} (h : Keeps d₀ d) : Keeps d₀ (sendAssign d x) := by
  unfold sendAssign
  split
  · exact h
  · exact sendCtl_keeps (.ite (.update h) h)
theorem rcComplete_keeps {record : List Byte} {count : Nat} {torus : Bool} {topo : Nat} (h : Keeps d₀ d) :
    Keeps d₀ (rcComplete d record count torus topo) :=
  agreeDrop_keeps (setRc_keeps (copyStopRound_keeps (.update (.foldl .update (.update h)))))
theorem rcFinish_keeps {sizes : Option (Nat × Nat × Nat)} (h : Keeps d₀ d) : Keeps d₀ (rcFinish d sizes) :=
  rcComplete_keeps (sendDown_keeps (.foldl sendDown_keeps h))
theorem numberOn_keeps (h : Keeps d₀ d) : Keeps d₀ (numberOn d) := by
  unfold numberOn
  refine .ite h (.ite (rcFail_keeps h) (.ite (rcFail_keeps h) (.ite (.foldl sendAssign_keeps (.update h)) ?_)))
  split
  · exact rcFinish_keeps h
  · exact .ite (rcFinish_keeps h) (.foldl sendAssign_keeps (.update h))
theorem rcBegin_keeps (h : Keeps d₀ d) : Keeps d₀ (rcBegin d) :=
  .ite h (numberOn_keeps (.update (.foldl .update (dropTimetable_keeps (.update h)))))
theorem rcgoAt_keeps (h : Keeps d₀ d) : Keeps d₀ (rcgoAt d) :=
  .ite h (.ite (rcFail_keeps (agreeDrop_keeps (.update h)))
    (rcBegin_keeps (setRc_keeps (.foldl .update (agreeDrop_keeps (.update h))))))
theorem takeAssign_keeps {p : Nat} {f : BitVec 256} (h : Keeps d₀ d) : Keeps d₀ (takeAssign d p f) :=
  .ite (sendCtl_keeps (.ite (agreeDrop_keeps h) h)) (.ite (sendCtl_keeps (.ite (agreeDrop_keeps h) h))
    (.foldl sendUp_keeps (setRc_keeps (.update (.ite (.update (.foldl .update (dropTimetable_keeps h))) h)))))
theorem assignAt_keeps {p : Nat} {f : BitVec 256} (h : Keeps d₀ d) : Keeps d₀ (assignAt d p f) :=
  .ite (takeAssign_keeps h) (sendCtl_keeps (.ite (.update h) h))
theorem reportAt_keeps {f : BitVec 256} (h : Keeps d₀ d) : Keeps d₀ (reportAt d f) :=
  .ite (sendUp_keeps h) (.ite h (numberOn_keeps (.update h)))
theorem reportTimeoutAt_keeps {dev : Nat} (h : Keeps d₀ d) : Keeps d₀ (reportTimeoutAt d dev) := by
  unfold reportTimeoutAt
  split
  · exact h
  · exact .ite h (.ite (rcFail_keeps h) (sendAssign_keeps (.update h)))
theorem refuseAt_keeps {p : Nat} {f : BitVec 256} (h : Keeps d₀ d) : Keeps d₀ (refuseAt d p f) :=
  .ite (.ite (rcFail_keeps h) h) (sendCtl_keeps (.ite (rcFail_keeps h) h))
theorem topoAt_keeps {f : BitVec 256} (h : Keeps d₀ d) : Keeps d₀ (topoAt d f) := .ite h (.update (sendDown_keeps h))
theorem doneAt_keeps {f : BitVec 256} (h : Keeps d₀ d) : Keeps d₀ (doneAt d f) := .ite h (rcComplete_keeps (sendDown_keeps h))
theorem heartbeatSendAt_keeps (h : Keeps d₀ d) : Keeps d₀ (heartbeatSendAt d) :=
  .ite h (.foldl (fun h => .ite (sendCtl_keeps h) h) h)
theorem heartbeatMissAt_keeps {p : Nat} (h : Keeps d₀ d) : Keeps d₀ (heartbeatMissAt d p) :=
  .ite h (.ite (.update h) (.ite (portDown_keeps (.update h)) (.update h)))
theorem linkDownAt_keeps {f : BitVec 256} (h : Keeps d₀ d) : Keeps d₀ (linkDownAt d f) :=
  .ite (rootLinkDown_keeps h) (sendUp_keeps h)
theorem absentAt_keeps {p : Nat} {f : BitVec 256} (h : Keeps d₀ d) : Keeps d₀ (absentAt d p f) :=
  .ite h (.ite (absentApply_keeps (sendFlood_keeps (.update h))) (sendFlood_keeps (.update h)))
theorem resetReqAt_keeps {p : Nat} {f : BitVec 256} (h : Keeps d₀ d) : Keeps d₀ (resetReqAt d p f) := by
  unfold resetReqAt
  refine .ite ?_ (.ite (kindReset_keeps (logEvent_keeps h)) (logEvent_keeps (logEvent_keeps h)))
  split
  · exact sendCtl_keeps h
  · exact h
theorem portTrainingAt_keeps {p : Nat} {full : Bool} {lanes0 : Nat} {rev : Bool} {far : BitVec 2}
    {call : Bool} (h : Keeps d₀ d) :
    Keeps d₀ (portTrainingAt d p full lanes0 rev far call) :=
  .ite h (.ite (.ite h (rcBegin_keeps (.ite (portDown_keeps h) (linkUp_keeps h)))) (.ite h (.ite (linkUp_keeps h) h)))
theorem fallbackAt_keeps {p : Nat} {far : BitVec 2} (h : Keeps d₀ d) : Keeps d₀ (fallbackAt d p far) :=
  .ite h (rcBegin_keeps (linkUp_keeps h))
theorem freeStore_keeps (h : Keeps d₀ d) : Keeps d₀ (freeStore d) := .ite (.update h) h
theorem portGone_keeps {p : Nat} {held : Bool} (h : Keeps d₀ d) : Keeps d₀ (portGone d p held) :=
  freeStore_keeps (rcBegin_keeps (portDown_keeps h))
theorem onCtl_keeps {p : Nat} {f : BitVec 256} {ctype : Nat} {act : Dev → Dev}
    (ha : ∀ {e : Dev}, Keeps d₀ e → Keeps d₀ (act e)) (h : Keeps d₀ d) : Keeps d₀ (onCtl d p f ctype act) :=
  .ite h (.ite (ha (linkAccept_keeps h)) (linkAccept_keeps h))

/-! ### The host interface -/

theorem hostRefuse_keeps {addr cause : Nat} (h : Keeps d₀ d) : Keeps d₀ (hostRefuse d addr cause) := logEvent_keeps (.update h)
theorem doorbellAt_keeps {k value : Nat} (h : Keeps d₀ d) : Keeps d₀ (doorbellAt d k value) :=
  .ite h (.ite (.update h) (.ite (hostRefuse_keeps h) (.ite (hostRefuse_keeps h) (.ite (hostRefuse_keeps h) (.update h)))))
theorem coresWriteAt_keeps {k n value : Nat} (h : Keeps d₀ d) : Keeps d₀ (coresWriteAt d k n value) :=
  .ite h (.ite (.update h) (logEvent_keeps h))
theorem completion_keeps {k : Nat} {seq : BitVec 16} {jobid vec result core halt : Nat} {reply : HostReply} (h : Keeps d₀ d) :
    Keeps d₀ (completion d k seq jobid vec result core halt reply) :=
  signal_keeps (.ite (wrBytes_keeps h) (logEvent_keeps h))
theorem descriptorTakeAt_keeps {k : Nat} {reply : HostReply} (h : Keeps d₀ d) : Keeps d₀ (descriptorTakeAt d k reply) := by
  unfold descriptorTakeAt
  refine .ite h ?_
  dsimp only
  split
  · exact completion_keeps (.update h)
  · exact .foldl (fun h => startCore_keeps (.ite h (.update h))) (.update (.update h))
theorem jobEndAt_keeps {k : Nat} {reply : HostReply} (h : Keeps d₀ d) : Keeps d₀ (jobEndAt d k reply) := by
  unfold jobEndAt
  split
  · exact h
  · exact .ite h (completion_keeps (.update h))
theorem discardOne_keeps {k : Nat} {reply : HostReply} (h : Keeps d₀ d) : Keeps d₀ (discardOne d k reply) :=
  completion_keeps (.update h)
theorem stopAt_keeps {k : Nat} {reply : HostReply} (h : Keeps d₀ d) : Keeps d₀ (stopAt d k reply) := by
  unfold stopAt
  extract_lets d1
  have h1 : Keeps d₀ d1 := .repeat discardOne_keeps h
  refine .ite h ?_
  split
  · exact h1
  · exact .foldl .update (.update h1)
theorem stopTimeoutAt_keeps {k : Nat} (h : Keeps d₀ d) : Keeps d₀ (stopTimeoutAt d k) := by
  unfold stopTimeoutAt
  split
  · exact h
  · exact .ite h (registrarResets_keeps h)
theorem ctxCtlWrite_keeps {k value : Nat} {reply : HostReply} (h : Keeps d₀ d) : Keeps d₀ (ctxCtlWrite d k value reply) :=
  .ite h (.ite (stopAt_keeps (.update h)) (.update h))
theorem hdmaCheck_keeps {c : Nat} (h : Keeps d₀ d) : Keeps d₀ (hdmaCheck d c) := by
  unfold hdmaCheck
  dsimp only
  split
  · exact h
  · exact .ite (signal_keeps (.update h)) h
theorem hdmaCtlWrite_keeps {c value : Nat} (h : Keeps d₀ d) : Keeps d₀ (hdmaCtlWrite d c value) :=
  .ite h (.ite (.update h) (hdmaCheck_keeps (.update (.update h))))
theorem hdmaAbort_keeps {c : Nat} (h : Keeps d₀ d) : Keeps d₀ (hdmaAbort d c) := by
  unfold hdmaAbort
  dsimp only
  split
  · exact h
  · exact hdmaCheck_keeps (.update h)
theorem flrAt_keeps {reply : HostReply} (h : Keeps d₀ d) : Keeps d₀ (flrAt d reply) :=
  .foldl (fun h => .update (.update h)) (.foldl hdmaAbort_keeps (.foldl stopAt_keeps h))
theorem msixUnmaskAt_keeps {vec : Nat} (h : Keeps d₀ d) : Keeps d₀ (msixUnmaskAt d vec) :=
  .ite h (.ite (.update (.update (.update h))) (.update h))
theorem enablesWrite_keeps {v : Nat} (h : Keeps d₀ d) : Keeps d₀ (enablesWrite d v) :=
  .ite (.update h) (.foldl (fun h => .ite h (msixUnmaskAt_keeps h)) (.update h))

/-! ### The Registrar mailbox -/

theorem infoAt_keeps (h : Keeps d₀ d) : Keeps d₀ (infoAt d) := .ite h (.ite (regRespond_keeps h) (regRespond_keeps h))
theorem logReadAt_keeps (h : Keeps d₀ d) : Keeps d₀ (logReadAt d) := .ite h (.ite (regRespond_keeps h) (regRespond_keeps h))
theorem topoReadAt_keeps (h : Keeps d₀ d) : Keeps d₀ (topoReadAt d) := .ite h (.ite (regRespond_keeps h) (regRespond_keeps h))
theorem watchdogSetAt_keeps (h : Keeps d₀ d) : Keeps d₀ (watchdogSetAt d) :=
  .ite h (.ite (regRespond_keeps h) (regRespond_keeps (.update h)))
theorem regReservedAt_keeps (h : Keeps d₀ d) : Keeps d₀ (regReservedAt d) := .ite (regRespond_keeps h) h
theorem paceReqAt_keeps (h : Keeps d₀ d) : Keeps d₀ (paceReqAt d) :=
  .ite h (.ite (regRespond_keeps h) (.ite (regRespond_keeps (.update h)) (regRespond_keeps (writeTgt_keeps (.update h)))))
theorem powerStateAt_keeps (h : Keeps d₀ d) : Keeps d₀ (powerStateAt d) := by
  unfold powerStateAt
  refine .ite h (.ite (regRespond_keeps h) ?_)
  dsimp only
  split
  · exact regRespond_keeps h
  · exact .ite h (regRespond_keeps (enterPower_keeps h))
  · exact .ite h (regRespond_keeps (enterPower_keeps h))
  · exact regRespond_keeps (enterPower_keeps h)
  · exact regRespond_keeps h
  · exact regRespond_keeps (enterPower_keeps h)
  · exact regRespond_keeps (wakeUp_keeps h)
  · exact regRespond_keeps (wakeUp_keeps h)
  · exact regRespond_keeps h
  · exact regRespond_keeps h
theorem holdupAt_keeps {mw v1 : Nat} (h : Keeps d₀ d) : Keeps d₀ (holdupAt d mw v1) :=
  .ite (.update h) (.ite h (.ite (regRespond_keeps h) (.update h)))
theorem settingsReadAt_keeps (h : Keeps d₀ d) : Keeps d₀ (settingsReadAt d) :=
  .ite h (.ite (regRespond_keeps h) (regRespond_keeps h))
theorem flashCheck_keeps (h : Keeps d₀ d) : Keeps d₀ (flashCheck d) := by
  unfold flashCheck
  split
  · exact h
  · exact .ite h (.ite (.update (.update h)) (regRespond_keeps (.update (.update h))))
theorem settingsWriteAt_keeps {d0 : Dev} {vinMv : BitVec 16} (h : Keeps d₀ d0) : Keeps d₀ (settingsWriteAt d0 vinMv) :=
  .ite h (.ite (regRespond_keeps (.update h)) (flashCheck_keeps (.update (.update (.update h)))))
theorem holdupRecheckAt_keeps {vinMv : BitVec 16} (h : Keeps d₀ d) : Keeps d₀ (holdupRecheckAt d vinMv) :=
  .ite h (flashCheck_keeps (.update h))
theorem flashTimeoutAt_keeps (h : Keeps d₀ d) : Keeps d₀ (flashTimeoutAt d) := by
  unfold flashTimeoutAt
  split
  · exact h
  · exact regRespond_keeps (logEvent_keeps (.update h))
theorem sagEndAt_keeps {v2 ns : Nat} (h : Keeps d₀ d) : Keeps d₀ (sagEndAt d v2 ns) := by
  unfold sagEndAt
  split
  · exact h
  · exact .ite h (.ite (flashCheck_keeps (logEvent_keeps (.update (.update h))))
      (regRespond_keeps (logEvent_keeps (.update (.update h)))))
theorem sagVinLowAt_keeps (h : Keeps d₀ d) : Keeps d₀ (sagVinLowAt d) := by
  unfold sagVinLowAt
  split
  · exact h
  · exact .ite (.update h) (regRespond_keeps (.update (.update h)))

/-! ### Boot and chain delivery -/

theorem sendDone_keeps {p result cause : Nat} (h : Keeps d₀ d) : Keeps d₀ (sendDone d p result cause) := sendCtl_keeps h
theorem bundleFails_keeps {code : Nat} (h : Keeps d₀ d) : Keeps d₀ (bundleFails d code) := by
  unfold bundleFails
  split
  · exact h
  · exact .ite (sendDone_keeps (.update h)) (.update h)
theorem sendOffer_keeps {b : Bundle} {p : Nat} (h : Keeps d₀ d) : Keeps d₀ (sendOffer d b p) := by
  unfold sendOffer
  split
  · exact sendCtl_keeps h
  · exact h
theorem offerAll_keeps (h : Keeps d₀ d) : Keeps d₀ (offerAll d) := by
  unfold offerAll
  split
  · exact h
  · exact .ite h (.foldl (fun h => .ite (sendOffer_keeps h) h) h)
theorem bundleVerified_keeps {b : Bundle} (h : Keeps d₀ d) : Keeps d₀ (bundleVerified d b) :=
  offerAll_keeps (.ite (sendDone_keeps (.foldl .update (.update h))) (.foldl .update (.update h)))
theorem blockArrived_keeps {n : Nat} {data : List Byte} (h : Keeps d₀ d) : Keeps d₀ (blockArrived d n data) := by
  unfold blockArrived
  split
  · exact h
  · refine .ite (bundleFails_keeps h) ?_
    dsimp only
    split
    · exact bundleFails_keeps h
    · split
      · exact h
      · exact .ite (bundleFails_keeps h) (.ite (bundleVerified_keeps h) (.update h))
theorem readBlock_keeps {addr n : Nat} (h : Keeps d₀ d) : Keeps d₀ (readBlock d addr n) := .foldl .update h
theorem deliverBegin_keeps {addr nblk : Nat} (h : Keeps d₀ d) : Keeps d₀ (deliverBegin d addr nblk) :=
  readBlock_keeps (.update h)
theorem bundleBlockAt_keeps {data : List Byte} (h : Keeps d₀ d) : Keeps d₀ (bundleBlockAt d data) := by
  unfold bundleBlockAt
  split
  · exact h
  · exact .ite h (.ite (readBlock_keeps (blockArrived_keeps h)) (blockArrived_keeps h))
theorem hostReadErrorAt_keeps (h : Keeps d₀ d) : Keeps d₀ (hostReadErrorAt d) := .ite (.update h) h
theorem pullMore_keeps (h : Keeps d₀ d) : Keeps d₀ (pullMore d) := by
  unfold pullMore
  split
  · exact h
  · exact .ite h (sendCtl_keeps (.update h))
theorem takeOffer_keeps {p nblk : Nat} {pfx : BitVec 128} (h : Keeps d₀ d) : Keeps d₀ (takeOffer d p nblk pfx) :=
  pullMore_keeps (.update h)
theorem offerAt_keeps {p : Nat} {f : BitVec 256} (h : Keeps d₀ d) : Keeps d₀ (offerAt d p f) :=
  .ite h (.ite (sendDone_keeps h) (.ite (.update h) h))
theorem continueFrom_keeps {p : Nat} (h : Keeps d₀ d) : Keeps d₀ (continueFrom d p) := pullMore_keeps (.update h)
theorem takeOffers_keeps (h : Keeps d₀ d) : Keeps d₀ (takeOffers d) := by
  unfold takeOffers
  dsimp only
  split
  · exact .update h
  · exact .foldl sendDone_keeps (.ite (continueFrom_keeps (.update h)) (takeOffer_keeps (.update h)))
theorem offerRepeatAt_keeps (h : Keeps d₀ d) : Keeps d₀ (offerRepeatAt d) := offerAll_keeps h
theorem pullAt_keeps {p : Nat} {f : BitVec 256} (h : Keeps d₀ d) : Keeps d₀ (pullAt d p f) := by
  unfold pullAt
  dsimp only
  split
  · exact h
  · exact .ite h (.foldl (fun h => .foldl sendCtl_keeps h) h)
theorem takeBlocks_keeps {n : Nat} (h : Keeps d₀ d) : Keeps d₀ (takeBlocks n d) := by
  induction n generalizing d with
  | zero => exact h
  | succ n ih =>
    unfold takeBlocks
    split
    · exact h
    · split
      · exact h
      · exact ih (blockArrived_keeps (.update h))
theorem dataAt_keeps {p : Nat} {f : BitVec 256} (h : Keeps d₀ d) : Keeps d₀ (dataAt d p f) := by
  unfold dataAt
  dsimp only
  split
  · exact h
  · exact .ite h (pullMore_keeps (takeBlocks_keeps (.update h)))
theorem logDone_keeps {x : Nat × Byte} (h : Keeps d₀ d) : Keeps d₀ (logDone d x) := logEvent_keeps h
theorem chainDoneAt_keeps {p : Nat} {f : BitVec 256} (h : Keeps d₀ d) : Keeps d₀ (chainDoneAt d p f) :=
  .ite (.update h) (.ite (logDone_keeps (.update h)) (.update (.update h)))
theorem chainTimeoutAt_keeps (h : Keeps d₀ d) : Keeps d₀ (chainTimeoutAt d) := .ite (.update h) h
theorem activate_keeps {m : Manifest} (h : Keeps d₀ d) : Keeps d₀ (activate d m) :=
  freeStore_keeps (.foldl logDone_keeps (thermPolicy_keeps
    (writeTgt_keeps (.foldl .update (.update (.update (.foldl .update (.update (.update h)))))))))
theorem activationAt_keeps {fails : List Nat} {wrong : List (Nat × Nat × Byte)} (h : Keeps d₀ d) :
    Keeps d₀ (activationAt d fails wrong) := by
  unfold activationAt
  refine .ite h ?_
  split
  · exact .ite (activate_keeps (.update h)) (freeStore_keeps (.update h))
  · exact h

/-! ### The Prefect mailbox: the fuses burn here -/

theorem prfRespond_keeps {status : Nat} {payload : List Byte} (h : Keeps d₀ d) : Keeps d₀ (prfRespond d status payload) :=
  signal_keeps (.update h)
theorem entropyFailAt_keeps (h : Keeps d₀ d) : Keeps d₀ (entropyFailAt d) := .ite h (prefectError_keeps h)
theorem selftestAt_keeps {pass : Bool} (h : Keeps d₀ d) : Keeps d₀ (selftestAt d pass) :=
  .ite h (.ite (prfRespond_keeps h) (.ite (prfRespond_keeps h) (prfRespond_keeps (prefectError_keeps h))))
theorem prfStatusAt_keeps (h : Keeps d₀ d) : Keeps d₀ (prfStatusAt d) := .ite h (.ite (prfRespond_keeps h) (prfRespond_keeps h))
theorem prfReservedAt_keeps (h : Keeps d₀ d) : Keeps d₀ (prfReservedAt d) := .ite h (prfRespond_keeps h)
theorem deliverAt_keeps (h : Keeps d₀ d) : Keeps d₀ (deliverAt d) :=
  .ite h (.ite (prfRespond_keeps h) (.ite (prfRespond_keeps h)
    (.ite (prfRespond_keeps (deliverBegin_keeps h)) (prfRespond_keeps h))))
theorem nonceAt_keeps (h : Keeps d₀ d) : Keeps d₀ (nonceAt d) :=
  .ite h (.ite (prfRespond_keeps h) (prfRespond_keeps (.update (drbgUsed_keeps h))))
theorem modOwner_keeps {i : Nat} {f : KeySlot → KeySlot} (h : Keeps d₀ d)
    (hf : OwnerBurns (mapGet {} d.fuses.owner i) (f (mapGet {} d.fuses.owner i))) : Keeps d₀ (modOwner d i f) :=
  h.burn (fusesBurn_owner hf)
theorem revokeVendor_keeps {i : Nat} (h : Keeps d₀ d) : Keeps d₀ (revokeVendor d i) := h.burn fusesBurn_vendor
theorem enrolAt_keeps (h : Keeps d₀ d) : Keeps d₀ (enrolAt d) := by
  unfold enrolAt
  extract_lets life signed slot d1 fields gate
  have h1 : Keeps d₀ d1 := .ite (.update h) h
  have hf : d1.fuses = d.fuses := by
    unfold d1
    split <;> rfl
  refine .ite h (.ite (prfRespond_keeps h1) (.ite (prfRespond_keeps h1) ?_))
  split
  · exact prfRespond_keeps h1
  · rename_i hfree
    exact prfRespond_keeps (modOwner_keeps h1 ⟨fun hu => absurd (hf ▸ hu) hfree, id⟩)
theorem revokeAt_keeps (h : Keeps d₀ d) : Keeps d₀ (revokeAt d) := by
  unfold revokeAt
  extract_lets slot d1 gate
  have h1 : Keeps d₀ d1 := .update h
  exact .ite h (.ite (prfRespond_keeps h1) (.ite (prfRespond_keeps h1)
    (prfRespond_keeps (modOwner_keeps h1 ⟨fun hu => ⟨hu, rfl⟩, fun _ => rfl⟩))))
theorem commitSvnAt_keeps (h : Keeps d₀ d) : Keeps d₀ (commitSvnAt d) := by
  unfold commitSvnAt
  extract_lets d1 gate
  have h1 : Keeps d₀ d1 := .update h
  refine .ite h (.ite (prfRespond_keeps h1) (.ite (prfRespond_keeps h1) ?_))
  split
  · exact prfRespond_keeps h1
  · exact prfRespond_keeps (.foldl revokeVendor_keeps (h1.burn fusesBurn_svn))
theorem setScopes_keeps {m : Nat} (h : Keeps d₀ d) : Keeps d₀ (setScopes d m) := .ite (.update h) (logEvent_keeps (.update h))
theorem unlockAt_keeps (h : Keeps d₀ d) : Keeps d₀ (unlockAt d) := by
  unfold unlockAt
  extract_lets mask signed d1 fields gate
  have h1 : Keeps d₀ d1 := .ite (.update h) h
  exact .ite h (.ite (prfRespond_keeps h1) (.ite (prfRespond_keeps (setScopes_keeps h1))
    (.ite (prfRespond_keeps (setScopes_keeps h1)) (prfRespond_keeps h1))))
theorem zeroiseAt_keeps (h : Keeps d₀ d) : Keeps d₀ (zeroiseAt d) := by
  unfold zeroiseAt
  extract_lets flags perm d1 fields gate
  have h1 : Keeps d₀ d1 := .ite (.update h) h
  exact .ite h (.ite (prfRespond_keeps h1) (.ite (prfRespond_keeps (.update h1)) (.ite (prfRespond_keeps h1)
    (coldReset_keeps (prfRespond_keeps (h1.burn fusesBurn_kill))))))
theorem jtagAt_keeps {i : JtagInstr} (h : Keeps d₀ d) : Keeps d₀ (jtagAt d i) := by
  unfold jtagAt
  split
  · exact .update h
  · exact .ite (.update h) (.update h)

/-! ### SPDM -/

theorem setSpdm_keeps {t : SpdmPort} {c : SpdmConn} (h : Keeps d₀ d) : Keeps d₀ (setSpdm d t c) := by
  unfold setSpdm
  split <;> exact .update h
theorem spdmServe_keeps {t : SpdmPort} {req : List Byte} {code minLen : Nat} {turn : Bool} {act : Dev} (h : Keeps d₀ d)
    (ha : Keeps d₀ act) : Keeps d₀ (spdmServe d t req code minLen turn act) :=
  .ite h (.ite (.update h) (.ite (.update h) (.ite (.update h) (.ite (.update h) ha))))
theorem spdmReply_keeps {t : SpdmPort} {c : SpdmConn} {resp : List Byte} (h : Keeps d₀ d) : Keeps d₀ (spdmReply d t c resp) :=
  .update (setSpdm_keeps h)
theorem getVersionAt_keeps {t : SpdmPort} {req : List Byte} (h : Keeps d₀ d) : Keeps d₀ (getVersionAt d t req) :=
  spdmServe_keeps h (spdmReply_keeps h)
theorem getCapabilitiesAt_keeps {t : SpdmPort} {req : List Byte} (h : Keeps d₀ d) : Keeps d₀ (getCapabilitiesAt d t req) :=
  spdmServe_keeps h (spdmReply_keeps h)
theorem negotiateAt_keeps {t : SpdmPort} {req : List Byte} (h : Keeps d₀ d) : Keeps d₀ (negotiateAt d t req) :=
  spdmServe_keeps h (spdmReply_keeps h)
theorem getDigestsAt_keeps {t : SpdmPort} {req : List Byte} (h : Keeps d₀ d) : Keeps d₀ (getDigestsAt d t req) :=
  spdmServe_keeps h (spdmReply_keeps h)
theorem getCertificateAt_keeps {t : SpdmPort} {req : List Byte} (h : Keeps d₀ d) : Keeps d₀ (getCertificateAt d t req) :=
  spdmServe_keeps h (.ite (.update h) (spdmReply_keeps h))
theorem challengeAt_keeps {t : SpdmPort} {req : List Byte} (h : Keeps d₀ d) : Keeps d₀ (challengeAt d t req) :=
  spdmServe_keeps h (.ite (.update h) (.ite (.update h) (spdmReply_keeps (drbgUsed_keeps (drbgUsed_keeps (.update h))))))
theorem getMeasurementsAt_keeps {t : SpdmPort} {req : List Byte} (h : Keeps d₀ d) : Keeps d₀ (getMeasurementsAt d t req) :=
  spdmServe_keeps h (.ite (.update h) (.ite (.update h) (.ite (spdmReply_keeps (drbgUsed_keeps (drbgUsed_keeps h)))
    (spdmReply_keeps (drbgUsed_keeps h)))))
theorem spdmUnsupportedAt_keeps {t : SpdmPort} {req : List Byte} (h : Keeps d₀ d) : Keeps d₀ (spdmUnsupportedAt d t req) :=
  .ite h (.ite (.update h) (.update h))

/-! ### Timetables -/

theorem ttFail_keeps {err status : Nat} (h : Keeps d₀ d) : Keeps d₀ (ttFail d err status) := regRespond_keeps (.update h)
theorem ttLoadAt_keeps (h : Keeps d₀ d) : Keeps d₀ (ttLoadAt d) := by
  unfold ttLoadAt
  refine .ite h (.ite (regRespond_keeps h) (.ite (ttFail_keeps h) ?_))
  split
  · exact ttFail_keeps (ueEvent_keeps h)
  · split
    · exact ttFail_keeps h
    · exact foldCopy_keeps (.update h)
theorem activateTier_keeps {p : Nat} (h : Keeps d₀ d) : Keeps d₀ (activateTier d p) := .update (.ite (wipe_keeps h) h)
theorem ttActivateAt_keeps (h : Keeps d₀ d) : Keeps d₀ (ttActivateAt d) := by
  unfold ttActivateAt
  split
  · exact h
  · exact regRespond_keeps (agreeStart_keeps (activateCopy_keeps
      (activateTier_keeps (activateTier_keeps (.update (.update (flushAndEmpty_keeps (flushAndEmpty_keeps h))))))))

/-! ### Register accesses -/

theorem rstCtlWrite_keeps {v : Nat} (h : Keeps d₀ d) : Keeps d₀ (rstCtlWrite d v) :=
  .ite (kindReset_keeps (.ite (.update (.update h)) (.update h))) (.ite (.update (.update h)) (.update h))
theorem rstBlockWrite_keeps {v : Nat} (h : Keeps d₀ d) : Keeps d₀ (rstBlockWrite d v) :=
  .ite (blockStart_keeps (.update h)) (.update h)
theorem resetWrite_keeps {o v : Nat} (h : Keeps d₀ d) : Keeps d₀ (resetWrite d o v) := by
  unfold resetWrite
  split
  · exact rstCtlWrite_keeps h
  · exact rstBlockWrite_keeps h
  · exact .update h
  · exact h
theorem paceWrite_keeps {o v : Nat} (h : Keeps d₀ d) : Keeps d₀ (paceWrite d o v) := by
  unfold paceWrite
  split
  · exact .ite (.update h) h
  · exact .update h
  · exact h
theorem regMailWrite_keeps {o v : Nat} (h : Keeps d₀ d) : Keeps d₀ (regMailWrite d o v) :=
  .ite (.ite (.update h) h) (.ite (.ite (.update h) (.update h)) h)
theorem prfMailWrite_keeps {o v : Nat} (h : Keeps d₀ d) : Keeps d₀ (prfMailWrite d o v) :=
  .ite (.ite (.update h) h) (.ite (.ite (.update h) (.update h)) h)
theorem ctxWrite_keeps {k o v : Nat} (h : Keeps d₀ d) : Keeps d₀ (ctxWrite d k o v) := by
  unfold ctxWrite
  split
  · exact ctxCtlWrite_keeps h
  · exact .update h
  · exact .update h
  · refine .ite (coresWriteAt_keeps h) (.ite ?_ h)
    dsimp only
    split
    · exact .update h
    · exact .update h
    · exact .update h
    · exact h
theorem hdmaWrite_keeps {c o v : Nat} (h : Keeps d₀ d) : Keeps d₀ (hdmaWrite d c o v) := by
  unfold hdmaWrite
  split
  · exact .update h
  · exact .update h
  · exact hdmaCtlWrite_keeps h
  · exact h
theorem hostWrite_keeps {o v : Nat} (h : Keeps d₀ d) : Keeps d₀ (hostWrite d o v) :=
  .ite (.update h) (.ite (ctxWrite_keeps h) (.ite (hdmaWrite_keeps h) h))
theorem msixWrite_keeps {o v : Nat} (h : Keeps d₀ d) : Keeps d₀ (msixWrite d o v) :=
  .ite h (.ite (.ite (.update h) (msixUnmaskAt_keeps h)) (.update h))
theorem tierWrite_keeps {p v : Nat} (h : Keeps d₀ d) : Keeps d₀ (tierWrite d p v) :=
  .ite (logSwapAt_keeps (.ite (flushStart_keeps h) h)) (.ite (flushStart_keeps h) h)
theorem fabWrite_keeps {o v : Nat} (h : Keeps d₀ d) : Keeps d₀ (fabWrite d o v) := by
  unfold fabWrite
  split
  · exact .ite (agreeStart_keeps (.ite (rcgoAt_keeps (.update h)) (.update h))) (.ite (rcgoAt_keeps (.update h)) (.update h))
  · exact .update h
  · exact h
theorem pcfgWrite_keeps {p v : Nat} (h : Keeps d₀ d) : Keeps d₀ (pcfgWrite d p v) :=
  .ite (.update h) (portGone_keeps (.update h))
theorem seqWrite_keeps {i v : Nat} (h : Keeps d₀ d) : Keeps d₀ (seqWrite d i v) := .ite h (.update h)
theorem copyRegWrite_keeps {o v : Nat} (h : Keeps d₀ d) : Keeps d₀ (copyRegWrite d o v) := by
  unfold copyRegWrite
  split
  · exact .ite (roundAbort_keeps (.ite (roundDue_keeps (.update h)) (.update h)))
      (.ite (roundDue_keeps (.update h)) (.update h))
  · exact seqWrite_keeps h
  · exact seqWrite_keeps h
  · exact dcoreAt_keeps h
  · exact h
theorem liveWrite_keeps {o v : Nat} (h : Keeps d₀ d) : Keeps d₀ (liveWrite d o v) :=
  .ite (.update h) (.ite (resetWrite_keeps h) (.ite (paceWrite_keeps h)
    (.ite (regMailWrite_keeps h) (.ite (prfMailWrite_keeps h)
    (.ite (hostWrite_keeps h) (.ite (msixWrite_keeps h) (.ite (.update h)
    (.ite (tierWrite_keeps h) (.ite (tierWrite_keeps h) (.ite (fabWrite_keeps h)
    (.ite (pcfgWrite_keeps h) (.ite (copyRegWrite_keeps h) h))))))))))))
theorem prcCtlWrite_keeps {v w : Nat} {host : Bool} (h : Keeps d₀ d) : Keeps d₀ (prcCtlWrite d v w host) := by
  unfold prcCtlWrite
  extract_lets d1 d2 d3
  have h1 : Keeps d₀ d1 := .ite (startCore_keeps h) h
  have h2 : Keeps d₀ d2 := .ite (.ite (.update (.update h1)) (.update h1)) h1
  have h3 : Keeps d₀ d3 := .ite (.update h2) h2
  exact .ite (.update h3) h3
theorem edgeApply_keeps {x : Nat × Word} (h : Keeps d₀ d) : Keeps d₀ (edgeApply d x) :=
  .ite h (.ite (prcCtlWrite_keeps h) (.update h))
theorem regWrite_keeps {o v : Nat} {host : Bool} (h : Keeps d₀ d) : Keeps d₀ (regWrite d o v host) :=
  .ite h (.ite (.update h) (liveWrite_keeps (.update h)))
theorem bar0Write_keeps {o size v : Nat} (h : Keeps d₀ d) : Keeps d₀ (bar0Write d o size v) :=
  .ite (.update h) (.ite (regWrite_keeps h) (.ite (regWrite_keeps (regWrite_keeps h)) (.update h)))
theorem regRead_keeps (s : Dev) {o : Nat} (h : Keeps d₀ d) : Keeps d₀ (regRead d s o).1 := .ite (.update h) h
theorem apertureAt_keeps {k o len : Nat} {wr : Option (List Byte)} (h : Keeps d₀ d) : Keeps d₀ (apertureAt d k o len wr) := by
  unfold apertureAt
  refine .ite h (.ite (.update h) (.ite (.ite (hostRefuse_keeps h) (.update (hostRefuse_keeps h)))
    (.ite ?_ (.ite (.ite ?_ (.ite (.ite h (.update h)) (.ite (.update h) (.update (.update h))))) (.ite h (.update h))))))
  · split
    · exact .update (.update h)
    · exact .ite h (.update h)
  · split
    · exact doorbellAt_keeps h
    · exact .ite h (.update h)
theorem bar0Read_keeps {s : Dev} {o size : Nat} (h : Keeps d₀ d) : Keeps d₀ (bar0Read d s o size) :=
  .ite (.update h) (.ite (.update (regRead_keeps s h)) (.ite (.update (regRead_keeps s (regRead_keeps s h))) (.update (.update h))))
theorem registerWriteAt_keeps {s : Dev} {o size : Nat} {value : Option Nat} (h : Keeps d₀ d) :
    Keeps d₀ (registerWriteAt d s o size value) := by
  unfold registerWriteAt
  refine .ite h (.ite ?_ (.ite ?_ (.ite (apertureAt_keeps h) h)))
  · split
    · exact bar0Write_keeps h
    · exact bar0Read_keeps h
  · split
    · exact .ite (enablesWrite_keeps h) h
    · exact .update h
theorem parityFails_keeps {o : Nat} (h : Keeps d₀ d) : Keeps d₀ (parityFails d o) :=
  .ite (paceFall_keeps (.update (.update h))) (.ite (portGone_keeps (.update h)) (.update h))
theorem parityCheck_keeps (h : Keeps d₀ d) : Keeps d₀ (parityCheck d) := .foldl parityFails_keeps (.update h)

/-! ### Accesses of memory by transfers and requests -/

theorem turnBack_keeps {bs : List Before} (h : Keeps d₀ d) : Keeps d₀ (turnBack d bs) := .foldl wrBytes_keeps h
theorem turnOn_keeps {bs : List Before} (h : Keeps d₀ d) : Keeps d₀ (turnOn d bs) := .foldl wrBytes_keeps h
theorem updateElems_keeps {others : List Xfer} {plc : Nat} {us : List Update} (h : Keeps d₀ d) :
    Keeps d₀ (updateElems d others plc us).1 := by
  induction us generalizing d with
  | nil => exact h
  | cons u us ih =>
    unfold updateElems
    dsimp only
    split
    · exact heal_keeps h
    · exact ih (storeBytes_keeps (heal_keeps h))
theorem performOp_keeps {others : List Xfer} {plc a : Nat} {w : WOp} (h : Keeps d₀ d) :
    Keeps d₀ (performOp d others plc a w).1 := by
  unfold performOp
  split
  · dsimp only
    split <;> exact storeBytes_keeps (heal_keeps h)
  · exact updateElems_keeps h
theorem performBeside_keeps {me : Option Nat} {others : List Xfer} {plc a : Nat} {w : WOp} (h : Keeps d₀ d) :
    Keeps d₀ (performBeside d me others plc a w).1 := by
  unfold performBeside
  dsimp only
  split
  · exact performOp_keeps h
  · exact turnOn_keeps (performOp_keeps (turnBack_keeps h))
theorem serveRequest_keeps {b : Bulk} {data : List (BitVec 2048)} (h : Keeps d₀ d) : Keeps d₀ (serveRequest d b data) := by
  unfold serveRequest
  extract_lets w st reply n d1
  have h1 : Keeps d₀ d1 := touchRead_keeps h
  refine .ite (sendBulk_keeps h) (.ite ?_ ?_)
  · split
    · exact sendBulk_keeps (ueEvent_keeps h1)
    · exact sendBulk_keeps h1
  · split <;> rename_i hp
    · exact sendBulk_keeps (ueEvent_keeps (.fst hp (performBeside_keeps (.update h))))
    · exact sendBulk_keeps (.fst hp (performBeside_keeps (.update h)))

/-! ### Streams -/

theorem fillBuf_keeps {e : Engine} (h : Keeps d₀ d) : Keeps d₀ (fillBuf d e) := modStrm_keeps h
theorem modList_keeps {e : Engine} {id : Nat} {f : BList → BList} (h : Keeps d₀ d) : Keeps d₀ (modList d e id f) :=
  modStrm_keeps h
theorem modXfer_keeps {e : Engine} {slot : Nat} {f : Xfer → Xfer} (h : Keeps d₀ d) : Keeps d₀ (modXfer d e slot f) :=
  modStrm_keeps h
theorem finishList_keeps {e : Engine} {id : Nat} (h : Keeps d₀ d) : Keeps d₀ (finishList d e id) := by
  unfold finishList
  split
  · exact hdmaCheck_keeps h
  · split
    · exact h
    · exact .ite h (pump_keeps (.update h))
theorem listReadAt_keeps {v : Nat} (h : Keeps d₀ d) : Keeps d₀ (listReadAt d v) := by
  unfold listReadAt
  split
  · exact h
  · dsimp only
    split
    · exact h
    · exact .ite (fillBuf_keeps h) (finishList_keeps (pump_keeps (.update (fillBuf_keeps h))))
theorem recordError_keeps {e : Engine} {x : Xfer} (h : Keeps d₀ d) : Keeps d₀ (recordError d e x) := by
  unfold recordError
  split
  · exact .update h
  · exact logEvent_keeps (modStrm_keeps h)
theorem noteRaces_keeps {e : Engine} {slot : Nat} {rs : List (Nat × Nat)} (h : Keeps d₀ d) : Keeps d₀ (noteRaces d e slot rs) :=
  .foldl (fun h => .ite (modStrm_keeps h) h) h
theorem settleRaces_keeps {cells : List Host.Cell} (h : Keeps d₀ d) : Keeps d₀ (settleRaces d cells) :=
  .foldl (fun h => .ite (wrBytes_keeps h) h) h
theorem regXferRead_keeps {s : Dev} {e : Engine} {slot : Nat} {g : NMap Byte} {plc ga off : Nat} (h : Keeps d₀ d) :
    Keeps d₀ (regXferRead s d e slot g plc ga off).1 := by
  unfold regXferRead
  split
  · exact h
  · split
    · split
      · exact h
      · exact regRead_keeps s h
    · dsimp only
      split <;> exact touchRead_keeps h
theorem moveOp_keeps {e : Engine} {slot cls plc ga : Nat} {m : Moved} {w : WOp} (h : Keeps d₀ m.dev) :
    Keeps d₀ (moveOp e slot cls plc m ga w).dev := by
  unfold moveOp
  split
  · exact h
  · dsimp only
    split
    · split
      · exact ueEvent_keeps (performBeside_keeps h)
      · exact performBeside_keeps h
    · exact .foldlMoved sendBulk_keeps h
theorem moveOps_keeps {e : Engine} {slot cls plc : Nat} {m : Moved} {ops : List (Nat × WOp)} (h : Keeps d₀ m.dev) :
    Keeps d₀ (moveOps e slot cls plc m ops).dev :=
  .foldlMoved moveOp_keeps h
theorem regMoveWord_keeps {s : Dev} {e : Engine} {slot cls : Nat} {g : NMap Byte} {t : Tx} {m : Moved} {w : Nat × Nat × Nat}
    (h : Keeps d₀ m.dev) : Keeps d₀ (regMoveWord s e slot cls g t m w).dev := by
  unfold regMoveWord
  split
  · exact h
  · split <;> rename_i hr
    · exact ueEvent_keeps (.fst hr (regXferRead_keeps h))
    · have h1 := Keeps.fst hr (regXferRead_keeps h)
      split
      · exact .ite h1 (regWrite_keeps h1)
      · split
        · exact moveOp_keeps h1
        · exact h1
theorem regMove_keeps {s : Dev} {m : Moved} {e : Engine} {slot cls : Nat} {g : NMap Byte} {t : Tx} (h : Keeps d₀ m.dev) :
    Keeps d₀ (regMove s m e slot cls g t).dev := by
  unfold regMove
  extract_lets m1
  have h1 : Keeps d₀ m1.dev := .foldlMoved regMoveWord_keeps h
  split
  · exact h1
  · exact moveOps_keeps h1
theorem runXfer_keeps {s : Dev} {e : Engine} {slot : Nat} (h : Keeps d₀ d) : Keeps d₀ (runXfer s d e slot) := by
  unfold runXfer
  split
  · exact h
  · extract_lets t l cls stale rs here d0 m0 badAt data ops ma rows k mb m d1 d2
    have h0 : Keeps d₀ d0 := .foldl (fun h => .ite (touchRead_keeps h) h) (.update (.update h))
    have hm : Keeps d₀ m.dev := by
      unfold m
      split
      · exact regMove_keeps h0
      · split
        · exact moveOps_keeps h0
        · have hb : Keeps d₀ mb.dev := moveOps_keeps h0
          split
          · exact hb
          · exact ueEvent_keeps hb
    have h2 : Keeps d₀ d2 := modXfer_keeps (noteRaces_keeps (.update (settleRaces_keeps hm)))
    split
    · exact h2
    · exact .ite (recordError_keeps h2) h2
theorem redo_keeps {plc : Nat} {ops : List (Nat × WOp)} (h : Keeps d₀ d) : Keeps d₀ (redo d plc ops) :=
  .foldl (fun h => .ite (performOp_keeps h) h) h
theorem revisit_keeps {e : Engine} {x : Xfer} (h : Keeps d₀ d) : Keeps d₀ (revisit d e x) :=
  .ite h (.update (.foldl (fun h => .foldl (fun h => .ite (wrBytes_keeps h) h) h) h))
theorem launchXfer_keeps {s : Dev} {e : Engine} {l : BList} {p : Pick} {slot status : Nat} {t : Tx} (h : Keeps d₀ d) :
    Keeps d₀ (launchXfer s d e l p slot status t) := by
  unfold launchXfer
  refine .ite (modStrm_keeps h) (.ite ?_ (.ite (modStrm_keeps h)
    (.ite (.foldl sendBulk_keeps (modStrm_keeps h)) (.ite (modStrm_keeps h) (runXfer_keeps (modStrm_keeps h))))))
  split
  · exact .update (modStrm_keeps h)
  · exact modStrm_keeps h
theorem completeXfer_keeps {e : Engine} {x : Xfer} (h : Keeps d₀ d) : Keeps d₀ (completeXfer d e x) := by
  unfold completeXfer
  extract_lets evt left d1 d2 d3
  have h1 : Keeps d₀ d1 := modStrm_keeps (revisit_keeps h)
  have h3 : Keeps d₀ d3 := finishList_keeps (.ite h1 (recordError_keeps h1))
  split
  · exact .ite (detainCore_keeps h3) h3
  · exact h3
theorem leaveOpen_keeps {e : Engine} {x : Xfer} (h : Keeps d₀ d) : Keeps d₀ (leaveOpen d e x) :=
  .ite (undoUnits_keeps h) (.ite h (undoUnits_keeps (redo_keeps h)))
theorem transferCompleteAt_keeps {s : Dev} {e : Engine} {slot : Nat} (h : Keeps d₀ d) :
    Keeps d₀ (transferCompleteAt s d e slot) := by
  unfold transferCompleteAt
  split
  · exact h
  · extract_lets d1
    have h1 : Keeps d₀ d1 := .ite (runXfer_keeps h) h
    refine .ite h ?_
    split
    · exact h1
    · exact .ite (completeXfer_keeps (.ite (leaveOpen_keeps h1) h1)) h1
theorem startXfer_keeps {s : Dev} {e : Engine} {list row : Nat} (h : Keeps d₀ d) : Keeps d₀ (startXfer s d e list row) := by
  unfold startXfer
  extract_lets d0 slot
  have h0 : Keeps d₀ d0 := fillBuf_keeps h
  split
  · exact h
  · split
    · exact h
    · extract_lets d1
      have h1 : Keeps d₀ d1 := modStrm_keeps (modList_keeps h0)
      split
      extract_lets d2
      have h2 : Keeps d₀ d2 := fillBuf_keeps (launchXfer_keeps h1)
      exact .ite h (.ite (transferCompleteAt_keeps h2) h2)
theorem responseAt_keeps {s : Dev} {b : Bulk} {data : List (BitVec 2048)} (h : Keeps d₀ d) :
    Keeps d₀ (responseAt s d b data) := by
  unfold responseAt
  dsimp only
  split
  · exact .update h
  · split
    · exact .update h
    · exact .ite (runXfer_keeps (modXfer_keeps (.ite (leaveOpen_keeps h) h))) (modXfer_keeps (.ite (leaveOpen_keeps h) h))
theorem fabTimeoutAt_keeps {v slot : Nat} (h : Keeps d₀ d) : Keeps d₀ (fabTimeoutAt d v slot) := by
  unfold fabTimeoutAt
  dsimp only
  split
  · exact h
  · exact .ite h (modStrm_keeps (completeXfer_keeps (modXfer_keeps (leaveOpen_keeps h))))
theorem slotReuseAt_keeps {v slot : Nat} (h : Keeps d₀ d) : Keeps d₀ (slotReuseAt d v slot) := modStrm_keeps h
theorem hostTimeoutAt_keeps {e : Engine} {slot : Nat} {reply : HostReply} (h : Keeps d₀ d) :
    Keeps d₀ (hostTimeoutAt d e slot reply) := by
  unfold hostTimeoutAt
  split
  · exact h
  · refine .ite h (.ite (modXfer_keeps h) ?_)
    dsimp only
    split
    · exact detainCore_keeps (logEvent_keeps (modXfer_keeps h))
    · exact logEvent_keeps (modXfer_keeps h)
theorem failXfer_keeps {e : Engine} {x : Xfer} {a : Nat} (h : Keeps d₀ d) : Keeps d₀ (failXfer d e x a) := by
  unfold failXfer
  split
  · exact recordError_keeps (.update (ueEvent_keeps h))
  · exact undoBytes_keeps (modXfer_keeps (ueEvent_keeps h))
theorem poisonedAt_keeps {by_ : Reader} {a : Nat} (h : Keeps d₀ d) : Keeps d₀ (poisonedAt d by_ a) := by
  unfold poisonedAt
  split
  · split
    · exact ueEvent_keeps h
    · exact ueEvent_keeps h
    · split
      · exact .ite (failXfer_keeps h) h
      · exact h
    · exact .ite (sendBulk_keeps (ueEvent_keeps h)) h
  · exact h
theorem failOne_keeps {hit : Tx → Option Nat} {e : Engine} {slot : Nat} (h : Keeps d₀ d) : Keeps d₀ (failOne hit e d slot) := by
  unfold failOne
  split
  · exact h
  · split
    · exact h
    · exact .ite (failXfer_keeps (.update h)) (.update h)
theorem eachXfer_keeps {f : Engine → Dev → Nat → Dev} (hf : ∀ {x : Engine} {e : Dev} {i : Nat}, Keeps d₀ e → Keeps d₀ (f x e i))
    (h : Keeps d₀ d) : Keeps d₀ (eachXfer d f) :=
  .foldl (.foldl hf) h
theorem failBoardOne_keeps {p : Nat} {e : Engine} {slot : Nat} (h : Keeps d₀ d) : Keeps d₀ (failBoardOne p e d slot) := by
  unfold failBoardOne
  split
  · exact h
  · exact .ite (modXfer_keeps h) (failOne_keeps h)
theorem failBoard_keeps {p : Nat} (h : Keeps d₀ d) : Keeps d₀ (failBoard d p) := eachXfer_keeps failBoardOne_keeps h
theorem cxlLinkDownAt_keeps {p : Nat} (h : Keeps d₀ d) : Keeps d₀ (cxlLinkDownAt d p) :=
  .ite h (cxlGone_keeps (failBoard_keeps h))
theorem failCtl_keeps {c : Nat} (h : Keeps d₀ d) : Keeps d₀ (failCtl d c) := eachXfer_keeps failOne_keeps h

/-! ### Command fetch and block resets -/

theorem fetchBlockAt_keeps {v : Nat} {ecc : Ecc} (h : Keeps d₀ d) : Keeps d₀ (fetchBlockAt d v ecc) := by
  unfold fetchBlockAt
  refine .ite h ?_
  split
  · exact h
  · refine .ite h ?_
    split
    · refine .update (ueEvent_keeps ?_)
      split
      · exact .update h
      · exact h
    · refine .update ?_
      split
      · exact .update h
      · exact h
theorem beforeReset_keeps {blk : Nat} {honoured : Bool} (h : Keeps d₀ d) : Keeps d₀ (beforeReset d blk honoured) :=
  .ite (failCtl_keeps h) h

/-! ### What arrives on a fabric port -/

theorem copyResponse_keeps {b : Bulk} (h : Keeps d₀ d) : Keeps d₀ (copyResponse d b) := by
  unfold copyResponse
  split
  · exact .ite (.update h) (drainFails_keeps (.update h))
  · exact .update h
theorem deliverBulk_keeps {s : Dev} {b : Bulk} {data : List (BitVec 2048)} (h : Keeps d₀ d) :
    Keeps d₀ (deliverBulk s d b data) :=
  .ite (serveRequest_keeps h) (.ite (copyResponse_keeps h) (responseAt_keeps h))
theorem takeBulk_keeps {s : Dev} {p : Nat} {hdr : BitVec 256} {data : List (BitVec 2048)} (h : Keeps d₀ d) :
    Keeps d₀ (takeBulk s d p hdr data) :=
  .ite (deliverBulk_keeps h) (forwardBulk_keeps h)
theorem ctlActs_keeps {p : Nat} {f : BitVec 256} (h : Keeps d₀ d) : Keeps d₀ (ctlActs d p f) := by
  unfold ctlActs
  split
  · exact .update h
  · exact .update h
  · exact assignAt_keeps h
  · exact reportAt_keeps h
  · exact refuseAt_keeps h
  · exact topoAt_keeps h
  · exact doneAt_keeps h
  · exact linkDownAt_keeps h
  · exact absentAt_keeps h
  · exact resetReqAt_keeps h
  · exact offerAt_keeps h
  · exact pullAt_keeps h
  · exact dataAt_keeps h
  · exact freeStore_keeps (chainDoneAt_keeps h)
  · exact h
theorem headerIn_keeps {s : Dev} {p : Nat} {f : BitVec 256} (h : Keeps d₀ d) : Keeps d₀ (headerIn s d p f) :=
  .ite (linkAccept_keeps h) (.ite (takeBulk_keeps (linkAccept_keeps h)) (.update (linkAccept_keeps h)))
theorem flitIn_keeps {s : Dev} {p : Nat} {f : BitVec 256} (h : Keeps d₀ d) : Keeps d₀ (flitIn s d p f) := by
  unfold flitIn
  split
  · exact linkFlitAt_keeps h
  · exact .ite (ctlActs_keeps (linkAccept_keeps h)) (linkAccept_keeps h)
  · exact bellIn_keeps h
  · exact bellIn_keeps h
  · exact headerIn_keeps h
  · exact headerIn_keeps h
  · exact linkAccept_keeps h
theorem messageEnds_keeps {s : Dev} {p : Nat} (h : Keeps d₀ d) : Keeps d₀ (messageEnds s d p) := by
  unfold messageEnds
  split
  · exact .ite h (takeBulk_keeps (.update h))
  · exact h
theorem dataSlotIn_keeps {s : Dev} {p : Nat} {x : BitVec 256} (h : Keeps d₀ d) : Keeps d₀ (dataSlotIn s d p x) :=
  .ite (.update h) (.foldl bellIn_keeps (messageEnds_keeps (dataAccept_keeps (.update h))))
theorem slotIn_keeps {s : Dev} {p : Nat} {x : Slot} (h : Keeps d₀ d) : Keeps d₀ (slotIn s p d x) :=
  .ite (flitIn_keeps h) (.ite h (dataSlotIn_keeps h))
theorem codewordIn_keeps {s : Dev} {p : Nat} {w : Codeword} (h : Keeps d₀ d) : Keeps d₀ (codewordIn s p d w) := by
  unfold codewordIn
  split
  · exact .foldl slotIn_keeps h
  · exact .foldl slotIn_keeps (.update h)
  · exact .update h
theorem bulkAt_keeps {s : State} {op p : Nat} {start : Option (BitVec 10)} {words : List Codeword} (h : Keeps d₀ s.dev) :
    Keeps d₀ (bulkAt s op p start words) := by
  refine .ite h (.foldl codewordIn_keeps ?_)
  split
  · exact .update h
  · exact h

/-! ### The window BAR4 -/

theorem windowRead_keeps {s : Dev} {a n : Nat} (h : Keeps d₀ d) : Keeps d₀ (windowRead d s a n) := by
  unfold windowRead
  split
  · exact .ite (.ite (.update h) (.ite (.update h) (.update (.update h)))) (.update h)
  · exact .update (touchRead_keeps h)
theorem windowWrite_keeps {a : Nat} {bs : List Byte} (h : Keeps d₀ d) : Keeps d₀ (windowWrite d a bs) := by
  unfold windowWrite
  split
  · exact .ite (.ite h (bar0Write_keeps h)) (wrBytes_keeps h)
  · dsimp only
    split
    · exact ueEvent_keeps (storeBytes_keeps (heal_keeps h))
    · exact storeBytes_keeps (heal_keeps h)
theorem windowPage_keeps {s : Dev} {a n : Nat} {wr : Option (List Byte)} (h : Keeps d₀ d) :
    Keeps d₀ (windowPage s d a n wr) := by
  unfold windowPage
  extract_lets refuse d0
  have hr {e : Dev} {c : Nat} (h : Keeps d₀ e) : Keeps d₀ (refuse e c) := .ite (hostRefuse_keeps h) (.update (hostRefuse_keeps h))
  have h0 : Keeps d₀ d0 := by
    unfold d0
    split
    · exact .ite h (healClean_keeps h)
    · exact h
  refine .ite (hr h) ?_
  split
  · split
    · exact windowRead_keeps h0
    · exact .ite h0 (windowWrite_keeps h0)
  · exact hr (ueEvent_keeps h0)
  · exact hr h0
theorem windowAt_keeps {s : State} {off len : Nat} {wr : Option (List Byte)} {poisoned : Bool} (h : Keeps d₀ s.dev) :
    Keeps d₀ (windowAt s off len wr poisoned) :=
  .ite h (.ite (.update h) (.ite (signal_keeps (hostRefuse_keeps h)) (.foldl windowPage_keeps h)))

/-! ### Beats -/

theorem beatAt_keeps {r : Nat} (h : Keeps d₀ d) : Keeps d₀ (beatAt d r) := by
  unfold beatAt
  refine .ite h ?_
  dsimp only
  split
  · exact .ite (.update (.update (.update h))) (.update h)
  · exact .update h

/-! ### Answers -/

/-- The answer `a` goes on from `s` with a device that keeps its form, and with shadow copies whose memory is in canonical form
where that of both was. -/
def StepKeeps (s : State) (a : Answer) : Prop :=
  ∃ t, a = .next t ∧ Keeps s.dev t.dev ∧ (memOk s → memWf t.shadow.mem = true)

variable {s : State} {f : Dev → Dev}

theorem ran_keeps (h : Keeps s.dev d) : StepKeeps s (ran s d) := ⟨_, rfl, h, And.right⟩

section
variable (hf : ∀ {e : Dev}, Keeps s.dev e → Keeps s.dev (f e))
include hf

theorem onDev_keeps : StepKeeps s (onDev s f) := ran_keeps (hf (.refl _))
theorem onClock_keeps : StepKeeps s (onClock s f) := onDev_keeps fun h => .ite (hf h) h
theorem onCore_keeps {v : Nat} : StepKeeps s (onCore s v f) := onClock_keeps fun h => .ite (hf h) h
theorem onEngine_keeps {e : Engine} : StepKeeps s (onEngine s e f) := by
  unfold onEngine
  split
  · exact onCore_keeps hf
  · exact onDev_keeps fun h => .ite (hf h) h
theorem onHost_keeps {off : Nat} : StepKeeps s (onHost s off f) := onDev_keeps fun h => .ite (.update h) (hf h)
theorem onPrc_keeps {v : Nat} : StepKeeps s (onPrc s v f) := onHost_keeps fun h => .ite (hf h) h
theorem onPort_keeps {p : Nat} : StepKeeps s (onPort s p f) := onDev_keeps fun h => .ite (hf h) h
theorem onLate_keeps {off : Nat} : StepKeeps s (onLate s off f) := onHost_keeps fun h => .ite (hf h) h
theorem onWord_keeps {off : Nat} : StepKeeps s (onWord s off f) := onLate_keeps fun h => hf (.update h)
theorem onEarly_keeps {off : Nat} : StepKeeps s (onEarly s off f) := onHost_keeps fun h => hf (.update h)

end

/-- The slow-clock edge takes the shadow copies from the device before its writes take effect (R535). -/
theorem slowEdge_keeps : StepKeeps s (.next (slowEdge s)) :=
  ⟨_, rfl, takeOffers_keeps (parityCheck_keeps (trimPacers_keeps (.foldl edgeApply_keeps (.update (.update (.refl _)))))), And.left⟩
/-- The end of a block reset resets the block in the shadow copies too, which touches no memory (R519). -/
theorem blockEnds_keeps {now : BlockReset → Bool} {honoured : Bool} : StepKeeps s (blockEnds s now honoured) := by
  unfold blockEnds
  split
  · split
    · exact ⟨_, rfl, blockDone_keeps (beforeReset_keeps (.refl _)), fun h => (shadowReset_keeps (.refl _)).mem h.2⟩
    · exact ran_keeps (.refl _)
  · exact ran_keeps (.refl _)

/-- Every command keeps its device in form. -/
theorem exec_keeps (i : Instr) (s : State) : StepKeeps s (exec i s) := by
  cases i with dsimp only [exec]
  | prcStart => exact onPrc_keeps startCore_keeps
  | haltReq => exact onPrc_keeps (fun h => .update (.update h))
  | stopped | halted => exact onCore_keeps .update
  | resume | clrStall => exact onPrc_keeps .update
  | fetchBlock => exact onCore_keeps fetchBlockAt_keeps
  | halt | loop | endloop | seta | adda | setl | cmp | tag | taskDrain | bellRing | bellWait | strmGo | strmWait | strmFence
    | mmaF | mmaT | mmaO | wload | wswap | gbDrain | gbClear | vop | vred | vnorm | vnormB | vsmax | vsmaxB | vcast | vupd
    | vcountNf | taskPost => exact onCore_keeps attempt_keeps
  | faulted => exact onCore_keeps (fun h => finishFault_keeps (noteFault_keeps h))
  | brk => exact onCore_keeps (fun h => finishBreak_keeps (noteBreak_keeps h))
  | commandComplete => exact onCore_keeps completeCmd_keeps
  | ringHeader => exact onClock_keeps ringHeaderAt_keeps
  | listReadComplete => exact onCore_keeps listReadAt_keeps
  | copy | fill | reduceAdd | reduceMin | reduceMax | topk | sign | expandTopk | expandSign => exact onEngine_keeps startXfer_keeps
  | bellTransfer => exact onCore_keeps startXfer_keeps
  | transferComplete => exact onEngine_keeps transferCompleteAt_keeps
  | bellArrivalSent => exact onCore_keeps arrivalSentAt_keeps
  | bellArrival => exact onPort_keeps bellArrivalAt_keeps
  | bellRelease => exact onPort_keeps bellReleaseAt_keeps
  | bellGenerationComplete => exact onDev_keeps generationAt_keeps
  | taskTake => exact onCore_keeps taskTakeAt_keeps
  | ttLoad => exact onDev_keeps ttLoadAt_keeps
  | timetableActive => exact onDev_keeps ttActivateAt_keeps
  | hbmAccess => exact onDev_keeps hbmAccessAt_keeps
  | refresh | temperatureReport | logswapDone => exact onDev_keeps (fun h => .ite (.update h) h)
  | scrub => exact onDev_keeps (fun h => .ite (scrubAt_keeps h) h)
  | hbmTraining => exact onDev_keeps trainHbm_keeps
  | cxlEnumerate => exact onDev_keeps cxlEnumerateAt_keeps
  | memoryActive => exact onDev_keeps memoryActiveAt_keeps
  | memoryActiveTimeout => exact onDev_keeps memoryTimeoutAt_keeps
  | poisonedResponse => exact onDev_keeps poisonedAt_keeps
  | eventRecordPoll => exact onDev_keeps eventPollAt_keeps
  | linkRetry => exact onDev_keeps linkRetryAt_keeps
  | cxlLinkDown => exact onDev_keeps cxlLinkDownAt_keeps
  | tierAccess => exact onDev_keeps tierAccessAt_keeps
  | pageFill => exact onDev_keeps (fun h => .ite (finishFill_keeps h) h)
  | writeBack => exact onDev_keeps (fun h => .ite (writeBackAt_keeps h) h)
  | flush => exact onLate_keeps (fun h => .ite (flushStart_keeps h) h)
  | flushDone => exact onDev_keeps (fun h => .ite (flushEnd_keeps h) h)
  | logswap => exact onLate_keeps (fun h => .ite (logSwapAt_keeps h) h)
  | portTraining => exact onDev_keeps (fun h => freeStore_keeps (portTrainingAt_keeps h))
  | fullRateFallback => exact onDev_keeps (fun h => freeStore_keeps (fallbackAt_keeps h))
  | linkFlit => exact onPort_keeps linkFlitAt_keeps
  | retrainDone => exact onPort_keeps (fun h => freeStore_keeps (rcBegin_keeps (retrainDoneAt_keeps h)))
  | ackDue => exact onPort_keeps ackDueAt_keeps
  | hello | heartbeat => exact onPort_keeps (onCtl_keeps .update)
  | heartbeatSend => exact onDev_keeps heartbeatSendAt_keeps
  | heartbeatMiss => exact onPort_keeps (fun h => freeStore_keeps (rcBegin_keeps (heartbeatMissAt_keeps h)))
  | rcgo => exact onWord_keeps rcgoAt_keeps
  | rcAssign => exact onPort_keeps (onCtl_keeps assignAt_keeps)
  | rcReport => exact onPort_keeps (onCtl_keeps reportAt_keeps)
  | rcReportTimeout => exact onDev_keeps reportTimeoutAt_keeps
  | rcRefuse => exact onPort_keeps (onCtl_keeps refuseAt_keeps)
  | rcTopo => exact onPort_keeps (onCtl_keeps topoAt_keeps)
  | rcDone => exact onPort_keeps (onCtl_keeps doneAt_keeps)
  | linkDown => exact onPort_keeps (onCtl_keeps linkDownAt_keeps)
  | absent => exact onPort_keeps (onCtl_keeps absentAt_keeps)
  | resetReq => exact onPort_keeps (onCtl_keeps resetReqAt_keeps)
  | fabWrite | fabReadRequest | fabReadResponse | fabStatusResponse | fabReduceAdd | fabReduceMin | fabReduceMax
    | fabTopkRecords | fabSignRecords => exact ran_keeps (bulkAt_keeps (.refl _))
  | fabTimeout => exact onCore_keeps fabTimeoutAt_keeps
  | agree => exact onWord_keeps agreeStart_keeps
  | checkpointDue => exact onDev_keeps (fun h => .ite (roundDue_keeps h) h)
  | cadenceRecompute => exact onDev_keeps cadence_keeps
  | now => exact onWord_keeps roundDue_keeps
  | roundStart => exact onDev_keeps roundStartAt_keeps
  | drainComplete => exact onDev_keeps drainEnd_keeps
  | commit => exact onDev_keeps commitSvnAt_keeps
  | abort => exact onWord_keeps roundAbort_keeps
  | arm => exact onWord_keeps .update
  | copySeqWrite => exact onWord_keeps seqWrite_keeps
  | dcore => exact onWord_keeps dcoreAt_keeps
  | ddev => exact onWord_keeps detainDevice_keeps
  | workStopTimeout => exact onDev_keeps workStopAt_keeps
  | slowClockEdge => exact slowEdge_keeps
  | pacerStableTimeout => exact onDev_keeps pacerTimeoutAt_keeps
  | paceEpoch => exact onDev_keeps paceEpochAt_keeps
  | railsSettled => exact onDev_keeps railsSettledAt_keeps
  | railSettleTimeout => exact onDev_keeps railTimeoutAt_keeps
  | marginStretch => exact onDev_keeps marginAt_keeps
  | criticalLevel => exact onDev_keeps (fun h => .ite (criticalAt_keeps h) h)
  | powerWindow => exact onDev_keeps powerWindowAt_keeps
  | powerStretch => exact onDev_keeps powerStretchAt_keeps
  | clrcnt => exact onLate_keeps .update
  | doorbell => exact onDev_keeps apertureAt_keeps
  | descriptorTake => exact onDev_keeps descriptorTakeAt_keeps
  | jobEnd => exact onDev_keeps jobEndAt_keeps
  | stop => exact onEarly_keeps stopAt_keeps
  | stopTimeout => exact onDev_keeps stopTimeoutAt_keeps
  | en => exact onEarly_keeps ctxCtlWrite_keeps
  | coresWrite => exact onEarly_keeps coresWriteAt_keeps
  | flr => exact onDev_keeps flrAt_keeps
  | windowAccess => exact ran_keeps (windowAt_keeps (.refl _))
  | hdmaGo => exact onEarly_keeps hdmaCtlWrite_keeps
  | d3hot | powerFailClear | thermalHoldEnd | syncTimeout | holdupMeasurementExpiry => exact onDev_keeps .update
  | msixUnmask => exact onHost_keeps msixUnmaskAt_keeps
  | perst => exact onDev_keeps perstAt_keeps
  | deliver => exact onDev_keeps deliverAt_keeps
  | bundleBlock => exact onDev_keeps bundleBlockAt_keeps
  | hostReadError => exact onDev_keeps hostReadErrorAt_keeps
  | activation => exact onDev_keeps activationAt_keeps
  | offer => exact onPort_keeps (onCtl_keeps offerAt_keeps)
  | offerRepeat => exact onDev_keeps offerRepeatAt_keeps
  | pull => exact onPort_keeps (onCtl_keeps pullAt_keeps)
  | data => exact onPort_keeps (onCtl_keeps dataAt_keeps)
  | done => exact onPort_keeps (onCtl_keeps (fun h => freeStore_keeps (chainDoneAt_keeps h)))
  | chainTimeout => exact onDev_keeps chainTimeoutAt_keeps
  | status => exact onDev_keeps prfStatusAt_keeps
  | selftest => exact onDev_keeps selftestAt_keeps
  | entropyTestFail => exact onDev_keeps entropyFailAt_keeps
  | nonce => exact onDev_keeps nonceAt_keeps
  | enrol => exact onDev_keeps enrolAt_keeps
  | revoke => exact onDev_keeps revokeAt_keeps
  | unlock => exact onDev_keeps unlockAt_keeps
  | zeroise => exact onDev_keeps zeroiseAt_keeps
  | prefectReservedCommand => exact onDev_keeps prfReservedAt_keeps
  | getVersion => exact onDev_keeps getVersionAt_keeps
  | getCapabilities => exact onDev_keeps getCapabilitiesAt_keeps
  | negotiateAlgorithms => exact onDev_keeps negotiateAt_keeps
  | getDigests => exact onDev_keeps getDigestsAt_keeps
  | getCertificate => exact onDev_keeps getCertificateAt_keeps
  | challenge => exact onDev_keeps challengeAt_keeps
  | getMeasurements => exact onDev_keeps getMeasurementsAt_keeps
  | spdmUnsupportedRequest => exact onDev_keeps spdmUnsupportedAt_keeps
  | powerOn => exact onDev_keeps powerOnReset_keeps
  | vauxLoss => exact onDev_keeps vauxLossAt_keeps
  | vinGood => exact onDev_keeps vinGoodAt_keeps
  | powerFail => exact onDev_keeps powerFailAt_keeps
  | vinLoss => exact onDev_keeps vinLossAt_keeps
  | vinOvervoltage => exact onDev_keeps overvoltAt_keeps
  | overvoltageClear => exact onDev_keeps overvoltClearAt_keeps
  | railFault => exact onDev_keeps railFaultAt_keeps
  | thermalTrip => exact onDev_keeps thermalTripAt_keeps
  | thermalWarning => exact onDev_keeps (fun h => .ite h (thermPolicy_keeps (thermalWarningAt_keeps h)))
  | watchdogExpiry => exact onDev_keeps watchdogAt_keeps
  | resetIn => exact onDev_keeps resetInAt_keeps
  | swrst => exact onEarly_keeps rstCtlWrite_keeps
  | rstClrcnt => exact onEarly_keeps .update
  | releaseStep => exact onDev_keeps releaseStepAt_keeps
  | trimLoadDone => exact onDev_keeps trimLoaded_keeps
  | blockResetGo => exact onEarly_keeps rstBlockWrite_keeps
  | blockIdle | blockResetTimeout => exact blockEnds_keeps
  | holdup => exact onDev_keeps holdupAt_keeps
  | sagEnd => exact onDev_keeps sagEndAt_keeps
  | settingsWrite => exact onDev_keeps settingsWriteAt_keeps
  | holdupRecheck => exact onDev_keeps holdupRecheckAt_keeps
  | flashWriteTimeout => exact onDev_keeps flashTimeoutAt_keeps
  | powerState => exact onDev_keeps powerStateAt_keeps
  | info => exact onDev_keeps infoAt_keeps
  | logRead => exact onDev_keeps logReadAt_keeps
  | topoRead => exact onDev_keeps topoReadAt_keeps
  | paceReq => exact onDev_keeps paceReqAt_keeps
  | settingsRead => exact onDev_keeps settingsReadAt_keeps
  | watchdog => exact onDev_keeps watchdogSetAt_keeps
  | registrarReservedCommand => exact onDev_keeps regReservedAt_keeps
  | registerWrite => exact onDev_keeps registerWriteAt_keeps
  | beat => exact onDev_keeps beatAt_keeps
  | reservedFlitType => exact onPort_keeps reservedFlitAt_keeps
  | slotReuse => exact onCore_keeps slotReuseAt_keeps
  | hostCompletionTimeout => exact onEngine_keeps hostTimeoutAt_keeps
  | sagVinLow => exact onDev_keeps sagVinLowAt_keeps
  | fabricRefclkStop => exact onDev_keeps (fun h => freeStore_keeps (rcBegin_keeps (refclkStopAt_keeps h)))
  | jtagInstruction => exact onDev_keeps jtagAt_keeps

/-- Every step keeps its device in form. -/
theorem step_keeps (s : State) : StepKeeps s (step s) := by
  unfold step
  split
  · exact ran_keeps (txSettle_keeps (.refl _))
  · exact exec_keeps _ _
/-- The next state of a step, with what it keeps. -/
theorem keeps_of_step {t : State} (h : step s = .next t) : Keeps s.dev t.dev ∧ (memOk s → memWf t.shadow.mem = true) := by
  obtain ⟨u, hu, hk⟩ := step_keeps s
  cases h.symm.trans hu
  exact hk

/-- Settles O59: every command keeps the canonical form of the device's memory; the shadow copies take theirs from the device,
or keep their own. -/
theorem stepKeepsMemoryForm : Obligations.StepKeepsMemoryForm := by
  intro s t hs h
  obtain ⟨hd, hsh⟩ := keeps_of_step h
  exact ⟨hd.mem hs.1, hsh hs⟩

/-- Settles O60: the fuses after a step come from those before it by burning alone. -/
theorem fusesOnlyBurn : Obligations.FusesOnlyBurn := by
  intro s t h
  obtain ⟨hpart, hid, hsvn, hkill, howner, hvendor⟩ := (keeps_of_step h).1.fuses
  simp only [Fuses.part, Prod.mk.injEq] at hpart
  obtain ⟨h1, h2, h3, h4, h5, h6, h7, h8⟩ := hpart
  exact ⟨h1, h2, h3, h4, h5, h6, h7, h8, hid, hsvn, hkill, fun i => ⟨(howner i).used, (howner i).revoked⟩,
    fun i => ⟨(hvendor i).hash, (hvendor i).revoked⟩⟩

end Sys2Proof.Machine
end

section
/-!
The load of a Timetable (R38, R39, R307): `ttLoadAt` and `ttCheck` case by case.
-/
namespace Sys2Proof.Machine
open Sys2Proof.Safety

/-! ### What a response leaves unchanged -/

@[simp] theorem regRespond_ttl (d : Dev) (status : Nat) (payload : List Byte) : (regRespond d status payload).ttl = d.ttl := signal_ttl _ _
@[simp] theorem regRespond_mem (d : Dev) (status : Nat) (payload : List Byte) : (regRespond d status payload).mem = d.mem := signal_mem _ _
@[simp] theorem regRespond_cores (d : Dev) (status : Nat) (payload : List Byte) : (regRespond d status payload).cores = d.cores :=
  signal_cores _ _

/-- A load that fails records its code and drops the image; the active Timetable stays (R39). -/
theorem ttFail_ttl (d : Dev) (err status : Nat) :
    (ttFail d err status).ttl = { d.ttl with state := .failed, err := BitVec.ofNat 8 err, loading := none } :=
  regRespond_ttl _ _ _
theorem ttFail_mem (d : Dev) (err status : Nat) : (ttFail d err status).mem = d.mem := regRespond_mem _ _ _
theorem ttFail_cores (d : Dev) (err status : Nat) : (ttFail d err status).cores = d.cores := regRespond_cores _ _ _

/-! ### When TT_LOAD is taken, and how it is answered (R39, R307) -/

theorem cxlSettled_iff (d : Dev) :
    cxlSettled d = true ↔ ∀ p, p < 2 → (cxlOf d p).link ≠ .training ∧ (cxlOf d p).waitActive = false := by
  simp [cxlSettled]

theorem exec_ttLoad (s : State) : exec .ttLoad s = goes s (ttLoadAt s.dev) := rfl

/-- The status of the mailbox's checks of TT_LOAD (R551): LEN 12, an aligned image within HBM. -/
def ttGate (d : Dev) : Nat :=
  regGate d 12 (mbField d.reg.mb 0 8 % 64 == 0 && decide (mbField d.reg.mb 0 8 + mbField d.reg.mb 8 4 ≤ hbmCap d)) true true
/-- The answer to a request that may run: the image at the address of the mailbox is read and checked. -/
def ttLoadImage (d : Dev) : Dev :=
  match rdBad d (mbField d.reg.mb 0 8) (mbField d.reg.mb 8 4) with
  | some g => ttFail (ueEvent d g none) 2 7
  | none =>
    match ttCheck d (rdBytes d (mbField d.reg.mb 0 8) (mbField d.reg.mb 8 4)) with
    | .error e => ttFail d e 7
    | .ok t => foldCopy { d with ttl := { d.ttl with state := .loading, err := 0, loading := some t } }

theorem ttLoadAt_waits {d : Dev} (h : regAsked d 2 = false ∨ d.ttl.loading ≠ none ∨ cxlSettled d = false) : ttLoadAt d = d := by
  rw [ttLoadAt, if_pos]
  rcases h with h | h | h
  · simp [h]
  · simp [Option.isSome_iff_ne_none.mpr h]
  · simp [h]

/-- A request that is taken meets the mailbox's checks, then an active job, then the checks of the image. -/
theorem ttLoadAt_taken {d : Dev} (ha : regAsked d 2 = true) (hl : d.ttl.loading = none) (hs : cxlSettled d = true) :
    ttLoadAt d = if ttGate d ≠ 0 then regRespond d (ttGate d) [] else if jobActive d then ttFail d 7 3 else ttLoadImage d := by
  rw [ttLoadAt, if_neg (by simp [ha, hl, hs])]
  simp only [bne_iff_ne]
  rfl

section
variable {d : Dev}

theorem ttLoadImage_unreadable {g : Nat} (hb : rdBad d (mbField d.reg.mb 0 8) (mbField d.reg.mb 8 4) = some g) :
    ttLoadImage d = ttFail (ueEvent d g none) 2 7 := by
  rw [ttLoadImage, hb]

variable (hb : rdBad d (mbField d.reg.mb 0 8) (mbField d.reg.mb 8 4) = none)
include hb

theorem ttLoadImage_fails {e : Nat} (hc : ttCheck d (rdBytes d (mbField d.reg.mb 0 8) (mbField d.reg.mb 8 4)) = .error e) :
    ttLoadImage d = ttFail d e 7 := by
  simp only [ttLoadImage, hb, hc]

/-- An image that passes every check is held as the one being applied, after the fold (R389). -/
theorem ttLoadImage_passes {t : Timetable} (hc : ttCheck d (rdBytes d (mbField d.reg.mb 0 8) (mbField d.reg.mb 8 4)) = .ok t) :
    ttLoadImage d = foldCopy { d with ttl := { d.ttl with state := .loading, err := 0, loading := some t } } := by
  simp only [ttLoadImage, hb, hc]

end

/-! ### The checks of an image, each under those before it (R38) -/

theorem ttCheck_badHeader {d : Dev} {img : List Byte} (h : img.length < 0x20 ∨ leAt img 0 4 ≠ 0x3154544C ∨ leAt img 4 2 ≠ 1) :
    ttCheck d img = .error 1 := by
  rw [ttCheck, if_pos]
  simpa [or_assoc] using h

section
variable {d : Dev} {img : List Byte} (hlen : 0x20 ≤ img.length) (hmagic : leAt img 0 4 = 0x3154544C) (hver : leAt img 4 2 = 1)
include hlen hmagic hver

theorem ttCheck_badSignature (h : leAt img 8 4 < 0x20 ∨ ttSigned d img (leAt img 8 4) = false) : ttCheck d img = .error 2 := by
  rw [ttCheck, if_neg (by simp [hlen, hmagic, hver]), if_pos (by simpa using h)]

variable (hsize : 0x20 ≤ leAt img 8 4) (hsig : ttSigned d img (leAt img 8 4) = true)
include hsize hsig

theorem ttCheck_badGrade (h : leAt img 0x0C 1 ≠ d.fuses.grade.toNat) : ttCheck d img = .error 3 := by
  rw [ttCheck, if_neg (by simp [hlen, hmagic, hver]), if_neg (by simp [hsize, hsig]), if_pos (by simpa using h)]

theorem ttCheck_badFuses (hgrade : leAt img 0x0C 1 = d.fuses.grade.toNat) (h : leAt img 0x0D 2 ≠ ttlFuse d) :
    ttCheck d img = .error 4 := by
  rw [ttCheck, if_neg (by simp [hlen, hmagic, hver]), if_neg (by simp [hsize, hsig]), if_neg (by simp [hgrade]),
    if_pos (by simpa using h)]

end

/-- Settles O28: TT_LOAD goes on with `ttLoadAt`, whose cases and the order of whose checks the lemmas above say. -/
theorem timetableLoad : Obligations.TimetableLoad := by
  refine ⟨fun s => ⟨?_, cxlSettled_iff s.dev, ?_, fun e st => ?_⟩, fun d img => ⟨ttCheck_badHeader, ?_⟩⟩
  · intro h
    rw [exec_ttLoad, ttLoadAt_waits h]
  · intro ha hl hs
    rw [exec_ttLoad, ttLoadAt_taken ha hl hs]
    refine ⟨fun (hg : ttGate s.dev ≠ 0) => ?_, fun (hg : ttGate s.dev = 0) hj => ?_, fun (hg : ttGate s.dev = 0) hj => ?_⟩
    · rw [if_pos hg]; rfl
    · rw [if_neg (not_not.mpr hg), if_pos hj]
    · rw [if_neg (not_not.mpr hg), if_neg (by simp [hj])]
      refine ⟨fun g hb => ?_, fun hb => ⟨fun e hc => ?_, fun t hc => ?_⟩⟩
      · rw [ttLoadImage_unreadable hb]
      · rw [ttLoadImage_fails hb hc]
      · rw [ttLoadImage_passes hb hc]
  · simp [ttFail_ttl, ttFail_mem, ttFail_cores]
  · intro hlen hmagic hver
    exact ⟨ttCheck_badSignature hlen hmagic hver, fun hsize hsig =>
      ⟨ttCheck_badGrade hlen hmagic hver hsize hsig, ttCheck_badFuses hlen hmagic hver hsize hsig⟩⟩

end Sys2Proof.Machine
end

section
/-!
The activation of a Timetable (R39, R131, R232, R322, R376): what `ttActivateAt` and the operations it begins with do.
-/
namespace Sys2Proof.Machine
open Sys2Proof.Safety

/-- A map that keeps the keys of a table acts on the value under each key. -/
theorem mapGet?_map_of_fst {α : Type} {g : Nat × α → Nat × α} (hg : ∀ p, (g p).1 = p.1) (m : NMap α) (k : Nat) :
    mapGet? (m.map g) k = (mapGet? m k).map (fun v => (g (k, v)).2) := by
  induction m with
  | nil => rfl
  | cons p r ih =>
    obtain ⟨a, v⟩ := p
    rw [List.map_cons, show g (a, v) = (a, (g (a, v)).2) from Prod.ext (hg _) rfl, mapGet?, mapGet?, ih]
    by_cases h : a = k
    · subst h; simp
    · simp [h]

/-- A Bell of the Timetable starts again, but for the arrivals that it holds (R232). -/
theorem bellOf_resetUserBells (d : Dev) {b : Nat} (hb : b < 1016) : bellOf (resetUserBells d) b = { held := (bellOf d b).held } := by
  have hkeys : ∀ p : Nat × BellState, (if 1016 ≤ p.1 then p else (p.1, { held := p.2.held })).1 = p.1 := by
    intro p; split <;> rfl
  simp only [bellOf, resetUserBells, mapGet, mapGet?_map_of_fst hkeys, if_neg (Nat.not_le.mpr hb)]
  cases mapGet? d.bells b <;> rfl

/-- With no fill under way and no dirty page, a cache is emptied with nothing written back (R322). -/
theorem flushAndEmpty_clean {d : Dev} {p : Nat} (hf : (cxlOf d p).filling = []) (hl : ∀ l ∈ (cxlOf d p).lines, l.dirty = false) :
    flushAndEmpty d p = modCxl d p (fun c => { c with lines := [], flushing := false, flushPages := [], filling := [] }) := by
  have hdirty : (cxlOf d p).lines.filter (·.dirty) = [] := List.filter_eq_nil_iff.mpr (by simpa using hl)
  simp only [flushAndEmpty, hf, List.map_nil, List.foldl_nil, hdirty]

theorem exec_timetableActive (s : State) : exec .timetableActive s = goes s (ttActivateAt s.dev) := rfl

theorem ttActivateAt_none {d : Dev} (h : d.ttl.loading = none) : ttActivateAt d = d := by
  rw [ttActivateAt, h]

/-- The device with the caches written back and Timetable t active, its ring step counts at zero. -/
def ttInForce (d : Dev) (t : Timetable) : Dev :=
  let d0 := flushAndEmpty (flushAndEmpty d 0) 1
  { d0 with ttl := { state := .active, err := 0, active := some t }
            cores := d0.cores.map (fun c => (c.1, { c.2 with ringSteps := [] })) }
/-- The sections of the active Timetable take effect, and a round of agreement starts. -/
def ttSectionsApply (d : Dev) : Dev := agreeStart (activateCopy (activateTier (activateTier (resetUserBells d) 0) 1))

theorem ttActivateAt_some {d : Dev} {t : Timetable} (h : d.ttl.loading = some t) :
    ttActivateAt d = regRespond (ttSectionsApply (ttInForce d t)) 0 (ttPayload (ttSectionsApply (ttInForce d t))) := by
  rw [ttActivateAt, h]; rfl

/-- Settles O29: `ttActivateAt` puts the loaded Timetable in force on emptied caches, then its sections. -/
theorem timetableTakesEffect : Obligations.TimetableTakesEffect := by
  refine ⟨fun s h => ?_, fun s t h => ?_, fun d p => flushAndEmpty_clean, fun d b hb => ?_⟩
  · rw [exec_timetableActive, ttActivateAt_none h]
  · exact congrArg (goes s) (ttActivateAt_some h)
  · simp [bellOf_resetUserBells d hb]

end Sys2Proof.Machine
end

section
/-!
Rounding and float codes (R52, R54, R58, R69, R70). A rounding to multiples of u keeps the floor of the magnitude or takes the
multiple above it, as `roundsUp` says of each mode. A float code is its sign bit and its magnitude code: `decodeMag` is what the
magnitude stands for, and `roundMag` gives it back, since the last place that it keeps is the code's own.
-/
namespace Sys2Proof.Machine

/-! ### One rounding (R58) -/

/-- A mode gives up the floor f of a magnitude for the factor above it, when `rem` of the last place u lies beyond f u (R58). -/
def roundsUp (r : Rnd) (neg : Bool) (f rem u : Nat) : Bool :=
  rem != 0 && match r with
    | .rne => decide (u < 2 * rem) || (2 * rem == u && f % 2 == 1)
    | .rtz => false
    | .rdn => neg
    | .rup => !neg
    | .rto => f % 2 == 0

/-- The factor of u to which a magnitude rounds. -/
def roundTo (r : Rnd) (neg : Bool) (m u : Nat) : Nat := m / u + if roundsUp r neg (m / u) (m % u) u then 1 else 0

/-- On a grid finer than the last place, the model's rounding is `roundTo`. -/
theorem roundAt_of_lt (r : Rnd) (neg : Bool) (m : Nat) {e q : Int} (h : e < q) :
    roundAt r neg m e q = roundTo r neg m (2 ^ (q - e).toNat) := by
  rw [roundAt, if_neg (Int.not_le.mpr h), roundTo]
  by_cases hrem : m % 2 ^ (q - e).toNat = 0
  · simp [roundsUp, hrem]
  · cases r with
    | rup => cases neg <;> simp [roundsUp, hrem]
    | _ => simp [roundsUp, hrem, add_ite]

/-- On a grid at least as coarse as the last place, nothing is rounded. -/
theorem roundAt_of_le (r : Rnd) (neg : Bool) (m : Nat) {e q : Int} (h : q ≤ e) : roundAt r neg m e q = m * 2 ^ (e - q).toNat :=
  if_pos h

section
variable (r : Rnd) (neg : Bool) (m : Nat) {u : Nat}

theorem roundTo_mul : roundTo r neg m u * u = m / u * u + if roundsUp r neg (m / u) (m % u) u then u else 0 := by
  rw [roundTo, Nat.add_mul, ite_mul, one_mul, zero_mul]

/-- A multiple stays in every mode. -/
theorem roundTo_of_mod_eq_zero (h : m % u = 0) : roundTo r neg m u * u = m := by
  simp [roundTo_mul, roundsUp, h, Nat.div_mul_cancel (Nat.dvd_of_mod_eq_zero h)]

/-- Every mode ends less than one last place from the magnitude. -/
theorem roundTo_within (hu : 0 < u) : roundTo r neg m u * u < m + u ∧ m < roundTo r neg m u * u + u := by
  have hm := Nat.div_add_mod' m u
  have hlt := Nat.mod_lt m hu
  rw [roundTo_mul]
  split
  · next h =>
    have hrem : m % u ≠ 0 := by simpa using (Bool.and_eq_true_iff.mp h).1
    omega
  · omega

/-- A mode that drops what lies beyond the floor gives the floor. -/
theorem roundTo_of_down (h : roundsUp r neg (m / u) (m % u) u = false) : roundTo r neg m u = m / u := by
  simp [roundTo, h]

theorem roundTo_rtz : roundTo .rtz neg m u = m / u := roundTo_of_down _ _ _ (Bool.and_false _)
theorem roundTo_rdn_of_pos : roundTo .rdn false m u = m / u := roundTo_of_down _ _ _ (Bool.and_false _)
theorem roundTo_rup_of_neg : roundTo .rup true m u = m / u := roundTo_of_down _ _ _ (Bool.and_false _)

/-- A mode that leaves the floor for anything discarded is never below the magnitude. -/
theorem le_roundTo_of_up (hu : 0 < u) (h : roundsUp r neg (m / u) (m % u) u = (m % u != 0)) : m ≤ roundTo r neg m u * u := by
  have hm := Nat.div_add_mod' m u
  have hlt := Nat.mod_lt m hu
  rw [roundTo_mul, h]
  split
  · omega
  · next hrem => simp only [bne_iff_ne, not_not] at hrem; omega

theorem le_roundTo_rup_of_pos (hu : 0 < u) : m ≤ roundTo .rup false m u * u := le_roundTo_of_up _ _ _ hu (Bool.and_true _)
theorem le_roundTo_rdn_of_neg (hu : 0 < u) : m ≤ roundTo .rdn true m u * u := le_roundTo_of_up _ _ _ hu (Bool.and_true _)

/-- RNE leaves the floor beyond the half, and at the half when the floor is odd. -/
theorem roundsUp_rne_iff {f rem : Nat} (hu : 0 < u) :
    roundsUp .rne neg f rem u = true ↔ u < 2 * rem ∨ 2 * rem = u ∧ f % 2 = 1 := by
  simp only [roundsUp, Bool.and_eq_true, Bool.or_eq_true, bne_iff_ne, beq_iff_eq, decide_eq_true_eq]
  omega

/-- No multiple is nearer to the magnitude than the one RNE takes: it is at most half a last place away. -/
theorem roundTo_rne_nearest (hu : 0 < u) :
    2 * (roundTo .rne neg m u * u) ≤ 2 * m + u ∧ 2 * m ≤ 2 * (roundTo .rne neg m u * u) + u := by
  have hm := Nat.div_add_mod' m u
  have hlt := Nat.mod_lt m hu
  simp only [roundTo_mul, roundsUp_rne_iff neg hu]
  split <;> omega

/-- At a tie RNE takes the even factor. -/
theorem roundTo_rne_tie (hu : 0 < u) (h : 2 * (m % u) = u) : roundTo .rne neg m u % 2 = 0 := by
  simp only [roundTo, roundsUp_rne_iff neg hu, h]
  rcases Nat.mod_two_eq_zero_or_one (m / u) with hf | hf
  · simp [hf]
  · simp [hf, Nat.add_mod]

/-- RTO takes the odd factor of the two beside a magnitude that is no multiple. -/
theorem roundTo_rto_odd (h : m % u ≠ 0) : roundTo .rto neg m u % 2 = 1 := by
  rcases Nat.mod_two_eq_zero_or_one (m / u) with hf | hf
  · simp [roundTo, roundsUp, h, hf, Nat.add_mod]
  · simp [roundTo, roundsUp, hf]

end

/-- Settles O19: below the last place `roundAt` is `roundTo`, whose modes the lemmas above characterise one by one. -/
theorem roundingModes : Obligations.RoundingModes := by
  intro neg m e q h
  have hu : 0 < 2 ^ (q - e).toNat := Nat.two_pow_pos _
  simp only [roundAt_of_lt _ _ _ h]
  refine ⟨fun r => roundTo_of_mod_eq_zero r neg m, ⟨(roundTo_rne_nearest neg m hu).1, (roundTo_rne_nearest neg m hu).2,
    roundTo_rne_tie neg m hu⟩, ⟨?_, (roundTo_within .rtz neg m hu).2⟩, ?_, ?_,
    fun hrem => ⟨roundTo_rto_odd neg m hrem, roundTo_within .rto neg m hu⟩⟩
  · rw [roundTo_rtz]
    exact Nat.div_mul_le_self m _
  · rintro rfl
    exact ⟨(roundTo_rdn_of_pos m).trans (roundTo_rtz false m).symm, le_roundTo_rup_of_pos m hu, (roundTo_within .rup false m hu).1⟩
  · rintro rfl
    exact ⟨(roundTo_rup_of_neg m).trans (roundTo_rtz true m).symm, le_roundTo_rdn_of_neg m hu, (roundTo_within .rdn true m hu).1⟩

/-! ### The codes of a float format (R52, R54) -/

/-- What the magnitude code `mag` of a float format stands for, with a sign: past the largest finite value an infinity or a NaN,
below the first exponent a zero or a subnormal, and otherwise a normal number. -/
def decodeMag (f : Fmt) (neg : Bool) (mag : Nat) : Num :=
  if mag > fmtMax f then (if fmtInf f = some mag then .inf neg else .nan)
  else if mag / 2 ^ fmtMant f = 0 then .fin neg (mag % 2 ^ fmtMant f) (fmtEmin f)
  else .fin neg (mag % 2 ^ fmtMant f + 2 ^ fmtMant f) (fmtEmin f + (mag / 2 ^ fmtMant f : Nat) - 1)

/-- A float code within its width decodes by its sign bit and its magnitude code. -/
theorem numDecode_eq_decodeMag {f : Fmt} (hf : (fmtWideFloat f || fmtNarrowFloat f) = true) {c : Nat} (hc : c < 2 ^ fmtBits f) :
    numDecode f c = decodeMag f (bit c (fmtBits f - 1)) (c % 2 ^ (fmtBits f - 1)) := by
  unfold numDecode
  rw [Nat.mod_eq_of_lt hc]
  cases f with
  | int8 | int4 | int32 | e8m0 => cases hf
  | _ => rfl

/-- A code is its sign bit and the bits below it. -/
theorem signBit_add_mod {f : Fmt} (hf : 0 < fmtBits f) {c : Nat} (hc : c < 2 ^ fmtBits f) :
    signBit f (bit c (fmtBits f - 1)) + c % 2 ^ (fmtBits f - 1) = c := by
  have hpow : 2 ^ fmtBits f = 2 * 2 ^ (fmtBits f - 1) := by rw [← Nat.pow_succ', Nat.succ_eq_add_one, Nat.sub_add_cancel hf]
  rw [signBit, bit]
  by_cases h : c < 2 ^ (fmtBits f - 1)
  · simp [Nat.testBit_lt_two_pow h, Nat.mod_eq_of_lt h]
  · have htop : c.testBit (fmtBits f - 1) = true := Nat.testBit_of_two_pow_le_and_two_pow_add_one_gt (by omega) (by
      rwa [Nat.sub_add_cancel hf])
    rw [if_pos htop, Nat.mod_eq_sub_mod (by omega), Nat.mod_eq_of_lt (by omega)]
    omega

/-- The number of bits of a magnitude below 2^k is at most k. -/
theorem bitLen_le_of_lt {m k : Nat} (h : m < 2 ^ k) : bitLen m ≤ k := by
  rw [bitLen]
  split
  · exact Nat.zero_le k
  · next hm => exact (Nat.log2_lt hm).mpr h

/-- A magnitude from 2^k below 2^(k + 1) has k + 1 bits. -/
theorem bitLen_of_top_bit {m k : Nat} (hlo : 2 ^ k ≤ m) (hhi : m < 2 ^ (k + 1)) : bitLen m = k + 1 := by
  have hm : m ≠ 0 := by have := Nat.two_pow_pos k; omega
  rw [bitLen, if_neg hm, (Nat.log2_eq_iff hm).mpr ⟨hlo, hhi⟩]

/-- A magnitude whose own exponent is the last place kept has its magnitude code exactly. -/
theorem roundMag_of_roundExp {f : Fmt} (r : Rnd) (neg : Bool) {m : Nat} {e : Int} (h : roundExp f m e = e) :
    roundMag f r neg m e = (e - fmtEmin f).toNat * 2 ^ fmtMant f + m := by
  simp [roundMag, h, roundAt_of_le]

/-- A subnormal magnitude rounds to itself. -/
theorem roundMag_subnormal (f : Fmt) (r : Rnd) (neg : Bool) {m : Nat} (h : m < 2 ^ fmtMant f) :
    roundMag f r neg m (fmtEmin f) = m := by
  have hlen := bitLen_le_of_lt h
  rw [roundMag_of_roundExp r neg (by rw [roundExp]; omega)]
  simp

/-- A normal magnitude of the fields ex and mm rounds to these fields. -/
theorem roundMag_normal (f : Fmt) (r : Rnd) (neg : Bool) {ex mm : Nat} (hex : ex ≠ 0) (hmm : mm < 2 ^ fmtMant f) :
    roundMag f r neg (mm + 2 ^ fmtMant f) (fmtEmin f + ex - 1) = ex * 2 ^ fmtMant f + mm := by
  have hlen : bitLen (mm + 2 ^ fmtMant f) = fmtMant f + 1 := bitLen_of_top_bit (Nat.le_add_left _ _) (by rw [Nat.pow_succ]; omega)
  obtain ⟨x, rfl⟩ := Nat.exists_eq_succ_of_ne_zero hex
  have hx : (fmtEmin f + (x.succ : Nat) - 1 - fmtEmin f).toNat = x := by omega
  rw [roundMag_of_roundExp r neg (by rw [roundExp, hlen]; omega), hx, Nat.succ_mul]
  omega

/-- A number whose magnitude code is within the format has that code and its sign. -/
theorem numRound_fin {f : Fmt} {r : Rnd} {neg : Bool} {m c : Nat} {e : Int} (hm : m ≠ 0) (hround : roundMag f r neg m e = c)
    (hmax : c ≤ fmtMax f) : numRound f r (.fin neg m e) = signBit f neg + c := by
  subst hround
  simp only [numRound]
  rw [if_neg hm, if_neg (Nat.not_lt.mpr hmax)]

/-- A magnitude code that is no NaN's is the code to which the number it stands for rounds, in every mode. -/
theorem numRound_decodeMag {f : Fmt} (r : Rnd) {neg : Bool} {mag : Nat} (hnan : numIsNan (decodeMag f neg mag) = false) :
    numRound f r (decodeMag f neg mag) = signBit f neg + mag := by
  have hmm : mag % 2 ^ fmtMant f < 2 ^ fmtMant f := Nat.mod_lt _ (Nat.two_pow_pos _)
  have hfields := Nat.div_add_mod' mag (2 ^ fmtMant f)
  unfold decodeMag at hnan ⊢
  split_ifs at hnan ⊢ with hbeyond hinf hex
  · simp [numRound, hinf]
  · cases hnan
  · have hmag : mag % 2 ^ fmtMant f = mag := by rwa [hex, Nat.zero_mul, Nat.zero_add] at hfields
    rw [hmag] at hmm ⊢
    by_cases hzero : mag = 0
    · simp [numRound, hzero]
    · exact numRound_fin hzero (roundMag_subnormal f r neg hmm) (Nat.not_lt.mp hbeyond)
  · have hround := (roundMag_normal f r neg hex hmm).trans hfields
    exact numRound_fin (by omega) hround (Nat.not_lt.mp hbeyond)

/-- Settles O18: a float code is its sign bit and its magnitude code, and the magnitude code rounds back. -/
theorem floatCodesRoundTrip : Obligations.FloatCodesRoundTrip := by
  intro f r c hf hc hnan
  have hbits : 0 < fmtBits f := by cases f <;> decide
  rw [numDecode_eq_decodeMag hf hc] at hnan ⊢
  rw [numRound_decodeMag r hnan, signBit_add_mod hbits hc]

end Sys2Proof.Machine
end

section
/-!
The turn of an array command on a core whose queues have nothing waiting: the command issues, is the next of its array's queue, and
executes at once beside the transfers in flight (R163, R176, R179).
-/
namespace Sys2Proof.Machine
open Sys2Proof.Safety

/-! ### Arrays of a core -/

@[simp] theorem arrOf_modArr_same (c : Core) (a : Nat) (f : ArrayState → ArrayState) : arrOf (modArr c a f) a = f (arrOf c a) := by
  simp [arrOf, modArr]
theorem arrOf_modArr_other (c : Core) {a b : Nat} (f : ArrayState → ArrayState) (h : b ≠ a) : arrOf (modArr c a f) b = arrOf c b := by
  simp [arrOf, modArr, mapGet_mapPut_other _ _ _ _ _ h]
theorem arrOf_of_arrays {c e : Core} (h : c.arrays = e.arrays) (a : Nat) : arrOf c a = arrOf e a := by rw [arrOf, arrOf, h]

@[simp] theorem advance_arrays (c : Core) (w : Nat) : (advance c w).arrays = c.arrays :=
  foldl_keeps bump Core.arrays (fun _ _ => rfl) (incRegs w) c
@[simp] theorem advance_cmds (c : Core) (w : Nat) : (advance c w).cmds = c.cmds :=
  foldl_keeps bump Core.cmds (fun _ _ => rfl) (incRegs w) c
@[simp] theorem trackArray_cmds (c : Core) (w : Nat) (live : Fmt) (rs : List Region) : (trackArray c w live rs).cmds = c.cmds := by
  unfold trackArray; dsimp only; split <;> rfl

/-- Of an array state, issue changes only what the Proctor tracks: formats, pending tile and unpaired FUSE commands (R180). -/
def tracksOnly (f : ArrayState → ArrayState) : Prop :=
  ∀ s, ∃ tl ts tp un, f s = { s with tLive := tl, tShadow := ts, tPend := tp, unpaired := un }

/-- A ring command's step count leaves the arrays. -/
theorem countStep_arrays (p : Bool) (c : Core) (steps : NMap (BitVec 16)) :
    (if p then { c with ringSteps := steps } else c).arrays = c.arrays := by
  split <;> rfl

/-- Issue tracks the array that the command names. -/
theorem trackArray_arrays (c : Core) (w : Nat) (live : Fmt) (rs : List Region) :
    ∃ f, (trackArray c w live rs).arrays = (modArr c (cwQue w) f).arrays ∧ tracksOnly f := by
  refine ⟨_, countStep_arrays _ _ _, fun s => ?_⟩
  split
  · split <;> exact ⟨_, _, _, _, rfl⟩
  · exact ⟨_, _, _, _, rfl⟩
  · exact ⟨_, _, _, _, rfl⟩
  · exact ⟨_, _, _, _, rfl⟩
  · dsimp only
    split_ifs <;> exact ⟨_, _, _, _, rfl⟩

/-! ### Issue -/

/-- The entry with which array command w of core v joins its queue (R157, R162, R175, R180). -/
def arrEntry (d : Dev) (v w : Nat) : Issued :=
  let c0 := coreOf d v
  let o := arrOpnds c0 w
  { id := c0.issue.toNat, word := BitVec.ofNat 128 w, unit := .array (bits w 8 3), ops := o, regions := arrRegions c0 w o,
    liveFmt := trackedLive c0 w, step := mapGet 0 c0.ringSteps (bits w 8 3), shape := (arrOf c0 (bits w 8 3)).tPend }

section
variable {d : Dev} {v w : Nat}

/-- The queue entry holds the word itself. -/
theorem arrEntry_word (h : issues d v w = true) : (arrEntry d v w).word.toNat = w := word_toNat (issues_lt h)

/-- A well-formed array command names an array of its core (R153). -/
theorem cwQue_lt_of_issues (h : issues d v w = true) (ha : cwArray w = true) : bits w 8 3 < 4 := by
  simp only [issues, Bool.and_eq_true, Option.isNone_iff_eq_none] at h
  obtain ⟨⟨-, hform⟩, -⟩ := h
  simp only [cwArray, Bool.and_eq_true, decide_eq_true_eq] at ha
  have hque : queOk (cwOpc w) (cwQue w) = true := by
    by_contra hq
    simp only [malformed] at hform
    split at hform
    · cases hform
    · rw [if_pos (by simpa using hq)] at hform
      cases hform
  rw [queOk, if_neg (by simp; omega), if_neg (by simp; omega), if_pos (by omega)] at hque
  exact Nat.lt_succ_of_le (of_decide_eq_true hque)

/-- An array command joins its queue behind what is in flight. -/
theorem issueCmd_cmds (ha : cwArray w = true) :
    (coreOf (issueCmd d v w) v).cmds = (coreOf d v).cmds ++ [arrEntry d v w] := by
  rw [arr_issue d v w ha]
  simp [arrEntry]

/-- Issue leaves the core's other arrays, and of the command's own it changes only what the Proctor tracks (R180). -/
theorem issueCmd_arrays (ha : cwArray w = true) :
    ∃ f, tracksOnly f ∧ ∀ b, arrOf (coreOf (issueCmd d v w) v) b = arrOf (modArr (coreOf d v) (bits w 8 3) f) b := by
  rw [arr_issue d v w ha]
  obtain ⟨f, harr, hf⟩ := trackArray_arrays { coreOf d v with cmds := (coreOf d v).cmds ++ [arrEntry d v w] } w
    (trackedLive (coreOf d v) w) (arrRegions (coreOf d v) w (arrOpnds (coreOf d v) w))
  refine ⟨f, hf, fun b => arrOf_of_arrays ?_ b⟩
  rw [coreOf_modCore_same, advance_arrays]
  exact harr

theorem arrOf_issueCmd_other (ha : cwArray w = true) {b : Nat} (hb : b ≠ bits w 8 3) :
    arrOf (coreOf (issueCmd d v w) v) b = arrOf (coreOf d v) b := by
  obtain ⟨f, -, hf⟩ := issueCmd_arrays (d := d) (v := v) ha
  rw [hf, arrOf_modArr_other _ _ hb]
theorem arrOf_issueCmd_same (ha : cwArray w = true) : ∃ tl ts tp un, arrOf (coreOf (issueCmd d v w) v) (bits w 8 3) =
    { arrOf (coreOf d v) (bits w 8 3) with tLive := tl, tShadow := ts, tPend := tp, unpaired := un } := by
  obtain ⟨f, hf, harr⟩ := issueCmd_arrays (d := d) (v := v) ha
  rw [harr, arrOf_modArr_same]
  exact hf _

theorem issueCmd_mem (ha : cwArray w = true) : (issueCmd d v w).mem = d.mem := by
  rw [arr_issue d v w ha]; rfl

end

/-! ### The turn -/

/-- On a core whose queues have nothing waiting, an array command that issues and is ready executes at once and alone. -/
theorem arr_turn {s : State} {v w o : Nat} {a : Answer} (ha : a = onCore s v (fun d => attempt d v (rowOpc o)))
    (hr : running s v) (h : issues s.dev v w = true) (hq : quiet s.dev v = true) (hw : cwOpc w = o) (ho : 0x20 ≤ o ∧ o ≤ 0x26)
    (hready : arrayReady (issueCmd s.dev v w) v (bits w 8 3) (arrEntry s.dev v w) = true) :
    a = goes s (markDone (issueCmd s.dev v w)
      (raced (issueCmd s.dev v w) (fun e => execArrayCmd e v (bits w 8 3) (arrEntry s.dev v w))) v (arrEntry s.dev v w)) := by
  have harr : cwArray w = true := by simp [cwArray, hw, ho]
  have hdone : ∀ j ∈ (coreOf s.dev v).cmds, (∃ b, b < 4 ∧ j.unit = .array b) ∨ j.unit = .vec → j.executed = true := by
    simp only [quiet, Bool.and_eq_true, List.all_eq_true, List.mem_range, Option.isNone_iff_eq_none, nextOf_none_iff] at hq
    obtain ⟨harrays, hvec⟩ := hq
    rintro j hj (⟨b, hb, hu⟩ | hu)
    · exact harrays b hb j hj hu
    · exact hvec j hj hu
  rw [row_issues s v w a _ ha hr h (rowOpc_arr hw (by omega))]
  rw [pump_array _ v (bits w 8 3) (arrEntry s.dev v w) _ (cwQue_lt_of_issues h harr) (issueCmd_cmds harr) hdone rfl rfl hready
    (raced_cmds _ _ v (fun e => execArrayCmd_cmds e v _ _))]

end Sys2Proof.Machine
end

section
/-!
WLOAD and WSWAP (R104 to R112): the turn of a command that leaves memory, and the tile that WLOAD reads.
-/
namespace Sys2Proof.Machine
open Sys2Proof.Safety

/-! ### What a turn adds to a command's effect (R163) -/

/-- Lists that remember overwritten bytes keep every part that the streams are no part of. -/
theorem noteOver_keepsPart {γ : Type} (g : Dev → γ) (hg : ∀ d e f, g (modStrm d e f) = g d) (d : Dev) (cells : List Host.Cell) :
    g (noteOver d cells) = g d := by
  unfold noteOver
  dsimp only
  split
  · rfl
  · refine foldl_keeps _ g (fun e x => ?_) _ _
    split
    · exact hg _ _ _
    · rfl

theorem modStrm_arrays (d : Dev) (e : Engine) (f : StreamState → StreamState) (v : Nat) :
    (coreOf (modStrm d e f) v).arrays = (coreOf d v).arrays := by
  cases e with
  | hdma c => rfl
  | core u =>
    by_cases h : v = u
    · subst h; simp [modStrm]
    · simp [modStrm, coreOf_modCore_other _ _ _ _ h]

/-- The mark of an executed command is no part of memory or arrays. -/
@[simp] theorem markDone_mem (b d : Dev) (v : Nat) (i : Issued) : (markDone b d v i).mem = d.mem :=
  noteOver_keepsPart Dev.mem modStrm_mem d _
theorem markDone_arrays (b d : Dev) (v : Nat) (i : Issued) :
    (coreOf (markDone b d v i) v).arrays = (coreOf d v).arrays := by
  rw [markDone, coreOf_modCore_same]
  exact noteOver_keepsPart (fun e => (coreOf e v).arrays) (fun e x f => modStrm_arrays e x f v) d _

/-- A command that leaves memory acts on the device as it sees it, and every byte stays as it is. -/
theorem raced_of_mem_kept {d : Dev} {f : Dev → Dev} (hf : ∀ e, (f e).mem = e.mem) : raced d f = { f (seen d) with mem := d.mem } := by
  unfold raced
  dsimp only
  split
  · next h => rw [seen_calm d (List.isEmpty_iff.mp h), ← hf d]
  · rw [if_pos (hf _)]

/-- Effects that agree wherever the cores are as they are have one outcome. -/
theorem raced_congr {d : Dev} {f g : Dev → Dev} (h : ∀ e, e.cores = d.cores → f e = g e) : raced d f = raced d g := by
  unfold raced
  dsimp only
  rw [h d rfl, h (seen d) (seen_cores d)]

/-- The memory and the arrays after the turn of a command that leaves memory. -/
theorem turn_of_mem_kept {d : Dev} {f : Dev → Dev} (v : Nat) (i : Issued) (hf : ∀ e, (f e).mem = e.mem) :
    (markDone d (raced d f) v i).mem = d.mem ∧
    ∀ b, arrOf (coreOf (markDone d (raced d f) v i) v) b = arrOf (coreOf (f (seen d)) v) b := by
  rw [raced_of_mem_kept hf]
  exact ⟨markDone_mem _ _ _ _, fun b => arrOf_of_arrays (markDone_arrays _ _ _ _) b⟩

/-! ### The two commands -/

section
variable {d : Dev} {v a : Nat} {i : Issued}

theorem execArrayCmd_wload (h : cwOpc i.word.toNat = 0x23) : execArrayCmd d v a i = execLoad d v a i.word.toNat i.ops := by
  simp [execArrayCmd, h]
theorem execArrayCmd_wswap (h : cwOpc i.word.toNat = 0x24) :
    execArrayCmd d v a i = modCore d v (fun c => modArr c a swapTiles) := by
  simp [execArrayCmd, h]

/-- Such a command is ready when its turn has come. -/
theorem arrayReady_of_opc (hm : cwMma i.word.toNat = false) (hd : cwOpc i.word.toNat ≠ 0x25) : arrayReady d v a i = true := by
  simp [arrayReady, hm, hd]

/-- What a WLOAD makes of its array: the shadow slots and their format, and nothing when K or N is zero (R109, R110). -/
def loadShadow (d : Dev) (v w : Nat) (o : Opnds) (s : ArrayState) : ArrayState :=
  if aK w = 0 ∨ aN w = 0 then s
  else { s with shadow := wloadTile d v { operX w o with cols := aN w } (aK w) (aN w), shadowFmt := fmtD (aXF w) }

theorem arrOf_execLoad (w : Nat) (o : Opnds) (b : Nat) : arrOf (coreOf (execLoad d v a w o) v) b =
    if b = a then loadShadow d v w o (arrOf (coreOf d v) a) else arrOf (coreOf d v) b := by
  by_cases hlive : aK w = 0 ∨ aN w = 0
  · simp +contextual [execLoad, loadShadow, hlive]
  · obtain ⟨hk, hn⟩ := not_or.mp hlive
    by_cases hb : b = a
    · subst hb
      simp [execLoad, loadShadow, hk, hn, operX]
    · simp [execLoad, hk, hn, hb, arrOf_modArr_other]
theorem execLoad_mem (w : Nat) (o : Opnds) : (execLoad d v a w o).mem = d.mem := by
  unfold execLoad; split <;> rfl
theorem arrOf_modTiles (f : ArrayState → ArrayState) (b : Nat) : arrOf (coreOf (modCore d v (fun c => modArr c a f)) v) b =
    if b = a then f (arrOf (coreOf d v) a) else arrOf (coreOf d v) b := by
  rw [coreOf_modCore_same]
  split
  · next hb => rw [hb, arrOf_modArr_same]
  · next hb => rw [arrOf_modArr_other _ _ hb]

end

/-- The turn of a command that leaves memory and makes `g` of its array: nothing else changes but what issue tracks. -/
theorem tile_turn {s : State} {v w o : Nat} {a : Answer} {g : Dev → ArrayState → ArrayState}
    (ha : a = onCore s v (fun d => attempt d v (rowOpc o))) (hr : running s v) (h : issues s.dev v w = true)
    (hq : quiet s.dev v = true) (hw : cwOpc w = o) (ho : 0x23 ≤ o ∧ o ≤ 0x24)
    (hmem : ∀ e, (execArrayCmd e v (bits w 8 3) (arrEntry s.dev v w)).mem = e.mem)
    (hg : ∀ e b, arrOf (coreOf (execArrayCmd e v (bits w 8 3) (arrEntry s.dev v w)) v) b =
      if b = bits w 8 3 then g e (arrOf (coreOf e v) (bits w 8 3)) else arrOf (coreOf e v) b) :
    ∃ t, a = .next t ∧ t.dev.mem = s.dev.mem ∧
      (∀ b, b ≠ bits w 8 3 → arrOf (coreOf t.dev v) b = arrOf (coreOf s.dev v) b) ∧
      ∃ tl ts tp un, arrOf (coreOf t.dev v) (bits w 8 3) = g (seen (issueCmd s.dev v w))
        { arrOf (coreOf s.dev v) (bits w 8 3) with tLive := tl, tShadow := ts, tPend := tp, unpaired := un } := by
  have harr : cwArray w = true := by simp [cwArray, hw]; omega
  have hready : arrayReady (issueCmd s.dev v w) v (bits w 8 3) (arrEntry s.dev v w) = true := by
    refine arrayReady_of_opc ?_ ?_ <;> rw [arrEntry_word h]
    · simp [cwMma, hw]; omega
    · omega
  obtain ⟨hkept, heff⟩ := turn_of_mem_kept v (arrEntry s.dev v w) hmem (d := issueCmd s.dev v w)
  have hseen := coreOf_of_cores (seen_cores (issueCmd s.dev v w)) v
  obtain ⟨tl, ts, tp, un, hsame⟩ := arrOf_issueCmd_same (d := s.dev) (v := v) harr
  refine ⟨_, arr_turn ha hr h hq hw (by omega) hready, hkept.trans (issueCmd_mem harr), fun b hb => ?_, tl, ts, tp, un, ?_⟩
  · rw [heff, hg, if_neg hb, hseen, arrOf_issueCmd_other harr hb]
  · rw [heff, hg, if_pos rfl, hseen, hsame]

/-! ### The tile of a WLOAD (R104, R105, R109) -/

/-- Element j of position (r, c) of a weight tile with its scale code. -/
def tileElem (d : Dev) (v : Nat) (o : Operand) (r c j : Nat) : WElem :=
  { code := slotElem d v o (slotLeft o.fmt) r c j, scale := operandScale d v o (packOf o.fmt * r + j) c }

/-- A tile lists the elements below K and N that are not +0 with scale code 0x7F. -/
theorem mem_wloadTile {d : Dev} {v : Nat} {o : Operand} {k n : Nat} {x : Nat × WElem} :
    x ∈ wloadTile d v o k n ↔ ∃ r < 64, ∃ c < 64, ∃ j < packOf o.fmt, (packOf o.fmt * r + j < k ∧ c < n) ∧
      tileElem d v o r c j ≠ {} ∧ (cellKey r c j, tileElem d v o r c j) = x := by
  simp only [wloadTile, List.mem_flatMap, List.mem_filterMap, List.mem_range, tileElem, Bool.and_eq_true, decide_eq_true_eq,
    Option.ite_none_right_eq_some, Option.ite_none_left_eq_some, Option.some.injEq, ne_eq]

theorem packOf_le (f : Fmt) : packOf f ≤ 4 := by cases f <;> decide

theorem cellKey_inj {r c j r' c' j' : Nat} (hc : c < 64) (hc' : c' < 64) (hj : j < 4) (hj' : j' < 4)
    (h : cellKey r c j = cellKey r' c' j') : r = r' ∧ c = c' ∧ j = j' := by
  simp only [cellKey] at h
  omega

/-- A table whose entries under a key have one value, which the table may leave out when it is the default, reads as that value. -/
theorem mapGet_of_unique {α : Type} {z x : α} {m : NMap α} {k : Nat} (huniq : ∀ y, (k, y) ∈ m → y = x)
    (hlisted : x = z ∨ (k, x) ∈ m) : mapGet z m k = x := by
  induction m with
  | nil => simpa [mapGet, mapGet?, eq_comm] using hlisted
  | cons p m ih =>
    obtain ⟨a, y⟩ := p
    by_cases hak : a = k
    · subst hak
      simpa [mapGet, mapGet?] using huniq y (List.mem_cons_self ..)
    · have hrest := ih (fun y hy => huniq y (List.mem_cons_of_mem _ hy)) (hlisted.imp_right fun h => by
        simpa [Ne.symm hak] using h)
      simpa [mapGet, mapGet?, hak] using hrest

/-- What a position of the tile holds. -/
theorem mapGet_wloadTile (d : Dev) (v : Nat) (o : Operand) (k n : Nat) {r c j : Nat} (hr : r < 64) (hc : c < 64)
    (hj : j < packOf o.fmt) : mapGet {} (wloadTile d v o k n) (cellKey r c j) =
      if packOf o.fmt * r + j < k ∧ c < n then tileElem d v o r c j else {} := by
  have hp := packOf_le o.fmt
  refine mapGet_of_unique (fun y hy => ?_) ?_
  · obtain ⟨r', -, c', hc', j', hj', hin, -, hx⟩ := mem_wloadTile.mp hy
    obtain ⟨hkey, rfl⟩ := Prod.mk.inj hx
    obtain ⟨rfl, rfl, rfl⟩ := cellKey_inj hc' hc (by omega) (by omega) hkey
    rw [if_pos hin]
  · split
    · next hin => exact or_iff_not_imp_left.mpr fun hne => mem_wloadTile.mpr ⟨r, hr, c, hc, j, hj, hin, hne, rfl⟩
    · exact .inl rfl

/-- Settles O11: the command executes as it issues, leaves memory, and acts on the tiles of its own array alone. -/
theorem weightsLoadAndSwap : Obligations.WeightsLoadAndSwap := by
  refine ⟨fun s v w hr h hq => ⟨fun hw => ?load, fun hw => ?swap⟩,
    fun d v o k n r c j hr hc hj _ _ => mapGet_wloadTile d v o k n hr hc hj⟩
  case load =>
    have hexec : ∀ e, execArrayCmd e v (bits w 8 3) (arrEntry s.dev v w) = execLoad e v (bits w 8 3) w (arrOpnds (coreOf s.dev v) w) :=
      fun e => by rw [execArrayCmd_wload (by rw [arrEntry_word h, hw]), arrEntry_word h]; rfl
    obtain ⟨t, ht, hmem, hother, tl, ts, tp, un, hnew⟩ := tile_turn rfl hr h hq hw (by omega)
      (fun e => by rw [hexec, execLoad_mem]) (fun e b => by rw [hexec, arrOf_execLoad])
    refine ⟨t, ht, hmem, hother, ?_⟩
    rw [hnew, loadShadow]
    by_cases hlive : aK w = 0 ∨ aN w = 0
    · rw [if_pos hlive]
      exact ⟨rfl, rfl, rfl, rfl, rfl, fun _ => ⟨rfl, rfl⟩, fun hk hn => absurd hlive (by simp [hk, hn])⟩
    · rw [if_neg hlive]
      exact ⟨rfl, rfl, rfl, rfl, rfl, fun h0 => absurd h0 hlive, fun _ _ => ⟨rfl, rfl⟩⟩
  case swap =>
    have hexec : ∀ e, execArrayCmd e v (bits w 8 3) (arrEntry s.dev v w) = modCore e v (fun c => modArr c (bits w 8 3) swapTiles) :=
      fun e => execArrayCmd_wswap (by rw [arrEntry_word h, hw])
    obtain ⟨t, ht, hmem, hother, tl, ts, tp, un, hnew⟩ := tile_turn (g := fun _ => swapTiles) rfl hr h hq hw (by omega)
      (fun e => by rw [hexec]; rfl) (fun e b => by rw [hexec, arrOf_modTiles])
    refine ⟨t, ht, hmem, hother, ?_⟩
    rw [hnew]
    exact ⟨rfl, rfl, rfl, rfl, rfl, rfl, rfl⟩

end Sys2Proof.Machine
end

section
/-!
The products of MMA.F, MMA.T and MMA.O without SPLIT, FUSE and RING (R97 to R100, R111, R117): a command on its own operand, the sums
of each mode over its rows, and the turn that stores them.
-/
namespace Sys2Proof.Machine
open Sys2Proof.Safety

/-! ### Sums over the rows of an operand -/

theorem mapIdx_map_range {α β : Type} (f : Nat → α → β) (g : Nat → α) (m : Nat) :
    ((List.range m).map g).mapIdx f = (List.range m).map (fun i => f i (g i)) := by
  apply List.ext_getElem <;> simp

@[simp] theorem leftRow_length (d : Dev) (v : Nat) (o : Operand) (width m : Nat) : (leftRow d v o width m).length = width := by
  simp [leftRow]
@[simp] theorem topRow_length (d : Dev) (v : Nat) (o : Operand) (width m : Nat) : (topRow d v o width m).length = width := by
  simp [topRow]

/-- Row m and column n of MMA.F's result: the sum of row m of the operand with weight column n (R97). -/
theorem prodF_rows {a : ArrayState} {xf : Fmt} {k n m : Nat} {start : Nat → Nat → Nat} {row : Nat → List WElem}
    (hrow : ∀ i, (row i).length = k) : prodF a xf 0 0 k n start (rowsOf row m) =
      (List.range m).map (fun i => (List.range n).map (fun c =>
        sumF xf a.liveFmt (start i c) (row i) ((List.range k).map (fun j => weight a (packOf a.liveFmt) 0 0 j c)))) := by
  simp [prodF, rowsOf, mapIdx_map_range, List.take_of_length_le (hrow _).le]
/-- Row m and column k of MMA.T's result: the sum of row m of the operand with weight row k (R98). -/
theorem prodT_rows {a : ArrayState} {yf : Fmt} {k n m : Nat} {start : Nat → Nat → Nat} {row : Nat → List WElem}
    (hrow : ∀ i, (row i).length = n) : prodT a yf 0 0 k n start (rowsOf row m) =
      (List.range m).map (fun i => (List.range k).map (fun j =>
        sumT yf a.liveFmt (start i j) (row i) ((List.range n).map (fun c => weight a (packOf a.liveFmt) 0 0 j c)))) := by
  simp [prodT, rowsOf, mapIdx_map_range, List.take_of_length_le (hrow _).le]

/-! ### A command on its own operand -/

/-- A core is no part of what an address reads. -/
theorem rdByte_modCore (d : Dev) (v : Nat) (f : Core → Core) (x : Nat) : rdByte (modCore d v f) x = rdByte d x := by
  simp only [rdByte, placeOf, protRange, copyCfg, lineOf, cxlOf, wayAddr, tierCfg, modCore_ttl, modCore_cxl, modCore_copy, modCore_mem]
theorem plainMem_modCore (d : Dev) (v : Nat) (f : Core → Core) : plainMem (modCore d v f) = plainMem d := by
  simp only [plainMem, copyCfg, cxlOf, modCore_ttl, modCore_cxl]
theorem rdBytes_modCore (d : Dev) (v : Nat) (f : Core → Core) (x n : Nat) : rdBytes (modCore d v f) x n = rdBytes d x n := by
  simp only [rdBytes, plainMem_modCore, modCore_mem, rdByte_modCore]

/-- The slots that a product uses: exchanged first under SWAP (R111). -/
def swapFirst (d : Dev) (v a w : Nat) : Dev := if aSwap w then modCore d v (fun c => modArr c a swapTiles) else d

section
variable (d : Dev) (v a w : Nat)

theorem swapFirst_eq_ite : (if aSwap w then modCore d v (fun c => modArr c a swapTiles) else d) = swapFirst d v a w := rfl

/-- The exchange moves no byte that an operand or a result holds. -/
theorem winWord_swapFirst (off : Nat) : winWord (swapFirst d v a w) v off = winWord d v off := by
  unfold swapFirst
  split
  · simp only [winWord, winRead, rdBytes_modCore]
  · rfl
theorem topRow_swapFirst (o : Operand) (width : Nat) : topRow (swapFirst d v a w) v o width = topRow d v o width := by
  unfold swapFirst
  split
  · funext m
    simp only [topRow, slotElem, operandScale, winRead, rdBytes_modCore, rdByte_modCore]
  · rfl

end

/-- A live MMA command outside a ring runs on the operand that it reads for itself. -/
theorem execArrayCmd_mma {d : Dev} {v a : Nat} {i : Issued} (hm : cwMma i.word.toNat = true) (hl : mmaLive i.word.toNat = true)
    (hring : aRing i.word.toNat = false) : execArrayCmd d v a i =
      execMmaOn d v a i.id i.word.toNat i.ops (streamRows d v i.word.toNat i.ops).1 (streamRows d v i.word.toNat i.ops).2 := by
  simp only [cwMma, Bool.and_eq_true, decide_eq_true_eq] at hm
  unfold execArrayCmd
  dsimp only
  split
  · omega
  · omega
  · omega
  · omega
  · simp [hl, hring]

/-- The command words of the statement: live extents, no SPLIT, no FUSE, no RING. -/
structure PlainMma (w : Nat) : Prop where
  m : aM w ≠ 0
  k : aK w ≠ 0
  n : aN w ≠ 0
  split : aSplit w = 0
  fuse : aFuse w = false
  ring : aRing w = false

namespace PlainMma
variable {w : Nat} (h : PlainMma w)
include h

theorem live : mmaLive w = true := by simp [mmaLive, h.m, h.k, h.n]
theorem xWidth_eq (p : Nat) : xWidth w p = aK w := by simp [xWidth, h.ring, h.split]
theorem yWidth_eq : yWidth w = aN w := by simp [yWidth, h.ring, h.split]
theorem streamRows_x (hop : cwOpc w ≠ 0x21) (d : Dev) (v : Nat) (o : Opnds) :
    streamRows d v w o = (fmtD (aXF w), rowsOf (leftRow d v (operX w o) (aK w)) (aM w)) := by
  rw [streamRows, if_neg hop, h.xWidth_eq]
theorem streamRows_y (hop : cwOpc w = 0x21) (d : Dev) (v : Nat) (o : Opnds) :
    streamRows d v w o = (fmtD (aYF w), rowsOf (topRow d v (operY w o) (aN w)) (aM w)) := by
  rw [streamRows, if_pos hop, h.yWidth_eq]
theorem deliver_eq (d : Dev) (v a id : Nat) (o : Opnds) (r : List (List Nat) × List (List Nat)) :
    deliver d v a id w o r = writeRows32 d v o.d (resultPitch w) r.1 := by
  simp [deliver, h.fuse, h.split]

section
variable {d : Dev} {v a id : Nat} {o : Opnds} {f : Fmt} {rows : List (List WElem)}

/-- After its swap, MMA.F stores its sums (R97, R111). -/
theorem execMmaOn_f (hop : cwOpc w = 0x20) : execMmaOn d v a id w o f rows =
    let e := swapFirst d v a w
    writeRows32 e v o.d (resultPitch w) (prodF (arrOf (coreOf e v) a) f 0 0 (aK w) (aN w) (startAt e v w o.d) rows) := by
  simp only [execMmaOn, h.live, hop, swapFirst_eq_ite, h.deliver_eq, mmaFResults, Bool.not_true, Bool.false_eq_true, if_false]
/-- After its swap, MMA.T stores its sums (R98, R111). -/
theorem execMmaOn_t (hop : cwOpc w = 0x21) : execMmaOn d v a id w o f rows =
    let e := swapFirst d v a w
    writeRows32 e v o.d (resultPitch w) (prodT (arrOf (coreOf e v) a) f 0 0 (aK w) (aN w) (startAt e v w o.d) rows) := by
  simp only [execMmaOn, h.live, hop, swapFirst_eq_ite, h.deliver_eq, mmaTResults, Bool.not_true, Bool.false_eq_true, if_false]
/-- After its swap, MMA.O leaves its sums in the accumulators, with the shape of the pending tile (R99, R111). -/
theorem execMmaOn_o (hop : cwOpc w = 0x22) : execMmaOn d v a id w o f rows =
    let e := swapFirst d v a w
    modCore e v (fun c => modArr c a (fun s => { s with
      acc := (prodO f (fmtD (aYF w)) 0 0 (aK w) (aN w) rows (rowsOf (topRow d v (operY w o) (aN w)) (aM w))).foldl
        (fun m e => mapPut m e.1 e.2) []
      pend := some { k := aK w, n := aN w, split := 0, pack := packOf f } })) := by
  simp only [execMmaOn, h.live, hop, swapFirst_eq_ite, mmaOResults, h.split, h.yWidth_eq, topRow_swapFirst, List.append_nil,
    Bool.not_true, Bool.false_eq_true, if_false]
  rfl

end

/-- The turn of such a command: it executes on its own operand. -/
theorem turn {s : State} {v o : Nat} {a : Answer} (ha : a = onCore s v (fun d => attempt d v (rowOpc o))) (hr : running s v)
    (hi : issues s.dev v w = true) (hq : quiet s.dev v = true) (hw : cwOpc w = o) (ho : 0x20 ≤ o ∧ o ≤ 0x22) :
    a = goes s (markDone (issueCmd s.dev v w) (raced (issueCmd s.dev v w) (fun e =>
      execMmaOn e v (bits w 8 3) (arrEntry s.dev v w).id w (arrEntry s.dev v w).ops
        (streamRows e v w (arrEntry s.dev v w).ops).1 (streamRows e v w (arrEntry s.dev v w).ops).2)) v (arrEntry s.dev v w)) := by
  have hword := arrEntry_word hi
  have hm : cwMma w = true := by simp [cwMma, hw]; omega
  have hready : arrayReady (issueCmd s.dev v w) v (bits w 8 3) (arrEntry s.dev v w) = true := by
    have hd : cwOpc w ≠ 0x25 := by omega
    simp [arrayReady, hword, h.ring, hd]
  rw [arr_turn ha hr hi hq hw (by omega) hready]
  simp only [execArrayCmd_mma (by rw [hword, hm]) (by rw [hword, h.live]) (by rw [hword, h.ring]), hword]

end PlainMma

/-- Settles O12: the command executes as it issues, on the rows of its own operand after its swap. -/
theorem productsWritten : Obligations.ProductsWritten := by
  intro s v w hr hi hq hm hk hn hsplit hfuse hring
  have h : PlainMma w := ⟨hm, hk, hn, hsplit, hfuse, hring⟩
  refine ⟨fun hw => ?f, fun hw => ?t, fun hw => ?o⟩
  case f =>
    refine (h.turn rfl hr hi hq hw (by omega)).trans ?_
    simp only [h.streamRows_x (by omega : cwOpc w ≠ 0x21), h.execMmaOn_f hw,
      prodF_rows (leftRow_length _ _ _ _), startAt, winWord_swapFirst]
    rfl
  case t =>
    refine (h.turn rfl hr hi hq hw (by omega)).trans ?_
    simp only [h.streamRows_y hw, h.execMmaOn_t hw,
      prodT_rows (topRow_length _ _ _ _), startAt, winWord_swapFirst]
    rfl
  case o =>
    refine (h.turn rfl hr hi hq hw (by omega)).trans ?_
    simp only [h.streamRows_x (by omega : cwOpc w ≠ 0x21), h.execMmaOn_o hw]
    rfl

end Sys2Proof.Machine
end

section
/-!
GB.DRAIN and GB.CLEAR (R122 to R125): what the pending tile and the accumulators are when the command's turn comes, and the turn.
-/
namespace Sys2Proof.Machine
open Sys2Proof.Safety

section
variable {d : Dev} {v a : Nat} {i : Issued}

theorem execArrayCmd_drain (h : cwOpc i.word.toNat = 0x25) : execArrayCmd d v a i = execDrain d v a i.id (aTile i.word.toNat) := by
  simp [execArrayCmd, h]
theorem execArrayCmd_clear (h : cwOpc i.word.toNat = 0x26) : execArrayCmd d v a i = execClear d v a (aM i.word.toNat) := by
  simp [execArrayCmd, h]

/-- With empty latches a command outside a ring is ready when its turn has come (R124). -/
theorem arrayReady_of_latch (hm : cwMma i.word.toNat = false) (hl : (arrOf (coreOf d v) a).latch = []) :
    arrayReady d v a i = true := by
  simp [arrayReady, hm, hl]

/-- A drain with no pending tile does nothing (R123). -/
theorem execDrain_none {id t0 : Nat} (h : (arrOf (coreOf d v) a).pend = none) : execDrain d v a id t0 = d := by
  simp only [execDrain, h]
/-- A drain captures the accumulators in the latches and adds them element by element (R122, R123). -/
theorem execDrain_some {id t0 : Nat} {t : PendTile} (h : (arrOf (coreOf d v) a).pend = some t) :
    execDrain d v a id t0 = (drainCells t).foldl (drainAdd v a id t0 t.pack (arrOf (coreOf d v) a).acc)
      (modCore d v (fun c => modArr c a (fun s => { s with latch := s.acc, acc := [], pend := none }))) := by
  simp only [execDrain, h]

/-- What a drain reads of its array is, wherever the cores are those after issue, as it was before issue. -/
theorem drainState_of_issue {w : Nat} {e : Dev} (ha : cwArray w = true) (he : e.cores = (issueCmd d v w).cores) :
    let new := arrOf (coreOf e v) (bits w 8 3)
    let old := arrOf (coreOf d v) (bits w 8 3)
    new.pend = old.pend ∧ new.acc = old.acc ∧ new.latch = old.latch := by
  obtain ⟨tl, ts, tp, un, hsame⟩ := arrOf_issueCmd_same (d := d) (v := v) ha
  dsimp only
  rw [coreOf_of_cores he, hsame]
  exact ⟨rfl, rfl, rfl⟩

end

/-- Settles O13: the command executes as it issues, on the pending tile and the accumulators that its array then holds. -/
theorem gradebookCommands : Obligations.GradebookCommands := by
  refine fun s v w hr hi hq => ⟨fun hw hlatch => ?drain, fun hw => ?clear⟩
  case drain =>
    have ha : cwArray w = true := by simp [cwArray, hw]
    have hword := arrEntry_word hi
    have hready : arrayReady (issueCmd s.dev v w) v (bits w 8 3) (arrEntry s.dev v w) = true :=
      arrayReady_of_latch (by simp [hword, cwMma, hw]) ((drainState_of_issue ha rfl).2.2.trans hlatch)
    have hturn := arr_turn rfl hr hi hq hw (by omega) hready
    simp only [execArrayCmd_drain (show cwOpc (arrEntry s.dev v w).word.toNat = 0x25 by rw [hword, hw]), hword] at hturn
    refine ⟨fun hp => ?_, fun t hp => ?_⟩
    · rw [raced_congr (g := fun e => e) (fun e he => execDrain_none ((drainState_of_issue ha he).1.trans hp))] at hturn
      exact hturn
    · have hdrain := fun e he => execDrain_some (id := (arrEntry s.dev v w).id) (t0 := aTile w)
        ((drainState_of_issue (e := e) ha he).1.trans hp)
      rw [raced_congr fun e he => by rw [hdrain e he, (drainState_of_issue ha he).2.1]] at hturn
      exact hturn
  case clear =>
    have hword := arrEntry_word hi
    have hturn := arr_turn rfl hr hi hq hw (by omega) (arrayReady_of_opc (by simp [hword, cwMma, hw]) (by rw [hword]; omega))
    simp only [execArrayCmd_clear (show cwOpc (arrEntry s.dev v w).word.toNat = 0x26 by rw [hword, hw]), hword] at hturn
    exact hturn

end Sys2Proof.Machine
end

section
/-!
Rings (R131 to R138): what a header does at the member that it reaches, and what a break leaves.
-/
namespace Sys2Proof.Machine
open Sys2Proof.Safety

/-! ### Headers -/

/-- The header that next reaches a member of a ring that is not broken: it breaks the ring when it differs from a header of the
member's own or from its ring command, and when it agrees it is taken once the command's turn has come and the link has room. -/
theorem ringHeader_effect {s : State} {ring m v a : Nat} {f : RingFlow} (hon : s.dev.rp.pwr = .on)
    (hm : (ringMembers s.dev ring)[m]? = some (v, a)) (hf : flowAt s.dev ring m = some f)
    (hb : s.dev.ttl.brokenRings.contains ring = false) :
    (∀ g, ownFlow s.dev f m = some g → ∀ cause, headerCause f g.step g.mode g.m (some g.pairing) true = some cause →
      exec (.ringHeader ring m) s = goes s (breakRing s.dev ring v a cause)) ∧
    (ownFlow s.dev f m = none → ∀ i, (coreOf s.dev v).cmds.find? (fun i => isRingCmd i a && !i.executed) = some i →
      let w := i.word.toNat
      let verdict := headerCause f i.step (cwMode w) (aM w) (pairingOf (streamFmt w)) (aHead w)
      (∀ cause, verdict = some cause → exec (.ringHeader ring m) s = goes s (breakRing s.dev ring v a cause)) ∧
      (verdict = none → nextOf (coreOf s.dev v) (.array a) = some i → ringSent s.dev v a = true →
        let flows := (s.dev.ttl.ringFlow.map (fun g =>
          if g.ring = f.ring ∧ g.step = f.step then { g with taken := m :: g.taken } else g)).filter
            (fun g => decide (g.taken.length + 1 < (ringMembers s.dev g.ring).length))
        exec (.ringHeader ring m) s = goes s (pump (markDone s.dev
          (raced { s.dev with ttl := { s.dev.ttl with ringFlow := flows } } (fun e => execMmaOn e v a i.id w i.ops f.fmt f.rows))
          v i) v)) ∧
      (verdict = none → nextOf (coreOf s.dev v) (.array a) ≠ some i ∨ ringSent s.dev v a = false →
        exec (.ringHeader ring m) s = goes s s.dev)) := by
  have hexec : exec (.ringHeader ring m) s = goes s (ringHeaderAt s.dev ring m) :=
    onClock_on s (fun d => ringHeaderAt d ring m) hon
  have hn : ¬ ring ∈ s.dev.ttl.brokenRings := by simpa using hb
  refine ⟨fun g hg cause hc => ?own, fun hown i hi => ⟨fun cause hc => ?differs, fun hc hnext hsent => ?takes, fun hc hw => ?waits⟩⟩
  case own => simp [hexec, ringHeaderAt, hm, hf, hn, hg, hc]
  case differs => simp [hexec, ringHeaderAt, hm, hf, hn, hown, hi, hc]
  case takes => simp [hexec, ringHeaderAt, hm, hf, hn, hown, hi, hc, hnext, hsent]
  case waits => simp +contextual [hexec, ringHeaderAt, hm, hf, hn, hown, hi, hc, hw]

/-! ### What an undo leaves (R137) -/

@[simp] theorem wrBytes_ttl (d : Dev) (a : Nat) (bs : List Byte) : (wrBytes d a bs).ttl = d.ttl := by
  rw [wrBytes_same d a bs]

section
variable (d : Dev) (unit : Nat → Nat) (cells : List Host.Cell)

@[simp] theorem undoUnits_cores : (undoUnits d unit cells).cores = d.cores :=
  foldl_keeps _ Dev.cores (fun e c => by split <;> simp) cells d
@[simp] theorem undoUnits_ttl : (undoUnits d unit cells).ttl = d.ttl :=
  foldl_keeps _ Dev.ttl (fun e c => by split <;> simp) cells d

end

/-- The bytes of `e` are those of `d` or among some earlier values, and stores reach memory itself in `e` as in `d`. -/
structure BytesOldOrNew (vals : Host.Cell → Prop) (d e : Dev) : Prop where
  plain : plainMem e = true
  clean : e.badWords = []
  byte : ∀ x, memByte e.mem x = memByte d.mem x ∨ vals (x, memByte e.mem x)

/-- An undo leaves each byte as it stands or gives it an earlier value. -/
theorem BytesOldOrNew.undoUnits {vals : Host.Cell → Prop} {d e : Dev} (h : BytesOldOrNew vals d e) (unit : Nat → Nat)
    {cells : List Host.Cell} (hcells : ∀ c ∈ cells, vals c) : BytesOldOrNew vals d (undoUnits e unit cells) := by
  suffices hfold : ∀ p : Host.Cell → Bool, BytesOldOrNew vals d (cells.foldl (fun x c => if p c then x else wrBytes x c.1 [c.2]) e) by
    obtain ⟨hplain, hclean, hbyte⟩ := hfold (fun c => Config.freeBit e.freeCtr (unit c.1))
    exact ⟨hplain, hclean, hbyte⟩
  refine fun p => List.foldlRecOn (motive := BytesOldOrNew vals d) cells _ h (fun b hx c hc => ?_)
  split
  · exact hx
  · rw [wrBytes_plain c.1 [c.2] hx.plain hx.clean]
    refine ⟨hx.plain, hx.clean, fun x => ?_⟩
    by_cases hxc : x = c.1
    · have hwritten := memByte_write_in b.mem c.1 [c.2] 0 Nat.one_pos
      rw [hxc]
      exact .inr (by rw [show memByte _ c.1 = c.2 from hwritten]; exact hcells c hc)
    · dsimp only
      rw [memByte_write_out _ _ _ _ (by simp; omega)]
      exact hx.byte x

/-! ### What a break does at one member (R137, R186) -/

/-- An undo of a member's ring commands: it takes back bytes that commands of the member's core have written, and of that core it
changes arrays alone. -/
theorem undoRing_cases (e : Dev) (v a : Nat) : ∃ (cells : List Host.Cell) (f : ArrayState → ArrayState),
    (∀ c ∈ cells, ∃ i ∈ (coreOf e v).cmds, c ∈ i.undo) ∧
    (undoRing e v a = undoUnits e (fun x => x / 4 * 4) cells ∨
      undoRing e v a = modCore (undoUnits e (fun x => x / 4 * 4) cells) v (fun c => modArr c a f)) := by
  refine ⟨_, _, fun c hc => ?_, (ite_eq_or_eq _ _ _).symm⟩
  obtain ⟨i, hi, hci⟩ := List.mem_flatMap.mp hc
  exact ⟨i, (List.mem_filter.mp hi).1, hci⟩

theorem coreOf_undoRing (e : Dev) (v a u : Nat) : ∃ arrs, coreOf (undoRing e v a) u = { coreOf e u with arrays := arrs } := by
  obtain ⟨cells, f, -, h | h⟩ := undoRing_cases e v a
  · exact ⟨_, by rw [h, coreOf_of_cores (undoUnits_cores _ _ _)]⟩
  · rw [h]
    by_cases hu : u = v
    · subst hu
      exact ⟨_, by rw [coreOf_modCore_same, coreOf_of_cores (undoUnits_cores _ _ _)]; rfl⟩
    · exact ⟨_, by rw [coreOf_modCore_other _ _ _ _ hu, coreOf_of_cores (undoUnits_cores _ _ _)]⟩

/-- Each command of `l` is one of `k`, but for its mark. -/
def comeFrom (l k : List Issued) : Prop := ∀ i ∈ l, ∃ j ∈ k, i.unit = j.unit ∧ i.word = j.word ∧ i.undo = j.undo
theorem comeFrom_refl (l : List Issued) : comeFrom l l := fun i hi => ⟨i, hi, rfl, rfl, rfl⟩
theorem comeFrom_trans {l k n : List Issued} (h : comeFrom l k) (h' : comeFrom k n) : comeFrom l n := by
  intro i hi
  obtain ⟨j, hj, hu, hw, hx⟩ := h i hi
  obtain ⟨q, hq, hu', hw', hx'⟩ := h' j hj
  exact ⟨q, hq, hu.trans hu', hw.trans hw', hx.trans hx'⟩
theorem isRingCmd_of_comeFrom {l k : List Issued} {a : Nat} (h : comeFrom l k) (hk : ∀ j ∈ k, isRingCmd j a = false) :
    ∀ i ∈ l, isRingCmd i a = false := by
  intro i hi
  obtain ⟨j, hj, hu, hw, -⟩ := h i hi
  rw [isRingCmd, hu, hw]
  exact hk j hj

/-- The commands that stay with a member are those of before less its ring commands. -/
theorem dropRingCmds_cmds (c : Core) (a : Nat) :
    comeFrom (dropRingCmds c a).cmds c.cmds ∧ ∀ i ∈ (dropRingCmds c a).cmds, isRingCmd i a = false := by
  unfold dropRingCmds
  dsimp only
  split
  · next h =>
    refine ⟨comeFrom_refl _, ?_⟩
    simpa [ringIds] using h
  · have hleft : comeFrom ((c.cmds.filter (fun i => !isRingCmd i a)).map (fun i =>
        if i.pair.any (fun p => (ringIds c a).contains p) then { i with executed := true } else i))
        (c.cmds.filter (fun i => !isRingCmd i a)) := by
      intro i hi
      obtain ⟨j, hj, rfl⟩ := List.mem_map.mp hi
      exact ⟨j, hj, by split <;> rfl, by split <;> rfl, by split <;> rfl⟩
    refine ⟨comeFrom_trans hleft fun j hj => ⟨j, (List.mem_filter.mp hj).1, rfl, rfl, rfl⟩,
      isRingCmd_of_comeFrom hleft fun j hj => ?_⟩
    simpa using (List.mem_filter.mp hj).2
theorem dropRingCmds_state (c : Core) (a : Nat) : (dropRingCmds c a).state = c.state ∧ (dropRingCmds c a).stop = c.stop := by
  unfold dropRingCmds
  dsimp only
  split <;> exact ⟨rfl, rfl⟩

/-- A Proctor in break has no other reason to stop issue (R190). -/
def breakAlone (c : Core) : Prop := c.state = .brk → c.stop = .issuing
/-- A core issues no command and does not stand in break. -/
def issueEnded (c : Core) : Prop := issuing c = false ∧ c.state ≠ .brk

theorem breakAlone_of_issueEnded {c : Core} (h : issueEnded c) : breakAlone c := fun hb => absurd hb h.2

/-- The Proctor of a broken ring stops issue. -/
theorem ringFault_issueEnded {c : Core} (h : breakAlone c) (w : Nat) : issueEnded (ringFault c w) := by
  unfold ringFault
  split
  · next hidle =>
    simp only [Bool.and_eq_true, bne_iff_ne] at hidle
    exact ⟨by simp [issuing, hidle.1], hidle.2⟩
  · split
    · next hstop =>
      refine ⟨by simp [issuing, hstop], fun hb => ?_⟩
      cases hstop.symm.trans (h hb)
    · exact ⟨rfl, nofun⟩
theorem ringFault_cmds (c : Core) (w : Nat) : (ringFault c w).cmds = c.cmds := by
  unfold ringFault
  split
  · rfl
  · split <;> rfl

/-- A break at the member `m`: its ring commands go with what they have written, and its Proctor stops. -/
def breakMember (e : Dev) (m : Nat × Nat) : Dev :=
  modCore (undoRing e m.1 m.2) m.1 (fun c => ringFault (dropRingCmds c m.2) ((fetchWord e m.1).getD 0))

section
variable (e : Dev) (m : Nat × Nat)

theorem breakMember_cmds (u : Nat) : comeFrom (coreOf (breakMember e m) u).cmds (coreOf e u).cmds := by
  obtain ⟨arrs, harr⟩ := coreOf_undoRing e m.1 m.2 u
  by_cases hu : u = m.1
  · subst hu
    rw [breakMember, coreOf_modCore_same, ringFault_cmds, harr]
    exact (dropRingCmds_cmds _ _).1
  · rw [breakMember, coreOf_modCore_other _ _ _ _ hu, harr]
    exact comeFrom_refl _
theorem breakMember_drops : ∀ i ∈ (coreOf (breakMember e m) m.1).cmds, isRingCmd i m.2 = false := by
  rw [breakMember, coreOf_modCore_same, ringFault_cmds]
  exact (dropRingCmds_cmds _ _).2
theorem breakMember_stops (h : breakAlone (coreOf e m.1)) : issueEnded (coreOf (breakMember e m) m.1) := by
  obtain ⟨arrs, harr⟩ := coreOf_undoRing e m.1 m.2 m.1
  rw [breakMember, coreOf_modCore_same]
  refine ringFault_issueEnded ?_ _
  rw [breakAlone, (dropRingCmds_state _ _).1, (dropRingCmds_state _ _).2, harr]
  exact h

theorem breakMember_other {u : Nat} (hu : u ≠ m.1) : ∃ arrs, coreOf (breakMember e m) u = { coreOf e u with arrays := arrs } := by
  rw [breakMember, coreOf_modCore_other _ _ _ _ hu]
  exact coreOf_undoRing e m.1 m.2 u
/-- At one member, a break takes back bytes that the member's commands have written, and else changes its core alone. -/
theorem breakMember_cases : ∃ (cells : List Host.Cell) (f : Core → Core),
    (∀ c ∈ cells, ∃ i ∈ (coreOf e m.1).cmds, c ∈ i.undo) ∧
    breakMember e m = modCore (undoUnits e (fun x => x / 4 * 4) cells) m.1 f := by
  obtain ⟨cells, f, hcells, h | h⟩ := undoRing_cases e m.1 m.2
  · exact ⟨cells, _, hcells, by rw [breakMember, h]⟩
  · exact ⟨cells, _, hcells, by rw [breakMember, h, modCore_modCore]⟩
theorem breakMember_ttl : (breakMember e m).ttl = e.ttl := by
  obtain ⟨cells, f, -, h⟩ := breakMember_cases e m
  rw [h, modCore_ttl, undoUnits_ttl]

variable {e m}

/-- What a break at one member leaves of another core's Proctor. -/
theorem breakMember_keeps_issueEnded {u : Nat} (h : issueEnded (coreOf e u)) : issueEnded (coreOf (breakMember e m) u) := by
  by_cases hu : u = m.1
  · subst hu
    exact breakMember_stops e m (breakAlone_of_issueEnded h)
  · obtain ⟨arrs, harr⟩ := breakMember_other e m hu
    rw [harr]
    exact h
theorem breakMember_keeps_breakAlone {u : Nat} (h : breakAlone (coreOf e u)) : breakAlone (coreOf (breakMember e m) u) := by
  by_cases hu : u = m.1
  · subst hu
    exact breakAlone_of_issueEnded (breakMember_stops e m h)
  · obtain ⟨arrs, harr⟩ := breakMember_other e m hu
    rw [harr]
    exact h

end

/-! ### A break (R137, R138, R186) -/

/-- After a walk through a list, what each step gives at its element and every step keeps holds at every element. -/
theorem foldl_establishes {α β : Type} {f : α → β → α} {inv : α → Prop} {p : β → α → Prop} {l : List β} {e : α}
    (hinv : ∀ e x, inv e → inv (f e x)) (hgive : ∀ e, ∀ x ∈ l, inv e → p x (f e x)) (hkeep : ∀ e x y, p x e → p x (f e y))
    (he : inv e) : ∀ x ∈ l, p x (l.foldl f e) := by
  induction l generalizing e with
  | nil => nofun
  | cons y l ih =>
    intro x hx
    rcases List.mem_cons.mp hx with rfl | hx
    · exact List.foldlRecOn (motive := p x) l f (hgive e x List.mem_cons_self he) (fun e he y _ => hkeep e x y he)
    · exact ih (fun e x hx => hgive e x (List.mem_cons_of_mem _ hx)) (hinv e y he) x hx

/-- The ring is broken, and its steps on their way are gone. -/
def markBroken (d : Dev) (r : Nat) : Dev :=
  { d with ttl := { d.ttl with
    brokenRings := r :: d.ttl.brokenRings, ringFlow := d.ttl.ringFlow.filter (fun f => f.ring != r) } }
/-- Then its members abandon their commands, one after another. -/
def breakMembers (d : Dev) (r : Nat) : Dev := (ringMembers d r).foldl breakMember (markBroken d r)

/-- A break goes through the members of the ring and logs its event. -/
theorem breakRing_of_whole {d : Dev} {r : Nat} (h : d.ttl.brokenRings.contains r = false) (v a cause : Nat) :
    breakRing d r v a cause = logEvent (breakMembers d r) 0x0402 (coreBlock d v) v (le 2 r ++ by1 v ++ by1 a ++ by1 cause) :=
  if_neg (by rw [h]; exact Bool.false_ne_true)

section
variable {d : Dev} {r : Nat}

theorem breakMembers_ttl : (breakMembers d r).ttl = (markBroken d r).ttl := foldl_keeps _ Dev.ttl breakMember_ttl _ _

/-- What holds as the ring is marked broken, and what a break at a member keeps while every command is one of before, holds at the
end. -/
theorem breakMembers_rec {p : Dev → Prop} (h0 : p (markBroken d r)) (hstep : ∀ e, ∀ m ∈ ringMembers d r,
    (∀ u, comeFrom (coreOf e u).cmds (coreOf d u).cmds) → p e → p (breakMember e m)) : p (breakMembers d r) :=
  (List.foldlRecOn (motive := fun e => (∀ u, comeFrom (coreOf e u).cmds (coreOf d u).cmds) ∧ p e)
    (b := markBroken d r) _ _ ⟨fun _ => comeFrom_refl _, h0⟩
    (fun e he m hm => ⟨fun u => comeFrom_trans (breakMember_cmds e m u) (he.1 u), hstep e m hm he.1 he.2⟩)).2

/-- No ring command of a member is left. -/
theorem breakMembers_drops : ∀ m ∈ ringMembers d r, ∀ i ∈ (coreOf (breakMembers d r) m.1).cmds, isRingCmd i m.2 = false :=
  foldl_establishes (e := markBroken d r) (inv := fun _ => True) (p := fun m e => ∀ i ∈ (coreOf e m.1).cmds, isRingCmd i m.2 = false)
    (fun _ _ _ => trivial) (fun e m _ _ => breakMember_drops e m)
    (fun e m y h => isRingCmd_of_comeFrom (breakMember_cmds e y m.1) h) trivial

/-- Every member stops, when those in break have no other reason to stop issue. -/
theorem breakMembers_stops (h : ∀ m ∈ ringMembers d r, breakAlone (coreOf d m.1)) :
    ∀ m ∈ ringMembers d r, issueEnded (coreOf (breakMembers d r) m.1) :=
  foldl_establishes (f := breakMember) (e := markBroken d r) (inv := fun e => ∀ m ∈ ringMembers d r, breakAlone (coreOf e m.1))
    (p := fun m e => issueEnded (coreOf e m.1)) (fun _ _ he m hm => breakMember_keeps_breakAlone (he m hm))
    (fun e m hm he => breakMember_stops e m (he m hm)) (fun _ m _ hs => breakMember_keeps_issueEnded (u := m.1) hs) h

/-- A value that a command of a member has overwritten. -/
def overwritten (d : Dev) (r : Nat) (c : Host.Cell) : Prop := ∃ m ∈ ringMembers d r, ∃ i ∈ (coreOf d m.1).cmds, c ∈ i.undo

/-- What a break takes back at a member is what commands of before have overwritten. -/
theorem overwritten_of_cells {e : Dev} {m : Nat × Nat} (hm : m ∈ ringMembers d r)
    (hfrom : ∀ u, comeFrom (coreOf e u).cmds (coreOf d u).cmds) {cells : List Host.Cell}
    (hcells : ∀ c ∈ cells, ∃ i ∈ (coreOf e m.1).cmds, c ∈ i.undo) : ∀ c ∈ cells, overwritten d r c := by
  intro c hc
  obtain ⟨i, hi, hci⟩ := hcells c hc
  obtain ⟨j, hj, -, -, hundo⟩ := hfrom m.1 i hi
  exact ⟨m, hm, j, hj, hundo ▸ hci⟩

/-- With nothing overwritten, memory stays. -/
theorem breakMembers_mem (h : ∀ c, ¬ overwritten d r c) : (breakMembers d r).mem = d.mem := by
  refine breakMembers_rec (p := fun e => e.mem = d.mem) rfl (fun e m hm hfrom he => ?_)
  obtain ⟨cells, f, hcells, heq⟩ := breakMember_cases e m
  have hnone : cells = [] :=
    List.eq_nil_iff_forall_not_mem.mpr fun c hc => h c (overwritten_of_cells hm hfrom hcells c hc)
  rw [heq, hnone]
  exact he

/-- Each byte stays as it is or takes a value that a command of a member has overwritten. -/
theorem breakMembers_bytesOldOrNew (hp : plainMem d = true) (hb : d.badWords = []) :
    BytesOldOrNew (overwritten d r) d (breakMembers d r) := by
  refine breakMembers_rec ⟨hp, hb, fun x => .inl rfl⟩ (fun e m hm hfrom he => ?_)
  obtain ⟨cells, f, hcells, heq⟩ := breakMember_cases e m
  obtain ⟨hplain, hclean, hbyte⟩ := he.undoUnits (fun x => x / 4 * 4) (overwritten_of_cells hm hfrom hcells)
  rw [heq]
  exact ⟨hplain, hclean, hbyte⟩

end

theorem logEvent_head (d : Dev) (code src arg : Nat) (data : List Byte) :
    (logEvent d code src arg data).reg.log.head?.map (fun x => (x.code, x.data)) = some (BitVec.ofNat 16 code, slice data 0 12) := by
  unfold logEvent
  simp

/-- What a break leaves, when no member in break has another reason to stop issue: the ring broken, its commands gone, its members
stopped, the event logged, and each byte as it is or as it was. -/
theorem breakRing_effect {d : Dev} {r : Nat} (v a cause : Nat) (h : d.ttl.brokenRings.contains r = false)
    (hbrk : ∀ m ∈ ringMembers d r, breakAlone (coreOf d m.1)) :
    let e := breakRing d r v a cause
    e.ttl.brokenRings = r :: d.ttl.brokenRings ∧ (∀ f ∈ e.ttl.ringFlow, f.ring ≠ r) ∧
    (∀ m ∈ ringMembers d r, (∀ i ∈ (coreOf e m.1).cmds, isRingCmd i m.2 = false) ∧ issueEnded (coreOf e m.1)) ∧
    e.reg.log.head?.map (fun x => (x.code, x.data)) =
      some (0x0402, slice (leBytes 2 r ++ leBytes 1 v ++ leBytes 1 a ++ leBytes 1 cause) 0 12) ∧
    ((∀ c, ¬ overwritten d r c) → e.mem = d.mem) ∧
    (plainMem d = true → d.badWords = [] → ∀ x, memByte e.mem x = memByte d.mem x ∨ overwritten d r (x, memByte e.mem x)) := by
  intro e
  have he : e = _ := breakRing_of_whole h v a cause
  have hcore : ∀ u, coreOf e u = coreOf (breakMembers d r) u := fun u => coreOf_of_cores (by rw [he, logEvent_cores]) u
  have hmem : e.mem = (breakMembers d r).mem := by rw [he, logEvent_mem]
  have httl : e.ttl = (markBroken d r).ttl := by rw [he, logEvent_ttl, breakMembers_ttl]
  refine ⟨by rw [httl]; rfl, fun f hf => ?_, fun m hm => ?_, by rw [he]; exact logEvent_head _ _ _ _ _,
    fun hnone => ?_, fun hp hb => ?_⟩
  · rw [httl] at hf
    simpa using (List.mem_filter.mp hf).2
  · rw [hcore]
    exact ⟨breakMembers_drops m hm, breakMembers_stops hbrk m hm⟩
  · rw [hmem, breakMembers_mem hnone]
  · rw [hmem]
    exact (breakMembers_bytesOldOrNew hp hb).byte

/-- Ring 0 has one member, array 0 of core 0, whose Proctor stands in break and has also met a fault. -/
def faultedBreak : Dev :=
  { ttl := { active := some { digest := 0, devices := 1, rings := [[(0, 0)]] } }
    cores := [(0, { state := .brk, stop := .fault 0 0 0 0 0 0 })] }

/-- Refutes O14: a fault already met stands when the ring breaks, and so a Proctor that stands in break with one recorded stays in
break. `breakRing_effect` has what a break leaves with this case shut out, and `ringHeader_effect` what a header does. -/
theorem not_ringCommandsTakenOrBroken : ¬ Obligations.RingCommandsTakenOrBroken := by
  rintro ⟨-, hbreak⟩
  obtain ⟨-, hmembers⟩ := hbreak faultedBreak 0 0 0 1
  obtain ⟨-, -, hstop, -⟩ := hmembers rfl
  obtain ⟨-, -, hleft⟩ := hstop 0 0 (List.mem_singleton.mpr rfl)
  exact hleft (by decide +kernel)

end Sys2Proof.Machine
end

section
/-!
The commands that the Proctor executes itself (R157, R162, R167 to R172, R189): what holds a command back, how the address registers
advance, and the issue of each command, case by case of its opcode.
-/
namespace Sys2Proof.Machine
open Sys2Proof.Safety

/-! ### What holds a command back (R179, R186, R190) -/

section
variable {d : Dev} {v w : Nat} {row : Nat → Bool}

theorem attempt_of_not_issuing (h : issuing (coreOf d v) = false) : attempt d v row = d := by
  simp [attempt, h]
theorem attempt_of_other_row (h : issuing (coreOf d v) = true) (hf : fetchWord d v = some w) (hr : row w = false) :
    attempt d v row = d := by
  simp [attempt, h, hf, hr]
/-- A comparator comes before every check. -/
theorem attempt_of_cmpHit {n : Nat} (h : issuing (coreOf d v) = true) (hf : fetchWord d v = some w) (hr : row w = true)
    (hc : cmpHit (coreOf d v) w = some n) : attempt d v row = modCore d v (fun c => { c with stop := .brk n }) := by
  simp [attempt, h, hf, hr, hc, modCore]
theorem attempt_of_malformed {cause detail : Nat} (h : issuing (coreOf d v) = true) (hf : fetchWord d v = some w)
    (hr : row w = true) (hc : cmpHit (coreOf d v) w = none) (hm : malformed d v w = some (cause, detail)) :
    attempt d v row = modCore d v (fun c => stopFault c cause detail w) := by
  simp [attempt, h, hf, hr, hc, hm, modCore]
theorem attempt_of_unmet (h : issuing (coreOf d v) = true) (hf : fetchWord d v = some w) (hr : row w = true)
    (hc : cmpHit (coreOf d v) w = none) (hm : malformed d v w = none) (hu : (unmet d v w).isSome = true) :
    attempt d v row = d := by
  simp [attempt, h, hf, hr, hc, hm, hu]

end

theorem pumpArray_of_empty {d : Dev} {v a : Nat} (h : nextOf (coreOf d v) (.array a) = none) (n : Nat) : pumpArray n d v a = d := by
  cases n with
  | zero => rfl
  | succ n => simp [pumpArray, h]
theorem pumpVec_of_empty {d : Dev} {v : Nat} (h : nextOf (coreOf d v) .vec = none) (n : Nat) : pumpVec n d v = d := by
  cases n with
  | zero => rfl
  | succ n => simp [pumpVec, h]

/-- Queues in which nothing waits have no work. -/
theorem pump_of_quiet {d : Dev} {v : Nat} (h : quiet d v = true) : pump d v = d := by
  simp only [quiet, Bool.and_eq_true, List.all_eq_true, List.mem_range, Option.isNone_iff_eq_none] at h
  obtain ⟨harrays, hvec⟩ := h
  have hfold : (List.range 4).foldl (fun e a => pumpArray ((coreOf d v).cmds.length + 1) e v a) d = d :=
    List.foldlRecOn (motive := (· = d)) _ _ rfl fun e he a ha => by
      rw [he, pumpArray_of_empty (harrays a (List.mem_range.mp ha))]
  simp only [pump, hfold]
  exact pumpVec_of_empty hvec _

/-- Settles O7: the branches of `attempt` in the order of R179, and queues without work. -/
theorem commandHeldBack : Obligations.CommandHeldBack := by
  refine ⟨fun d v w row => ⟨attempt_of_not_issuing, fun h hf => ⟨attempt_of_other_row h hf, fun hr _ => attempt_of_cmpHit h hf hr,
    fun hr hc => ⟨fun _ _ => attempt_of_malformed h hf hr hc, attempt_of_unmet h hf hr hc⟩⟩⟩, fun d v => pump_of_quiet⟩

/-! ### The address registers (R157, R168) -/

theorem nodup_eraseDups {α : Type} [DecidableEq α] : ∀ l : List α, l.eraseDups.Nodup
  | [] => List.nodup_nil
  | a :: l => by
    rw [List.eraseDups_cons, List.nodup_cons]
    exact ⟨by simp, nodup_eraseDups _⟩
termination_by l => l.length
decreasing_by exact Nat.lt_succ_of_le (List.length_filter_le _ _)

/-- The registers that a command advances are each named once. -/
theorem incRegs_nodup (w : Nat) : (incRegs w).Nodup := nodup_eraseDups _

/-- A register after its stride has been added. -/
def bumped (r : AReg) : AReg := { r with base := addBase r.base r.stride.toInt }

theorem aregOf_bump (c : Core) (m n : Nat) : aregOf (bump c m) n = if n = m then bumped (aregOf c n) else aregOf c n := by
  split
  · next h => subst h; simp [bump, aregOf, bumped]
  · next h => simp [bump, aregOf, mapGet_mapPut_other _ _ _ _ _ h]

/-- Of registers named once each, every one advances once. -/
theorem aregOf_foldl_bump {l : List Nat} (hl : l.Nodup) (c : Core) (n : Nat) :
    aregOf (l.foldl bump c) n = if n ∈ l then bumped (aregOf c n) else aregOf c n := by
  induction l generalizing c with
  | nil => rfl
  | cons m l ih =>
    obtain ⟨hm, hl⟩ := List.nodup_cons.mp hl
    rw [List.foldl_cons, ih hl, aregOf_bump]
    by_cases hn : n = m
    · subst hn; simp [hm]
    · simp [hn]

theorem aregOf_advance (c : Core) (w n : Nat) :
    aregOf (advance c w) n = if n ∈ incRegs w then bumped (aregOf c n) else aregOf c n :=
  aregOf_foldl_bump (incRegs_nodup w) c n

/-- Registers apart, the advance touches PRC_PC, the issue counter and the pass of RESUME. -/
theorem advance_eq (c : Core) (w : Nat) :
    advance c w = { c with areg := (advance c w).areg, pc := c.pc + 16, issue := c.issue + 1, passBreak := false } := by
  have hbump : ∀ l : List Nat, l.foldl bump c = { c with areg := (l.foldl bump c).areg } := fun l =>
    List.foldlRecOn (motive := fun e => e = { c with areg := e.areg }) l bump rfl fun e he n _ => by
      rw [bump, he]
  simp only [advance]
  rw [hbump]

/-! ### The commands that the Proctor executes itself -/

/-- An opcode whose command names no operand reference (R161). -/
theorem oprFields_of_opc {w o : Nat} (hw : cwOpc w = o) (ho : o ∉ [0x06, 0x0A, 0x0B, 0x10]) : oprFields w = [] := by
  simp only [List.mem_cons, List.not_mem_nil, or_false, not_or] at ho
  obtain ⟨hsetl, hring, hwait, hgo⟩ := ho
  unfold oprFields
  split
  · omega
  · omega
  · omega
  · omega
  · rfl

/-- The command of a row below 0x20 issues and leaves the device `e`, on which the queues then work. -/
theorem low_issues {s : State} {v w o : Nat} {a : Answer} {e : Dev} (ha : a = onCore s v (fun d => attempt d v (rowOpc o)))
    (hr : running s v) (h : issues s.dev v w = true) (hw : cwOpc w = o) (ho : o < 0x20) (he : issueCmd s.dev v w = e) :
    a = goes s (pump e v) :=
  he ▸ row_issues s v w a _ ha hr h (rowOpc_low hw ho)

/-- A command without operands that changes its core by `f` as it issues. -/
theorem plain_issues {s : State} {v w o : Nat} {a : Answer} {f : Core → Core}
    (ha : a = onCore s v (fun d => attempt d v (rowOpc o))) (hr : running s v) (h : issues s.dev v w = true) (hw : cwOpc w = o)
    (ho : o < 0x20) (hopr : oprFields w = []) (hf : issueCmd s.dev v w = modCore s.dev v (fun c => advance (f c) w)) :
    a = goes s (pump (modCore s.dev v (fun c =>
      { f c with pc := (f c).pc + 16, issue := (f c).issue + 1, passBreak := false })) v) := by
  simp only [low_issues ha hr h hw ho hf, advance_plain _ w (cwArray_low hw ho) (cwVector_low hw ho) hopr]

/-- The same for a command of `issueControl`. -/
theorem control_issues {s : State} {v w o : Nat} {a : Answer} {f : Core → Core}
    (ha : a = onCore s v (fun d => attempt d v (rowOpc o))) (hr : running s v) (h : issues s.dev v w = true) (hw : cwOpc w = o)
    (ho : o = 0x04 ∨ o = 0x05 ∨ o = 0x07 ∨ o = 0x08 ∨ o = 0x09 ∨ o = 0x11) (hf : ∀ c, issueControl c w = f c) :
    a = goes s (pump (modCore s.dev v (fun c =>
      { f c with pc := (f c).pc + 16, issue := (f c).issue + 1, passBreak := false })) v) := by
  have hlow : o < 0x20 := by omega
  refine plain_issues ha hr h hw hlow (oprFields_of_opc hw ?_) ?_
  · simp; omega
  · simp only [issueCmd_control s.dev v w (cwArray_low hw hlow) (cwVector_low hw hlow) (by rwa [hw]), hf]

theorem issueControl_seta {w : Nat} (h : cwOpc w = 0x04) (c : Core) : issueControl c w =
    { c with areg := mapPut c.areg (bits w 32 4)
               { base := if bits w 36 2 = 2 then (aregOf c (bits w 32 4)).base else BitVec.ofNat 48 (bits w 38 48),
                 stride := if bits w 36 2 = 1 then (aregOf c (bits w 32 4)).stride else BitVec.ofNat 24 (bits w 86 24) } } := by
  simp only [issueControl, h]
  split_ifs <;> rfl
theorem issueControl_adda {w : Nat} (h : cwOpc w = 0x05) (c : Core) : issueControl c w =
    { c with areg := mapPut c.areg (bits w 32 4)
               { aregOf c (bits w 32 4) with base := (aregOf c (bits w 32 4)).base + BitVec.ofNat 48 (bits w 36 48) } } := by
  simp only [issueControl, h]
theorem issueControl_cmp {w : Nat} (h : cwOpc w = 0x07) (c : Core) : issueControl c w =
    { c with cmpr := mapPut c.cmpr (bits w 32 3)
               { mode := BitVec.ofNat 2 (bits w 35 2), ctag := BitVec.ofNat 8 (bits w 37 8),
                 cval := BitVec.ofNat 48 (bits w 45 48) } } := by
  simp only [issueControl, h]
theorem issueControl_tag {w : Nat} (h : cwOpc w = 0x08) (c : Core) : issueControl c w = c := by
  simp only [issueControl, h]

/-- Settles O3: SETA and ADDA change their register and issue, and each register that a command names advances once. -/
theorem addressRegisters : Obligations.AddressRegisters := by
  refine ⟨fun s v w hr h => ⟨fun hw => (control_issues rfl hr h hw (by omega) (issueControl_seta hw)).trans rfl,
    fun hw => (control_issues rfl hr h hw (by omega) (issueControl_adda hw)).trans rfl⟩, fun c w n => ⟨aregOf_advance c w n, ?_⟩⟩
  rw [advance_eq]
  exact ⟨rfl, rfl, rfl, rfl, rfl, rfl, rfl⟩

/-! ### Loops (R171, R172) -/

theorem issueCmd_loop {w : Nat} (h : cwOpc w = 0x02) (d : Dev) (v : Nat) : issueCmd d v w = modCore d v (fun c => issueLoop c w) := by
  simp [issueCmd, h]
theorem issueCmd_endloop {w : Nat} (h : cwOpc w = 0x03) (d : Dev) (v : Nat) : issueCmd d v w = modCore d v issueEndloop := by
  simp [issueCmd, h]
theorem issueCmd_setl {w : Nat} (h : cwOpc w = 0x06) (d : Dev) (v : Nat) :
    issueCmd d v w = modCore (issueSetl d v w) v (fun c => advance c w) := by
  simp [issueCmd, h, cwArray_low h, cwVector_low h]
theorem modCore_congr {d : Dev} {v : Nat} {f g : Core → Core} (h : f (coreOf d v) = g (coreOf d v)) : modCore d v f = modCore d v g := by
  rw [modCore, modCore, h]

/-- Settles O4: CMP and TAG as the other commands without operands, the loop commands by the core that each leaves. -/
theorem loopsComparatorsAndTags : Obligations.LoopsComparatorsAndTags := by
  refine ⟨fun s v w hr h => ⟨fun hw => (control_issues rfl hr h hw (by omega) (issueControl_cmp hw)).trans rfl,
    fun hw => (control_issues rfl hr h hw (by omega) (issueControl_tag hw)).trans rfl⟩,
    fun s v w hr h => ⟨fun hw => ?loop, fun hw l r hl => ?endloop, fun hw hi => ?immediate, fun hw hi => ?word⟩⟩
  case loop => exact low_issues rfl hr h hw (by omega) (issueCmd_loop hw s.dev v)
  case endloop =>
    refine low_issues rfl hr h hw (by omega) ((issueCmd_endloop hw s.dev v).trans (modCore_congr ?_))
    simp only [issueEndloop, hl]
  case immediate =>
    exact (plain_issues rfl hr h hw (by omega) (by simp [oprFields, hw, hi])
      ((issueCmd_setl hw s.dev v).trans (by rw [issueSetl, modCore_modCore]))).trans (by simp [hi])
  case word =>
    refine low_issues rfl hr h hw (by omega) ((issueCmd_setl hw s.dev v).trans ?_)
    rw [issueSetl, modCore_modCore]
    refine modCore_congr ?_
    simp [hi, winWord, winRead, opndsOf, cwArray_low hw, cwVector_low hw, ctlSpan, hw, lOpr]

end Sys2Proof.Machine
end

section
/-!
The commands that wait or queue (R164 to R167, R177, R194, R204, R232): what each leaves in its core's queues as it issues, and a wait
that the statement of its effect leaves short.
-/
namespace Sys2Proof.Machine
open Sys2Proof.Safety

/-! ### HALT, STRM.GO, STRM.FENCE and BELL.RING -/

/-- The entry with which a control, Bell or stream command stays in a queue until it completes (R162). -/
def ctlEntry (d : Dev) (v w : Nat) (u : CUnit) : Issued :=
  { id := (coreOf d v).issue.toNat, word := BitVec.ofNat 128 w, unit := u, ops := opndsOf d v w,
    regions := if holdsRegions w then regionsOf d v w (opndsOf d v w) else [] }

theorem putFlight_eq (d : Dev) (v w : Nat) (u : CUnit) :
    putFlight d v w u id = modCore d v (fun c => { c with cmds := c.cmds ++ [ctlEntry d v w u] }) := rfl

section
variable {w : Nat} (d : Dev) (v : Nat)

theorem issueCmd_halt (h : cwOpc w = 0x01) : issueCmd d v w = modCore d v (fun c => advance (issueHalt c w) w) := by
  simp [issueCmd, h, cwArray_low h, cwVector_low h]
theorem issueCmd_go (h : cwOpc w = 0x10) : issueCmd d v w = modCore (issueGo d v w) v (fun c => advance c w) := by
  simp [issueCmd, h, cwArray_low h, cwVector_low h]
theorem issueCmd_fence (h : cwOpc w = 0x12) : issueCmd d v w = modCore (putFlight d v w .strm id) v (fun c => advance c w) := by
  simp [issueCmd, h, cwArray_low h, cwVector_low h]
theorem issueCmd_ring (h : cwOpc w = 0x0A) : issueCmd d v w = modCore (issueRing d v w) v (fun c => advance c w) := by
  simp [issueCmd, h, cwArray_low h, cwVector_low h]

/-- The relocation base of STRM.GO (R204). -/
theorem opndsOf_base {o : Nat} (h : cwOpc w = o) (ho : o < 0x20) :
    (opndsOf d v w).base = if bit w 77 then (aregOf (coreOf d v) (bits w 73 4)).base else 0 := by
  simp [opndsOf, cwArray_low h ho, cwVector_low h ho]
theorem opndsOf_ring (h : cwOpc w = 0x0A) : (opndsOf d v w).x = oprValue (coreOf d v) (bits w 45 20) := by
  simp [opndsOf, cwArray_low h, cwVector_low h, ctlSpan, h, bVal]

theorem holdsRegions_go (h : cwOpc w = 0x10) : holdsRegions w = true := by simp [holdsRegions, h]
theorem holdsRegions_fence (h : cwOpc w = 0x12) : holdsRegions w = false := by
  simp [holdsRegions, h, cwArray_low h, cwVector_low h]
theorem holdsRegions_ring (h : cwOpc w = 0x0A) : holdsRegions w = bit w 65 := by
  simp [holdsRegions, h, cwArray_low h, cwVector_low h]

end

/-- Settles O6: HALT changes its core alone; the others join their queue, and the registers that they name advance. -/
theorem queueingControlCommands : Obligations.QueueingControlCommands := by
  intro s v w hr h rs entry
  refine ⟨fun hw => ?halt, fun hw => ?go, fun hw => ?fence, fun hw => ?ring⟩
  case halt =>
    exact (plain_issues rfl hr h hw (by omega) (oprFields_of_opc hw (by decide)) (issueCmd_halt s.dev v hw)).trans rfl
  case go =>
    have hentry : ctlEntry s.dev v w .strm = entry := by simp [ctlEntry, entry, rs, holdsRegions_go hw, hw]
    refine low_issues rfl hr h hw (by omega) ((issueCmd_go s.dev v hw).trans ?_)
    rw [issueGo, putFlight_eq, hentry, modCore_modCore, modCore_modCore, opndsOf_base s.dev v hw (by omega)]
    exact modCore_congr rfl
  case fence =>
    have hentry : ctlEntry s.dev v w .strm = entry := by simp [ctlEntry, entry, holdsRegions_fence hw, hw]
    refine low_issues rfl hr h hw (by omega) ((issueCmd_fence s.dev v hw).trans ?_)
    rw [putFlight_eq, hentry, modCore_modCore]
  case ring =>
    have hentry : ctlEntry s.dev v w .bell = { entry with unit := .bell, regions := if bit w 65 then rs else [] } := by
      simp [ctlEntry, entry, rs, holdsRegions_ring hw]
    refine low_issues rfl hr h hw (by omega) ((issueCmd_ring s.dev v hw).trans ?_)
    rw [issueRing, putFlight_eq, hentry, opndsOf_ring s.dev v hw]
    rfl

/-! ### STRM.WAIT -/

/-- What a STRM.WAIT takes off its event counter; when it leaves zero with no list of that counter running, it covers what those
lists have written, and no command reads it any more as it was before (R163, R164). -/
def waitTaken (c : Core) (w : Nat) : Core :=
  let e := bits w 32 3
  let left := mapGet 0 c.ereg e - BitVec.ofNat 32 (bits w 35 16)
  { c with
    ereg := mapPut c.ereg e left
    strm := if left == 0 && !(c.strm.lists.any (fun l => l.evt == e)) then
        { c.strm with stale := c.strm.stale.filter (fun s => s.1 != e) } else c.strm }

theorem issueControl_strmWait {w : Nat} (h : cwOpc w = 0x11) (c : Core) : issueControl c w = waitTaken c w := by
  simp only [issueControl, h]
  rfl

theorem issues_iff {d : Dev} {v w : Nat} : issues d v w = true ↔ issuing (coreOf d v) = true ∧ fetchWord d v = some w ∧
    cmpHit (coreOf d v) w = none ∧ malformed d v w = none ∧ unmet d v w = none := by
  simp [issues, and_assoc]

/-- A STRM.WAIT that issues. -/
theorem strmWait_issues {s : State} {v w : Nat} (hr : running s v) (h : issues s.dev v w = true) (hw : cwOpc w = 0x11) :
    exec (.strmWait v) s = goes s (pump (modCore s.dev v (fun c =>
      { waitTaken c w with pc := c.pc + 16, issue := c.issue + 1, passBreak := false })) v) :=
  (control_issues rfl hr h hw (by omega) (issueControl_strmWait hw)).trans rfl

/-- Core 0 stands at a STRM.WAIT of one list of E0, which has counted, and a byte that the list has written may still read as what
it held before (R163). -/
def coveringWait : State :=
  let code : List Byte := [0x11, 0x07, 0x00, 0x00, 0x08]
  { dev :=
      { mem := memCells 0 code
        cores := [(0, { state := .running, fetchBuf := [(0, code)], ereg := [(0, 1)],
                        strm := { stale := [(0, [(winBase 0 + 0x1000, 5)])] } })] }
    shadow := {} }
/-- Its command word. -/
def coveringWord : Nat := 0x0800000711

theorem coveringWait_running : running coveringWait 0 := ⟨rfl, by decide⟩
theorem coveringWait_issues : issues coveringWait.dev 0 coveringWord = true := by decide +kernel

/-- Refutes O5: the wait covers what its lists have written (`waitTaken`), where the statement has the streams of the core stay. -/
theorem not_waitCommands : ¬ Obligations.WaitCommands := by
  rintro ⟨hwaits, -⟩
  obtain ⟨hon, hword, hcmp, hform, -⟩ := issues_iff.mp coveringWait_issues
  obtain ⟨-, hclaim, -⟩ := hwaits coveringWait 0 coveringWord coveringWait_running hon hword hcmp hform
  have hmodel := strmWait_issues coveringWait_running coveringWait_issues rfl
  have hstale := congrArg (fun t : State => (coreOf t.dev 0).strm.stale)
    (Host.Outcome.next.inj (hmodel.symm.trans (hclaim rfl (by decide))))
  exact absurd hstale (by decide +kernel)

end Sys2Proof.Machine
end

section
/-!
The changes of a core's state (R148, R149, R167, R186 to R193): the rows of PRC_CTL, what follows from stopping issue, and the fetch of
a command block.
-/
namespace Sys2Proof.Machine
open Sys2Proof.Safety

/-! ### Writes of PRC_CTL -/

/-- A PRC_CTL action of a served core, out of reset and out of Detention, takes effect. -/
theorem prc_row {s : State} {v : Nat} {a : Answer} {e : Dev} (f : Dev → Dev) (ha : a = onPrc s v f) (hv : v < gridCores s.dev)
    (hs : served s) (hrel : (pacerOf s.dev (coreRegion s.dev v)).released = true) (hdet : isDetained s.dev v = false)
    (he : f s.dev = e) : a = goes s e := by
  obtain ⟨hawake, hsyll⟩ := hs
  rw [awake] at hawake
  simp [ha, onPrc, onHost, onDev, ran, goes, hawake, hv, hsyll, hrel, hdet, he]
/-- One that leaves the device does so however it is served. -/
theorem prc_row_of_eq {s : State} {v : Nat} {a : Answer} (f : Dev → Dev) (ha : a = onPrc s v f) (hawake : awake s)
    (hf : f s.dev = s.dev) : a = goes s s.dev := by
  rw [awake] at hawake
  simp [ha, onPrc, onHost, onDev, ran, goes, hawake, hf]
/-- A row of a running core takes effect. -/
theorem core_row {s : State} {v : Nat} {a : Answer} {e : Dev} (f : Dev → Dev) (ha : a = onCore s v f) (hr : running s v)
    (he : f s.dev = e) : a = goes s e := by
  rw [ha, onCore_running s v f hr, he]

/-! ### START (R148, R149) -/

theorem startable_iff {d : Dev} {v : Nat} : startable d v = true ↔ (pacerOf d (coreRegion d v)).released = true ∧
    d.ttl.active.isSome = true ∧ ((coreOf d v).state = .idle ∨ (coreOf d v).state = .halted ∨ (coreOf d v).state = .faulted) := by
  simp [startable, ttActive, and_assoc, or_assoc]

theorem hbmCap_le (d : Dev) : hbmCap d ≤ 0x4800000000 := by
  unfold hbmCap; split <;> omega
/-- The boards end below the core windows. -/
theorem boardCap_lt (d : Dev) (p : Nat) : boardCap d p < 0x40000000000 := by
  have hcap := (cxlOf d p).cap.isLt
  unfold boardCap
  dsimp only
  split <;> omega

theorem addrKind_eq_hbm_iff {d : Dev} {a : Nat} : addrKind d a = .hbm ↔ a < hbmCap d := by
  unfold addrKind
  dsimp only
  split_ifs <;> simp_all
/-- Scratchpad offsets are those of the core's window (R43). -/
theorem addrKind_eq_scratch_iff {d : Dev} {v a off : Nat} (hv : v < gridCores d) (hoff : off < 0x600000) :
    addrKind d a = .window v off ↔ a = winBase v + off := by
  have hhbm := hbmCap_le d
  have hboard0 := boardCap_lt d 0
  have hboard1 := boardCap_lt d 1
  unfold addrKind winBase boardBase inScratch inGrade
  dsimp only
  simp only [Bool.or_eq_true, Bool.and_eq_true, decide_eq_true_eq]
  split_ifs <;> simp only [false_iff, AddrKind.window.injEq] <;> omega

/-- Commands are fetched from the core's own scratchpad and from HBM (R149). -/
theorem fetchEnd_isSome_iff {d : Dev} {v a : Nat} (hv : v < gridCores d) : (fetchEnd d v a).isSome = true ↔
    (winBase v ≤ a ∧ a < winBase v + 0x600000) ∨ a < hbmCap d := by
  have hown : (winBase v ≤ a ∧ a < winBase v + 0x600000) ↔ ∃ off < 0x600000, addrKind d a = .window v off := by
    constructor
    · rintro ⟨hlo, hhi⟩
      exact ⟨a - winBase v, by omega, (addrKind_eq_scratch_iff hv (by omega)).mpr (by omega)⟩
    · rintro ⟨off, hoff, hkind⟩
      have := (addrKind_eq_scratch_iff hv hoff).mp hkind
      omega
  rw [hown, ← addrKind_eq_hbm_iff, fetchEnd]
  split <;> simp_all [inScratch, and_comm]

theorem fetchStartOk_iff {d : Dev} {v a : Nat} (hv : v < gridCores d) : fetchStartOk d v a = true ↔
    a % 16 = 0 ∧ ((winBase v ≤ a ∧ a < winBase v + 0x600000) ∨ a < hbmCap d) := by
  rw [fetchStartOk, Bool.and_eq_true, beq_iff_eq, fetchEnd_isSome_iff hv]

/-- Settles O8: START takes effect where it is startable, from an address that it can fetch from, and nowhere else. -/
theorem startRuns : Obligations.StartRuns := by
  refine ⟨⟨fun s v hv hs hdet hrel hact hstate => ?_, fun d v a hv _ => fetchStartOk_iff hv⟩, fun s v ha hno => ?_⟩
  · refine prc_row (fun d => startCore d v) rfl hv hs hrel hdet ?_
    refine (if_neg (by simp [startable_iff.mpr ⟨hrel, hact, hstate⟩])).trans (modCore_congr ?_)
    simp only [clearStalls, Bool.and_eq_true, decide_eq_true_eq]
  · refine prc_row_of_eq (fun d => startCore d v) rfl ha (if_pos ?_)
    rw [Bool.not_eq_true', Bool.eq_false_iff, Ne, startable_iff]
    rintro ⟨-, hact, hstate⟩
    exact hno.elim (fun h => by simp [h] at hact) (fun h => h hstate)

/-! ### HALT_REQ, RESUME, CLR_STALL and what follows from stopping issue (R167, R190, R191, R193) -/

theorem not_issuing_of_stop {c : Core} (h : c.stop ≠ .issuing) : issuing c = false := by simp [issuing, h]

theorem hostHalt_of_issuing {d : Dev} {v : Nat} (h : issuing (coreOf d v) = true) :
    hostHalt d v = modCore d v (fun c => { c with stop := .haltReq, hostStop := true }) := by
  rw [hostHalt, haltReqAt, modCore_modCore]
  exact modCore_congr (by simp [haltReqCore, h])

/-- FAULTED, once a fault has stopped issue (R186, R187). -/
theorem faulted_row {s : State} {v : Nat} {cause opc : Byte} {que : BitVec 3} {tag detail fn : Byte} (hr : running s v)
    (hstate : (coreOf s.dev v).state = .running) (hstop : (coreOf s.dev v).stop = .fault cause opc que tag detail fn) :
    exec (.faulted v) s = goes s (if (coreOf s.dev v).cmds = [] then
      signal (logEvent (modCore s.dev v (fun c =>
        { c with state := .faulted, stop := .issuing, cause := cause, faultOpc := opc, faultQue := que, faultTag := tag,
                 vec := if cause = 0x0C then { c.vec with detail := detail, fn := fn } else c.vec }))
        0x0401 (coreBlock s.dev v) v
        (leBytes 4 (opc.toNat + 0x100 * que.toNat + 0x10000 * tag.toNat) ++ leBytes 1 cause.toNat)) 14
      else s.dev) := by
  refine core_row (fun d => finishFault (noteFault d v) v) rfl hr ?_
  have hnote : noteFault s.dev v = s.dev := by
    simp [noteFault, not_issuing_of_stop (c := coreOf s.dev v) (by simp [hstop])]
  rw [hnote]
  simp [finishFault, hstop, hstate, drained, modCore, le, by1]

/-- BREAK, once a comparator has stopped issue and nothing is in flight (R190). -/
theorem brk_row {s : State} {v n : Nat} (hr : running s v) (hstate : (coreOf s.dev v).state = .running)
    (hcmds : (coreOf s.dev v).cmds = []) (hstop : (coreOf s.dev v).stop = .brk n) :
    exec (.brk v) s = goes s (signal (logEvent (modCore s.dev v (fun c =>
      { c with state := .brk, stop := .issuing, brkCmp := BitVec.ofNat 3 n })) 0x0404 (coreBlock s.dev v) v
        (leBytes 1 n ++ leBytes 6 (coreOf s.dev v).issue.toNat)) 14) := by
  refine core_row (fun d => finishBreak (noteBreak d v) v) rfl hr ?_
  have hnote : noteBreak s.dev v = s.dev := by
    simp [noteBreak, not_issuing_of_stop (c := coreOf s.dev v) (by simp [hstop])]
  rw [hnote]
  simp [finishBreak, hstop, hstate, hcmds, drained, modCore, le, by1]

/-- FETCH_BLOCK of a good block (R149). -/
theorem fetchBlockAt_clean {d : Dev} {v a : Nat} (hstate : (coreOf d v).state = .running)
    (hstart : (coreOf d v).start.toNat < winBase 0) (hx : (coreOf d v).strm.xfers = []) (hh : (coreOf d v).strm.heldSlots = [])
    (hnext : nextBlock d v = some a) (hbad : rdBad d a 2048 = none) (hloc : localStatus d { core := some v } a 2048 false = 0) :
    fetchBlockAt d v .clean = modCore d v (fun c => putBlock c a (rdBytes d a 2048)) := by
  simp [fetchBlockAt, hstate, hstart, hx, hh, hnext, hbad, hloc]

/-- Settles O9: each row by what its operation makes of a core in the state that the statement names. -/
theorem proctorStateChanges : Obligations.ProctorStateChanges := by
  refine ⟨fun s v hr => ⟨fun hs hrel hdet => ⟨fun hi => ?halt, fun hb => ?resume, ?clear⟩,
      fun hstate hcmds => ⟨fun hstop => ?stopped, fun code hstop hlists => ?halted, fun n => brk_row hr hstate hcmds⟩⟩,
    fun s v cause opc que tag detail fn hr hstate hstop => ⟨fun hcmds => ?faulted, fun hcmds => ?waits⟩,
    fun s v a hr hstate hstart hx hh hnext hbad hloc => ?fetch⟩
  case halt => exact prc_row (fun d => hostHalt d v) rfl hr.2 hs hrel hdet (hostHalt_of_issuing hi)
  case resume =>
    exact prc_row (fun d => modCore d v resumeCore) rfl hr.2 hs hrel hdet (modCore_congr (by simp [resumeCore, hb]))
  case clear =>
    refine ⟨_, prc_row (fun d => modCore d v clearStalls) rfl hr.2 hs hrel hdet rfl, ?_⟩
    rw [coreOf_modCore_same]
    refine ⟨rfl, rfl, rfl, rfl, rfl, rfl, rfl, rfl, rfl, rfl, fun p hp => ?_, rfl, rfl, rfl, rfl, rfl⟩
    obtain ⟨q, -, rfl⟩ := List.mem_map.mp hp
    exact ⟨rfl, rfl, rfl, rfl⟩
  case stopped =>
    exact core_row (fun d => modCore d v finishStopped) rfl hr (modCore_congr (by simp [finishStopped, hstate, hstop, hcmds, drained]))
  case halted =>
    exact core_row (fun d => modCore d v finishHalted) rfl hr (modCore_congr (by
      simp [finishHalted, hstate, hstop, hcmds, hlists, drained]))
  case faulted => rw [faulted_row hr hstate hstop, if_pos hcmds]
  case waits => rw [faulted_row hr hstate hstop, if_neg hcmds]
  case fetch =>
    exact core_row (fun d => fetchBlockAt d v .clean) rfl hr (fetchBlockAt_clean hstate hstart hx hh hnext hbad hloc)

end Sys2Proof.Machine
end

section
/-!
The array and vector commands at issue (R157, R162, R166, R175, R180, R181): one change of the core each, whatever the opcode.
-/
namespace Sys2Proof.Machine
open Sys2Proof.Safety

/-- Settles O10: every array opcode issues as `arr_issue` says. -/
theorem arrayCommandsQueue : Obligations.ArrayCommandsQueue := by
  intro s v w hr h c0 o entry t
  have hissue : ∀ {op : Nat} {a : Answer}, a = onCore s v (fun d => attempt d v (rowOpc op)) → 0x20 ≤ op ∧ op ≤ 0x26 →
      cwOpc w = op → a = t := fun ha hop hw => by
    rw [row_issues s v w _ _ ha hr h (rowOpc_arr hw (by omega)), arr_issue s.dev v w (by simp [cwArray, hw, hop])]
  exact ⟨hissue rfl (by omega), hissue rfl (by omega), hissue rfl (by omega), hissue rfl (by omega), hissue rfl (by omega),
    hissue rfl (by omega), hissue rfl (by omega)⟩

/-- Settles O15: every vector opcode issues as `vec_issue` says, on its own row or, posted, on that of TASK.POST. -/
theorem vectorCommandsQueue : Obligations.VectorCommandsQueue := by
  intro s v w hr h c0 o entry t
  have hissue : ∀ {row : Nat → Bool} {a : Answer}, a = onCore s v (fun d => attempt d v row) → cwVector w = true → row w = true →
      a = t := fun ha hv hrow => by
    rw [row_issues s v w _ _ ha hr h hrow, vec_issue s.dev v w hv]
  have hown : ∀ {op : Nat} {a : Answer}, vPost w = false → a = onCore s v (fun d => attempt d v (rowOpc op)) →
      0x30 ≤ op ∧ op ≤ 0x38 → cwOpc w = op → a = t := fun hpost ha hop hw =>
    hissue ha (by simp [cwVector, hw, hop]) (by simp [rowOpc, hw, hpost])
  refine ⟨fun hlo hhi hpost => ?_, fun hpost => ?_⟩
  · have hv : cwVector w = true := by simp [cwVector, hlo, hhi]
    exact hissue rfl hv (by simp [rowPost, hv, hpost])
  · exact ⟨hown hpost rfl (by omega), hown hpost rfl (by omega), hown hpost rfl (by omega), hown hpost rfl (by omega),
      hown hpost rfl (by omega), hown hpost rfl (by omega), hown hpost rfl (by omega), hown hpost rfl (by omega),
      hown hpost rfl (by omega)⟩

end Sys2Proof.Machine
end

section
/-!
The arrivals of a Bell (R177, R232, R234, R236, R341): a held arrival that is sent, and Bell flits in and out of their generation.
-/
namespace Sys2Proof.Machine
open Sys2Proof.Safety

/-! ### Held arrivals -/

section
variable {d : Dev} {v b : Nat} {h : HeldArrival}

/-- The Bell after member v has sent its oldest held arrival (R232). -/
def arrivalTaken (d : Dev) (v b : Nat) : Dev :=
  modBell d b (fun x =>
    { x with held := dropFirst (fun y => y.core == v) x.held, sent := mapPut x.sent v (mapGet 0 x.sent v + 1) })

theorem arrivalSentAt_of_none (hn : heldOf d b v = none) : arrivalSentAt d v b = d := by simp [arrivalSentAt, hn]
theorem arrivalSentAt_of_not_ready (hh : heldOf d b v = some h) (hr : heldReady d b h = false) : arrivalSentAt d v b = d := by
  simp [arrivalSentAt, hh, hr]
/-- The arrival of a BELL.RING takes its command out of the queue. -/
theorem arrivalSentAt_ring {id : Nat} (hh : heldOf d b v = some h) (hr : heldReady d b h = true) (hc : h.cmd = some id) :
    arrivalSentAt d v b =
      pump (bellArrive (modCore (arrivalTaken d v b) v (fun c => dropCmd c id)) b v h.op (heldValue d h)) v := by
  simp [arrivalSentAt, hh, hr, hc, arrivalTaken]
/-- The arrival of a BELL transfer lets the transfer go on. -/
theorem arrivalSentAt_transfer {slot : Nat} (hh : heldOf d b v = some h) (hr : heldReady d b h = true) (hc : h.cmd = none)
    (hs : h.slot = some slot) : arrivalSentAt d v b =
      pump (bellArrive (modXfer (arrivalTaken d v b) (.core v) slot (fun t => { t with bellHeld := false })) b v h.op
        (heldValue d h)) v := by
  simp [arrivalSentAt, hh, hr, hc, hs, arrivalTaken, modXfer]

end

/-! ### Bell flits -/

/-- A row of a fabric port takes effect. -/
theorem port_row {s : State} {p : Nat} {a : Answer} {e : Dev} (f : Dev → Dev) (ha : a = onPort s p f) (hp : p < 12)
    (he : f s.dev = e) : a = goes s e := by
  simp [ha, onPort, onDev, ran, goes, hp, he]

section
variable {d : Dev} {p : Nat} {f : BitVec 256}

/-- A flit whose CRC fails is not accepted (R344). -/
theorem linkAccept_bad (h : flitOk f = false) : (linkAccept d p f).2 = false := by
  unfold linkAccept
  split
  · rfl
  · simp [h]

/-- The flit is accepted and names the current generation of a Bell of this device, other than the Bell of pace epochs (R234, R418). -/
def flitCurrent (d : Dev) (p : Nat) (f : BitVec 256) : Prop :=
  (linkAccept d p f).2 = true ∧ bellLive (linkAccept d p f).1 (bits f.toNat 14 10) = true ∧ bits f.toNat 14 10 ≠ 1016 ∧
    bits f.toNat 24 16 = (bellOf (linkAccept d p f).1 (bits f.toNat 14 10)).done % 65536

/-- What a Bell flit does: what the link makes of it, and its arrival or release when it is current (R234, R341). -/
theorem bellIn_eq (d : Dev) (p : Nat) (f : BitVec 256) [Decidable (flitCurrent d p f)] : bellIn d p f =
    let d1 := (linkAccept d p f).1
    let b := bits f.toNat 14 10
    let op := BitVec.ofNat 3 (bits f.toNat 40 3)
    let value := BitVec.ofNat 64 (bits f.toNat 48 64)
    if flitCurrent d p f then
      if flitType f = 2 then if p ∈ (bellTree d1 b).2 then bellArrive d1 b (1000 + p) op value else d1
      else if (bellTree d1 b).1 = some p then releaseBell d1 b op value else d1
    else d1 := by
  simp only [bellIn, bellFields, flitCurrent, Bool.and_eq_true, bne_iff_ne, beq_iff_eq, and_assoc, List.contains_iff_mem, srcPort]
  congr

theorem bellIn_of_not_current (h : ¬ flitCurrent d p f) : bellIn d p f = (linkAccept d p f).1 := by
  classical rw [bellIn_eq]; exact if_neg h
theorem bellIn_arrival (hc : flitCurrent d p f) (ht : flitType f = 2)
    (hp : p ∈ (bellTree (linkAccept d p f).1 (bits f.toNat 14 10)).2) :
    bellIn d p f = bellArrive (linkAccept d p f).1 (bits f.toNat 14 10) (1000 + p) (BitVec.ofNat 3 (bits f.toNat 40 3))
      (BitVec.ofNat 64 (bits f.toNat 48 64)) := by
  classical simp only [bellIn_eq, if_pos hc, if_pos ht, if_pos hp]
theorem bellIn_other_child (ht : flitType f = 2) (hp : p ∉ (bellTree (linkAccept d p f).1 (bits f.toNat 14 10)).2) :
    bellIn d p f = (linkAccept d p f).1 := by
  classical simp only [bellIn_eq, if_pos ht, if_neg hp, ite_self]
theorem bellIn_release (hc : flitCurrent d p f) (ht : flitType f = 3)
    (hp : (bellTree (linkAccept d p f).1 (bits f.toNat 14 10)).1 = some p) :
    bellIn d p f = releaseBell (linkAccept d p f).1 (bits f.toNat 14 10) (BitVec.ofNat 3 (bits f.toNat 40 3))
      (BitVec.ofNat 64 (bits f.toNat 48 64)) := by
  classical simp only [bellIn_eq, if_pos hc, if_neg (show flitType f ≠ 2 by omega), if_pos hp]
theorem bellIn_other_parent (ht : flitType f = 3) (hp : (bellTree (linkAccept d p f).1 (bits f.toNat 14 10)).1 ≠ some p) :
    bellIn d p f = (linkAccept d p f).1 := by
  classical simp only [bellIn_eq, if_neg (show flitType f ≠ 2 by omega), if_neg hp, ite_self]

theorem bellArrivalAt_own (h : flitOk f = false ∨ flitType f = 2) : bellArrivalAt d p f = bellIn d p f :=
  if_neg (by rcases h with h | h <;> simp [h])
theorem bellArrivalAt_other (hok : flitOk f = true) (ht : flitType f ≠ 2) : bellArrivalAt d p f = d := if_pos (by simp [hok, ht])
theorem bellReleaseAt_own (h : flitOk f = false ∨ flitType f = 3) : bellReleaseAt d p f = bellIn d p f :=
  if_neg (by rcases h with h | h <;> simp [h])
theorem bellReleaseAt_other (hok : flitOk f = true) (ht : flitType f ≠ 3) : bellReleaseAt d p f = d := if_pos (by simp [hok, ht])

end

/-- Settles O27: a held arrival by the cases of `arrivalSentAt`, a flit by those of `bellIn`. -/
theorem bellArrivals : Obligations.BellArrivals := by
  intro s
  refine ⟨fun v b hr => ?_, fun p f hp => ?_⟩
  · have hrow : ∀ {e}, arrivalSentAt s.dev v b = e → exec (.bellArrivalSent v b) s = goes s e :=
      fun he => core_row (fun d => arrivalSentAt d v b) rfl hr he
    exact ⟨fun hn => hrow (arrivalSentAt_of_none hn), fun h hh => ⟨fun hnot => hrow (arrivalSentAt_of_not_ready hh hnot),
      fun hready => ⟨fun id hc => hrow (arrivalSentAt_ring hh hready hc),
        fun slot hc hs => hrow (arrivalSentAt_transfer hh hready hc hs)⟩⟩⟩
  · have harrival : ∀ {e}, bellArrivalAt s.dev p f = e → exec (.bellArrival p f) s = goes s e :=
      fun he => port_row (fun d => bellArrivalAt d p f) rfl hp he
    have hrelease : ∀ {e}, bellReleaseAt s.dev p f = e → exec (.bellRelease p f) s = goes s e :=
      fun he => port_row (fun d => bellReleaseAt d p f) rfl hp he
    refine ⟨fun hbad => ?bad, fun hok => ⟨fun ht => harrival (bellArrivalAt_other hok ht),
      fun ht => hrelease (bellReleaseAt_other hok ht)⟩, fun ht => ⟨fun hc hchild => ?arrives, fun hnot => ?notArrives⟩,
      fun ht => ⟨fun hc hparent => ?releases, fun hnot => ?notReleases⟩⟩
    case bad =>
      have hlink : bellIn s.dev p f = _ := bellIn_of_not_current fun hc => by simp [flitCurrent, linkAccept_bad hbad] at hc
      exact ⟨harrival ((bellArrivalAt_own (.inl hbad)).trans hlink), hrelease ((bellReleaseAt_own (.inl hbad)).trans hlink)⟩
    case arrives => exact harrival ((bellArrivalAt_own (.inr ht)).trans (bellIn_arrival hc ht hchild))
    case notArrives =>
      exact harrival ((bellArrivalAt_own (.inr ht)).trans (hnot.elim bellIn_of_not_current (bellIn_other_child ht)))
    case releases => exact hrelease ((bellReleaseAt_own (.inr ht)).trans (bellIn_release hc ht hparent))
    case notReleases =>
      exact hrelease ((bellReleaseAt_own (.inr ht)).trans (hnot.elim bellIn_of_not_current (bellIn_other_parent ht)))

end Sys2Proof.Machine
end

section
/-!
The state after reset (R193, R331, R382, R412, R426, R428, R436, R452, R508, R512, R546, R556): its tables are empty, so that every part
reads as its own reset value.
-/
namespace Sys2Proof.Machine

/-- The output pins in step 1 of the release order (R505, R511, R556 to R558). -/
theorem pinsOf_reset : pinsOf Dev.reset =
    { thermtripN := true, pwrfailN := true, ready := false, cxl0PerstN := false, cxl1PerstN := false, traceOpen := false } := by
  decide

/-- Settles O58: the registers by their reset values, the parts by the empty tables that list them. -/
theorem resetState : Obligations.ResetState := by
  refine ⟨rfl, rfl, rfl, rfl, rfl, rfl, rfl, rfl, rfl, rfl, rfl, rfl, rfl, rfl, rfl, rfl, rfl, rfl, rfl, rfl, rfl, rfl,
    fun v => ?core, fun k => ?context, fun p => ?port, fun c => ?controller, fun r => ?pacer, ⟨rfl, rfl⟩, pinsOf_reset⟩
  case core => exact ⟨rfl, rfl, rfl⟩
  case context => exact ⟨rfl, rfl, rfl⟩
  case port => exact ⟨rfl, rfl, rfl, rfl⟩
  case controller => exact ⟨rfl, rfl, rfl⟩
  case pacer => exact ⟨rfl, rfl⟩

end Sys2Proof.Machine
end

section
/-!
What a transfer in flight that waits comes to (R221, R301, R352, R450): the timeouts of the fabric and of the host, and the reuse of
its slot.
-/
namespace Sys2Proof.Machine
open Sys2Proof.Safety

/-- A row of a stream engine whose beats run takes effect. -/
theorem engine_row {s : State} {e : Engine} {a : Answer} {d : Dev} (f : Dev → Dev) (ha : a = onEngine s e f) (hr : engineRuns s e)
    (hd : f s.dev = d) : a = goes s d := by
  cases e with
  | core v => exact core_row f ha hr hd
  | hdma c => simp [ha, onEngine, onDev, ran, goes, show c < 4 from hr, hd]

section
variable {d : Dev} {e : Engine} {v slot : Nat} {x : Xfer}

/-! ### FAB_TIMEOUT -/

theorem fabTimeoutAt_of_none (hx : xferOf d (.core v) slot = none) : fabTimeoutAt d v slot = d := by simp [fabTimeoutAt, hx]
theorem fabTimeoutAt_of_answered (hx : xferOf d (.core v) slot = some x) (hw : x.waiting = []) : fabTimeoutAt d v slot = d := by
  simp [fabTimeoutAt, hx, hw]
/-- The transfer completes with its requests failed, and its slot is held, unless its core is in Detention (R352). -/
theorem fabTimeoutAt_of_waiting (hx : xferOf d (.core v) slot = some x) (hw : x.waiting ≠ []) : fabTimeoutAt d v slot =
    let y := { x with waiting := [], status := if x.status = 0 then 5 else x.status }
    modCore (completeXfer (modXfer (leaveOpen d (.core v) x) (.core v) slot (fun _ => y)) (.core v) y) v (fun c =>
      { c with strm := { c.strm with
          heldSlots := if isDetained d v then c.strm.heldSlots else c.strm.heldSlots ++ [slot] } }) := by
  have hempty : x.waiting.isEmpty = false := by simpa using hw
  by_cases hd : isDetained d v = true <;>
    simp only [fabTimeoutAt, hx, hempty, hd, Bool.false_eq_true, if_true, if_false, modStrm]

/-! ### HOST_COMPLETION_TIMEOUT -/

/-- The transfer after the host has failed its request: it waits no longer, and has the status. -/
def hostFails (d : Dev) (e : Engine) (slot : Nat) (st : BitVec 4) : Dev :=
  modXfer d e slot (fun t => { t with status := st, hostWait := false })

theorem hostTimeoutAt_of_not_waiting (hx : xferOf d e slot = some x) (h : x.hostWait = false ∨ x.status ≠ 0) (reply : HostReply) :
    hostTimeoutAt d e slot reply = d := by
  simp only [hostTimeoutAt, hx]
  refine if_pos ?_
  simp only [Bool.or_eq_true, bne_iff_ne, Bool.not_eq_true', decide_eq_true_eq]
  exact .inl h
theorem hostTimeoutAt_ok (d : Dev) (e : Engine) (slot : Nat) : hostTimeoutAt d e slot .ok = d := by
  unfold hostTimeoutAt; split <;> simp
/-- Timed out or refused, the transfer fails with status 0x1. -/
theorem hostTimeoutAt_of_failed (hx : xferOf d e slot = some x) (hh : x.hostWait = true) (hs : x.status = 0) {reply : HostReply}
    (hr : reply = .timeout ∨ reply = .refused) : hostTimeoutAt d e slot reply = hostFails d e slot 1 := by
  rcases hr with rfl | rfl <;> simp [hostTimeoutAt, hx, hh, hs, hostFails]
/-- A poisoned completion gives status 0x6, is logged at the host address that the transfer reads, and detains its core. -/
theorem hostTimeoutAt_poisoned (hx : xferOf d e slot = some x) (hh : x.hostWait = true) (hs : x.status = 0) :
    hostTimeoutAt d e slot .poisoned =
      let a := (((txReads (xferTx d e x)).map (fun r => r.1 % 2 ^ 48)).find? (fun a => decide (0x400000000000 ≤ a))).getD 0
      let logged := logEvent (hostFails d e slot 6) 0x0601 0x104 0xFFFF (leBytes 6 a ++ leBytes 1 ((engineCore e).getD 0xFF))
      match engineCore e with
      | some v => detainCore logged v 1
      | none => logged := by
  simp only [hostTimeoutAt, hx, hh, hs]
  rfl

end

/-- Settles O24: the rows of a transfer that waits by the cases of `fabTimeoutAt` and `hostTimeoutAt`. -/
theorem transferTimeouts : Obligations.TransferTimeouts := by
  refine ⟨fun s v slot hr => ?_, fun s e slot x hr hx => ?_⟩
  · have hrow : ∀ {d}, fabTimeoutAt s.dev v slot = d → exec (.fabTimeout v slot) s = goes s d :=
      fun hd => core_row (fun d => fabTimeoutAt d v slot) rfl hr hd
    exact ⟨core_row (fun d => slotReuseAt d v slot) rfl hr rfl,
      fun x hx => ⟨fun hw => hrow (fabTimeoutAt_of_answered hx hw), fun hw => hrow (fabTimeoutAt_of_waiting hx hw)⟩,
      fun hx => hrow (fabTimeoutAt_of_none hx)⟩
  · have hrow : ∀ {reply d}, hostTimeoutAt s.dev e slot reply = d → exec (.hostCompletionTimeout e slot reply) s = goes s d :=
      fun {reply _} hd => engine_row (fun d => hostTimeoutAt d e slot reply) rfl hr hd
    refine ⟨fun h reply => hrow (hostTimeoutAt_of_not_waiting hx h reply), hrow (hostTimeoutAt_ok _ _ _), fun hh hs =>
      ⟨hrow (hostTimeoutAt_of_failed hx hh hs (.inl rfl)), hrow (hostTimeoutAt_of_failed hx hh hs (.inr rfl)), ?_, ?_⟩⟩
    · rintro v rfl; exact hrow (hostTimeoutAt_poisoned hx hh hs)
    · rintro c rfl; exact hrow (hostTimeoutAt_poisoned hx hh hs)

end Sys2Proof.Machine
end

section
/-!
The reduction and the completion of a Bell's generation (R234, R235): what the arrivals reduce to, when the root releases, and what a
release changes beside what the fabric ports send.
-/
namespace Sys2Proof.Machine
open Sys2Proof.Safety

/-! ### The reduction (R235) -/

/-- One arrival joins what the arrivals before it have reduced to. -/
def reduceArrival (acc : BitVec 3 × Dword) (x : Arrival) : BitVec 3 × Dword :=
  if x.op = 0 then acc
  else if acc.1 = 0 then (x.op, if x.op = 7 then 0 else x.value)
  else if acc.1 = x.op && x.op != 7 then (acc.1, bellOp x.op acc.2 x.value)
  else (7, 0)

theorem bellReduce_eq (arr : List Arrival) : bellReduce arr = arr.foldl reduceArrival (0, 0) := rfl

section
variable {acc : BitVec 3 × Dword} {op : BitVec 3} {x : Arrival}

theorem reduceArrival_none (h : x.op = 0) : reduceArrival acc x = acc := if_pos h
theorem reduceArrival_first (h : x.op ≠ 0) (hacc : acc.1 = 0) :
    reduceArrival acc x = (x.op, if x.op = 7 then 0 else x.value) := by
  rw [reduceArrival, if_neg h, if_pos hacc]
theorem reduceArrival_same {v : Dword} (h : op ≠ 0) (h7 : op ≠ 7) (hx : x.op = op) :
    reduceArrival (op, v) x = (op, bellOp op v x.value) := by
  subst hx
  rw [reduceArrival, if_neg h, if_neg h, if_pos (by simpa using h7)]
theorem reduceArrival_other (h : x.op ≠ 0) (hacc : acc.1 ≠ 0) (hx : acc.1 ≠ x.op) : reduceArrival acc x = (7, 0) := by
  rw [reduceArrival, if_neg h, if_neg hacc, if_neg (by simp [hx])]
/-- A mismatch stays one. -/
theorem reduceArrival_mismatch : reduceArrival (7, 0) x = (7, 0) := by
  by_cases h : x.op = 0
  · exact reduceArrival_none h
  · rw [reduceArrival, if_neg h, if_neg (by decide), if_neg]
    simp only [Bool.and_eq_true, decide_eq_true_eq, bne_iff_ne]
    exact fun hx => hx.2 hx.1.symm

end

theorem bellReduce_of_no_op {arr : List Arrival} (h : ∀ x ∈ arr, x.op = 0) : bellReduce arr = (0, 0) := by
  rw [bellReduce_eq]
  induction arr with
  | nil => rfl
  | cons x r ih =>
    rw [List.foldl_cons, reduceArrival_none (h x (List.mem_cons_self ..))]
    exact ih fun y hy => h y (List.mem_cons_of_mem _ hy)

/-- From an OP on, the arrivals with that OP reduce by it. -/
theorem foldl_reduceArrival {op : BitVec 3} (h0 : op ≠ 0) (h7 : op ≠ 7) {arr : List Arrival}
    (h : ∀ x ∈ arr, x.op = 0 ∨ x.op = op) (v : Dword) :
    arr.foldl reduceArrival (op, v) = (op, (arr.filter (fun x => x.op ≠ 0)).foldl (fun v x => bellOp op v x.value) v) := by
  induction arr generalizing v with
  | nil => rfl
  | cons x r ih =>
    have hr := ih fun y hy => h y (List.mem_cons_of_mem _ hy)
    rcases h x (List.mem_cons_self ..) with hx | hx
    · rw [List.foldl_cons, reduceArrival_none hx, hr, List.filter_cons_of_neg (by simp [hx])]
    · rw [List.foldl_cons, reduceArrival_same h0 h7 hx, hr, List.filter_cons_of_pos (by simpa [hx] using h0), List.foldl_cons]

/-- Unless two OPs have met, every arrival has OP 0 or the common one. -/
theorem bellReduce_mismatch_or_common (arr : List Arrival) :
    bellReduce arr = (7, 0) ∨ ∀ x ∈ arr, x.op = 0 ∨ x.op = (bellReduce arr).1 := by
  simp only [bellReduce_eq]
  induction arr using List.reverseRecOn with
  | nil => exact .inr (by simp)
  | append_singleton r x ih =>
    rw [List.foldl_append, List.foldl_cons, List.foldl_nil]
    generalize r.foldl reduceArrival (0, 0) = acc at ih ⊢
    simp only [List.mem_append, List.mem_singleton]
    rcases ih with rfl | ih
    · exact .inl reduceArrival_mismatch
    by_cases h : x.op = 0
    · rw [reduceArrival_none h]
      exact .inr (by rintro y (hy | rfl); exacts [ih y hy, .inl h])
    by_cases hacc : acc.1 = 0
    · rw [reduceArrival_first h hacc]
      exact .inr (by rintro y (hy | rfl); exacts [.inl ((ih y hy).elim id (·.trans hacc)), .inr rfl])
    by_cases hx : acc.1 = x.op
    · by_cases h7 : x.op = 7
      · exact .inl (by simp [reduceArrival, hx, h7])
      · have hsame : reduceArrival acc x = (acc.1, bellOp acc.1 acc.2 x.value) :=
          reduceArrival_same (v := acc.2) hacc (hx ▸ h7) hx.symm
        rw [hsame]
        exact .inr (by rintro y (hy | rfl); exacts [ih y hy, .inr hx.symm])
    · exact .inl (reduceArrival_other h hacc hx)

/-! ### What the ports' transmitters change -/

/-- Device `e` with the fabric, what was sent and the count of free values of `d`: all that a transmitter reads or changes. -/
def withSender (e d : Dev) : Dev := { e with fab := d.fab, out := d.out, freeCtr := d.freeCtr }

section
variable (e d : Dev)

theorem fabPort_withSender (p : Nat) : fabPort (withSender e d) p = fabPort d p := rfl
theorem emitSlots_withSender (p : Nat) (slots : List Slot) :
    emitSlots (withSender e d) p slots = withSender e (emitSlots d p slots) :=
  List.foldl_hom (withSender e) fun _ _ => rfl
theorem modPort_withSender (p : Nat) (f : FabPort → FabPort) : modPort (withSender e d) p f = withSender e (modPort d p f) := rfl
theorem emitPort_withSender (p : Nat) (f : FabPort → FabPort) (slots : List Slot) :
    emitSlots (modPort (withSender e d) p f) p slots = withSender e (emitSlots (modPort d p f) p slots) :=
  emitSlots_withSender e (modPort d p f) p slots
theorem txSend_withSender (p : Nat) (t : TxFlit) : txSend (withSender e d) p t = withSender e (txSend d p t) := by
  have hmod : ∀ (c : Bool) (f : FabPort → FabPort), modPort (if c then draw (withSender e d) else withSender e d) p f =
      withSender e (modPort (if c then draw d else d) p f) := by rintro (_ | _) f <;> rfl
  exact (congrArg (emitSlots · p _) (hmod _ _)).trans (emitSlots_withSender ..)
theorem txInsert_withSender (p k : Nat) (t : TxFlit) : txInsert (withSender e d) p k t = withSender e (txInsert d p k t) :=
  emitPort_withSender e d p _ _
theorem txFinish_withSender (p : Nat) : txFinish (withSender e d) p = withSender e (txFinish d p) := by
  simp only [txFinish, fabPort_withSender]
  split
  · exact emitPort_withSender e d p _ _
  · rfl
theorem txResume_withSender (p : Nat) : txResume (withSender e d) p = withSender e (txResume d p) := by
  simp only [txResume, fabPort_withSender]
  split
  · rfl
  · rw [← txFinish_withSender]
    refine congrArg (txFinish · p) (List.foldl_hom (withSender e) fun c t => ?_)
    simp only [fabPort_withSender, txInsert_withSender]
    split <;> rfl
theorem txPump_withSender (n p : Nat) : txPump n (withSender e d) p = withSender e (txPump n d p) := by
  induction n generalizing d with
  | zero => rfl
  | succ n ih =>
    simp only [txPump, fabPort_withSender]
    split
    · rfl
    · rw [txSend_withSender, ih]
theorem txGo_withSender (p : Nat) : txGo (withSender e d) p = withSender e (txGo d p) := by
  simp only [txGo, fabPort_withSender, txResume_withSender, txPump_withSender]
  split <;> rfl
theorem txQueue_withSender (p : Nat) (hdr : BitVec 256) (data : List (BitVec 2048)) :
    txQueue (withSender e d) p hdr data = withSender e (txQueue d p hdr data) := by
  simp only [txQueue, txQueueFrom, modPort_withSender, txGo_withSender]

theorem releaseFlits_withSender (l : List Nat) (b gen : Nat) (op : BitVec 3) (value : Dword) :
    l.foldl (fun d p => txQueue d p (bellFlit d true b gen op value) []) (withSender e d) =
      withSender e (l.foldl (fun d p => txQueue d p (bellFlit d true b gen op value) []) d) :=
  List.foldl_hom (withSender e) fun d p => txQueue_withSender e d p (bellFlit d true b gen op value) []

end

/-! ### The release of a generation (R234) -/

/-- The release flits of a generation, one to each child port. -/
def releaseFlits (d : Dev) (b : Nat) (op : BitVec 3) (value : Dword) : Dev :=
  (bellTree d b).2.foldl (fun f p => txQueue f p (bellFlit f true b (bellOf d b).done op value) []) d

/-- The Bell in its next generation, with the result of the one that is released (R234). -/
def nextGeneration (d : Dev) (b : Nat) (value : Dword) : BellState → BellState := fun x =>
  let long := d.copy.state == .frozen || (d.copy.state == .opened && d.copy.arrived1021)
  { x with
    done := (bellOf d b).done + 1, arrivals := [], sentUp := false
    results := (((bellOf d b).done, value) :: x.results).take 2
    times := if long then nowUs d :: x.times else (nowUs d :: x.times).take 17 }

/-- What the release of a Bell of the Timetable comes to on a device without a COPY section: the Bell's next generation, beside the
release flits as they would leave without it. -/
theorem releaseBell_user {d : Dev} {b : Nat} (hb : b < 1016) (hc : copyCfg d = none) (op : BitVec 3) (value : Dword) :
    releaseBell d b op value = withSender (modBell d b (nextGeneration d b value)) (releaseFlits d b op value) := by
  have hrelease : releaseBell d b op value = bellRelease d b op value := by
    simp only [releaseBell, freezeOn, hc]
    rw [if_neg (by omega), if_neg (by simp; omega), if_neg (by simp; omega), if_neg (by omega)]
  exact hrelease.trans (releaseFlits_withSender (modBell d b (nextGeneration d b value)) d _ b _ op value)

/-! ### The generation completes at the root (R234, R235) -/

theorem bellFull_iff {d : Dev} {b : Nat} :
    bellFull d b = true ↔ ∀ k ∈ bellSources d b, ∃ x ∈ (bellOf d b).arrivals, x.src = k := by
  simp [bellFull]

/-- When a generation may complete here (R234, R372, R418). -/
theorem bellCompletes_iff {d : Dev} {b : Nat} : bellCompletes d b = true ↔
    (bellLive d b = true ∧ (bellTree d b).1 = none ∧ (∀ k ∈ bellSources d b, ∃ x ∈ (bellOf d b).arrivals, x.src = k) ∧
      (b = 1016 → ∃ n, d.pace.phase = .announced n ∨ d.pace.phase = .switched n) ∧ (1017 ≤ b → d.fab.rc = .complete)) := by
  have hboot : (decide (b < 1017) || d.fab.rc == .complete) = true ↔ (1017 ≤ b → d.fab.rc = .complete) := by
    rw [Bool.or_eq_true, decide_eq_true_eq, beq_iff_eq, ← Nat.not_le, ← imp_iff_not_or]
  simp only [bellCompletes, Bool.and_eq_true, bellFull_iff, Option.isNone_iff_eq_none, and_assoc, hboot]
  cases d.pace.phase <;> simp

/-- Settles O26: the arrivals reduce by `reduceArrival`, and the root's release is `releaseBell_user`. -/
theorem generationCompletes : Obligations.GenerationCompletes := by
  refine ⟨⟨fun arr h => bellReduce_of_no_op h, fun op a arr h0 h7 ha h => ?reduces, fun arr x y hx hy hx0 hy0 hne => ?mismatch,
    fun a b => ⟨rfl, rfl, rfl, rfl, rfl, rfl⟩⟩, fun s b => ?_⟩
  case reduces =>
    subst ha
    rw [bellReduce_eq, List.foldl_cons, reduceArrival_first h0 rfl, if_neg h7, foldl_reduceArrival h0 h7 h]
  case mismatch =>
    rcases bellReduce_mismatch_or_common arr with h | h
    · rw [h]
    · exact absurd (((h x hx).resolve_left hx0).trans ((h y hy).resolve_left hy0).symm) hne
  intro r
  have hrow : bellCompletes s.dev b = true → exec (.bellGenerationComplete b) s = goes s (releaseBell s.dev b r.1 r.2) :=
    fun h => congrArg (ran s) (if_neg (by simp [h]))
  refine ⟨fun h => congrArg (ran s) (if_pos (by simp [h])), hrow, bellCompletes_iff, fun hb hc htree h => ?root,
    fun hb hc op x => ?_⟩
  case root =>
    have hroot : releaseBell s.dev b r.1 r.2 = modBell s.dev b (nextGeneration s.dev b r.2) := by
      rw [releaseBell_user hb hc, releaseFlits, htree]; rfl
    refine ⟨_, hrow h, ?_⟩
    simp only [hroot, bellOf_modBell_same]
    exact ⟨rfl, rfl, rfl, rfl, rfl⟩
  · rw [releaseBell_user hb hc]
    refine ⟨rfl, ?_, ?_, rfl⟩ <;>
      exact congrArg _ (bellOf_modBell_same s.dev b (nextGeneration s.dev b x))

end Sys2Proof.Machine
end

section
/-!
The start of a transfer (R195 to R197, R224 to R226): which list has the grant, and what a row does with it.
-/
namespace Sys2Proof.Machine
open Sys2Proof.Safety

/-! ### Lists that are ready (R196, R197, R216) -/

theorem startHeld_core (d : Dev) (v : Nat) (l : BList) (p : Pick) : startHeld d (.core v) l p =
    (if slotsFull (strmOf d (.core v)) l (fetchFlight d v) then [0x40] else []) ++ (if fenceHolds (coreOf d v) l then [0x48] else [])
      ++ (if ordHolds (strmOf d (.core v)) l p.ent.toNat then [0x44] else []) := rfl
/-- The next transfer of a core's list may start when its class has come to it and nothing holds it. -/
theorem listReady_core_iff {d : Dev} {v : Nat} {l : BList} {p : Pick} (hp : pickEntry l = some p) :
    listReady d (.core v) l = true ↔ l.next < l.count ∧ classReady (strmOf d (.core v)) l = true ∧
      slotsFull (strmOf d (.core v)) l (fetchFlight d v) = false ∧ fenceHolds (coreOf d v) l = false ∧
      ordHolds (strmOf d (.core v)) l p.ent.toNat = false := by
  have hone : ∀ (held : Bool) (n : Nat), (if held = true then [n] else []) = [] ↔ held = false := by simp
  simp only [listReady, hp, startHeld_core, List.isEmpty_iff, List.append_eq_nil_iff, hone, Bool.and_eq_true,
    decide_eq_true_eq]
  tauto

/-! ### The grant (R197, R225, R226) -/

section
variable {d : Dev} {e : Engine} {l : BList}

/-- At every 16th grant: the oldest ready list. -/
theorem startGrant_any (h : (strmOf d e).grants = 15) : startGrant d e = (strmOf d e).lists.find? (listReady d e) := by
  simp [startGrant, h]
/-- At any other grant: the oldest ready list of the highest class that has one. -/
theorem startGrant_class (h : (strmOf d e).grants ≠ 15) : startGrant d e = (List.range 4).findSome? (fun c =>
    (strmOf d e).lists.find? (fun l => listReady d e l && l.pri.toNat == c)) := by
  simp only [startGrant, if_neg h, List.find?_filter, Bool.decide_and, Bool.decide_eq_true]

/-- The class of the granted list has no ready list above it, and it is the first of its class. -/
theorem startGrant_class_some (h : (strmOf d e).grants ≠ 15) (hg : startGrant d e = some l) :
    (strmOf d e).lists.find? (fun m => listReady d e m && m.pri.toNat == l.pri.toNat) = some l ∧
      ∀ m ∈ (strmOf d e).lists, listReady d e m = true → l.pri.toNat ≤ m.pri.toNat := by
  rw [startGrant_class h, List.findSome?_eq_some_iff] at hg
  obtain ⟨above, c, below, hsplit, hc, habove⟩ := hg
  have hl := List.find?_some hc
  simp only [Bool.and_eq_true, beq_iff_eq] at hl
  obtain ⟨-, rfl⟩ := hl
  refine ⟨hc, fun m hm hr => Nat.le_of_not_lt fun hlt => ?_⟩
  have hmem : m.pri.toNat ∈ above ++ l.pri.toNat :: below := hsplit ▸ List.mem_range.mpr (by omega)
  have hsorted : (above ++ l.pri.toNat :: below).Pairwise (· < ·) := hsplit ▸ List.pairwise_lt_range
  rcases List.mem_append.mp hmem with hin | hin
  · have := List.find?_eq_none.mp (habove _ hin) m hm
    simp [hr] at this
  · rcases List.mem_cons.mp hin with heq | hin
    · omega
    · have := List.rel_of_pairwise_cons (List.pairwise_append.mp hsorted).2.1 hin
      omega

theorem startGrant_eq_none_iff : startGrant d e = none ↔ ∀ l ∈ (strmOf d e).lists, listReady d e l = false := by
  by_cases h : (strmOf d e).grants = 15
  · simp [startGrant_any h]
  · rw [startGrant_class h]
    simp only [List.findSome?_eq_none_iff, List.mem_range, List.find?_eq_none, Bool.and_eq_true, beq_iff_eq, not_and]
    constructor
    · intro hn m hm
      by_contra hr
      exact hn m.pri.toNat m.pri.isLt m hm (by simpa using hr) rfl
    · intro hn c _ m hm hr
      simp [hn m hm] at hr

theorem startGrant_ready (hg : startGrant d e = some l) : l ∈ (strmOf d e).lists ∧ listReady d e l = true := by
  by_cases h : (strmOf d e).grants = 15
  · rw [startGrant_any h] at hg
    exact ⟨List.mem_of_find?_eq_some hg, List.find?_some hg⟩
  · have hf := (startGrant_class_some h hg).1
    have hl := List.find?_some hf
    simp only [Bool.and_eq_true] at hl
    exact ⟨List.mem_of_find?_eq_some hf, hl.1⟩

end

/-- A list around the first place of one of its elements. -/
theorem take_findIdx_drop {α : Type} [DecidableEq α] {xs : List α} {x : α} (h : x ∈ xs) :
    xs = xs.take (xs.findIdx (· == x)) ++ x :: xs.drop (xs.findIdx (· == x) + 1) ∧ x ∉ xs.take (xs.findIdx (· == x)) := by
  obtain ⟨before, after, rfl, hx⟩ := List.eq_append_cons_of_mem h
  have hidx : (before ++ x :: after).findIdx (· == x) = before.length := by
    have hbefore : before.findIdx (· == x) = before.length :=
      List.findIdx_eq_length.mpr fun y hy => beq_eq_false_iff_ne.mpr (ne_of_mem_of_not_mem hy hx)
    simp [List.findIdx_append, hbefore, List.findIdx_cons]
  simpa [hidx] using hx

/-- What `find?` finds has none before it, up to its first place. -/
theorem find?_none_before {α : Type} {p : α → Bool} {before after : List α} {x : α} (hx : x ∉ before)
    (h : (before ++ x :: after).find? p = some x) : ∀ m ∈ before, p m = false := by
  rw [List.find?_append] at h
  cases hb : before.find? p with
  | none => simpa using List.find?_eq_none.mp hb
  | some y =>
    rw [hb] at h
    cases h
    exact absurd (List.mem_of_find?_eq_some hb) hx

/-! ### A transfer row (R195 to R197, R224) -/

section
variable {s d : Dev} {e : Engine} {list row : Nat}

/-- A row whose list does not have the grant changes nothing. -/
theorem startXfer_of_other (h : ∀ l, startGrant (fillBuf d e) e = some l → l.id ≠ list) : startXfer s d e list row = d := by
  simp only [startXfer]
  split
  · rfl
  next l hg =>
    split
    · rfl
    · exact if_pos (by simp [h l hg])

/-- The device after the granted transfer has started in the lowest free slot: its entry's places in the list buffer are used up and
filled again, and an empty transfer without an error has completed. -/
def startedXfer (s d0 : Dev) (e : Engine) (list : Nat) (l : BList) (p : Pick) (status : Nat) (t : Tx) : Dev :=
  let slot := freeSlot (strmOf d0 e)
  let d1 := modStrm (modList d0 e list (fun m => { m with next := m.next + p.n, buf := m.buf.drop p.n })) e
    (fun x => { x with grants := (x.grants + 1) % 16 })
  let d2 := fillBuf (launchXfer s d1 e l p slot status t) e
  if status = 0 ∧ txZero t = true ∧ t.kind ≠ 9 then transferCompleteAt s d2 e slot else d2

/-- The row of the granted transfer's list starts it, when it is the row of its KIND. -/
theorem startXfer_of_grant {l : BList} {p : Pick} {status : Nat} {t : Tx} (hg : startGrant (fillBuf d e) e = some l)
    (hl : l.id = list) (hp : pickEntry l = some p) (hs : pickStatus (fillBuf d e) e l p = (status, t)) :
    startXfer s d e list row = if rowKind e t.kind = row then startedXfer s (fillBuf d e) e list l p status t else d := by
  simp only [startXfer, hg, hp, hs, hl]
  by_cases hk : rowKind e t.kind = row
  · simp [hk, startedXfer, and_assoc]
  · simp [hk]

/-- Every transfer row starts the transfers of one KIND. -/
theorem exec_transferRow {s : State} {i : Instr} (h : i ∈ transferRows e list) :
    ∃ k, exec i s = onEngine s e (fun d => startXfer s.shadow d e list k) := by
  simp only [transferRows, List.mem_append, List.mem_cons, List.not_mem_nil, or_false] at h
  rcases h with (rfl | rfl | rfl | rfl | rfl | rfl | rfl | rfl | rfl) | h
  case inr =>
    cases e with
    | core v => exact ⟨9, by rw [List.mem_singleton.mp h]; rfl⟩
    | hdma c => cases h
  all_goals exact ⟨_, rfl⟩

end

/-- Settles O20: a row by the cases of `startXfer`, the grant by `find?` over the ready lists. -/
theorem transferRowsStart : Obligations.TransferRowsStart := by
  refine ⟨fun s e list hr => ⟨fun l p status t hg hl hp hs => ?row, fun h i hi => ?other⟩,
    fun d e => ⟨startGrant_eq_none_iff, fun l hg => ?grant, fun v l p hp => listReady_core_iff hp⟩⟩
  case row =>
    have hrow : ∀ {i : Instr} {k : Nat}, exec i s = onEngine s e (fun d => startXfer s.shadow d e list k) →
        exec i s = if rowKind e t.kind = k then goes s (startedXfer s.shadow (fillBuf s.dev e) e list l p status t)
          else goes s s.dev := fun hi => by
      rw [engine_row _ hi hr (startXfer_of_grant hg hl hp hs), apply_ite (goes s)]
    exact ⟨hrow rfl, hrow rfl, hrow rfl, hrow rfl, hrow rfl, hrow rfl, hrow rfl, hrow rfl, hrow rfl, fun v he => hrow (by rw [he]; rfl)⟩
  case other =>
    obtain ⟨k, hk⟩ := exec_transferRow (s := s) hi
    exact engine_row _ hk hr (startXfer_of_other h)
  case grant =>
    obtain ⟨hmem, hready⟩ := startGrant_ready hg
    obtain ⟨hsplit, hfirst⟩ := take_findIdx_drop hmem
    refine ⟨hsplit, hready, fun h15 => ?_, fun h15 => ⟨fun m hm hr => ?_, fun m hm hr => ?_⟩⟩
    · rw [startGrant_any h15, hsplit] at hg
      exact find?_none_before hfirst hg
    · obtain ⟨hfind, hleast⟩ := startGrant_class_some h15 hg
      have hle := hleast m (List.mem_of_mem_take hm) hr
      rw [hsplit] at hfind
      have hne := find?_none_before hfirst hfind m hm
      simp only [hr, Bool.true_and, beq_eq_false_iff_ne] at hne
      omega
    · exact (startGrant_class_some h15 hg).2 m (List.mem_of_mem_drop hm) hr

end Sys2Proof.Machine
end

section
/-!
The end of a transfer, of a list, and of the reading of a list (R185, R195, R198, R217 to R219, R222, R239, R301, R450).
-/
namespace Sys2Proof.Machine
open Sys2Proof.Safety

/-! ### TRANSFER_COMPLETE -/

section
variable {s d : Dev} {e : Engine} {slot : Nat} {x : Xfer}

theorem transferCompleteAt_of_none (hx : xferOf d e slot = none) : transferCompleteAt s d e slot = d := by
  simp [transferCompleteAt, hx]
/-- A transfer that waits for its Bell, for responses or for the scoreboard stays. -/
theorem transferCompleteAt_of_outstanding (hx : xferOf d e slot = some x)
    (h : x.bellHeld = true ∨ x.waiting ≠ [] ∨ x.status = 0 ∧ stillGuarded d e x = true) : transferCompleteAt s d e slot = d := by
  simp only [transferCompleteAt, hx]
  refine if_pos ?_
  simpa [or_assoc] using h
/-- One that has moved its data, or that has failed, leaves flight. -/
theorem transferCompleteAt_of_moved (hx : xferOf d e slot = some x) (hb : x.bellHeld = false) (hw : x.waiting = [])
    (hm : x.status = 0 → x.hostWait = false ∧ x.guard = false) :
    transferCompleteAt s d e slot = completeXfer (if x.status = 5 then leaveOpen d e x else d) e x := by
  have hguard : (x.status == 0 && stillGuarded d e x) = false := by
    by_cases h0 : x.status = 0
    · simp [stillGuarded, hm h0]
    · rw [beq_eq_false_iff_ne.mpr h0, Bool.false_and]
  have hmoved : ((x.hostWait || x.guard) && decide (x.status = 0)) = false := by
    by_cases h0 : x.status = 0
    · simp [hm h0]
    · rw [decide_eq_false h0, Bool.and_false]
  simp only [transferCompleteAt, hx, hb, hw, hguard, hmoved, List.isEmpty_nil, Bool.not_true, Bool.or_false, Bool.false_eq_true,
    if_false, if_true]
/-- One that touches host memory, or that the scoreboard has guarded, moves its data first. -/
theorem transferCompleteAt_of_unmoved (hx : xferOf d e slot = some x) (hb : x.bellHeld = false) (hw : x.waiting = [])
    (hs : x.status = 0) (hg : stillGuarded d e x = false) (hm : x.hostWait = true ∨ x.guard = true) :
    transferCompleteAt s d e slot =
      let d1 := runXfer s d e slot
      (xferOf d1 e slot).elim d1 (fun y => if y.waiting = [] then completeXfer d1 e y else d1) := by
  have hunmoved : (x.hostWait || x.guard) = true := by simpa using hm
  simp only [transferCompleteAt, hx, hb, hw, hs, hg, hunmoved]
  cases hy : xferOf (runXfer s d e slot) e slot <;> simp [hy]

end

/-! ### A transfer leaves flight (R198, R218, R222, R239, R301) -/

/-- The device after a core's transfer has left flight: what it has read settles, its slot is free, and its list remembers the window
bytes that it has overwritten (R163, R218). -/
def leftFlight (d : Dev) (v : Nat) (x : Xfer) : Dev :=
  modStrm (revisit d (.core v) x) (.core v) (fun y =>
    { y with xfers := y.xfers.filter (fun t => t.slot != x.slot),
             stale := match listOf d (.core v) x.list, x.undo.filter (fun c => inWindows c.1) with
               | some l, c :: r => y.stale ++ [(l.evt, c :: r)]
               | _, _ => y.stale })

theorem completeXfer_core (d : Dev) (v : Nat) (x : Xfer) : completeXfer d (.core v) x =
    let ended := finishList (if x.status = 0 then leftFlight d v x else recordError (leftFlight d v x) (.core v) x) (.core v) x.list
    if x.status = 6 then detainCore ended v 1 else ended := by
  have hleft : leftFlight d v x = modStrm (revisit d (.core v) x) (.core v) (fun y =>
      { y with xfers := y.xfers.filter (fun t => t.slot != x.slot),
               stale := match (listOf d (.core v) x.list).map (·.evt) with
                 | some n => if (x.undo.filter (fun c => inWindows c.1)).isEmpty then y.stale
                   else y.stale ++ [(n, x.undo.filter (fun c => inWindows c.1))]
                 | none => y.stale }) := by
    unfold leftFlight
    cases listOf d (.core v) x.list <;> cases x.undo.filter (fun c => inWindows c.1) <;> rfl
  rw [hleft]
  cases hl : listOf d (.core v) x.list <;> simp only [completeXfer, hl] <;> rfl

/-! ### A list ends (R185, R195, R198) -/

theorem listDone_iff {c : Core} {l : BList} : listDone c l = true ↔ l.count ≤ l.nread ∧ l.count ≤ l.next ∧
    (∀ t ∈ c.strm.xfers, t.list ≠ l.id) ∧
      (l.count = 0 → (∀ i ∈ c.cmds, i.id ≠ l.id) ∧ ∀ m ∈ c.strm.lists, l.id ≤ m.id) := by
  have hempty : ∀ p : Prop, (¬ l.count = 0 ∨ p) ↔ (l.count = 0 → p) := fun p => imp_iff_not_or.symm
  simp [listDone, and_assoc, hempty]

theorem endEmpty_of_none_empty {c : Core} (h : ∀ m ∈ c.strm.lists, m.count ≠ 0) (n : Nat) : endEmpty n c = c := by
  have hnone : c.strm.lists.find? (fun l => l.count == 0 && listDone c l) = none :=
    List.find?_eq_none.mpr fun m hm => by simp [h m hm]
  cases n with
  | zero => rfl
  | succ n => simp only [endEmpty, hnone]

theorem endList_lists (c : Core) (l : BList) : (endList c l).strm.lists = c.strm.lists.filter (fun m => m.id != l.id) := rfl
/-- A list that ends leaves fewer lists. -/
theorem endList_length_lt {c : Core} {l : BList} (h : l ∈ c.strm.lists) :
    (endList c l).strm.lists.length < c.strm.lists.length := by
  rw [endList_lists]
  exact List.length_filter_lt_length_iff_exists.mpr ⟨l, h, by simp⟩

/-- No empty list that is done is left, when there are as many turns as lists. -/
theorem endEmpty_ends_all {n : Nat} {c : Core} (hn : c.strm.lists.length ≤ n) :
    ∀ m ∈ (endEmpty n c).strm.lists, m.count = 0 → listDone (endEmpty n c) m = false := by
  induction n generalizing c with
  | zero =>
    intro m hm
    rw [endEmpty, List.eq_nil_of_length_eq_zero (Nat.le_zero.mp hn)] at hm
    cases hm
  | succ n ih =>
    rw [endEmpty]
    split
    next l hl =>
      have := endList_length_lt (List.mem_of_find?_eq_some hl)
      exact ih (by omega)
    next hnone =>
      intro m hm h0
      have := List.find?_eq_none.mp hnone m hm
      simpa [h0] using this

section
variable {d : Dev} {v id : Nat} {l : BList}

theorem finishList_of_not_done (hl : listOf d (.core v) id = some l) (h : listDone (coreOf d v) l = false) :
    finishList d (.core v) id = d := by
  simp [finishList, hl, h]
theorem finishList_of_done (hl : listOf d (.core v) id = some l) (h : listDone (coreOf d v) l = true) :
    finishList d (.core v) id = pump (modCore d v (fun c => endEmpty c.strm.lists.length (endList c l))) v := by
  simp [finishList, hl, h]

end

/-- Settles O23: a transfer by the cases of `transferCompleteAt` and `completeXfer`, a list by those of `finishList`. -/
theorem transferCompletes : Obligations.TransferCompletes := by
  refine ⟨⟨fun s e slot x hr hx => ?completes, fun s e slot hr hx => ?absent, fun d v x => ?leaves, fun d c x => rfl⟩,
    fun d v id l hl => ?ends, fun s v hr => ⟨fun hn => ?none, fun i l hi hl => ?read⟩⟩
  case completes =>
    have hrow : ∀ {d}, transferCompleteAt s.shadow s.dev e slot = d → exec (.transferComplete e slot) s = goes s d :=
      fun hd => engine_row (fun d => transferCompleteAt s.shadow d e slot) rfl hr hd
    refine ⟨fun h => hrow (transferCompleteAt_of_outstanding hx h), fun hb hw hm => hrow (transferCompleteAt_of_moved hx hb hw hm),
      fun hb hw hs hg hm => hrow ((transferCompleteAt_of_unmoved hx hb hw hs hg hm).trans ?_)⟩
    dsimp only
    cases xferOf (runXfer s.shadow s.dev e slot) e slot <;> rfl
  case absent => exact engine_row (fun d => transferCompleteAt s.shadow d e slot) rfl hr (transferCompleteAt_of_none hx)
  case leaves =>
    intro left
    have hleft : left = leftFlight d v x := rfl
    rw [hleft, completeXfer_core]
    refine ⟨fun h0 => ?_, fun h0 h6 => ?_, fun h6 => ?_, rfl⟩
    · rw [if_neg (by rw [h0]; decide), if_pos h0]
    · rw [if_neg h6, if_neg h0]
    · rw [if_pos h6, if_neg (by rw [h6]; decide)]
  case ends =>
    have hmem : l ∈ (coreOf d v).strm.lists := List.mem_of_find?_eq_some hl
    refine ⟨listDone_iff, finishList_of_not_done hl, fun hd => ⟨finishList_of_done hl hd, fun hone => ?_, ?_⟩⟩
    · refine (finishList_of_done hl hd).trans (congrArg (pump · v) (modCore_congr (endEmpty_of_none_empty (fun m hm h0 => ?_) _)))
      obtain ⟨hm, hid⟩ := List.mem_filter.mp hm
      simp [hone m hm h0] at hid
    · exact endEmpty_ends_all (endList_length_lt hmem).le
  case none => exact core_row (fun d => listReadAt d v) rfl hr (by simp [listReadAt, hn])
  case read =>
    refine ⟨fun hread => ?_, fun hunread => ?_⟩ <;> refine core_row (fun d => listReadAt d v) rfl hr ?_ <;>
      simp only [listReadAt, hi, hl]
    · exact if_neg (by omega)
    · exact if_pos hunread

end Sys2Proof.Machine
end

section
/-!
How a transfer enters flight (R196, R217, R218, R221, R236, R349, R450), and what a COPY within HBM stores when it is the only transfer
in flight (R200, R206). What it reads and stores may also meet a Gradebook command of another core (R276): where one lists a byte
of HBM as overwritten, a free choice decides whether the COPY reads the byte of before. `Obligations.TransferEntersFlight` holds
when no such choice is taken, and fails when one is.
-/
namespace Sys2Proof.Machine
open Sys2Proof.Safety

/-! ### Entering flight -/

/-- A transfer with its list, entry and status, and nothing outstanding. -/
def newXfer (l : BList) (p : Pick) (slot status : Nat) (t : Tx) : Xfer :=
  { slot := slot, list := l.id, entry := l.next, entryAddr := l.base + 32 * l.next, kind := BitVec.ofNat 4 t.kind,
    status := BitVec.ofNat 4 status, entryBits := p.ent, extBits := p.ext }
/-- The device with one more transfer in flight. -/
def enterFlight (d : Dev) (e : Engine) (x : Xfer) : Dev := modStrm d e (fun y => { y with xfers := y.xfers ++ [x] })
/-- A transfer that moves data, with what it waits for. -/
def dataXfer (d : Dev) (e : Engine) (l : BList) (p : Pick) (slot : Nat) (t : Tx) : Xfer :=
  { newXfer l p slot 0 t with
    writes := localWrites d t, waiting := (readRequests d e slot l.pri.toNat t).map (·.2), hostWait := touchesHost d t,
    guard := guardWaits d e l t }

section
variable (s d : Dev) (e : Engine) (l : BList) (p : Pick) (slot : Nat) {status : Nat} {t : Tx}

theorem launchXfer_failed (h : status ≠ 0) : launchXfer s d e l p slot status t = enterFlight d e (newXfer l p slot status t) := by
  simp [launchXfer, h, enterFlight, newXfer]
theorem launchXfer_bell (v : Nat) (hk : t.kind = 9) : launchXfer s d (.core v) l p slot 0 t =
    modBell (enterFlight d (.core v) { newXfer l p slot 0 t with bellHeld := true }) (bits t.dst 0 10) (fun b =>
      { b with held := b.held ++ [
        { core := v, cmd := none, slot := some slot, op := BitVec.ofNat 3 (bits t.dst 10 3), value := BitVec.ofNat 64 t.src }] }) := by
  simp [launchXfer, hk, enterFlight, newXfer]

section
variable (hk : t.kind ≠ 9)
include hk

theorem launchXfer_empty (hz : txZero t = true) : launchXfer s d e l p slot 0 t = enterFlight d e (newXfer l p slot 0 t) := by
  simp [launchXfer, hk, beq_eq_false_iff_ne.mpr hk, hz, enterFlight, newXfer]
/-- A transfer of data: it sends its read requests, waits for the host or the scoreboard, or moves its data now. -/
theorem launchXfer_data (hz : txZero t = false) : launchXfer s d e l p slot 0 t =
    let asks := readRequests d e slot l.pri.toNat t
    let entered := enterFlight d e (dataXfer d e l p slot t)
    if asks ≠ [] then asks.foldl (fun f r => sendBulk f r.1 [] 12) entered
    else if touchesHost d t = true ∨ guardWaits d e l t = true then entered
    else runXfer s entered e slot := by
  have hne : (t.kind != 9) = true := bne_iff_ne.mpr hk
  by_cases ha : readRequests d e slot l.pri.toNat t = [] <;>
    simp [launchXfer, hk, beq_eq_false_iff_ne.mpr hk, hne, hz, ha, enterFlight, dataXfer, newXfer]

end

end

/-! ### A store beside nothing else -/

theorem metBefore_eq_nil_iff {d : Dev} {me : Option Nat} {rs : List (Nat × Nat)} : metBefore d me rs = [] ↔
    ∀ p ∈ busyCmds d me, ∀ c ∈ p.2.undo, (rs.any fun r => c.1 / 4 * 4 < r.1 + r.2 && r.1 < c.1 / 4 * 4 + 4) = true →
      Config.freeBit d.freeCtr (c.1 / 4 * 4 + 2 ^ 50) = false := by
  simp only [metBefore, List.flatMap_eq_nil_iff, List.map_eq_nil_iff, List.filter_eq_nil_iff, List.mem_eraseDups, List.mem_map,
    forall_exists_index, and_imp, forall_apply_eq_imp_iff₂, Bool.and_eq_true, not_and, Bool.not_eq_true]

theorem boardPort_hbm {d : Dev} {a : Nat} (h : a < hbmCap d) : boardPort a = none := by
  have := hbmCap_le d
  unfold boardPort boardBase
  rw [if_neg (by omega), if_neg (by omega)]

theorem performBeside_put {d : Dev} {me : Option Nat} {plc a : Nat} {bs : List Byte}
    (hb : d.badWords = []) (ha : boardPort a = none) (hm : metBefore d me [(a, bs.length)] = []) :
    performBeside d me [] plc a (.put bs) = (wrBytes d a bs, none) := by
  simp [performBeside, wopRanges, hm, performOp, heal, ha, badMerge, hb, storeBytes, raceWrite]

/-- Byte runs stored one after another. -/
def putRows (d : Dev) (rows : List (Nat × List Byte)) : Dev := rows.foldl (fun f r => wrBytes f r.1 r.2) d

theorem putRows_plain {d : Dev} (hp : plainMem d = true) (hb : d.badWords = []) (rows : List (Nat × List Byte)) :
    putRows d rows = { d with mem := rows.foldl (fun m r => memWrite m r.1 r.2) d.mem } := by
  unfold putRows
  induction rows generalizing d with
  | nil => rfl
  | cons r rows ih =>
    rw [List.foldl_cons, wrBytes_plain r.1 r.2 hp hb, List.foldl_cons]
    exact ih hp hb

/-- Nothing beside a transfer meets its stores. -/
structure StoresAlone (d : Dev) (e : Engine) (slot : Nat) (rows : List (Nat × List Byte)) : Prop where
  plain : plainMem d = true
  noBad : d.badWords = []
  noOther : otherXfers d e slot = []
  here : ∀ r ∈ rows, isSelf d (r.1 / 2 ^ 48) = true ∧ boardPort (r.1 % 2 ^ 48) = none
  unmet : ∀ r ∈ rows, metBefore d (engineCore e) [(r.1 % 2 ^ 48, r.2.length)] = []

theorem moveOps_puts {e : Engine} {slot cls plc : Nat} {rows : List (Nat × List Byte)} {m : Moved} (hs : m.status = 0)
    (h : StoresAlone m.dev e slot rows) :
    let m1 := moveOps e slot cls plc m (rows.map (fun r => (r.1, .put r.2)))
    m1.dev = putRows m.dev (rows.map (fun r => (r.1 % 2 ^ 48, r.2))) ∧ m1.status = 0 ∧ m1.waiting = m.waiting := by
  induction rows generalizing m with
  | nil => exact ⟨rfl, hs, rfl⟩
  | cons r rows ih =>
    obtain ⟨hself, hboard⟩ := h.here r (List.mem_cons_self ..)
    have hput := performBeside_put (plc := plc) h.noBad hboard (h.unmet r (List.mem_cons_self ..))
    have hstep : ∃ m1 : Moved, moveOp e slot cls plc m r.1 (.put r.2) = m1 ∧ m1.dev = wrBytes m.dev (r.1 % 2 ^ 48) r.2 ∧
        m1.status = 0 ∧ m1.waiting = m.waiting := by
      refine ⟨_, rfl, ?_⟩
      simp only [moveOp, hs, hself, h.noOther, hput]
      simp
    obtain ⟨m1, hm1, hdev, hs1, hw1⟩ := hstep
    have hmem := hdev.trans (wrBytes_plain _ _ h.plain h.noBad)
    have halone : StoresAlone m1.dev e slot rows := by
      rw [hmem]
      exact ⟨h.plain, h.noBad, h.noOther, fun q hq => h.here q (List.mem_cons_of_mem _ hq), fun q hq => by
        have hq := metBefore_eq_nil_iff.mp (h.unmet q (List.mem_cons_of_mem _ hq))
        exact metBefore_eq_nil_iff.mpr hq⟩
    have hrest := ih hs1 halone
    simp only [moveOps, List.map_cons, List.foldl_cons, hm1] at hrest ⊢
    rw [hdev, hw1] at hrest
    exact hrest

/-! ### The one transfer in flight -/

section
variable {d : Dev} {e : Engine} {slot : Nat} {x : Xfer}

/-- The transfer is the only one in flight. -/
def onlyXfer (d : Dev) (e : Engine) (x : Xfer) : Prop := ∀ y, (strmOf d y).xfers = if y = e then [x] else []

theorem otherXfers_only (h : onlyXfer d e x) (hs : x.slot = slot) : otherXfers d e slot = [] := by
  refine List.flatMap_eq_nil_iff.mpr fun y _ => ?_
  rw [h y]
  split <;> simp [*]

theorem noteRaces_only (h : onlyXfer d e x) (hs : x.slot = slot) (rs : List (Nat × Nat)) : noteRaces d e slot rs = d := by
  refine List.foldl_fixed' (fun y => if_neg ?_) _
  rw [h y]
  split <;> simp [*]

end

/-! ### A COPY within HBM -/

theorem withOffsets_snd (rs : List (Nat × Nat)) : (withOffsets rs).map (·.2) = rs := by
  have hfold : ∀ (acc : Nat × List (Nat × Nat × Nat)), ((rs.foldl (fun (p : Nat × List (Nat × Nat × Nat)) r =>
      (p.1 + r.2, p.2 ++ [(p.1, r.1, r.2)])) acc).2).map (·.2) = acc.2.map (·.2) ++ rs := by
    induction rs with
    | nil => simp
    | cons r rs ih => intro acc; rw [List.foldl_cons, ih]; simp
  exact hfold (0, [])

/-- The bytes of ranges that all lie on this device. -/
theorem xferData_here {d : Dev} {rs : List (Nat × Nat)} (h : ∀ r ∈ rs, isSelf d (r.1 / 2 ^ 48) = true) (g : NMap Byte)
    (here : Nat → Nat → List Byte) : xferData d g (withOffsets rs) here = rs.map (fun r => here (r.1 % 2 ^ 48) r.2) := by
  conv_rhs => rw [← withOffsets_snd rs, List.map_map]
  refine List.map_congr_left fun r hr => ?_
  have hmem : r.2 ∈ rs := by
    rw [← withOffsets_snd rs]; exact List.mem_map_of_mem hr
  exact if_pos (h _ hmem)

theorem regAddr_hbm {d : Dev} {ga : Nat} (h : ga % 2 ^ 48 < hbmCap d) : regAddr d ga = none := by
  simp only [regAddr, addrKind_eq_hbm_iff.mpr h, ite_self]

/-- The fields of a COPY without conversion within HBM. -/
structure HbmCopy (d : Dev) (t : Tx) : Prop where
  kind : t.kind = 0
  conv : t.conv = false
  nonempty : txZero t = false
  src : isSelf d (t.src / 2 ^ 48) = true
  dst : isSelf d (t.dst / 2 ^ 48) = true
  srcFits : t.src % 2 ^ 48 + t.rows * srcPitch t ≤ hbmCap d
  dstFits : t.dst % 2 ^ 48 + t.rows * dstPitch t ≤ hbmCap d
  srcRow : t.len ≤ srcPitch t
  dstRow : t.len ≤ dstPitch t

/-- A row of a range that ends within HBM lies on the range's device, at its place. -/
theorem row_place {d : Dev} {ga pitch rows i : Nat} (h : ga % 2 ^ 48 + rows * pitch ≤ hbmCap d) (hp : 0 < pitch) (hi : i < rows) :
    (ga + i * pitch) / 2 ^ 48 = ga / 2 ^ 48 ∧ (ga + i * pitch) % 2 ^ 48 = ga % 2 ^ 48 + i * pitch ∧
      ga % 2 ^ 48 + i * pitch < hbmCap d := by
  have hcap := hbmCap_le d
  have hlt : i * pitch < rows * pitch := Nat.mul_lt_mul_of_pos_right hi hp
  omega

section
variable {d : Dev} {t : Tx} (h : HbmCopy d t)
include h

theorem HbmCopy.pos : 0 < t.rows ∧ 0 < t.len := by
  have := h.nonempty
  simp [txZero] at this
  omega
theorem HbmCopy.srcPlace {i : Nat} (hi : i < t.rows) : (t.src + i * srcPitch t) / 2 ^ 48 = t.src / 2 ^ 48 ∧
    (t.src + i * srcPitch t) % 2 ^ 48 = t.src % 2 ^ 48 + i * srcPitch t ∧ t.src % 2 ^ 48 + i * srcPitch t < hbmCap d :=
  row_place h.srcFits (by have := h.pos; have := h.srcRow; omega) hi
theorem HbmCopy.dstPlace {i : Nat} (hi : i < t.rows) : (t.dst + i * dstPitch t) / 2 ^ 48 = t.dst / 2 ^ 48 ∧
    (t.dst + i * dstPitch t) % 2 ^ 48 = t.dst % 2 ^ 48 + i * dstPitch t ∧ t.dst % 2 ^ 48 + i * dstPitch t < hbmCap d :=
  row_place h.dstFits (by have := h.pos; have := h.dstRow; omega) hi
theorem HbmCopy.reads : txReads t = (List.range t.rows).map (fun i => (t.src + i * srcPitch t, t.len)) := by
  simp [txReads, h.nonempty, h.kind, isExpand, isCompress, h.conv, rowRanges, Sys2Proof.Machine.srcRow]
theorem HbmCopy.ops (g : Nat → List Byte) : txOps t ((List.range t.rows).map g) =
    (List.range t.rows).map (fun i => (t.dst + i * dstPitch t, .put (g i))) := by
  simp [txOps, h.nonempty, h.kind, h.conv, mapIdx_map_range]
theorem HbmCopy.notReg : isRegXfer d t = false := by
  have hsrc := h.srcPlace h.pos.1
  have hdst := h.dstPlace h.pos.1
  simp only [Nat.zero_mul, Nat.add_zero] at hsrc hdst
  simp [isRegXfer, regAddr_hbm hsrc.2.2, regAddr_hbm hdst.2.2]
theorem HbmCopy.here : ∀ r ∈ txReads t, isSelf d (r.1 / 2 ^ 48) = true := by
  intro r hr
  rw [h.reads] at hr
  obtain ⟨i, hi, rfl⟩ := List.mem_map.mp hr
  simp only [(h.srcPlace (List.mem_range.mp hi)).1, h.src]
/-- The bytes of its source, row by row. -/
theorem HbmCopy.data (g : NMap Byte) (read : Nat → Nat → List Byte) : xferData d g (withOffsets (txReads t)) read =
    (List.range t.rows).map (fun i => read (t.src % 2 ^ 48 + i * srcPitch t) t.len) := by
  rw [xferData_here h.here, h.reads, List.map_map]
  refine List.map_congr_left fun i hi => ?_
  simp only [Function.comp, (h.srcPlace (List.mem_range.mp hi)).2.1]
/-- The tier manager has no part in it. -/
theorem HbmCopy.touches (f : Dev) : (withOffsets (txReads t)).foldl (fun f r =>
    if isSelf d (r.2.1 / 2 ^ 48) then touchRead f (r.2.1 % 2 ^ 48) r.2.2 t.plc else f) f = f := by
  have hboard : ∀ r ∈ withOffsets (txReads t), boardPort (r.2.1 % 2 ^ 48) = none := by
    intro r hr
    have hmem : r.2 ∈ txReads t := withOffsets_snd (txReads t) ▸ List.mem_map_of_mem hr
    rw [h.reads] at hmem
    obtain ⟨i, hi, hri⟩ := List.mem_map.mp hmem
    obtain ⟨-, hplace, hlt⟩ := h.srcPlace (List.mem_range.mp hi)
    exact boardPort_hbm (by rw [← hri, hplace]; exact hlt)
  generalize withOffsets (txReads t) = rs at hboard
  induction rs with
  | nil => rfl
  | cons r rs ih =>
    rw [List.foldl_cons, touchRead, hboard r (List.mem_cons_self ..), ite_self]
    exact ih fun q hq => hboard q (List.mem_cons_of_mem _ hq)
theorem HbmCopy.dstRows (bytes : Nat → List Byte) :
    ((List.range t.rows).map (fun i => (t.dst + i * dstPitch t, bytes i))).map (fun r => (r.1 % 2 ^ 48, r.2)) =
      (List.range t.rows).map (fun i => (t.dst % 2 ^ 48 + i * dstPitch t, bytes i)) := by
  rw [List.map_map]
  refine List.map_congr_left fun i hi => ?_
  simp only [Function.comp, (h.dstPlace (List.mem_range.mp hi)).2.1]

end

/-! ### The COPY is the only transfer in flight -/

/-- The bytes of row i of a COPY within HBM, as the transfer reads them beside everything else. -/
def copyRow (d : Dev) (e : Engine) (slot : Nat) (t : Tx) (i : Nat) : List Byte :=
  raceRead (draw (draw d)) e slot (t.src % 2 ^ 48 + i * srcPitch t) t.len []
/-- What moving the rows of a COPY within HBM comes to. -/
def copyMoved (d : Dev) (e : Engine) (slot cls : Nat) (t : Tx) : Moved :=
  moveOps e slot cls t.plc { dev := draw (draw d) }
    ((List.range t.rows).map (fun i => (t.dst + i * dstPitch t, WOp.put (copyRow d e slot t i))))

/-- A COPY within HBM that is the only transfer in flight, its list and its fields. -/
structure LoneCopy (d : Dev) (e : Engine) (slot : Nat) (x : Xfer) (l : BList) (t : Tx) : Prop where
  inFlight : xferOf d e slot = some x
  slot : x.slot = slot
  only : onlyXfer d e x
  list : listOf d e x.list = some l
  noStale : l.stale = []
  noUndo : x.undo = []
  fields : xferTx d e x = t
  copy : HbmCopy d t
  plain : plainMem d = true
  noBad : d.badWords = []

section
variable {s d : Dev} {e : Engine} {slot : Nat} {x : Xfer} {l : BList} {t : Tx} (h : LoneCopy d e slot x l t)
include h

/-- Nothing beside the transfer meets its stores, when no Gradebook command does. -/
theorem LoneCopy.storesAlone (hunmet : ∀ i, i < t.rows → metBefore (draw (draw d)) (engineCore e)
      [(t.dst % 2 ^ 48 + i * dstPitch t, (copyRow d e slot t i).length)] = []) :
    StoresAlone (draw (draw d)) e slot ((List.range t.rows).map (fun i => (t.dst + i * dstPitch t, copyRow d e slot t i))) := by
  refine ⟨h.plain, h.noBad, otherXfers_only (d := draw (draw d)) h.only h.slot, fun r hr => ?_, fun r hr => ?_⟩ <;>
    obtain ⟨i, hi, rfl⟩ := List.mem_map.mp hr <;> obtain ⟨hdev, hplace, hlt⟩ := h.copy.dstPlace (List.mem_range.mp hi)
  · exact ⟨by simp only [hdev]; exact h.copy.dst, boardPort_hbm (by rw [hplace]; exact hlt)⟩
  · simp only [hplace]; exact hunmet i (List.mem_range.mp hi)

/-- Its stores change memory alone. -/
theorem LoneCopy.moved (cls : Nat) (hunmet : ∀ i, i < t.rows → metBefore (draw (draw d)) (engineCore e)
      [(t.dst % 2 ^ 48 + i * dstPitch t, (copyRow d e slot t i).length)] = []) :
    (copyMoved d e slot cls t).dev = { draw (draw d) with mem := ((List.range t.rows).foldl (fun f i =>
      wrBytes f (t.dst % 2 ^ 48 + i * dstPitch t) (copyRow d e slot t i)) d).mem } ∧
    (copyMoved d e slot cls t).status = 0 ∧ (copyMoved d e slot cls t).waiting = [] := by
  have hfold : ((List.range t.rows).foldl (fun f i => wrBytes f (t.dst % 2 ^ 48 + i * dstPitch t) (copyRow d e slot t i)) d) =
      putRows d ((List.range t.rows).map (fun i => (t.dst % 2 ^ 48 + i * dstPitch t, copyRow d e slot t i))) := by
    rw [putRows, List.foldl_map]
  obtain ⟨hdev, hstatus, hwaiting⟩ := moveOps_puts (cls := cls) (plc := t.plc) (m := { dev := draw (draw d) }) rfl
    (h.storesAlone hunmet)
  rw [List.map_map] at hdev hstatus hwaiting
  refine ⟨hdev.trans ?_, hstatus, hwaiting⟩
  rw [h.copy.dstRows, putRows_plain (d := draw (draw d)) h.plain h.noBad, hfold, putRows_plain h.plain h.noBad]
  rfl

/-- `runXfer`, when nothing that it reads is bad and its stores meet no error. -/
theorem LoneCopy.runXfer_eq (hstatus : (copyMoved d e slot l.pri.toNat t).status = 0) : ∃ seen,
    let m := copyMoved d e slot l.pri.toNat t
    runXfer s d e slot = modXfer (noteRaces (draw m.dev) e slot m.writes) e slot (fun y =>
      { y with status := BitVec.ofNat 4 m.status, writes := m.writes, undo := m.undo, seen := seen, adds := m.adds,
               waiting := y.waiting ++ m.waiting, hostWait := false, guard := false }) := by
  refine ⟨((withOffsets (txReads t)).zip ((List.range t.rows).map (copyRow d e slot t))).filterMap (fun p =>
    if isSelf d (p.1.2.1 / 2 ^ 48) then some (p.1.2.1 % 2 ^ 48, p.2) else none), ?_⟩
  have hfind : (withOffsets (txReads t)).find? (fun r => (if isSelf d (r.2.1 / 2 ^ 48) then
      rdBad (draw (draw d)) (r.2.1 % 2 ^ 48) r.2.2 else none).isSome) = none :=
    List.find?_eq_none.mpr fun r _ => by simp [rdBad, h.noBad]
  have hdata : xferData d x.gathered (withOffsets (txReads t)) (fun a n => raceRead (draw (draw d)) e slot a n []) =
      (List.range t.rows).map (copyRow d e slot t) := h.copy.data _ _
  simp only [runXfer, h.inFlight, h.fields, h.list, h.copy.notReg, h.copy.touches, h.noStale, Option.map_some, Option.getD_some,
    hdata, h.copy.ops, hfind, Bool.false_eq_true, if_false, h.noUndo, settleRaces, List.foldl_nil]
  cases e with
  | hdma c => rfl
  | core v => exact if_neg (by rw [copyMoved] at hstatus; rw [hstatus]; decide)

/-- The transfer stores its rows, and has status 0 and nothing more to wait for. -/
theorem LoneCopy.runs (hunmet : ∀ i, i < t.rows → metBefore (draw (draw d)) (engineCore e)
      [(t.dst % 2 ^ 48 + i * dstPitch t, (copyRow d e slot t i).length)] = []) :
    (runXfer s d e slot).mem = ((List.range t.rows).foldl (fun f i =>
      wrBytes f (t.dst % 2 ^ 48 + i * dstPitch t) (copyRow d e slot t i)) d).mem ∧
    ∀ y, xferOf (runXfer s d e slot) e slot = some y → y.status = 0 ∧ y.waiting = x.waiting := by
  obtain ⟨hdev, hstatus, hwaiting⟩ := h.moved l.pri.toNat hunmet
  obtain ⟨seen, hrun⟩ := h.runXfer_eq (s := s) hstatus
  have honly : onlyXfer (draw (copyMoved d e slot l.pri.toNat t).dev) e x := by rw [hdev]; exact h.only
  rw [hrun, noteRaces_only honly h.slot, hwaiting, hstatus]
  refine ⟨by rw [modXfer, modStrm_mem, draw_mem, hdev], fun y hy => ?_⟩
  have hxfers := (honly e).trans (if_pos rfl)
  simp only [xferOf, modXfer, strmOf_modStrm_same, hxfers, List.map_cons, List.map_nil, h.slot, beq_self_eq_true, if_true,
    List.find?_cons, Option.some.injEq] at hy
  rw [← hy]
  exact ⟨rfl, List.append_nil _⟩

/-- A row that it reads: the bytes as they were before the updates that it meets as still to come (R276). -/
theorem LoneCopy.row (i : Nat) : copyRow d e slot t i =
    let a := t.src % 2 ^ 48 + i * srcPitch t
    rdBytes (turnBack (draw (draw d)) (metBefore (draw (draw d)) (engineCore e) [(a, t.len)])) a t.len := by
  simp [copyRow, raceRead, otherXfers_only (d := draw (draw d)) h.only h.slot]

end

/-! ### Gradebook commands beside the COPY (R276) -/

/-- The statement holds where no update is met as still to come: then the rows that the COPY stores are those of its source. -/
theorem transferEntersFlight_of_no_free_choice (hfree : ∀ n a, Config.freeBit n a = false) : Obligations.TransferEntersFlight := by
  have hunmet : ∀ (d : Dev) me rs, metBefore d me rs = [] := fun d me rs => metBefore_eq_nil_iff.mpr fun _ _ _ _ _ => hfree _ _
  refine ⟨fun s d e l p slot status t => ⟨launchXfer_failed s d e l p slot, fun h0 hk v he => ?bell,
    fun h0 hk hz => ?empty, fun h0 hk hz => ?data⟩, fun s d e slot x l hx hslot honly hl hstale hundo => ?_⟩
  case bell => subst h0 he; exact launchXfer_bell s d l p slot v hk
  case empty => subst h0; exact launchXfer_empty s d e l p slot hk hz
  case data =>
    subst h0
    intro asks y
    rw [launchXfer_data s d e l p slot hk hz]
    exact ⟨fun ha => if_pos ha, fun ha hw => (if_neg (not_not.mpr ha)).trans (if_pos hw),
      fun ha hh hg => (if_neg (not_not.mpr ha)).trans (if_neg (by simp [hh, hg]))⟩
  intro t hk hconv hz hsrc hdst a b hsf hdf hsr hdr hp hb
  have hlone : LoneCopy d e slot x l t :=
    ⟨hx, hslot, honly, hl, hstale, hundo, rfl, ⟨hk, hconv, hz, hsrc, hdst, hsf, hdf, hsr, hdr⟩, hp, hb⟩
  have hrow : ∀ i, copyRow d e slot t i = rdBytes d (a + i * srcPitch t) t.len := fun i => by
    simp only [hlone.row, hunmet]; rfl
  have hruns := hlone.runs (s := s) fun i _ => hunmet ..
  simp only [hrow] at hruns
  exact hruns

/-- A COPY of one byte of HBM, from 0x1000 to 0x2000. -/
def oneByteCopy : Xfer :=
  { slot := 0, list := 5, entry := 0, entryAddr := 0, kind := 0,
    entryBits := BitVec.ofNat 256 (0xFFFF000000001000 + 0xFFFF000000002000 * 2 ^ 64 + 2 ^ 160 + 2 ^ 184) }
/-- A GB.CLEAR that lists byte 0x1000 as one that it has overwritten. -/
def clearOfHbm : Issued := { id := 1, word := 0x26, unit := .array 0, undo := [(0x1000, 0xFF)] }
/-- Core 0 has the COPY in flight, and core 1 the GB.CLEAR. -/
def copyBesideClear : Dev :=
  { Dev.reset with cores := [
    (0, { strm := { lists := [{ id := 5, base := 0, count := 1, next := 1, nread := 1 }], xfers := [oneByteCopy] } }),
    (1, { cmds := [clearOfHbm] })] }

theorem copyBesideClear_only : onlyXfer copyBesideClear (.core 0) oneByteCopy := by
  intro y
  cases y with
  | hdma c => rfl
  | core v =>
    by_cases h0 : v = 0
    · subst h0; rfl
    · by_cases h1 : v = 1
      · subst h1; rfl
      · simp [strmOf, coreOf, mapGet, mapGet?, copyBesideClear, Ne.symm h0, Ne.symm h1, h0]

/-- The fields of its entry. -/
def oneByteTx : Tx := txOf oneByteCopy.entryBits.toNat 0 0

theorem copyBesideClear_lone : LoneCopy copyBesideClear (.core 0) 0 oneByteCopy { id := 5, base := 0, count := 1, next := 1, nread := 1 }
    oneByteTx :=
  ⟨by decide +kernel, rfl, copyBesideClear_only, by decide +kernel, rfl, rfl, by decide +kernel, by constructor <;> decide +kernel,
    by decide +kernel, rfl⟩

theorem copyBesideClear_busy : busyCmds (draw (draw copyBesideClear)) (some 0) = [(1, clearOfHbm)] := by decide +kernel

/-- The GB.CLEAR is met as still to come where the free choice says so. -/
theorem copyBesideClear_met (h : Config.freeBit 2 (0x1000 + 2 ^ 50) = true) :
    metBefore (draw (draw copyBesideClear)) (some 0) [(0x1000, 1)] =
      [{ addr := 0x1000, old := [0xFF, 0, 0, 0], core := 1, cmd := clearOfHbm }] := by
  have hold : (List.range 4).map (fun i => ((clearOfHbm.undo.find? (fun c => c.1 == 0x1000 + i)).map (·.2)).getD
      (rdByte (draw (draw copyBesideClear)) (0x1000 + i))) = [0xFF, 0, 0, 0] := by decide +kernel
  have hat : ((clearOfHbm.undo.map (fun c => c.1 / 4 * 4)).eraseDups) = [0x1000] := by decide +kernel
  have hctr : (draw (draw copyBesideClear)).freeCtr = 2 := rfl
  simp only [metBefore, copyBesideClear_busy, List.flatMap_cons, List.flatMap_nil, hat, hctr, List.filter_cons, h]
  simp [hold]

/-- It then reads the byte as it was before the GB.CLEAR. -/
theorem copyBesideClear_row (h : Config.freeBit 2 (0x1000 + 2 ^ 50) = true) : copyRow copyBesideClear (.core 0) 0 oneByteTx 0 = [0xFF] := by
  have hplace : oneByteTx.src % 2 ^ 48 + 0 * srcPitch oneByteTx = 0x1000 ∧ oneByteTx.len = 1 := by decide +kernel
  rw [copyBesideClear_lone.row 0]
  simp only [hplace, engineCore, copyBesideClear_met h]
  decide +kernel

/-- The statement fails where one update is met as still to come: the COPY then stores 0xFF, where its source holds 0. -/
theorem not_transferEntersFlight_of_free_choice (h : Config.freeBit 2 (0x1000 + 2 ^ 50) = true) :
    ¬ Obligations.TransferEntersFlight := by
  intro hclaim
  obtain ⟨hx, hslot, honly, hl, hstale, hundo, hfields, hc, hp, hb⟩ := copyBesideClear_lone
  have hrow := copyBesideClear_row h
  have hrows : oneByteTx.rows = 1 := by decide +kernel
  have hmodel := (copyBesideClear_lone.runs (s := copyBesideClear) fun i hi => by
    obtain rfl : i = 0 := by omega
    rw [hrow, metBefore_eq_nil_iff]
    intro p hp
    rw [show p = (1, clearOfHbm) from List.mem_singleton.mp (copyBesideClear_busy ▸ hp)]
    simp [clearOfHbm, show oneByteTx.dst % 281474976710656 = 0x2000 by decide +kernel]).1
  have hspec := hclaim.2 copyBesideClear copyBesideClear (.core 0) 0 oneByteCopy _ hx hslot honly hl hstale hundo
  simp only [hfields] at hspec
  have hmem := (hspec hc.kind hc.conv hc.nonempty hc.src hc.dst hc.srcFits hc.dstFits hc.srcRow hc.dstRow hp hb).1
  rw [hmodel, hrows] at hmem
  simp only [List.range_one, hrow, List.foldl_cons, List.foldl_nil] at hmem
  exact absurd hmem (by decide +kernel)

end Sys2Proof.Machine
end

section
/-!
The engines of a core and the completion of its commands (R136, R162, R176, R177, R244, R245): what an engine takes, what leaves a core
with a command that completes, and an engine that waits for fused rows, which takes no task.
-/
namespace Sys2Proof.Machine
open Sys2Proof.Safety

/-! ### TASK_TAKE (R244, R245) -/

/-- Without rows of the vector queue to take, an idle engine of a live core takes the core's oldest task, or waits for fused rows. -/
theorem taskTakeAt_of_no_rows {d : Dev} {v e : Nat} {i : Issued} (he : e < 2) (hlive : enginesLive d v = true)
    (hidle : mapGet? (coreOf d v).vec.hand e = none) (hqueue : queueWork (coreOf d v) e = none)
    (htask : oldestTask (coreOf d v) = some i) :
    taskTakeAt d v e = if waitsFused (coreOf d v) e then d else takeTask d v e v i := by
  have hengine : ¬ 1 < e := by omega
  simp [taskTakeAt, hidle, hlive, hengine, hqueue, htask]

/-- A task of the engine's own core, before it executes: it has the engine as its taker. -/
def ownTaken (d : Dev) (v e : Nat) (i : Issued) : Dev :=
  modCore d v (fun c => { c with cmds := c.cmds.map (fun j => if j.id == i.id then { j with taker := some (v, e) } else j) })

/-- The device after it: the task has executed on its core's window, the engine has it in hand, and VEC_LOCAL has counted it. -/
def afterOwnTake (d : Dev) (v e : Nat) (i : Issued) : Dev :=
  let taken := ownTaken d v e i
  modCore (markDone taken (raced taken (fun f => execVecCmd f v i [])) v i) v (fun c =>
    { c with vec := { c.vec with hand := mapPut c.vec.hand e (v, i.id), loc := satAdd c.vec.loc 1 } })

theorem takeTask_own (d : Dev) (v e : Nat) (i : Issued) : takeTask d v e v i = afterOwnTake d v e i := by
  rw [takeTask, if_pos rfl, modCore_modCore]
  rfl

section
variable {s : State} {v e : Nat} {i : Issued} (hr : running s v) (he : e < 2) (hlive : enginesLive s.dev v = true)
  (hidle : mapGet? (coreOf s.dev v).vec.hand e = none) (hqueue : queueWork (coreOf s.dev v) e = none)
  (htask : oldestTask (coreOf s.dev v) = some i)
include hr he hlive hidle hqueue htask

/-- An idle engine with no rows to take or to wait for takes its own core's oldest task. -/
theorem taskTake_own (hwait : waitsFused (coreOf s.dev v) e = false) :
    exec (.taskTake v e) s = goes s (afterOwnTake s.dev v e i) :=
  core_row (fun d => taskTakeAt d v e) rfl hr (by simp [taskTakeAt_of_no_rows he hlive hidle hqueue htask, hwait, takeTask_own])
/-- An engine that waits for fused rows takes nothing else. -/
theorem taskTake_waits (hwait : waitsFused (coreOf s.dev v) e = true) : exec (.taskTake v e) s = goes s s.dev :=
  core_row (fun d => taskTakeAt d v e) rfl hr (by simp [taskTakeAt_of_no_rows he hlive hidle hqueue htask, hwait])

end

/-! ### COMMAND_COMPLETE (R136, R162, R176, R177, R245) -/

/-- A core none of whose engines has command `id` of core v in hand. -/
def withoutInHand (v id : Nat) (c : Core) : Core :=
  { c with vec := { c.vec with hand := c.vec.hand.filter (fun h => h.2 != (v, id)) } }
/-- The core of a command after it has completed: the command has left its queue and its engines, and the drain latches of a GB.DRAIN are
empty. -/
def withoutCompleted (v id : Nat) (i : Issued) (c : Core) : Core :=
  let left := withoutInHand v id (dropCmd c id)
  match i.unit with
  | .array a => if cwOpc i.word.toNat = 0x25 then modArr left a (fun q => { q with latch := [] }) else left
  | _ => left
/-- The device after a command has completed: its core, and that of the engine that took it, go on without it. -/
def afterCompletion (d : Dev) (v id : Nat) (i : Issued) : Dev :=
  let left := modCore d v (withoutCompleted v id i)
  match i.taker with
  | some (u, _) => modCore left u (withoutInHand v id)
  | none => left

section
variable {s : State} {v id : Nat} {i : Issued} (hr : running s v) (hq : quiet s.dev v = true)
  (hfind : (coreOf s.dev v).cmds.find? (fun i => i.id == id) = some i)
include hr hq hfind

theorem commandComplete_stays (h : canComplete (coreOf s.dev v) i = false ∨ stepSent s.dev v i = false) :
    exec (.commandComplete v id) s = goes s s.dev := by
  have hstays : completeAt s.dev v id = s.dev := by
    rcases h with h | h <;> simp [completeAt, hfind, h]
  exact core_row (fun d => completeCmd d v id) rfl hr (by rw [completeCmd, pump_of_quiet hq, hstays])
theorem commandComplete_completes (hcan : canComplete (coreOf s.dev v) i = true) (hsent : stepSent s.dev v i = true) :
    exec (.commandComplete v id) s = goes s (pump (afterCompletion s.dev v id i) v) := by
  have hcompletes : completeAt s.dev v id = pump (afterCompletion s.dev v id i) v := by
    simp only [completeAt, hfind, hcan, hsent, Bool.not_true, Bool.or_self, Bool.false_eq_true, if_false]
    rfl
  exact core_row (fun d => completeCmd d v id) rfl hr (by rw [completeCmd, pump_of_quiet hq, hcompletes])

end

/-! ### A task behind a fused consumer -/

/-- A task of the pool: a VOP of one row. -/
def postedVop : Issued := { id := 3, word := 0x0100020000100030, unit := .pool 0 }
/-- Array 0 holds a fused MMA.F that waits for its ring step, the vector queue its consumer, and the pool a task. -/
def taskBehindFused : State :=
  { dev :=
      { cores := [(0, { state := .running
                        cmds := [{ id := 1, word := 0x0402000100C00020, unit := .array 0 },
                                 { id := 2, word := 0x0100020000400030, unit := .vec, pair := some 1 },
                                 postedVop] })] }
    shadow := {} }

theorem taskBehindFused_running : running taskBehindFused 0 := ⟨rfl, by decide⟩
theorem taskBehindFused_waits : waitsFused (coreOf taskBehindFused.dev 0) 0 = true := by decide +kernel

/-- Refutes O17: an engine that waits for fused rows takes no task (R245, `waitsFused`), where the statement has it take one whenever
there are no rows to take. `taskTake_own` has the task that it takes with this case shut out, and `commandComplete_stays` and
`commandComplete_completes` what COMMAND_COMPLETE does. -/
theorem not_tasksAndCompletion : ¬ Obligations.TasksAndCompletion := by
  rintro ⟨htakes, -⟩
  have hlive : enginesLive taskBehindFused.dev 0 = true := by decide +kernel
  have hidle : mapGet? (coreOf taskBehindFused.dev 0).vec.hand 0 = none := rfl
  have hqueue : queueWork (coreOf taskBehindFused.dev 0) 0 = none := by decide +kernel
  have htask : oldestTask (coreOf taskBehindFused.dev 0) = some postedVop := by decide +kernel
  have hclaim := htakes taskBehindFused 0 0 _ taskBehindFused_running (by decide) hlive hidle hqueue htask
  have hmodel := taskTake_waits taskBehindFused_running (by decide) hlive hidle hqueue htask taskBehindFused_waits
  have hhand := congrArg (fun t : State => mapGet? (coreOf t.dev 0).vec.hand 0)
    (Host.Outcome.next.inj (hmodel.symm.trans hclaim))
  simp only [coreOf_modCore_same, mapGet?_mapPut_same, hidle] at hhand
  cases hhand

end Sys2Proof.Machine
end

section
/-!
HBM accesses and uncorrectable errors (R299 to R302, R309, R401 to R403): what an access of a ready controller does, by what its ECC
check and the words on its way hold, and what an uncorrectable error leaves.
-/
namespace Sys2Proof.Machine
open Sys2Proof.Safety

/-! ### What an uncorrectable error does (R301, R401, R402) -/

/-- The error counted and recorded at the port or controller that serves the granule, and logged for the issuer `who`. -/
def ueNoted (d : Dev) (g who : Nat) : Dev :=
  match boardPort g with
  | some p => logEvent (modCxl d p (fun x => { x with ueCnt := satAdd x.ueCnt 1 })) 0x0601 (0xEC + p) p (leBytes 6 g ++ leBytes 1 who)
  | none => logEvent (modHbm d (hbmCtlOf d g) (fun x => { x with ueCnt := satAdd x.ueCnt 1, ueAddr := BitVec.ofNat 48 g }))
      0x0601 (0xE0 + hbmCtlOf d g) (hbmCtlOf d g) (leBytes 6 g ++ leBytes 1 who)

theorem ueEvent_none (d : Dev) (g : Nat) : ueEvent d g none = ueNoted d g 0xFF := rfl
theorem ueEvent_some (d : Dev) (g v : Nat) : ueEvent d g (some v) = detainCore (ueNoted d g v) v 1 := rfl

theorem ueNoted_fuses (d : Dev) (g who : Nat) : (ueNoted d g who).fuses = d.fuses := by
  unfold ueNoted
  split <;> simp

theorem foldl_modCtx_cores (f : Ctx → Ctx) (ks : List Nat) (d : Dev) : (ks.foldl (fun e k => modCtx e k f) d).cores = d.cores :=
  foldl_keeps _ Dev.cores (fun e k => modCtx_cores e k f) ks d
theorem coreOf_foldl_haltReqAt (v : Nat) (us : List Nat) (d : Dev) :
    coreOf (us.foldl (fun e u => if u = v then e else haltReqAt e u) d) v = coreOf d v := by
  refine foldl_keeps _ (fun e => coreOf e v) (fun e u => ?_) us d
  by_cases hu : u = v
  · rw [if_pos hu]
  · rw [if_neg hu, haltReqAt, coreOf_modCore_other _ _ _ _ (Ne.symm hu)]
theorem coreOf_detainStop (d : Dev) (v : Nat) : (coreOf (detainStop d v) v).state = .detained := by
  rw [detainStop, coreOf_modCore_same]

/-- A core that enters Detention is in it, whatever else follows on the device. -/
theorem detainCore_detained {d : Dev} {v : Nat} (cause : Nat) (hv : v < gridCores d) :
    (coreOf (detainCore d v cause) v).state = .detained := by
  unfold detainCore
  by_cases hd : (coreOf d v).state = .detained
  · rwa [if_pos (by simp [hd])]
  · rw [if_neg (by simpa [hd] using hv)]
    dsimp only
    rw [coreOf_of_cores (foldl_modCtx_cores _ _ _), coreOf_foldl_haltReqAt, coreOf, signal_cores, logEvent_cores]
    exact coreOf_detainStop d v

theorem ueEvent_detained {d : Dev} {v : Nat} (g : Nat) (hv : v < gridCores d) :
    (coreOf (ueEvent d g (some v)) v).state = .detained := by
  rw [ueEvent_some]
  exact detainCore_detained 1 (by rwa [gridCores, ueNoted_fuses])

/-! ### Where an access meets an uncorrectable error -/

theorem badMergeSpan_congr {d e : Dev} (h : ∀ a n, badMergeIn e a n = badMergeIn d a n) (k a n : Nat) :
    badMergeSpan e k a n = badMergeSpan d k a n := by
  induction k generalizing a n with
  | zero => rfl
  | succ k ih => simp only [badMergeSpan, h, ih]

/-- The registers of a controller have no part in where words lie. -/
@[simp] theorem rdBad_modHbm (d : Dev) (c : Nat) (f : HbmCtl → HbmCtl) (a n : Nat) : rdBad (modHbm d c f) a n = rdBad d a n := rfl
@[simp] theorem badMerge_modHbm (d : Dev) (c : Nat) (f : HbmCtl → HbmCtl) (a n : Nat) :
    badMerge (modHbm d c f) a n = badMerge d a n := by
  simp only [badMerge, modHbm_badWords, badMergeSpan_congr (d := d) (e := modHbm d c f) fun _ _ => rfl]

/-- A read whose first word is bad finds the granule of that word. -/
theorem rdBad_of_first_bad {d : Dev} {a n : Nat} (hn : 0 < n) (h : placeOf d a / 8 ∈ d.badWords) :
    rdBad d a n = some (placeOf d a / 64 * 64) := by
  obtain ⟨m, rfl⟩ : ∃ m, n = m + 1 := ⟨n - 1, by omega⟩
  have hne : d.badWords.isEmpty = false := by
    cases hw : d.badWords with
    | nil => rw [hw] at h; cases h
    | cons => rfl
  simp [rdBad, hne, List.range_succ_eq_map, h]

/-! ### HBM_ACCESS -/

/-- A word is marked as one with an uncorrectable error. -/
def markBad (d : Dev) (w : Nat) : Dev := { d with badWords := w :: d.badWords.filter (· != w) }

/-- What an ECC check leaves before the data moves: controller `c` counts a single-bit error, and an uncorrectable one marks word `w`. -/
def eccNoted (d : Dev) (c w : Nat) : Ecc → Dev
  | .clean => d
  | .single => modHbm d c (fun h => { h with ceCnt := satAdd h.ceCnt 1 })
  | .uncorrectable => markBad d w

theorem exec_hbmAccess (s : State) (core : Option Nat) (addr len : Nat) (wr : Option (List Byte)) (ecc : Ecc) :
    exec (.hbmAccess core addr len wr ecc) s = goes s (hbmAccessAt s.dev core addr len wr ecc) := rfl

theorem servesNot_eq_true_iff {d : Dev} {core : Option Nat} {wr : Option (List Byte)} :
    servesNot d core wr.isSome = true ↔ d.det.device = true ∧ (wr ≠ none ∨ core ≠ none) := by
  simp [servesNot, Option.isSome_iff_ne_none]

/-- The data of a served access moves, as far as the words on its way let it. -/
def hbmMoves (d : Dev) (core : Option Nat) (addr len : Nat) : Option (List Byte) → Dev
  | none =>
    match rdBad d addr len with
    | some g => ueEvent d g core
    | none => emit d (.readData addr (rdBytes d addr len))
  | some bs =>
    match badMerge d addr len with
    | some (stop, g) => ueEvent (wrBytes d addr (bs.take (stop - addr))) g core
    | none => wrBytes d addr bs

theorem hbmAccessAt_refused {d : Dev} {core : Option Nat} {addr len : Nat} {wr : Option (List Byte)} (ecc : Ecc)
    (h : (hbmOf d (hbmCtlOf d addr)).state ≠ .ready ∨ servesNot d core wr.isSome = true) :
    hbmAccessAt d core addr len wr ecc = d := by
  unfold hbmAccessAt
  exact if_pos (by rcases h with h | h <;> simp [h])

theorem hbmAccessAt_served {d : Dev} {core : Option Nat} {addr len : Nat} {wr : Option (List Byte)} (ecc : Ecc) (hlen : 0 < len)
    (hfit : addr + len ≤ hbmCap d) (hwr : ∀ bs ∈ wr, bs.length = len) (hready : (hbmOf d (hbmCtlOf d addr)).state = .ready)
    (hdet : servesNot d core wr.isSome = false) :
    hbmAccessAt d core addr len wr ecc =
      hbmMoves (eccNoted d (hbmCtlOf d addr) (placeOf d addr / 8) ecc) core addr len wr := by
  have hlength : (wr.map (·.length)).getD len = len := by
    cases wr with
    | none => rfl
    | some bs => exact hwr bs rfl
  unfold hbmAccessAt
  refine (if_neg (by simp [hready, hdet, hlength]; omega)).trans ?_
  cases ecc <;> cases wr <;> rfl

/-- Settles O30: a served access is `hbmMoves` on what its ECC check leaves, and an error is the event `ueNoted` with the Detention of its
core. -/
theorem hbmAccess : Obligations.HbmAccess := by
  refine ⟨fun s core addr len hlen hfit => ?_, fun d g => ⟨ueEvent_none d g, ueEvent_some d g, fun v hv => ueEvent_detained g hv⟩⟩
  let found := eccNoted s.dev (hbmCtlOf s.dev addr) (placeOf s.dev addr / 8)
  refine ⟨fun hready hdet => ?read, fun hready hdet bs hbs => ?write, fun wr ecc h => ?refused⟩
  case read =>
    have hserves : servesNot s.dev core false = false := by
      simp only [servesNot, Bool.false_or, Bool.and_eq_false_imp]
      intro h
      rw [hdet h]; rfl
    have hrow (ecc : Ecc) : exec (.hbmAccess core addr len none ecc) s = goes s (hbmMoves (found ecc) core addr len none) := by
      rw [exec_hbmAccess, hbmAccessAt_served ecc hlen hfit (by simp) hready hserves]
    refine ⟨fun hbad => ?_, fun g hbad => ?_, ?_⟩
    · simp only [hrow, found, eccNoted, hbmMoves, rdBad_modHbm, hbad]
      exact ⟨rfl, rfl⟩
    · simp only [hrow, found, eccNoted, hbmMoves, rdBad_modHbm, hbad, and_self]
    · have hbad := rdBad_of_first_bad (d := found .uncorrectable) hlen List.mem_cons_self
      rw [hrow, hbmMoves, hbad]
      rfl
  case write =>
    have hrow (ecc : Ecc) : exec (.hbmAccess core addr len (some bs) ecc) s = goes s (hbmMoves (found ecc) core addr len (some bs)) := by
      rw [exec_hbmAccess, hbmAccessAt_served ecc hlen hfit (by simp [hbs]) hready (by simp [servesNot, hdet])]
    refine ⟨fun hbad => ?_, fun stop g hbad => ?_, ?_⟩
    · simp only [hrow, found, eccNoted, hbmMoves, badMerge_modHbm, hbad, and_self]
    · simp only [hrow, found, eccNoted, hbmMoves, badMerge_modHbm, hbad, and_self]
    · rw [hrow]
      rfl
  case refused =>
    rw [exec_hbmAccess, hbmAccessAt_refused ecc (h.imp_right servesNot_eq_true_iff.mpr)]

end Sys2Proof.Machine
end

section
/-!
The upkeep of an HBM controller (R297, R298, R303, R326, R327) and its training (R304): refresh, temperature and scrub, and what each
outcome of the training leaves.
-/
namespace Sys2Proof.Machine
open Sys2Proof.Safety

/-! ### REFRESH and TEMPERATURE_REPORT -/

theorem exec_refresh {s : State} {c : Nat} (hc : c < 12) : exec (.refresh c) s = goes s (refreshAt s.dev c) :=
  congrArg (goes s) (if_pos hc)
theorem exec_temperatureReport {s : State} {c : Nat} (hc : c < 12) (deg : BitVec 8) :
    exec (.temperatureReport c deg) s = goes s (temperatureAt s.dev c deg) :=
  congrArg (goes s) (if_pos hc)

/-! ### SCRUB -/

theorem exec_scrub {s : State} {c : Nat} (hc : c < 12) (found : Option (Nat × Ecc)) :
    exec (.scrub c found) s = goes s (scrubAt s.dev c found) :=
  congrArg (goes s) (if_pos hc)

/-- A scrub period begins: the programmed enable and period take effect (R327). -/
def scrubPeriodStarts (d : Dev) (c : Nat) : Dev :=
  modHbm d c (fun h => { h with scrubEnNow := h.scrubEn, scrubPeriodNow := h.scrubPeriod })

section
variable (d : Dev) (c : Nat)

theorem scrubAt_none : scrubAt d c none = scrubPeriodStarts d c := by
  simp only [scrubAt, ite_self]
  rfl
theorem scrubAt_clean (a : Nat) : scrubAt d c (some (a, .clean)) = scrubPeriodStarts d c := by
  simp only [scrubAt, ite_self]
  rfl

variable {d c}

/-- A controller that does not scrub, or is told of another's address, starts its period and does nothing more. -/
theorem scrubAt_idle {a : Nat} (ecc : Ecc) (h : (hbmOf d c).scrubEn = false ∨ pfault d (0x90014 + 0x100 * c) = true ∨
    (hbmOf d c).state ≠ .ready ∨ hbmCap d ≤ a ∨ hbmCtlOf d a ≠ c) : scrubAt d c (some (a, ecc)) = scrubPeriodStarts d c := by
  unfold scrubAt
  by_cases hidle : (hbmOf d c).scrubEn = false ∨ pfault d (0x90014 + 0x100 * c) = true ∨ (hbmOf d c).state ≠ .ready
  · refine if_pos ?_
    rcases hidle with h | h | h <;> simp [h]
  · have helse : hbmCap d ≤ a ∨ hbmCtlOf d a ≠ c := by tauto
    refine (ite_eq_left_iff.mpr fun _ => if_pos ?_)
    rcases helse with h | h <;> simp [h]

section
variable {a : Nat} (hc : c < 12) (hen : (hbmOf d c).scrubEn = true) (hfault : pfault d (0x90014 + 0x100 * c) = false)
  (hready : (hbmOf d c).state = .ready) (ha : a < hbmCap d) (hctl : hbmCtlOf d a = c)
include hc hen hfault hready ha hctl

theorem scrubAt_single : scrubAt d c (some (a, .single)) =
    modHbm (scrubPeriodStarts d c) c (fun h => { h with ceCnt := satAdd h.ceCnt 1 }) := by
  unfold scrubAt
  exact (if_neg (by simp [hc, hen, hfault, hready])).trans (if_neg (by simp [ha, hctl]))
theorem scrubAt_uncorrectable : scrubAt d c (some (a, .uncorrectable)) = scrubUe (scrubPeriodStarts d c) c a := by
  unfold scrubAt
  exact (if_neg (by simp [hc, hen, hfault, hready])).trans (if_neg (by simp [ha, hctl]))

end
end

/-- An uncorrectable error outside the cached pages is counted, recorded and logged (R303). -/
theorem scrubUe_uncached {d : Dev} {c a : Nat} (h : cachedAt d a = none) : scrubUe d c a =
    logEvent (modHbm (markBad d (a / 8)) c (fun h => { h with ueCnt := satAdd h.ueCnt 1, ueAddr := BitVec.ofNat 48 (a / 64 * 64) }))
      0x0602 (0xE0 + c) c (leBytes 6 (a / 64 * 64)) := by
  have hcached : cachedAt (markBad d (a / 8)) a = none := h
  rw [markBad] at hcached
  simp only [scrubUe, hcached]
  rfl
/-- One in a cached page empties the way of a clean page, and detains the device over a dirty one (R326). -/
theorem scrubUe_cached {d : Dev} {c a p : Nat} {l : CacheLine} (h : cachedAt d a = some (p, l)) : scrubUe d c a =
    if l.dirty then detainDevice (tierErrorEvent (markBad d (a / 8)) p l.page 1) 0x2
    else tierErrorEvent (emptyWay (markBad d (a / 8)) p l.set l.way) p l.page 0 := by
  have hcached : cachedAt (markBad d (a / 8)) a = some (p, l) := h
  rw [markBad] at hcached
  simp only [scrubUe, hcached]
  rfl

/-! ### HBM_TRAINING -/

theorem exec_hbmTraining (s : State) (c : Nat) (ok : Bool) : exec (.hbmTraining c ok) s = goes s (trainHbm s.dev c ok) := rfl

section
variable {d : Dev} {c : Nat} {ok : Bool}

theorem trainHbm_stays (h : (hbmOf d c).state ≠ .training ∨ (pacerOf d (224 + c)).state = .inReset ∨
    (pacerOf d (224 + c)).state = .trimming) : trainHbm d c ok = d := by
  unfold trainHbm
  refine if_pos ?_
  rcases h with h | h | h <;> simp [h]

/-- A controller under training whose pacer has trimmed or failed ends its training. -/
theorem trainHbm_ends (hc : c < 12) (ht : (hbmOf d c).state = .training)
    (hp : (pacerOf d (224 + c)).state = .stable ∨ (pacerOf d (224 + c)).state = .failed) :
    trainHbm d c ok = if ok = true ∧ (pacerOf d (224 + c)).released = true
      then modHbm d c (fun h => { h with state := .ready, selfRefresh := false })
      else detainDevice (logEvent (modHbm d c (fun h => { h with state := .failed })) 0x0604 (0xE0 + c) c (leBytes 1 c)) 0x3 := by
  unfold trainHbm
  refine (if_neg (by rcases hp with hp | hp <;> simp [hc, ht, hp])).trans ?_
  simp only [Bool.and_eq_true]
  rfl

end

/-- Settles O31, each row by what it does to its controller (`refreshAt`, `temperatureAt`, `scrubAt`, `trainHbm`). -/
theorem hbmUpkeepAndTraining : Obligations.HbmUpkeepAndTraining := by
  refine ⟨fun s c hc => ⟨exec_refresh hc, exec_temperatureReport hc, ?_, fun a ecc => ⟨?_, fun h => ?_⟩,
    fun a hen hfault hready ha hctl => ⟨?_, ?_⟩⟩, fun s c ok hc => ⟨fun h => ?_, fun ht hp => ?_⟩⟩
  · rw [exec_scrub hc, scrubAt_none]; rfl
  · rw [exec_scrub hc, scrubAt_clean]; rfl
  · rw [exec_scrub hc, scrubAt_idle ecc h]; rfl
  · rw [exec_scrub hc, scrubAt_single hc hen hfault hready ha hctl, scrubPeriodStarts, modHbm_modHbm]
  · rw [exec_scrub hc, scrubAt_uncorrectable hc hen hfault hready ha hctl]
    split
    · next hcached => rw [scrubUe_uncached (d := scrubPeriodStarts s.dev c) hcached]; rfl
    · next hcached => rw [scrubUe_cached (d := scrubPeriodStarts s.dev c) hcached]; rfl
  · rw [exec_hbmTraining, trainHbm_stays h]
  · rw [exec_hbmTraining, trainHbm_ends hc ht hp]

end Sys2Proof.Machine
end

section
/-!
The CXL ports (R307 to R310, R301, R350, R452): their bring-up, retries, polled records, poisoned responses, and a link that goes down.
-/
namespace Sys2Proof.Machine
open Sys2Proof.Safety

/-! ### Bring-up (R307, R308) -/

theorem exec_cxlEnumerate (s : State) (p : Nat) (rate : CxlRate) (lanes : Nat) (mem : Bool) (hdm : Nat) :
    exec (.cxlEnumerate p rate lanes mem hdm) s = goes s (cxlEnumerateAt s.dev p rate lanes mem hdm) := rfl
theorem exec_memoryActive (s : State) (p capacity : Nat) :
    exec (.memoryActive p capacity) s = goes s (memoryActiveAt s.dev p capacity) := rfl
theorem exec_memoryActiveTimeout (s : State) (p : Nat) : exec (.memoryActiveTimeout p) s = goes s (memoryTimeoutAt s.dev p) := rfl

/-- The port trains next: the Syllabus is active, the Registrar runs its firmware, and no device has been accepted yet. -/
def mayTrain (d : Dev) (p : Nat) : Prop :=
  d.host.syll = true ∧ d.reg.fw = true ∧ (cxlOf d p).link = .training ∧
    (cxlOf d p).waitActive = false ∧ (cxlOf d p).active = false

section
variable {d : Dev} {p : Nat} {rate : CxlRate} {lanes hdm : Nat} {mem : Bool}

theorem cxlEnumerateAt_stays (h : ¬ mayTrain d p) : cxlEnumerateAt d p rate lanes mem hdm = d := by
  unfold cxlEnumerateAt
  refine if_pos ?_
  by_contra hn
  have htrain : p ≤ 1 ∧ mayTrain d p := by simpa [mayTrain, syllActive, and_assoc] using hn
  exact h htrain.2

theorem cxlEnumerateAt_trains (hp : p < 2) (h : mayTrain d p) : cxlEnumerateAt d p rate lanes mem hdm =
    if rate = .down ∨ lanes ∉ [16, 8, 4, 2, 1] ∨ mem = false ∨ hdm = 0 then cxlDown d p
    else modCxl d p (fun c => { c with
      link := if rate = .gt64 then .up64 else .up32, lanes := BitVec.ofNat 5 lanes, waitActive := true }) := by
  obtain ⟨hsyll, hfw, hlink, hwait, hactive⟩ := h
  unfold cxlEnumerateAt
  refine (if_neg (by simp [syllActive, hp, hsyll, hfw, hlink, hwait, hactive])).trans ?_
  cases rate <;> simp [or_assoc]

theorem memoryActiveAt_stays {capacity : Nat} (h : (cxlOf d p).waitActive = false) : memoryActiveAt d p capacity = d := by
  unfold memoryActiveAt
  exact if_pos (by simp [h])
theorem memoryTimeoutAt_stays (h : (cxlOf d p).waitActive = false) : memoryTimeoutAt d p = d := if_pos (by simp [h])

theorem memoryActiveAt_waiting {capacity : Nat} (hp : p < 2) (h : (cxlOf d p).waitActive = true) : memoryActiveAt d p capacity =
    logEvent (modCxl d p (fun c =>
      { c with active := true, waitActive := false, cap := BitVec.ofNat 14 (min capacity 8192), hdmBase := boardBase p,
               hdmSize := min capacity 8192 * 0x10000000, memEnable := true })) 0x0701 srcRegistrar p
      (leBytes 1 (if (cxlOf d p).link = .up64 then 2 else 3) ++ leBytes 1 (cxlOf d p).lanes.toNat ++ leBytes 4 (min capacity 8192)) := by
  unfold memoryActiveAt
  exact if_neg (by simp [hp, h])
theorem memoryTimeoutAt_waiting (hp : p < 2) (h : (cxlOf d p).waitActive = true) : memoryTimeoutAt d p = cxlDown d p :=
  if_neg (by simp [hp, h])

end

/-! ### Retries, records and a link that goes down (R309, R310, R452) -/

theorem exec_linkRetry (s : State) (p : Nat) : exec (.linkRetry p) s = goes s (linkRetryAt s.dev p) := rfl
theorem exec_cxlLinkDown (s : State) (p : Nat) : exec (.cxlLinkDown p) s = goes s (cxlLinkDownAt s.dev p) := rfl
theorem exec_eventRecordPoll (s : State) (p : Nat) (rs : List (List Byte)) :
    exec (.eventRecordPoll p rs) s = goes s (eventPollAt s.dev p rs) := rfl

theorem cxlUp_iff {d : Dev} {p : Nat} : cxlUp d p = true ↔ (cxlOf d p).link = .up64 ∨ (cxlOf d p).link = .up32 := by
  simp [cxlUp]

section
variable {d : Dev} {p : Nat}

theorem linkRetryAt_up (hp : p < 2) (h : cxlUp d p = true) :
    linkRetryAt d p = modCxl d p (fun c => { c with retry := satAdd c.retry 1 }) := if_pos (by simp [hp, h])
theorem linkRetryAt_down (h : cxlUp d p = false) : linkRetryAt d p = d := if_neg (by simp [h])
theorem cxlLinkDownAt_up (hp : p < 2) (h : cxlUp d p = true) : cxlLinkDownAt d p = cxlGone (failBoard d p) p :=
  if_neg (by simp [hp, h])
theorem cxlLinkDownAt_down (h : cxlUp d p = false) : cxlLinkDownAt d p = d := if_pos (by simp [h])

/-- With no transfer in flight, none is put through anything. -/
theorem eachXfer_idle {f : Engine → Dev → Nat → Dev} (h : ∀ e ∈ engines d, (strmOf d e).xfers = []) : eachXfer d f = d := by
  refine List.foldlRecOn (motive := (· = d)) (engines d) _ rfl fun d' hd e he => ?_
  rw [hd, h e he]
  rfl

/-- The accesses that wait fail one after another, then the port is down and its range unpopulated. -/
theorem cxlGone_eq (d : Dev) (p : Nat) : cxlGone d p = signal (logEvent (modCxl
    (((cxlOf d p).filling.flatMap (·.2)).foldl (fun e w => ueEvent e (w.addr / 64 * 64) w.core) d) p (fun c =>
      { c with filling := [], link := .down, lanes := 0, cap := 0, active := false, waitActive := false, memEnable := false }))
    0x0702 srcRegistrar p (leBytes 1 p)) 15 := by
  rw [cxlGone, cxlDown, modCxl_modCxl]
  rfl

theorem eventPollAt_polled {rs : List (List Byte)} (hp : p < 2) (ha : (cxlOf d p).active = true) (hfw : d.reg.fw = true) :
    eventPollAt d p rs = rs.foldl (fun e r => logEvent e 0x0703 srcRegistrar p (slice r 0 12)) d := if_neg (by simp [hp, ha, hfw])
theorem eventPollAt_stays {rs : List (List Byte)} (h : (cxlOf d p).active = false ∨ d.reg.fw = false) : eventPollAt d p rs = d :=
  if_pos (by rcases h with h | h <;> simp [h])

end

/-! ### Poisoned responses (R301, R309, R350) -/

theorem exec_poisonedResponse (s : State) (by_ : Reader) (a : Nat) :
    exec (.poisonedResponse by_ a) s = goes s (poisonedAt s.dev by_ a) := rfl

theorem meets_iff {a n b m : Nat} : meets a n b m = true ↔ 0 < n ∧ 0 < m ∧ a < b + m ∧ b < a + n := by
  simp [meets, Nat.pos_iff_ne_zero, and_assoc]

/-- A transfer reads the line of an address when one of the ranges that it reads on this device meets the line. -/
theorem readsLine_iff {d : Dev} {t : Tx} {a : Nat} : readsLine d t a = true ↔
    ∃ r ∈ txReads t, isSelf d (r.1 / 2 ^ 48) = true ∧ 0 < r.2 ∧ r.1 % 2 ^ 48 < a / 64 * 64 + 64 ∧
      a / 64 * 64 < r.1 % 2 ^ 48 + r.2 := by
  simp only [readsLine, List.any_eq_true, Bool.and_eq_true, meets_iff, Nat.zero_lt_succ, true_and]

section
variable {d : Dev} {a : Nat}

theorem poisonedAt_elsewhere {by_ : Reader} (h : ∀ q, addrKind d a ≠ .board q) : poisonedAt d by_ a = d := by
  unfold poisonedAt
  split
  · next q hq => exact absurd hq (h q)
  · rfl

variable {p : Nat} (h : addrKind d a = .board p)
include h

theorem poisonedAt_core (v : Nat) : poisonedAt d (.core v) a = ueEvent d (a / 64 * 64) (some v) := by simp only [poisonedAt, h]
theorem poisonedAt_none : poisonedAt d .none a = ueEvent d (a / 64 * 64) none := by simp only [poisonedAt, h]
theorem poisonedAt_xfer {e : Engine} {slot : Nat} {x : Xfer} (hx : xferOf d e slot = some x) :
    poisonedAt d (.xfer e slot) a = if x.status = 0 ∧ readsLine d (xferTx d e x) a = true then failXfer d e x a else d := by
  simp [poisonedAt, h, hx]
theorem poisonedAt_request {hdr : BitVec 256} (hop : (bulkOf hdr).op = 2) (hst : requestStatus d (bulkOf hdr) (.put []) = 0)
    (hmeets : meets (bulkOf hdr).addr (bits (bulkOf hdr).aux 0 12) (a / 64 * 64) 64 = true) :
    poisonedAt d (.request hdr) a = sendBulk (ueEvent d (a / 64 * 64) none) (statusFor d (bulkOf hdr) 6) [] 12 := by
  simp [poisonedAt, h, hop, hst, hmeets]

end

/-- Settles O32: the rows of the bring-up, then each row of the errors by the lemma that says what it does. -/
theorem cxlPorts : Obligations.CxlPorts := by
  refine ⟨fun s p hp => ⟨fun rate lanes hdm mem => ⟨fun h => ?_, fun h => ?_⟩, fun hw => ⟨?_, fun capacity => ?_⟩,
    fun hw => ⟨?_, fun capacity => ?_⟩⟩, fun s p hp => ⟨fun hup => ⟨?retry, ?gone, eachXfer_idle⟩, fun h64 h32 => ?down,
    fun rs => ⟨fun ha hfw => ?_, fun h => ?_⟩, fun a ha => ⟨fun v => ?_, ?_, fun e slot x hx => ⟨?fails, ?spared⟩, ?request⟩,
    fun a by_ h => ?_⟩⟩
  · rw [exec_cxlEnumerate, cxlEnumerateAt_trains hp h]; rfl
  · rw [exec_cxlEnumerate, cxlEnumerateAt_stays h]
  · rw [exec_memoryActiveTimeout, memoryTimeoutAt_waiting hp hw]; rfl
  · rw [exec_memoryActive, memoryActiveAt_waiting hp hw]; rfl
  · rw [exec_memoryActiveTimeout, memoryTimeoutAt_stays hw]
  · rw [exec_memoryActive, memoryActiveAt_stays hw]
  case retry => rw [exec_linkRetry, linkRetryAt_up hp (cxlUp_iff.mpr hup)]
  case gone => rw [exec_cxlLinkDown, cxlLinkDownAt_up hp (cxlUp_iff.mpr hup), cxlGone_eq]; rfl
  case down =>
    have hdown : cxlUp s.dev p = false := by simpa [cxlUp] using And.intro h64 h32
    rw [exec_linkRetry, linkRetryAt_down hdown, exec_cxlLinkDown, cxlLinkDownAt_down hdown]
    exact ⟨rfl, rfl⟩
  · rw [exec_eventRecordPoll, eventPollAt_polled hp ha hfw]; rfl
  · rw [exec_eventRecordPoll, eventPollAt_stays h]
  · rw [exec_poisonedResponse, poisonedAt_core ha]
  · rw [exec_poisonedResponse, poisonedAt_none ha]
  case fails =>
    rintro hst hreads v rfl
    rw [exec_poisonedResponse, poisonedAt_xfer ha hx, if_pos ⟨hst, readsLine_iff.mpr hreads⟩]
    rfl
  case spared =>
    intro hnot
    rw [exec_poisonedResponse, poisonedAt_xfer ha hx, if_neg]
    rintro ⟨hst, hreads⟩
    exact hnot.elim (fun h => h hst) (fun h => h (readsLine_iff.mp hreads))
  case request =>
    intro hdr hop hst hpos hlow hhigh
    rw [exec_poisonedResponse, poisonedAt_request ha hop hst (meets_iff.mpr ⟨hpos, by decide, hlow, hhigh⟩)]
  · rw [exec_poisonedResponse, poisonedAt_elsewhere h]

end Sys2Proof.Machine
end

section
/-!
TIER_ACCESS in large mode (R301, R316 to R318, R324, R326, R403): `tierAccessAt` case by case, and what an uncorrectable error in a
cached page does.
-/
namespace Sys2Proof.Machine
open Sys2Proof.Safety

/-! ### The dirty log and the ECC count -/

theorem boardBase_le {a p : Nat} (h : boardPort a = some p) : boardBase p ≤ a := by
  unfold boardPort at h
  split at h
  · cases h; omega
  · split at h
    · cases h; omega
    · cases h

theorem acceptAccess_read (d : Dev) (p addr plc : Nat) : acceptAccess d p addr none plc = d := by simp [acceptAccess]

/-- The count of a single-bit error has no part in what a write leaves in the dirty log. -/
theorem acceptAccess_modHbm (d : Dev) (c : Nat) (f : HbmCtl → HbmCtl) (p addr : Nat) (wr : Option (List Byte)) (plc : Nat) :
    acceptAccess (modHbm d c f) p addr wr plc = modHbm (acceptAccess d p addr wr plc) c f := by
  have hplace (a : Nat) (bs : List Byte) : (wrPlace (modHbm d c f) a bs).1 = modHbm (wrPlace d a bs).1 c f := by
    simp only [wrPlace, apply_ite Prod.fst, apply_ite (modHbm · c f)]
    rfl
  have hlog (page : Nat) : setLogBit (modHbm d c f) p page = modHbm (setLogBit d p page) c f := by
    simp only [setLogBit, hplace, apply_ite (modHbm · c f)]
    rfl
  simp only [acceptAccess, hlog, apply_ite (modHbm · c f)]
  rfl

theorem acceptAccess_badWords {d : Dev} (hb : d.badWords = []) (p addr : Nat) (wr : Option (List Byte)) (plc : Nat) :
    (acceptAccess d p addr wr plc).badWords = [] := by
  have hlog (page : Nat) : (setLogBit d p page).badWords = [] := by
    unfold setLogBit wrPlace
    simp only [hb, List.isEmpty_nil, if_true]
    split <;> simp [hb]
  unfold acceptAccess
  split
  · exact hlog _
  · exact hb

theorem rdBad_of_clean {d : Dev} (hb : d.badWords = []) (a n : Nat) : rdBad d a n = none := by simp [rdBad, hb]
theorem badMerge_of_clean {d : Dev} (hb : d.badWords = []) (a n : Nat) : badMerge d a n = none := by simp [badMerge, hb]
theorem healClean_of_clean {d : Dev} (hb : d.badWords = []) (p addr len : Nat) (wr : Bool) : healClean d p addr len wr = d := by
  simp [healClean, hb]

/-- An access that hits where no word is bad is accepted and served. -/
theorem tierHit_of_clean {d : Dev} (hb : d.badWords = []) (core : Option Nat) (p addr len : Nat) (wr : Option (List Byte)) (plc : Nat) :
    tierHit d core p addr len wr plc = if wr.isSome then tierServe (acceptAccess d p addr wr plc) p addr len wr plc
      else tierAnswer d p addr len none plc := by
  cases wr with
  | none => simp [tierHit, healClean_of_clean hb, acceptAccess_read, rdBad_of_clean hb]
  | some bs => simp [tierHit, healClean_of_clean hb, badMerge_of_clean (acceptAccess_badWords hb p addr _ plc)]

/-- A single-bit error in the way is counted first. -/
theorem tierHit_counted {d : Dev} (hb : d.badWords = []) (c : Nat) (f : HbmCtl → HbmCtl) (core : Option Nat) (p addr len : Nat)
    (wr : Option (List Byte)) (plc : Nat) : tierHit (modHbm d c f) core p addr len wr plc =
      if wr.isSome then tierServe (modHbm (acceptAccess d p addr wr plc) c f) p addr len wr plc
      else tierAnswer (modHbm d c f) p addr len none plc := by
  rw [tierHit_of_clean (d := modHbm d c f) hb, acceptAccess_modHbm]

/-! ### The cases of the row -/

theorem exec_tierAccess (s : State) (core : Option Nat) (addr len : Nat) (wr : Option (List Byte)) (plc : BitVec 3) (ecc : Ecc) :
    exec (.tierAccess core addr len wr plc ecc) s = goes s (tierAccessAt s.dev core addr len wr plc.toNat ecc) := rfl

/-- What a served access does: it waits behind the fill of its page, hits the page's line, or by its PLC starts a fill or is served at
once. -/
def tierTakes (d : Dev) (core : Option Nat) (p addr len : Nat) (wr : Option (List Byte)) (plc : BitVec 3) (ecc : Ecc) : Dev :=
  let page := boardPage p addr
  let wait : TierWait := { core := core, addr := addr, len := len, wr := wr, plc := plc }
  let accepted := acceptAccess d p addr wr plc.toNat
  match mapGet? (cxlOf d p).filling page with
  | some ws => modCxl accepted p (fun c => { c with filling := mapPut c.filling page (ws ++ [wait]) })
  | none =>
    match lineOf d p page with
    | some l =>
      let here := wayAddr d p l.set l.way + (addr - boardBase p) % 0x10000
      tierHit (eccNoted d (hbmCtlOf d here) (here / 8) ecc) core p addr len wr plc.toNat
    | none =>
      if (plc = 0 ∨ plc = 2) ∧ tierSets d p ≠ 0 ∧ (wr.isSome = true → len ≠ 0x10000) then
        modCxl accepted p (fun c => { c with miss := satAdd c.miss 1, filling := mapPut c.filling page [wait] })
      else if wr.isSome then tierServe accepted p addr len wr plc.toNat
      else tierAnswer d p addr len wr plc.toNat

/-- An access within one page of a populated board range, in large mode. -/
structure InTier (d : Dev) (p addr len : Nat) (plc : BitVec 3) (wr : Option (List Byte)) : Prop where
  port : boardPort addr = some p
  large : tierLarge d = true
  pos : 0 < len
  fits : addr - boardBase p + len ≤ boardCap d p
  onePage : (addr - boardBase p) % 0x10000 + len ≤ 0x10000
  plc : plc.toNat ≤ 3
  length : ∀ bs, wr = some bs → bs.length = len

section
variable {d : Dev} {p addr len : Nat} {plc : BitVec 3} {wr : Option (List Byte)} (h : InTier d p addr len plc wr) (core : Option Nat)
  (ecc : Ecc)
include h

theorem InTier.refused (hdet : servesNot d core wr.isSome = true) : tierAccessAt d core addr len wr plc.toNat ecc = d := by
  simp [tierAccessAt, h.port, hdet]

theorem InTier.served (hdet : servesNot d core wr.isSome = false) :
    tierAccessAt d core addr len wr plc.toNat ecc = tierTakes d core p addr len wr plc ecc := by
  have hlength : (wr.map (·.length)).getD len = len := by
    cases wr with
    | none => rfl
    | some bs => exact h.length bs rfl
  have hfills : ((plc.toNat == 0 || plc.toNat == 2) && tierSets d p != 0 && !(wr.isSome && len == 0x10000)) =
      decide ((plc = 0 ∨ plc = 2) ∧ tierSets d p ≠ 0 ∧ (wr.isSome = true → len ≠ 0x10000)) := by
    rw [Bool.eq_iff_iff]
    simp [BitVec.toNat_eq, and_assoc]
  unfold tierAccessAt
  simp only [h.port]
  refine (if_neg ?_).trans ?_
  · simp [h.large, h.fits, h.onePage, h.plc, hlength, hdet, Nat.pos_iff_ne_zero.mp h.pos]
  · simp only [BitVec.ofNat_toNat, BitVec.setWidth_eq, hfills, decide_eq_true_eq]
    cases ecc <;> rfl

end
/-! ### An uncorrectable error in a cached page (R301, R326) -/

theorem wayAddr_aligned {d : Dev} {p : Nat} (h : tierCbase (tierCfg d) p % 8 = 0) (set way : Nat) : wayAddr d p set way % 8 = 0 := by
  unfold wayAddr
  omega
/-- A marked word is in the way that holds it. -/
theorem badGranules_marked {d : Dev} (hb : d.badWords = []) (w base : Nat) : badGranules (markBad d w) base =
    if base ≤ 8 * w ∧ 8 * w < base + 0x10000 then [w / 8] else [] := by
  rw [badGranules, markBad, hb]
  by_cases h : base ≤ 8 * w ∧ 8 * w < base + 0x10000
  · simp [h, List.eraseDups_cons]
  · rw [if_neg h]
    simp [h]
/-- A device without a bad word loses none. -/
theorem clearWords_of_clean : ∀ {d : Dev}, d.badWords = [] → { d with badWords := [] } = d
  | ⟨_, _, _, _, _, _, _, _, _, _, _, _, _, _, _, _, _, _, _, _, _⟩, rfl => rfl

/-- The cache without the line in a way. -/
def dropWay (set way : Nat) (c : CxlPort) : CxlPort := { c with lines := c.lines.filter (fun m => !(m.set == set && m.way == way)) }

/-- The one line that holds the page of an address of port `p`, with the word `w` of its way at which an access of `n` bytes begins. -/
structure LineAt (d : Dev) (p addr n : Nat) (l : CacheLine) (w : Nat) : Prop where
  clean : d.badWords = []
  port : boardPort addr = some p
  pos : 0 < n
  onePage : (addr - boardBase p) % 0x10000 + n ≤ 0x10000
  only : (cxlOf d p).lines.filter (fun m => m.page == boardPage p addr) = [l]
  aligned : tierCbase (tierCfg d) p % 8 = 0
  word : w = (wayAddr d p l.set l.way + (addr - boardBase p) % 0x10000) / 8

section
variable {d : Dev} {p addr n w : Nat} {l : CacheLine} (h : LineAt d p addr n l w)
include h

theorem LineAt.marked : (markBad d w).badWords = [w] := by simp [markBad, h.clean]
theorem LineAt.line : lineOf d p (boardPage p addr) = some l := by
  rw [lineOf, ← List.head?_filter, h.only, List.head?_cons]
theorem LineAt.page : l.page = boardPage p addr := by
  simpa using List.find?_some h.line
theorem LineAt.eq_of_page {m : CacheLine} (hm : m ∈ (cxlOf d p).lines) (hpage : m.page = boardPage p addr) : m = l := by
  have hmem : m ∈ (cxlOf d p).lines.filter (fun m => m.page == boardPage p addr) := List.mem_filter.mpr ⟨hm, by simpa using hpage⟩
  rw [h.only] at hmem
  exact List.mem_singleton.mp hmem

/-- The marked word is one of the page of the access, and it meets the access in no other line. -/
theorem LineAt.findsBad_marked {m : CacheLine} (hm : m ∈ (cxlOf d p).lines) :
    findsBad (markBad d w) addr n false m p = (m.page == boardPage p addr) := by
  have hway : wayAddr (markBad d w) p m.set m.way = wayAddr d p m.set m.way := rfl
  have haligned := wayAddr_aligned h.aligned m.set m.way
  have habove := boardBase_le h.port
  have hone := h.onePage
  rw [Bool.eq_iff_iff]
  simp only [findsBad, h.marked, hway, List.map_cons, List.map_nil, List.any_cons, List.any_nil, Bool.or_false, Bool.false_and,
    Bool.not_false, Bool.and_true, Bool.and_eq_true, decide_eq_true_eq, beq_iff_eq]
  constructor
  · rintro ⟨⟨⟨-, hin⟩, hlow⟩, hhigh⟩
    unfold boardPage
    omega
  · intro hpage
    have hpos := h.pos
    have hword := h.word
    obtain rfl := h.eq_of_page hm hpage
    unfold boardPage at hpage
    omega

/-- The lines whose pages the access empties: its own, when it is clean. -/
theorem LineAt.heals : (cxlOf (markBad d w) p).lines.filter (fun m => !m.dirty && findsBad (markBad d w) addr n false m p) =
    if l.dirty then [] else [l] :=
  calc
    _ = (cxlOf d p).lines.filter (fun m => !m.dirty && (m.page == boardPage p addr)) :=
      List.filter_congr fun m hm => by rw [h.findsBad_marked hm]
    _ = ((cxlOf d p).lines.filter (fun m => m.page == boardPage p addr)).filter (fun m => !m.dirty) := List.filter_filter.symm
    _ = if l.dirty then [] else [l] := by
      rw [h.only]
      cases hd : l.dirty <;> simp [hd]

theorem LineAt.healClean_dirty (hd : l.dirty = true) : healClean (markBad d w) p addr n false = markBad d w := by
  rw [healClean, h.heals, hd]
  simp
theorem LineAt.healClean_clean (hd : l.dirty = false) : healClean (markBad d w) p addr n false =
    tierErrorEvent (emptyWay (markBad d w) p l.set l.way) p l.page 0 := by
  rw [healClean, h.heals, hd, h.marked]
  simp

/-- The way is emptied, and the marked word with it. -/
theorem LineAt.emptyWay_marked : emptyWay (markBad d w) p l.set l.way =
    modCxl d p (dropWay l.set l.way) := by
  have haligned := wayAddr_aligned h.aligned l.set l.way
  have hword := h.word
  have hin : wayAddr d p l.set l.way ≤ 8 * w ∧ 8 * w < wayAddr d p l.set l.way + 0x10000 := by omega
  have hgranules : badGranules (markBad d w) (wayAddr (markBad d w) p l.set l.way) = [w / 8] :=
    (badGranules_marked h.clean w _).trans (if_pos hin)
  have hwords : (markBad d w).badWords.filter (fun x => !(([w / 8] : List Nat).contains (x / 8))) = [] := by
    rw [h.marked]
    simp
  unfold emptyWay
  simp only [hgranules, modCxl_badWords, hwords]
  exact clearWords_of_clean (d := modCxl d p (dropWay l.set l.way)) h.clean

/-- In a clean page the error is logged, and the memory device serves the read. -/
theorem LineAt.tierHit_clean (hd : l.dirty = false) (core : Option Nat) (plc : Nat) : tierHit (markBad d w) core p addr n none plc =
    tierAnswer (tierErrorEvent (modCxl d p (dropWay l.set l.way)) p l.page 0) p addr n none plc := by
  have hclean : (tierErrorEvent (modCxl d p (dropWay l.set l.way)) p l.page 0).badWords = [] :=
    (logEvent_badWords ..).trans h.clean
  simp only [tierHit, Option.isSome_none, h.healClean_clean hd, h.emptyWay_marked, acceptAccess_read, rdBad_of_clean hclean]

/-- In a dirty page it is an uncorrectable error of the read, where no protected HBM range holds the address. -/
theorem LineAt.tierHit_dirty (hd : l.dirty = true) (hprot : protRange d addr = none) (core : Option Nat) (plc : Nat) :
    tierHit (markBad d w) core p addr n none plc = ueEvent (markBad d w) (placeOf d addr / 64 * 64) core := by
  have hplace : placeOf d addr = wayAddr d p l.set l.way + (addr - boardBase p) % 0x10000 := by
    simp only [placeOf, hprot, h.port, h.line]
  have hbad : rdBad (markBad d w) addr n = some (placeOf d addr / 64 * 64) :=
    rdBad_of_first_bad (d := markBad d w) h.pos (by rw [h.marked, h.word, ← hplace]; exact List.mem_singleton_self _)
  simp only [tierHit, Option.isSome_none, h.healClean_dirty hd, acceptAccess_read, hbad]

end

/-! ### A protected range that runs from HBM into board memory -/

/-- A COPY section with one protected range, which begins at HBM address 0 and runs past the base of port 0. -/
def copyBeyondHbm : CopyCfg :=
  { partner := 0, destBoard := false, stepBell := 0, hostFor := 0, slotBase := 0, slotSize := 0, work := 0, hostBase := 0,
    hostSize := 0, elapsed0 := 0, mtbf0 := 0, fail0 := 0, fixed := 0, ranges := [{ base := 0, pages := 0x800001, shadow := 0 }] }
/-- Page 0 of port 0 is cached and dirty, and the protected range holds it too. -/
def protectedBeyondHbm : State :=
  { dev :=
      { cxl := [(0, { link := .up64, cap := 1, lines := [{ set := 0, way := 0, page := 0, dirty := true }] })]
        ttl := { active := some { digest := 0, devices := 1, tier := { large := true }, copy := some copyBeyondHbm } } }
    shadow := {} }

/-- Refutes O33: where such a range holds the address, the address lies at its home frame (`placeOf`), so that the read does not touch
the bad word of the way and is served, where the statement has it fail. `rangeOk` admits no such range. With this case shut out,
`LineAt.tierHit_dirty` has the error, and `InTier.served` with `tierHit_of_clean`, `tierHit_counted` and `LineAt.tierHit_clean` the
rest of the row. -/
theorem not_tierAccess : ¬ Obligations.TierAccess := by
  intro hclaim
  obtain ⟨-, hserved⟩ := hclaim protectedBeyondHbm 0 none 0x100000000000 1 0 none (by decide +kernel) (by decide +kernel) (by decide)
    (by decide +kernel) (by decide +kernel) (by decide) nofun
  obtain ⟨-, -, hhit⟩ := hserved fun _ => ⟨rfl, rfl⟩
  obtain ⟨-, -, -, huncorrectable⟩ := hhit (by decide +kernel)
    { set := 0, way := 0, page := 0, dirty := true } (by decide +kernel) rfl
  obtain ⟨hdirty, -⟩ := huncorrectable rfl (by decide +kernel) (by decide +kernel)
  have hcount := congrArg (fun t : State => (cxlOf t.dev 0).ueCnt) (Host.Outcome.next.inj (hdirty rfl))
  exact absurd hcount (by decide +kernel)

end Sys2Proof.Machine
end

section
/-!
The upkeep of the tier cache (R300, R317, R318, R321, R325, R326): fills that end, write-backs, flushes and swaps of the dirty log. The
word in which a WRITE_BACK reports an uncorrectable error is a free value, on which the statement O34 turns.
-/
namespace Sys2Proof.Machine
open Sys2Proof.Safety

/-! ### PAGE_FILL (R317, R318) -/

theorem exec_pageFill {s : State} {p : Nat} (hp : p < 2) (page : Nat) : exec (.pageFill p page) s = goes s (finishFill s.dev p page) :=
  congrArg (goes s) (if_pos hp)

section
variable {d : Dev} {p page : Nat}

theorem finishFill_of_none (h : mapGet? (cxlOf d p).filling page = none) : finishFill d p page = d := by
  unfold finishFill
  rw [h]

/-- The page is in a way, and its fill no longer under way. -/
def pageFilled (d : Dev) (p page : Nat) : Dev :=
  let d1 := modCxl d p (fun c => { c with filling := mapDel c.filling page })
  if (lineOf d p page).isSome then d1 else fillPage d1 p page true

theorem lineOf_modCxl {f : CxlPort → CxlPort} (hf : (f (cxlOf d p)).lines = (cxlOf d p).lines) :
    lineOf (modCxl d p f) p page = lineOf d p page := by
  rw [lineOf, cxlOf_modCxl_same, hf, lineOf]

theorem finishFill_of_idle (h : mapGet? (cxlOf d p).filling page = some []) : finishFill d p page = pageFilled d p page := by
  unfold finishFill
  simp only [h, lineOf_modCxl (f := fun c => { c with filling := mapDel c.filling page }) rfl]
  rfl
theorem finishFill_of_waits {w : TierWait} {r : List TierWait} (h : mapGet? (cxlOf d p).filling page = some (w :: r)) :
    finishFill d p page = r.foldl (fun e x => tierAnswer e p x.addr x.len x.wr x.plc.toNat)
      (modCxl (tierAnswer (pageFilled d p page) p w.addr w.len w.wr w.plc.toNat) p (fun c =>
        { c with hit := (cxlOf (pageFilled d p page) p).hit })) := by
  unfold finishFill
  simp only [h, lineOf_modCxl (f := fun c => { c with filling := mapDel c.filling page }) rfl]
  rfl

end

/-! ### Detention of the device leaves it detained (R403) -/

section
variable (d : Dev)

@[simp] theorem wrBytes_det (a : Nat) (bs : List Byte) : (wrBytes d a bs).det = d.det := by rw [wrBytes_same d a bs]
@[simp] theorem undoUnits_det (unit : Nat → Nat) (cells : List Host.Cell) : (undoUnits d unit cells).det = d.det :=
  foldl_keeps _ Dev.det (fun e c => by split <;> simp) cells d
@[simp] theorem loseOwn_det (v : Nat) (detained : Bool) : (loseOwn d v detained).det = d.det :=
  foldl_keeps _ Dev.det (fun _ _ => logEvent_det ..) _ d
@[simp] theorem loseStolen_det (v : Nat) : (loseStolen d v).det = d.det := by
  refine foldl_keeps _ Dev.det (fun e u => ?_) _ d
  by_cases hu : u = v
  · rw [if_pos hu]
  · rw [if_neg hu]
    dsimp only
    split
    · rfl
    · exact foldl_keeps _ Dev.det (fun _ _ => logEvent_det ..) _ _
@[simp] theorem abandonCore_det (v : Nat) (keep : Bool) : (abandonCore d v keep).det = d.det := by
  simp [abandonCore, freeHands, dropHeld, undoBytes]
@[simp] theorem undoRing_det (v a : Nat) : (undoRing d v a).det = d.det := by
  unfold undoRing
  dsimp only
  split <;> simp
@[simp] theorem breakRing_det (r v a cause : Nat) : (breakRing d r v a cause).det = d.det := by
  unfold breakRing
  split
  · rfl
  · exact (logEvent_det ..).trans (foldl_keeps _ Dev.det (fun e m => by simp) _ _)
@[simp] theorem breakRingsOf_det (v cause : Nat) : (breakRingsOf d v cause).det = d.det := by
  refine foldl_keeps _ Dev.det (fun e a => ?_) _ d
  split
  · exact breakRing_det ..
  · rfl
@[simp] theorem detainStop_det (v : Nat) : (detainStop d v).det = d.det := by simp [detainStop]
@[simp] theorem copyStopRound_det (why : CopyLast) : (copyStopRound d why).det = d.det := by
  unfold copyStopRound
  split <;> simp

/-- A device that enters Detention is in it, with the cause of its entry. -/
theorem detainDevice_det (cause : Nat) : (detainDevice d cause).det =
    if d.det.device then d.det else { d.det with device := true, cause := BitVec.ofNat 4 cause } := by
  unfold detainDevice
  split
  · rfl
  · rw [signal_det, logEvent_det, foldl_keeps _ Dev.det (fun e k => modCtx_det e k _), copyStopRound_det,
      foldl_keeps _ Dev.det (fun e v => by split <;> simp)]

end
/-! ### WRITE_BACK (R300, R317, R326) -/

theorem exec_writeBack {s : State} {p : Nat} (hp : p < 2) (page : Nat) (ecc : Ecc) :
    exec (.writeBack p page ecc) s = goes s (writeBackAt s.dev p page ecc) :=
  congrArg (goes s) (if_pos hp)

/-- The page of a line is copied home whole, counted, and clean. -/
def pageWritten (d : Dev) (p : Nat) (l : CacheLine) : Dev :=
  modCxl { d with mem := memCopy d.mem (wayAddr d p l.set l.way) (boardBase p + l.page * 0x10000) 0x10000 } p (fun c =>
    { c with wb := satAdd c.wb 1, flushPages := c.flushPages.filter (· != l.page),
             lines := c.lines.map (fun x => if x.page == l.page then { x with dirty := false } else x) })

theorem writeBackLine_of_clean {d : Dev} (hb : d.badWords = []) (p : Nat) (l : CacheLine) : writeBackLine d p l = pageWritten d p l := by
  have hnone : badGranules d (wayAddr d p l.set l.way) = [] := by simp [badGranules, hb]
  unfold writeBackLine
  simp only [hnone, List.foldl_nil, List.isEmpty_nil, if_true, modLine, modLines, modCxl_modCxl]
  rfl

/-- A write-back detains the device over a granule with an uncorrectable error, and else leaves its Detention as it is. -/
theorem writeBackLine_det (d : Dev) (p : Nat) (l : CacheLine) : (writeBackLine d p l).det =
    if badGranules d (wayAddr d p l.set l.way) = [] ∨ d.det.device = true then d.det
    else { d.det with device := true, cause := 2 } := by
  unfold writeBackLine
  simp only [List.isEmpty_iff]
  by_cases hnone : badGranules d (wayAddr d p l.set l.way) = []
  · rw [if_pos hnone, if_pos (.inl hnone)]
    rfl
  · rw [if_neg hnone, detainDevice_det, tierErrorEvent, logEvent_det]
    simp only [hnone, false_or]
    rfl

section
variable {d : Dev} {p page : Nat} {l : CacheLine}

theorem writeBackAt_stays (ecc : Ecc) (h : ∀ l, lineOf d p page = some l → l.dirty = false) : writeBackAt d p page ecc = d := by
  unfold writeBackAt
  split
  · rfl
  · next l hl => exact if_pos (by simp [h l hl])

/-- The word of a way in which a WRITE_BACK reports an uncorrectable error. -/
def reportedWord (d : Dev) (page : Nat) : Nat := Config.freeNat d.freeCtr page % 0x2000

variable (hl : lineOf d p page = some l) (hd : l.dirty = true)
include hl hd

theorem writeBackAt_clean : writeBackAt d p page .clean = writeBackLine d p l := by simp [writeBackAt, hl, hd]
theorem writeBackAt_single : writeBackAt d p page .single = writeBackLine (modHbm d (hbmCtlOf d (wayAddr d p l.set l.way)) (fun h =>
    { h with ceCnt := satAdd h.ceCnt 1 })) p l := by simp [writeBackAt, hl, hd]
theorem writeBackAt_uncorrectable : writeBackAt d p page .uncorrectable =
    writeBackLine (draw (markBad d (wayAddr d p l.set l.way / 8 + reportedWord d page))) p l := by
  simp [writeBackAt, hl, hd, markBad, reportedWord]

/-- An error that a WRITE_BACK reports detains the device, unless the way does not begin at a word and the word is that before it. -/
theorem writeBackAt_uncorrectable_det (hb : d.badWords = []) : (writeBackAt d p page .uncorrectable).det =
    if (wayAddr d p l.set l.way % 8 ≠ 0 ∧ reportedWord d page = 0) ∨ d.det.device = true then d.det
    else { d.det with device := true, cause := 2 } := by
  have hword : reportedWord d page < 0x2000 := Nat.mod_lt _ (by decide)
  have hgranules := badGranules_marked hb (wayAddr d p l.set l.way / 8 + reportedWord d page) (wayAddr d p l.set l.way)
  have hnone : badGranules (markBad d (wayAddr d p l.set l.way / 8 + reportedWord d page)) (wayAddr d p l.set l.way) = [] ↔
      wayAddr d p l.set l.way % 8 ≠ 0 ∧ reportedWord d page = 0 := by
    rw [hgranules]
    simp only [ite_eq_right_iff, List.cons_ne_nil, imp_false]
    omega
  rw [writeBackAt_uncorrectable hl hd, writeBackLine_det]
  exact if_congr (or_congr_left hnone) rfl rfl

end

/-! ### FLUSH, FLUSH_DONE, LOGSWAP and LOGSWAP_DONE (R321, R325) -/

section
variable {s : State} {p : Nat} (hp : p < 2)
include hp

theorem exec_flush (h : served s) : exec (.flush p) s = goes s (flushStart s.dev p) := by
  rw [show exec (.flush p) s = execFlush p s from rfl, execFlush, onLate_served s _ _ h, if_pos hp]
  rfl
theorem exec_logswap (h : served s) : exec (.logswap p) s = goes s (logSwapAt s.dev p) := by
  rw [show exec (.logswap p) s = execLogswap p s from rfl, execLogswap, onLate_served s _ _ h, if_pos hp]
  rfl
theorem exec_flushDone : exec (.flushDone p) s = goes s (flushEnd s.dev p) := congrArg (goes s) (if_pos hp)
theorem exec_logswapDone : exec (.logswapDone p) s = goes s (logSwapEnd s.dev p) := congrArg (goes s) (if_pos hp)

end

section
variable {d : Dev} {p : Nat}

theorem flushStart_small (h : tierLarge d = false) : flushStart d p = d := if_pos (by simp [h])
theorem flushStart_large (h : tierLarge d = true) : flushStart d p = modCxl d p (fun c =>
    { c with flushing := true, flushPages := c.flushPages ++
        ((c.lines.filter (·.dirty)).map (·.page)).filter (fun x => !c.flushPages.contains x) }) := if_neg (by simp [h])
theorem flushEnd_last (hf : (cxlOf d p).flushing = true) (hnone : (cxlOf d p).flushPages = []) :
    flushEnd d p = modCxl d p (fun c => { c with flushing := false }) := if_pos (by simp [hf, hnone])
theorem flushEnd_stays (h : (cxlOf d p).flushing = false ∨ (cxlOf d p).flushPages ≠ []) : flushEnd d p = d :=
  if_neg (by rcases h with h | h <;> simp [h])
theorem logSwapAt_stays (h : tierLarge d = false ∨ (cxlOf d p).hasLog = false ∨ (cxlOf d p).logBusy = true) : logSwapAt d p = d :=
  if_pos (by rcases h with h | h | h <;> simp [h])
theorem logSwapAt_swaps (hl : tierLarge d = true) (hlog : (cxlOf d p).hasLog = true) (hb : (cxlOf d p).logBusy = false) :
    logSwapAt d p = modCxl (wipe d (logBase d p (!(cxlOf d p).logBank)) 0x400000) p (fun x =>
      { x with logBusy := true, logBank := !(cxlOf d p).logBank }) := if_neg (by simp [hl, hlog, hb])

end

/-- A wiped range reads zero, and every other byte as before. -/
theorem memByte_wipe (d : Dev) (a len x : Nat) :
    memByte (wipe d a len).mem x = if a ≤ x ∧ x < a + len then 0 else memByte d.mem x := by
  have hmem : (wipe d a len).mem = d.mem.filter (fun c => decide (c.1 < a) || decide (a + len ≤ c.1)) := rfl
  rw [hmem]
  split
  · next h =>
    refine memByte_none x fun c hc => ?_
    have hout := (List.mem_filter.mp hc).2
    simp at hout
    omega
  · next h => exact memByte_filter d.mem (fun y => decide (y < a) || decide (a + len ≤ y)) x (by simp; omega)

/-! ### The statement up to the free granule -/

/-- Page `page` of port 0 is cached and dirty, in a way that begins one byte behind a word. -/
def oddWay (n page : Nat) : State :=
  { dev :=
      { freeCtr := n
        cxl := [(0, { lines := [{ set := 0, way := 0, page := page, dirty := true }] })]
        ttl := { active := some { digest := 0, devices := 1, tier := { cbase0 := 1 } } } }
    shadow := {} }

/-- Where the reported word is the one before such a way, the device does not enter Detention: the statement fails. -/
theorem not_tierCacheUpkeep_of_free_word {n page : Nat} (h : Config.freeNat n page % 0x2000 = 0) : ¬ Obligations.TierCacheUpkeep := by
  intro hclaim
  have hl : lineOf (oddWay n page).dev 0 page = some { set := 0, way := 0, page := page, dirty := true } := by
    simp [lineOf, oddWay, cxlOf, mapGet, mapGet?]
  obtain ⟨-, -, -, hline⟩ := hclaim.1 (oddWay n page) 0 page (by decide)
  obtain ⟨-, hdirty⟩ := hline _ hl
  obtain ⟨-, -, t, ht, hdet, -⟩ := hdirty rfl rfl
  rw [exec_writeBack (by decide)] at ht
  cases ht
  have hstays := writeBackAt_uncorrectable_det hl rfl rfl
  rw [if_pos (.inl ⟨by simp [wayAddr, tierCfg, tierCbase, oddWay], h⟩)] at hstays
  rw [hstays] at hdet
  cases hdet

/-- Where no reported word is the first, the statement holds. -/
theorem tierCacheUpkeep_of_free_words (hfree : ∀ n page, Config.freeNat n page % 0x2000 ≠ 0) : Obligations.TierCacheUpkeep := by
  refine ⟨fun s p page hp => ⟨fun h => ?_, fun ws h => ⟨?idle, ?waits⟩, fun h ecc => ?_,
      fun l hl => ⟨fun hd ecc => ?_, fun hd hb => ?dirty⟩⟩,
    fun s p hp => ⟨fun h => ⟨fun hsmall => ?_, fun hstays => ?_, fun hlarge => ?_, fun hlarge hlog hbusy => ?_⟩,
      fun a x => memByte_wipe s.dev a _ x, fun hf hnone => ?_, fun hf => ?_, ?_⟩⟩
  · rw [exec_pageFill hp, finishFill_of_none h]
  case idle =>
    rintro rfl
    rw [exec_pageFill hp, finishFill_of_idle h]
    rfl
  case waits =>
    rintro w r rfl
    rw [exec_pageFill hp, finishFill_of_waits h]
    rfl
  · rw [exec_writeBack hp, writeBackAt_stays ecc (by simp [h])]
  · rw [exec_writeBack hp, writeBackAt_stays ecc (by rintro m hm; rw [hl] at hm; cases hm; exact hd)]
  case dirty =>
    refine ⟨?_, ?_, _, exec_writeBack hp .., ?_⟩
    · rw [exec_writeBack hp, writeBackAt_clean hl hd, writeBackLine_of_clean hb]
      rfl
    · rw [exec_writeBack hp, writeBackAt_single hl hd, writeBackLine_of_clean (d := modHbm s.dev _ _) hb]
      rfl
    · have hdet := writeBackAt_uncorrectable_det hl hd hb
      rw [hdet]
      split
      · next h =>
        have hdev : s.dev.det.device = true := h.resolve_left fun hword => hfree _ _ hword.2
        exact ⟨hdev, fun hnot => absurd (hnot.symm.trans hdev) (by decide)⟩
      · exact ⟨rfl, fun _ => rfl⟩
  · rw [exec_flush hp h, flushStart_small hsmall]
  · rw [exec_logswap hp h, logSwapAt_stays hstays]
  · rw [exec_flush hp h, flushStart_large hlarge]
  · rw [exec_logswap hp h, logSwapAt_swaps hlarge hlog hbusy]
  · rw [exec_flushDone hp, flushEnd_last hf hnone]
  · rw [exec_flushDone hp, flushEnd_stays hf]
  · rw [exec_logswapDone hp]
    rfl

/-- So O34 says of the free values that no reported word is the first of its way, which no proof can look into. -/
theorem tierCacheUpkeep_iff_free_words : Obligations.TierCacheUpkeep ↔ ∀ n page, Config.freeNat n page % 0x2000 ≠ 0 :=
  ⟨fun h _ _ hword => not_tierCacheUpkeep_of_free_word hword h, tierCacheUpkeep_of_free_words⟩

end Sys2Proof.Machine
end

section
/-!
What a codeword holds (R334), and what the link makes of a flit (R342 to R344, R347): one equation for each outcome of `linkAccept`,
`acceptOne` and `dataAccept`, which the rows of the fabric ports then cite.
-/
namespace Sys2Proof.Machine
open Sys2Proof.Safety

/-! ### Words made of digits -/

/-- A word reads as the number that it is made of when the number fits. -/
theorem toNat_ofNat_of_lt {w x : Nat} (h : x < 2 ^ w) : (BitVec.ofNat w x).toNat = x := by
  rw [BitVec.toNat_ofNat, Nat.mod_eq_of_lt h]
/-- Digit i of a number. -/
theorem bits_ofDigits {k : Nat} {l : List Nat} (hl : ∀ x ∈ l, x < 2 ^ k) (i : Nat) :
    bits (Nat.ofDigits (2 ^ k) l) (k * i) k = l.getD i 0 := by
  rw [bits, Nat.shiftRight_eq_div_pow, Nat.pow_mul, Nat.ofDigits_div_pow_eq_ofDigits_drop i (Nat.two_pow_pos k) l hl]
  rcases Nat.lt_or_ge i l.length with h | h
  · rw [List.drop_eq_getElem_cons h, Nat.ofDigits_cons, Nat.add_mul_mod_self_left, Nat.mod_eq_of_lt (hl _ (List.getElem_mem h)),
      List.getD_eq_getElem _ _ h]
  · rw [List.drop_eq_nil_of_le h, List.getD_eq_default _ _ h]; simp

/-- Parts shifted by multiples of k are the digits of a number in base 2 ^ k. -/
theorem sum_mapIdx_shifted {α : Type} (f : α → Nat) (k : Nat) : ∀ (l : List α) (c : Nat),
    (l.mapIdx (fun i x => f x * 2 ^ (c + k * i))).sum = 2 ^ c * Nat.ofDigits (2 ^ k) (l.map f)
  | [], c => by simp
  | x :: r, c => by
    have hshift : (fun i x => f x * 2 ^ (c + k * (i + 1))) = fun i x => f x * 2 ^ (c + k + k * i) := by
      funext i x; congr 2; ring
    rw [List.mapIdx_cons, List.sum_cons, List.map_cons, Nat.ofDigits_cons, hshift, sum_mapIdx_shifted f k r]
    ring

/-- The digits of a number, added up again. -/
theorem sum_bits_mul (v k : Nat) : ∀ n, ((List.range n).map (fun i => bits v (k * i) k * 2 ^ (k * i))).sum = v % 2 ^ (k * n)
  | 0 => by simp [Nat.mod_one]
  | n + 1 => by
    rw [List.range_succ, List.map_append, List.sum_append, sum_bits_mul v k n, Nat.mul_succ, Nat.pow_add, Nat.mod_mul]
    simp [bits, Nat.shiftRight_eq_div_pow, Nat.mul_comm]

/-! ### Codewords and data flits (R334, R337) -/

theorem codeword_eq (l : List Slot) : codeword l = BitVec.ofNat 5140
    (2 ^ 20 * Nat.ofDigits (2 ^ 256) (l.map (fun x => x.body.toNat)) + Nat.ofDigits (2 ^ 1) (l.map (fun x => b2n x.begins))) := by
  have htags := sum_mapIdx_shifted (fun x : Slot => b2n x.begins) 1 l 0
  simp only [Nat.zero_add, Nat.one_mul, Nat.pow_zero] at htags
  rw [codeword, htags, sum_mapIdx_shifted (fun x : Slot => x.body.toNat) 256 l 20, Nat.add_comm]

/-- A codeword of 20 slots holds their tags and bytes (R334). -/
theorem slotsOf_codeword {l : List Slot} (hl : l.length = 20) : slotsOf (codeword l) = l := by
  have hbit : ∀ x ∈ l.map (fun x => b2n x.begins), x < 2 ^ 1 := by
    simp only [List.mem_map]; rintro _ ⟨y, -, rfl⟩; cases y.begins <;> decide
  have hfull : ∀ x ∈ l.map (fun x => x.body.toNat), x < 2 ^ 256 := by
    simp only [List.mem_map]; rintro _ ⟨y, -, rfl⟩; exact y.body.isLt
  have hlow := Nat.ofDigits_lt_base_pow_length (by decide) hbit
  have hhigh := Nat.ofDigits_lt_base_pow_length (by decide) hfull
  rw [List.length_map, hl] at hlow
  rw [List.length_map, ← Nat.pow_mul] at hhigh
  generalize hlo : Nat.ofDigits (2 ^ 1) (l.map (fun x => b2n x.begins)) = lo at hlow
  generalize hhi : Nat.ofDigits (2 ^ 256) (l.map (fun x => x.body.toNat)) = hi at hhigh
  have hfit : ∀ w, w = 20 + 256 * l.length → 2 ^ 20 * hi + lo < 2 ^ w := by
    intro w hw
    rw [hw, Nat.pow_add]
    calc 2 ^ 20 * hi + lo < 2 ^ 20 * (hi + 1) := by omega
      _ ≤ 2 ^ 20 * 2 ^ (256 * l.length) := Nat.mul_le_mul_left _ hhigh
  have hword : (codeword l).toNat = 2 ^ 20 * hi + lo := by
    rw [codeword_eq, hlo, hhi, toNat_ofNat_of_lt (hfit 5140 (by rw [hl]))]
  apply List.ext_getElem (by simp [slotsOf, hl])
  intro i _ hi'
  have htag : bit (2 ^ 20 * hi + lo) i = l[i].begins := by
    rw [bit, Nat.testBit_two_pow_mul_add _ hlow, if_pos (by omega), Nat.testBit_eq_decide_div_mod_eq]
    have h := bits_ofDigits (k := 1) (l := l.map (fun x => b2n x.begins)) hbit i
    rw [hlo, Nat.one_mul, bits, Nat.shiftRight_eq_div_pow, List.getD_eq_getElem _ _ (by simpa using hi'), List.getElem_map] at h
    simp only [Nat.pow_one] at h
    rw [h]
    cases l[i].begins <;> rfl
  have hbody : bits (2 ^ 20 * hi + lo) (20 + 256 * i) 256 = l[i].body.toNat := by
    have h := bits_ofDigits (k := 256) (l := l.map (fun x => x.body.toNat)) hfull i
    rw [hhi, List.getD_eq_getElem _ _ (by simpa using hi'), List.getElem_map] at h
    rw [← h, bits, bits, Nat.shiftRight_add, Nat.shiftRight_eq_div_pow _ 20, Nat.mul_add_div (Nat.two_pow_pos 20),
      Nat.div_eq_of_lt (show lo < 2 ^ 20 from hlow), Nat.add_zero]
  simp only [slotsOf, List.getElem_map, List.getElem_range, hword, htag, hbody, BitVec.ofNat_toNat, BitVec.setWidth_eq]

/-! ### Whether a flit is refused (R333, R345, R361, R373) -/

section
variable {d : Dev} {p : Nat} {f : BitVec 256}

/-- The control messages of boot mode: HELLO and chain delivery (R333). -/
theorem bootFlit_iff : bootFlit f = true ↔ flitType f = 1 ∧ (ctlType f = 1 ∨ 0xB ≤ ctlType f ∧ ctlType f ≤ 0xE) := by
  simp [bootFlit, bootCtl, ctlType]

theorem flitRefused_iff : flitRefused d p f = true ↔ portOpen (fabPort d p) = false ∨ d.det.device = true ∨
    d.fab.awaitDone = true ∧ flitType f ≠ 1 ∨ (fabPort d p).state = .boot ∧
      ¬ (flitType f = 1 ∧ (ctlType f = 1 ∨ 0xB ≤ ctlType f ∧ ctlType f ≤ 0xE)) := by
  rw [← bootFlit_iff]
  simp [flitRefused, or_assoc]

/-! ### What the link makes of a flit (R342 to R344, R347) -/

/-- A flit that a Bell flit may be: only such flits are inserted into a data flit (R347). -/
def bellType (f : BitVec 256) : Prop := flitType f = 2 ∨ flitType f = 3
/-- The flit is a Bell flit inserted into a data flit. -/
def insertedBell (d : Dev) (p : Nat) (f : BitVec 256) : Prop := flitOk f = true ∧ bellType f ∧ (fabPort d p).rxFlit ≠ none
/-- The flit is good, of a type that there is, and in its place in the sequence. -/
def inSequence (d : Dev) (p : Nat) (f : BitVec 256) : Prop :=
  flitOk f = true ∧ 1 ≤ flitType f ∧ flitType f ≤ 5 ∧ flitSeq f = (fabPort d p).rxSeq.toNat ∧ (bellType f ∨ (fabPort d p).rxMsg = none)
/-- The number that the next flit is to have. -/
def nextNumber (f : BitVec 256) : Option (BitVec 10) := if flitOk f then some (BitVec.ofNat 10 (flitSeq f) + 1) else none
/-- The port has noted the number of the next flit. -/
def noteNext (d : Dev) (p : Nat) (f : BitVec 256) : Dev := modPort d p (fun x => { x with rxNext := nextNumber f })

theorem linkAccept_refused (h : flitRefused d p f = true) : linkAccept d p f = (d, false) := by simp [linkAccept, h]

/-- The conditions under which `linkAccept` accepts a flit that is not held back. -/
theorem goodFlit_iff : (flitOk f && decide (1 ≤ flitType f) && decide (flitType f ≤ 5) && flitSeq f == (fabPort d p).rxSeq.toNat
    && ((flitType f == 2 || flitType f == 3) || (fabPort d p).rxMsg.isNone)) = true ↔ inSequence d p f := by
  simp [inSequence, bellType, and_assoc]

variable (h : flitRefused d p f = false)
include h

theorem linkAccept_held (hh : insertedBell d p f) :
    linkAccept d p f = (modPort d p (fun x => { x with rxHeld := x.rxHeld ++ [f], rxNext := nextNumber f }), false) := by
  obtain ⟨hok, hbell, hin⟩ := hh
  have hb : (flitType f == 2 || flitType f == 3) = true := by simpa [bellType] using hbell
  have hs : (fabPort d p).rxFlit.isSome = true := Option.isSome_iff_ne_none.mpr hin
  simp [linkAccept, h, hok, hb, hs, nextNumber]

theorem linkAccept_of_not_held (hh : ¬ insertedBell d p f) [Decidable (inSequence d p f)] : linkAccept d p f =
    if inSequence d p f then (acceptOne (noteNext d p f) p (flitChan f) 1, true) else (framingError (noteNext d p f) p, false) := by
  have hheld : (flitOk f && (flitType f == 2 || flitType f == 3) && (fabPort d p).rxFlit.isSome) = false := by
    rw [Bool.eq_false_iff]
    simpa [insertedBell, bellType, Option.isSome_iff_ne_none, and_assoc] using hh
  simp only [linkAccept, h, hheld, Bool.false_eq_true, if_false, noteNext, nextNumber, Bool.not_eq_true', ← Bool.not_eq_true,
    goodFlit_iff, ite_not]
theorem linkAccept_inSequence (hh : ¬ insertedBell d p f) (hs : inSequence d p f) :
    linkAccept d p f = (acceptOne (noteNext d p f) p (flitChan f) 1, true) := by
  classical exact (linkAccept_of_not_held h hh).trans (if_pos hs)
/-- Any other flit is a framing error, which is answered once (R344). -/
theorem linkAccept_outOfSequence (hh : ¬ insertedBell d p f) (hs : ¬ inSequence d p f) : linkAccept d p f =
    (if (fabPort d p).discarding then noteNext d p f else sendAck (noteNext d p f) p true, false) := by
  classical
  rw [linkAccept_of_not_held h hh, if_neg hs, framingError]
  simp only [noteNext, fabPort_modPort_same]

end

/-! ### Acknowledgements and accepted flits (R342, R344) -/

section
variable (d : Dev) (p : Nat)

/-- One slot leaves in a codeword of its own, filled up with idle link flits. -/
theorem emitSlots_one (x : Slot) : emitSlots d p [x] = emit d (.codeword p (codeword (x :: List.replicate 19
    { begins := true, body := linkFlit ((fabPort d p).rxSeq - 1) false [0, 0, 0, 0, 0, 0] }))) := rfl

/-- The port after an acknowledgement has returned what it can of the freed slots. -/
def ackPort (q : FabPort) (nak : Bool) : FabPort :=
  { q with freed := q.freed.map (fun c => c - min c 255), unacked := 0, discarding := nak || q.discarding }
/-- The codeword of an acknowledgement: its link flit, and idle ones behind it. -/
def ackWord (q : FabPort) (nak : Bool) : BitVec 5140 :=
  let link := fun (back : List Nat) (k : Bool) => ({ begins := true, body := linkFlit (q.rxSeq - 1) k back } : Slot)
  codeword (link (q.freed.map (fun c => min c 255)) nak :: List.replicate 19 (link [0, 0, 0, 0, 0, 0] false))

theorem sendAck_eq (nak : Bool) : sendAck d p nak =
    emit (modPort d p (fun _ => ackPort (fabPort d p) nak)) (.codeword p (ackWord (fabPort d p) nak)) := by
  simp only [sendAck, emitSlots_one, fabPort_modPort_same]
  rfl

/-- The port after a flit of some slots of a channel has been accepted. -/
def acceptPort (q : FabPort) (ch slots : Nat) : FabPort :=
  { q with rxSeq := q.rxSeq + 1, discarding := false, unacked := q.unacked + 1,
           freed := q.freed.set ch (q.freed.getD ch 0 + slots) }

theorem acceptOne_eq (ch slots : Nat) : acceptOne d p ch slots =
    if 32 ≤ (fabPort d p).unacked + 1 then sendAck (modPort d p (acceptPort · ch slots)) p false
    else modPort d p (acceptPort · ch slots) := by
  simp only [acceptOne, fabPort_modPort_same]
  rfl

variable {d p}

/-- A data flit that arrives whole in its place joins its message (R337, R343). -/
theorem dataAccept_joins {num : Option (BitVec 10)} {f : BitVec 2048} {m : RxMessage} (hm : (fabPort d p).rxMsg = some m)
    (hnum : num = some (fabPort d p).rxSeq) (hok : dataOk f = true) : dataAccept d p num f =
      acceptOne (modPort d p (fun x => { x with rxMsg := some { m with data := m.data ++ [f] } })) p (flitChan m.hdr) 8 := by
  simp [dataAccept, hm, hnum, hok]
/-- Any other data flit is a framing error (R344). -/
theorem dataAccept_error {num : Option (BitVec 10)} {f : BitVec 2048}
    (h : (fabPort d p).rxMsg = none ∨ num ≠ some (fabPort d p).rxSeq ∨ dataOk f = false) :
    dataAccept d p num f = framingError d p := by
  simp only [dataAccept]
  split
  · next m hm => exact if_neg (by simpa [hm, or_iff_not_imp_left] using h)
  · rfl

end

/-! ### The rows of control messages (R340) -/

theorem exec_ctlRow {s : State} {p k : Nat} {f : BitVec 256} {i : Instr} (hi : (k, i) ∈ ctlRows p f) :
    ∃ act, exec i s = onPort s p (fun d => onCtl d p f k act) := by
  simp only [ctlRows, List.mem_cons, Prod.mk.injEq, List.not_mem_nil, or_false] at hi
  rcases hi with ⟨rfl, rfl⟩ | ⟨rfl, rfl⟩ | ⟨rfl, rfl⟩ | ⟨rfl, rfl⟩ | ⟨rfl, rfl⟩ | ⟨rfl, rfl⟩ | ⟨rfl, rfl⟩ | ⟨rfl, rfl⟩ | ⟨rfl, rfl⟩ |
    ⟨rfl, rfl⟩ | ⟨rfl, rfl⟩ | ⟨rfl, rfl⟩ | ⟨rfl, rfl⟩ | ⟨rfl, rfl⟩ <;> exact ⟨_, rfl⟩

section
variable {d : Dev} {p k : Nat} {f : BitVec 256} {act : Dev → Dev}

/-- A good flit of another type does not belong to the row. -/
theorem onCtl_other (hok : flitOk f = true) (hk : ¬ ctlIs f k) : onCtl d p f k act = d :=
  if_pos (by simpa [hok, ctlIs, imp_iff_not_or] using hk)
/-- A flit of the row that the link does not accept has the link's effect alone. -/
theorem onCtl_not_accepted (h : flitOk f = false ∨ ctlIs f k) (hl : (linkAccept d p f).2 = false) :
    onCtl d p f k act = (linkAccept d p f).1 := by
  have hrow : ¬ (flitOk f && !(flitType f == 1 && ctlType f == k)) = true := by
    rcases h with h | ⟨ht, hc⟩ <;> simp [*]
  rw [onCtl, if_neg hrow]
  simp [hl]
/-- A flit of the row that the link accepts has its effect. -/
theorem onCtl_accepted (hk : ctlIs f k) {e : Dev} (hl : linkAccept d p f = (e, true)) : onCtl d p f k act = act e := by
  obtain ⟨ht, hc⟩ := hk
  simp [onCtl, ht, hc, hl]

end

/-- Settles O35: the branches of `linkAccept`, `acceptOne`, `sendAck`, `dataAccept` and `onCtl`, one lemma each. -/
theorem flitsAcceptedInSequence : Obligations.FlitsAcceptedInSequence := by
  refine ⟨fun l hl => slotsOf_codeword hl, fun d p f => ⟨flitRefused_iff, linkAccept_refused, linkAccept_held,
    linkAccept_outOfSequence, linkAccept_inSequence⟩, fun d p ch n nak => ⟨fun hu => ?few, fun hu => ?many, sendAck_eq d p nak⟩,
    fun d p num f => ⟨fun m => dataAccept_joins, dataAccept_error⟩, fun s p k f i hp hi => ?rows⟩
  case few => exact (acceptOne_eq d p ch n).trans (if_neg (by omega))
  case many => exact (acceptOne_eq d p ch n).trans (if_pos hu)
  case rows =>
    obtain ⟨act, hact⟩ := exec_ctlRow (s := s) hi
    exact ⟨fun hok hk => port_row _ hact hp (onCtl_other hok hk), fun hl h => port_row _ hact hp (onCtl_not_accepted h hl)⟩

end Sys2Proof.Machine
end

section
/-!
What the transmitters of the fabric ports leave as it was (R342 to R347): a send changes the transmit side of ports, what has been
sent and the count of free values, and nothing else.
-/
namespace Sys2Proof.Machine

/-- The state of a port's link: up, down or in training, and held down by Attendance or not (R369). -/
def linkOf (d : Dev) (p : Nat) : PortState × Bool := ((fabPort d p).state, (fabPort d p).heldDown)

/-- Device `e` is `d` after sends: other transmit sides of its ports, with every link as it was. -/
structure SendsOnly (d e : Dev) : Prop where
  rest : ∃ ports out ctr, e = { d with fab := { d.fab with ports := ports }, out := out, freeCtr := ctr }
  links : ∀ p, linkOf e p = linkOf d p

/-- The link of a port that is put through `f` keeps its state. -/
def keepsLink (d : Dev) (p : Nat) (f : FabPort → FabPort) : Prop :=
  (f (fabPort d p)).state = (fabPort d p).state ∧ (f (fabPort d p)).heldDown = (fabPort d p).heldDown

theorem linkOf_modPort {d : Dev} {p : Nat} {f : FabPort → FabPort} (hf : keepsLink d p f) (u : Nat) :
    linkOf (modPort d p f) u = linkOf d u := by
  by_cases h : u = p
  · subst h; simp [linkOf, hf.1, hf.2]
  · simp [linkOf, fabPort_modPort_other _ _ _ _ h]

section
variable {d₀ d : Dev}

theorem SendsOnly.refl (d : Dev) : SendsOnly d d := ⟨⟨_, _, _, rfl⟩, fun _ => rfl⟩
theorem SendsOnly.trans {e : Dev} (h : SendsOnly d₀ d) (h' : SendsOnly d e) : SendsOnly d₀ e := by
  obtain ⟨⟨_, _, _, rfl⟩, hl⟩ := h
  obtain ⟨⟨_, _, _, rfl⟩, hl'⟩ := h'
  exact ⟨⟨_, _, _, rfl⟩, fun p => (hl' p).trans (hl p)⟩
theorem SendsOnly.ite {c : Prop} [Decidable c] {a b : Dev} (ha : SendsOnly d₀ a) (hb : SendsOnly d₀ b) :
    SendsOnly d₀ (if c then a else b) := by
  split
  · exact ha
  · exact hb
theorem SendsOnly.foldl {β : Type} {f : Dev → β → Dev} (hf : ∀ {e : Dev} {x : β}, SendsOnly d₀ e → SendsOnly d₀ (f e x)) {l : List β}
    (h : SendsOnly d₀ d) : SendsOnly d₀ (l.foldl f d) :=
  List.foldlRecOn l f h (fun _ he _ _ => hf he)
/-- A change of one port that leaves its link. -/
theorem SendsOnly.port {p : Nat} {f : FabPort → FabPort} (h : SendsOnly d₀ d)
    (hf : keepsLink d p f) : SendsOnly d₀ (modPort d p f) := by
  obtain ⟨⟨_, _, _, rfl⟩, hl⟩ := h
  exact ⟨⟨_, _, _, rfl⟩, fun u => (linkOf_modPort hf u).trans (hl u)⟩
theorem SendsOnly.emit {o : Out} (h : SendsOnly d₀ d) : SendsOnly d₀ (Machine.emit d o) := by
  obtain ⟨⟨_, _, _, rfl⟩, hl⟩ := h
  exact ⟨⟨_, _, _, rfl⟩, hl⟩
theorem SendsOnly.draw (h : SendsOnly d₀ d) : SendsOnly d₀ (Machine.draw d) := by
  obtain ⟨⟨_, _, _, rfl⟩, hl⟩ := h
  exact ⟨⟨_, _, _, rfl⟩, hl⟩

/-! ### Each send -/

theorem emitSlots_sends {p : Nat} {slots : List Slot} (h : SendsOnly d₀ d) : SendsOnly d₀ (emitSlots d p slots) := .foldl .emit h
theorem txSend_sends {p : Nat} {t : TxFlit} (h : SendsOnly d₀ d) : SendsOnly d₀ (txSend d p t) := by
  refine emitSlots_sends (SendsOnly.port (.ite h.draw h) ?_)
  unfold keepsLink
  split <;> exact ⟨rfl, rfl⟩
theorem txInsert_sends {p k : Nat} {t : TxFlit} (h : SendsOnly d₀ d) : SendsOnly d₀ (txInsert d p k t) :=
  emitSlots_sends (h.port ⟨rfl, rfl⟩)
theorem txFinish_sends {p : Nat} (h : SendsOnly d₀ d) : SendsOnly d₀ (txFinish d p) := by
  simp only [txFinish]
  split
  · exact emitSlots_sends (h.port ⟨rfl, rfl⟩)
  · exact h
theorem txResume_sends {p : Nat} (h : SendsOnly d₀ d) : SendsOnly d₀ (txResume d p) := by
  unfold txResume
  split
  · exact h
  · exact txFinish_sends (.foldl (fun h => .ite (txInsert_sends h) h) h)
theorem txPump_sends {p : Nat} : ∀ {n : Nat} {d : Dev}, SendsOnly d₀ d → SendsOnly d₀ (txPump n d p)
  | 0, _, h => h
  | n + 1, d, h => by
    unfold txPump
    split
    · exact h
    · exact txPump_sends (txSend_sends h)
theorem txGo_sends {p : Nat} (h : SendsOnly d₀ d) : SendsOnly d₀ (txGo d p) := .ite h (txPump_sends (txResume_sends h))
theorem txQueueFrom_sends {p : Nat} {hdr : BitVec 256} {data : List (BitVec 2048)} {arr lane : Nat} (h : SendsOnly d₀ d) :
    SendsOnly d₀ (txQueueFrom d p hdr data arr lane) := txGo_sends (h.port ⟨rfl, rfl⟩)
theorem sendCtl_sends {p ctype body : Nat} (h : SendsOnly d₀ d) : SendsOnly d₀ (sendCtl d p ctype body) := .ite (txQueueFrom_sends h) h
theorem sendUp_sends {ctype body : Nat} (h : SendsOnly d₀ d) : SendsOnly d₀ (sendUp d ctype body) := .ite (sendCtl_sends h) h
theorem sendDown_sends {ctype body : Nat} (h : SendsOnly d₀ d) : SendsOnly d₀ (sendDown d ctype body) :=
  .foldl (fun h => .ite (sendCtl_sends h) h) h
theorem sendFlood_sends {but ctype body : Nat} (h : SendsOnly d₀ d) : SendsOnly d₀ (sendFlood d but ctype body) :=
  .foldl (fun h => .ite (sendCtl_sends h) h) h
theorem routeOut_sends {b : Bulk} {data : List (BitVec 2048)} {arr : Nat} (h : SendsOnly d₀ d) :
    SendsOnly d₀ (routeOut d b data arr).1 := by
  unfold routeOut
  split
  · exact txQueueFrom_sends h
  · exact h

end

/-! ### Operations that leave every link -/

/-- Every link of `d` stands as in `d₀`, and its memory has the property `m`. -/
structure LinksKept (m : List Host.Cell → Prop) (d₀ d : Dev) : Prop where
  mem : m d.mem
  links : ∀ p, linkOf d p = linkOf d₀ p

section
variable {m : List Host.Cell → Prop} {d₀ d : Dev}

theorem LinksKept.refl (hm : m d.mem) : LinksKept m d d := ⟨hm, fun _ => rfl⟩
theorem LinksKept.state (h : LinksKept m d₀ d) (p : Nat) : (fabPort d p).state = (fabPort d₀ p).state := congrArg Prod.fst (h.links p)
theorem LinksKept.heldDown (h : LinksKept m d₀ d) (p : Nat) : (fabPort d p).heldDown = (fabPort d₀ p).heldDown :=
  congrArg Prod.snd (h.links p)
/-- A record update that leaves memory and the ports. -/
theorem LinksKept.update {bw co be tt hb cx fa cp de pa ho fu fl pr re rp gl ew fc ou} (h : LinksKept m d₀ d)
    (hports : fa.ports = d.fab.ports := by rfl) :
    LinksKept m d₀ ⟨d.mem, bw, co, be, tt, hb, cx, fa, cp, de, pa, ho, fu, fl, pr, re, rp, gl, ew, fc, ou⟩ :=
  ⟨h.mem, fun p => Eq.trans (by simp only [linkOf, fabPort, hports]) (h.links p)⟩
/-- A record update that may change memory, of which nothing is asked. -/
theorem LinksKept.setMem {mem bw co be tt hb cx fa cp de pa ho fu fl pr re rp gl ew fc ou} (h : LinksKept (fun _ => True) d₀ d)
    (hports : fa.ports = d.fab.ports := by rfl) :
    LinksKept (fun _ => True) d₀ ⟨mem, bw, co, be, tt, hb, cx, fa, cp, de, pa, ho, fu, fl, pr, re, rp, gl, ew, fc, ou⟩ :=
  ⟨trivial, fun p => Eq.trans (by simp only [linkOf, fabPort, hports]) (h.links p)⟩
theorem LinksKept.sends {e : Dev} (h : LinksKept m d₀ d) (hs : SendsOnly d e) : LinksKept m d₀ e := by
  obtain ⟨⟨_, _, _, rfl⟩, hl⟩ := hs
  exact ⟨h.mem, fun p => (hl p).trans (h.links p)⟩
theorem LinksKept.port {p : Nat} {f : FabPort → FabPort} (h : LinksKept m d₀ d) (hf : keepsLink d p f) :
    LinksKept m d₀ (modPort d p f) := ⟨h.mem, fun u => (linkOf_modPort hf u).trans (h.links u)⟩
theorem LinksKept.ite {c : Prop} [Decidable c] {a b : Dev} (ha : LinksKept m d₀ a) (hb : LinksKept m d₀ b) :
    LinksKept m d₀ (if c then a else b) := by
  split
  · exact ha
  · exact hb
theorem LinksKept.foldl {β : Type} {f : Dev → β → Dev} (hf : ∀ {e : Dev} {x : β}, LinksKept m d₀ e → LinksKept m d₀ (f e x)) {l : List β}
    (h : LinksKept m d₀ d) : LinksKept m d₀ (l.foldl f d) :=
  List.foldlRecOn l f h (fun _ he _ _ => hf he)

/-! Messages, the event log, agreement and the Copybook's rounds. -/

theorem signal_links {vec : Nat} (h : LinksKept m d₀ d) : LinksKept m d₀ (signal d vec) := .ite (.ite h.update h.update) h
theorem logEvent_links {code src arg : Nat} {data : List Byte} (h : LinksKept m d₀ d) : LinksKept m d₀ (logEvent d code src arg data) :=
  signal_links h.update
theorem setAg_links {a : AgState} (h : LinksKept m d₀ d) : LinksKept m d₀ (setAg d a) := .ite h (signal_links h.update)
theorem setRc_links {r : RcState} (h : LinksKept m d₀ d) : LinksKept m d₀ (setRc d r) := .ite h (signal_links h.update)
theorem agreeDrop_links (h : LinksKept m d₀ d) : LinksKept m d₀ (agreeDrop d) := setAg_links h.update
theorem copyStopRound_links {why : CopyLast} (h : LinksKept m d₀ d) : LinksKept m d₀ (copyStopRound d why) := by
  unfold copyStopRound
  split
  · exact signal_links (logEvent_links h.update)
  · exact signal_links (logEvent_links h.update)
  · exact h
theorem bellForward_links {b : Nat} (h : LinksKept m d₀ d) : LinksKept m d₀ (bellForward d b) := by
  simp only [bellForward]
  split
  · exact h
  · split
    · exact h
    · exact h.update.sends (txQueueFrom_sends (.refl _))
theorem bellArrive_links {b src : Nat} {op : BitVec 3} {value : Dword} (h : LinksKept m d₀ d) :
    LinksKept m d₀ (bellArrive d b src op value) := .ite h (bellForward_links (.ite (logEvent_links h.update) h.update))
theorem bellRelease_links {b : Nat} {op : BitVec 3} {value : Dword} (h : LinksKept m d₀ d) : LinksKept m d₀ (bellRelease d b op value) :=
  .foldl (fun h => h.sends (txQueueFrom_sends (.refl _))) h.update
theorem startArrives_links (h : LinksKept m d₀ d) : LinksKept m d₀ (startArrives d) := by
  unfold startArrives
  split
  · exact .ite (bellArrive_links h.update) h
  · exact h
theorem roundNext_links (h : LinksKept m d₀ d) : LinksKept m d₀ (roundNext d) :=
  .ite (.ite (startArrives_links (bellRelease_links h)) h) h
theorem cadence_links (h : LinksKept m d₀ d) : LinksKept m d₀ (cadence d) := by
  unfold cadence
  split
  · exact h
  · exact h.update

/-! Absent devices and links that go down. -/

theorem absentApply_links {gone : Nat} {tree : Byte} (h : LinksKept m d₀ d) : LinksKept m d₀ (absentApply d gone tree) := by
  have hround : LinksKept m d₀ (roundNext (agreeDrop (copyStopRound (resetSystemBells (mapXfers
      { d with fab := { d.fab with absentSet := gone :: d.fab.absentSet, tree := tree } }
      (failWaits (fun o => o.dev.toNat == gone)))) .restarted))) := roundNext_links (agreeDrop_links (copyStopRound_links h.update))
  exact .ite h (.ite (cadence_links hround.update) hround)
theorem declareAbsent_links {gone : Nat} (h : LinksKept m d₀ d) : LinksKept m d₀ (declareAbsent d gone) :=
  .ite h (absentApply_links (h.update.sends (sendFlood_sends (.refl _))))
theorem rootLinkDown_links {dev port nbr : Nat} (h : LinksKept m d₀ d) : LinksKept m d₀ (rootLinkDown d dev port nbr) :=
  .ite h (.ite h.update (declareAbsent_links (declareAbsent_links h.update)))
theorem chainPortDown_links {p : Nat} (h : LinksKept m d₀ d) : LinksKept m d₀ (chainPortDown d p) := .ite h.update h
theorem dropOwn_links {b : Bulk} (h : LinksKept m d₀ d) : LinksKept m d₀ (dropOwn d b) :=
  .ite (.ite (logEvent_links h.update) h.update) h.update
theorem dropBulk_links {b : Bulk} (h : LinksKept m d₀ d) : LinksKept m d₀ (dropBulk d b) :=
  have hout : LinksKept m d₀ (routeOut { d with fab := { d.fab with drop := satAdd d.fab.drop 1 } }
      (statusFor { d with fab := { d.fab with drop := satAdd d.fab.drop 1 } } b 5) [] 12).1 := h.update.sends (routeOut_sends (.refl _))
  .ite h.update (.ite hout hout.update)
theorem resend_links {t : TxFlit} (h : LinksKept m d₀ d) : LinksKept m d₀ (resend d t) :=
  have hout := h.sends (routeOut_sends (b := { bulkOf t.hdr with lane := t.lane }) (data := t.data) (arr := t.arr) (.refl d))
  .ite hout (.ite (dropOwn_links h) (dropBulk_links h))

/-- The device as its port has just gone down, with nothing said of it yet (R370). -/
def portCleared (d : Dev) (p : Nat) (held : Bool) : Dev :=
  modPort d p (fun x =>
    { x with state := .down, lanes := 0, rev := false, retraining := false, heldDown := held, rcWait := false, replay := [],
             sending := none, rxMsg := none, rxFlit := none, rxHeld := [],
             txq := [], missRun := 0, replays := 0, unacked := 0, discarding := false })
/-- What follows once a port is down: the report, the event, and other routes for what waited (R353, R370). -/
theorem portDown_links {p : Nat} {held : Bool}
    (h : ¬ ((fabPort d p).state = .down || ((fabPort d p).state = .training && !(fabPort d p).retraining)) = true) :
    LinksKept (· = d.mem) (portCleared d p held) (portDown d p held) := by
  have hd : ∀ n nbr, LinksKept (· = d.mem) (portCleared d p held)
      (chainPortDown (signal (logEvent (portCleared d p held) 0x0801 srcRegistrar p (by1 p ++ le 2 n)) nbr) p) :=
    fun _ _ => chainPortDown_links (signal_links (logEvent_links (.refl rfl)))
  simp only [portDown, if_neg h]
  exact .foldl resend_links (.ite (rootLinkDown_links (hd _ _)) ((hd _ _).sends (sendUp_sends (.refl _))))
theorem portDown_cleared {p : Nat} {held : Bool}
    (h : ((fabPort d p).state = .down || ((fabPort d p).state = .training && !(fabPort d p).retraining)) = true) :
    portDown d p held = modPort d p (fun x => { x with state := .down, heldDown := x.heldDown || held, rcWait := false }) := if_pos h

/-- A port that goes down is down afterwards; every other link stays (R370). -/
theorem portDown_mem (p : Nat) (held : Bool) : (portDown d p held).mem = d.mem := by
  by_cases h : ((fabPort d p).state = .down || ((fabPort d p).state = .training && !(fabPort d p).retraining)) = true
  · rw [portDown_cleared h]; rfl
  · exact (portDown_links h).mem
theorem portDown_state (p : Nat) (held : Bool) : (fabPort (portDown d p held) p).state = .down := by
  by_cases h : ((fabPort d p).state = .down || ((fabPort d p).state = .training && !(fabPort d p).retraining)) = true
  · rw [portDown_cleared h, fabPort_modPort_same]
  · exact ((portDown_links h).state p).trans (by rw [portCleared, fabPort_modPort_same])
theorem portDown_other {p u : Nat} (hu : u ≠ p) (held : Bool) : linkOf (portDown d p held) u = linkOf d u := by
  by_cases h : ((fabPort d p).state = .down || ((fabPort d p).state = .training && !(fabPort d p).retraining)) = true
  · rw [portDown_cleared h, linkOf, fabPort_modPort_other _ _ _ _ hu]; rfl
  · exact ((portDown_links h).links u).trans (by rw [linkOf, portCleared, fabPort_modPort_other _ _ _ _ hu]; rfl)
/-- A port that was up is held down when Attendance took it down (R369). -/
theorem portDown_heldDown {p : Nat} (hup : (fabPort d p).state = .up) (held : Bool) :
    (fabPort (portDown d p held) p).heldDown = held := by
  have h : ¬ ((fabPort d p).state = .down || ((fabPort d p).state = .training && !(fabPort d p).retraining)) = true := by simp [hup]
  exact ((portDown_links h).heldDown p).trans (by rw [portCleared, fabPort_modPort_same])

/-! Roll Call and the bundle store. -/

section
variable (h : LinksKept (fun _ => True) d₀ d)
include h

theorem emptyCache_links {p : Nat} : LinksKept (fun _ => True) d₀ (emptyCache d p) := h.update
theorem dropTimetable_links : LinksKept (fun _ => True) d₀ (dropTimetable d) :=
  agreeDrop_links (emptyCache_links (emptyCache_links (copyStopRound_links h).setMem)).update
theorem rcFail_links {cause : Nat} : LinksKept (fun _ => True) d₀ (rcFail d cause) := setRc_links h.update
theorem sendAssign_links {x : RcDev} : LinksKept (fun _ => True) d₀ (sendAssign d x) := by
  unfold sendAssign
  split
  · exact h
  · exact (LinksKept.ite (h.port ⟨rfl, rfl⟩) h).sends (sendCtl_sends (.refl _))
theorem rcComplete_links {record : List Byte} {count topo : Nat} {torus : Bool} :
    LinksKept (fun _ => True) d₀ (rcComplete d record count torus topo) :=
  agreeDrop_links (setRc_links (copyStopRound_links (LinksKept.foldl (fun h => h.port ⟨rfl, rfl⟩) h.update).update))
theorem rcFinish_links {sizes : Option (Nat × Nat × Nat)} : LinksKept (fun _ => True) d₀ (rcFinish d sizes) :=
  rcComplete_links (h.sends (sendDown_sends (.foldl sendDown_sends (.refl _))))
theorem numberOn_links : LinksKept (fun _ => True) d₀ (numberOn d) := by
  simp only [numberOn]
  split
  · exact h
  · refine .ite (rcFail_links h) (.ite (rcFail_links h) (.ite (.foldl (fun h => sendAssign_links h) h.update) ?_))
    split
    · exact rcFinish_links h
    · exact .ite (rcFinish_links h) (.foldl (fun h => sendAssign_links h) h.update)
theorem rcBegin_links : LinksKept (fun _ => True) d₀ (rcBegin d) := by
  have hstart : ∀ {e : Dev} (devs : List RcDev), LinksKept (fun _ => True) d₀ e →
      LinksKept (fun _ => True) d₀ { e with fab := { e.fab with devs := devs, level := 0, tree := 0, torus := false } } :=
    fun _ h => h.update
  exact .ite h (numberOn_links (hstart _ (.foldl (fun h => h.port ⟨rfl, rfl⟩) (dropTimetable_links h.update))))
theorem freeStore_links : LinksKept (fun _ => True) d₀ (freeStore d) := .ite h.update h

end

end
end Sys2Proof.Machine
end

section
/-!
Agreement, reset requests and the loss of a fabric reference clock (R376 to R378, R489, R490, R563).
-/
namespace Sys2Proof.Machine
open Sys2Proof.Safety

/-! ### Rows that write FAB_CTL, and rows of control messages -/

/-- A write of a word in a block that is served takes effect (R431, R433, R539). -/
theorem word_row {s : State} {off : Nat} {a : Answer} {e : Dev} (f : Dev → Dev) (ha : a = onWord s off f) (hs : served s)
    (he : f (clearFault s.dev off) = e) : a = goes s e := by
  rw [ha, onWord_served s off f hs, he]; rfl

/-- The row of a control message that the link accepts. -/
theorem ctl_row {s : State} {p k : Nat} {f : BitVec 256} {d e : Dev} {a : Answer} (act : Dev → Dev)
    (ha : a = onPort s p (fun d => onCtl d p f k act)) (hd : accepted s p f d) (hk : ctlIs f k) (he : act d = e) : a = goes s e :=
  port_row _ ha hd.1 ((onCtl_accepted hk hd.2).trans he)

/-- Fields of a control message by their place in the flit (R340). -/
theorem ctlField_eq (f : BitVec 256) (lo w : Nat) : ctlField f lo w = bits f.toNat (20 + lo) w := rfl

/-! ### AGREE (R376 to R378) -/

theorem agreeReady_iff {d : Dev} : agreeReady d = true ↔ d.ttl.active ≠ none ∧ d.fab.rc = .complete := by
  simp [agreeReady, ttActive, Option.isSome_iff_ne_none]

section
variable {d : Dev}

theorem agreeStart_not_ready (h : ¬ (d.ttl.active ≠ none ∧ d.fab.rc = .complete)) : agreeStart d = d :=
  if_pos (by rw [Bool.not_eq_true', ← Bool.not_eq_true, agreeReady_iff]; exact h)
variable (h : d.ttl.active ≠ none ∧ d.fab.rc = .complete)
include h

theorem agreeStart_running (hw : d.fab.ag = .waiting) :
    agreeStart d = { d with fab := { d.fab with agQueue := d.fab.agQueue + 1 } } := by
  rw [agreeStart, if_neg (by simp [agreeReady_iff, h]), if_pos hw]
/-- A round begins with the device's arrivals at Bells 1,017 and 1,018 (R376 step 1). -/
theorem agreeStart_begins (hw : d.fab.ag ≠ .waiting) : agreeStart d =
    bellArrive (bellArrive (signal { d with fab := { d.fab with
      fp := BitVec.ofNat 64 (fingerprint d), agMin := none, agMax := none, ag := .waiting } } 11) 1017 2000 1
        (BitVec.ofNat 64 (fingerprint d))) 1018 2000 2 (BitVec.ofNat 64 (fingerprint d)) := by
  rw [agreeStart, if_neg (by simp [agreeReady_iff, h]), if_neg hw]
  simp only [agreeBegin, setAg, if_neg hw]
  rfl
end

/-! ### RESET_REQ (R489, R490) -/

section
variable {d : Dev} {p : Nat} {f : BitVec 256}

/-- A reason that is not zero is given only where its condition holds. -/
theorem ite_eq_zero_iff {c : Prop} [Decidable c] {n x : Nat} (hn : n ≠ 0) : (if c then n else x) = 0 ↔ ¬ c ∧ x = 0 := by
  split <;> simp [*]
/-- When a request is accepted (R489, R490). -/
theorem resetReqWhy_eq_zero_iff : resetReqWhy d f = 0 ↔ d.fab.ag = .agreed ∧ bits f.toNat 52 64 = d.fab.fp.toNat ∧
    bits f.toNat 36 16 < d.fab.count.toNat ∧ bits f.toNat 36 16 ∉ d.fab.absentSet ∧
      (bits f.toNat 116 4 = 1 ∨ bits f.toNat 116 4 = 2) := by
  rw [resetReqWhy]
  rw [ite_eq_zero_iff (by decide), ite_eq_zero_iff (by decide), ite_eq_zero_iff (by decide), ite_eq_zero_iff (by decide)]
  simp [ctlField_eq, and_assoc, or_iff_not_imp_left]
  exact fun _ _ _ _ => decide_eq_false_iff_not.trans Nat.not_le

/-- The log entry of a request for this device (R489). -/
def resetLogged (d : Dev) (f : BitVec 256) (okay : Nat) : Dev :=
  logEvent d 0x0805 0x100 0xFFFF (leBytes 2 (bits f.toNat 36 16) ++ leBytes 1 (bits f.toNat 116 4) ++ leBytes 1 (bits f.toNat 120 8)
    ++ leBytes 1 okay)

theorem resetReqAt_accepted (hdst : bits f.toNat 20 16 = d.fab.id.toNat) (h : resetReqWhy d f = 0) :
    resetReqAt d p f = kindReset (resetLogged d f 1) (bits f.toNat 116 4 == 2) 6 (bits f.toNat 36 16) := by
  simp [resetReqAt, ctlField_eq, ownId, hdst, h, resetLogged, le, by1, b2n, srcRegistrar, argNone]
theorem resetReqAt_refused (hdst : bits f.toNat 20 16 = d.fab.id.toNat) (h : resetReqWhy d f ≠ 0) :
    resetReqAt d p f = logEvent (resetLogged d f 0) 0x0105 0x103 0xFFFF
      (leBytes 1 2 ++ leBytes 1 (resetReqWhy d f) ++ leBytes 2 (bits f.toNat 36 16)) := by
  simp [resetReqAt, ctlField_eq, ownId, hdst, h, resetLogged, le, by1, b2n, srcRegistrar, argNone]
theorem resetReqAt_no_route (hdst : bits f.toNat 20 16 ≠ d.fab.id.toNat)
    (hn : nextHop d (bits f.toNat 36 16) (bits f.toNat 20 16) 0 p = none) : resetReqAt d p f = d := by
  simp [resetReqAt, ctlField_eq, ownId, hdst, hn]
theorem resetReqAt_forwarded {u ln : Nat} (hdst : bits f.toNat 20 16 ≠ d.fab.id.toNat)
    (hn : nextHop d (bits f.toNat 36 16) (bits f.toNat 20 16) 0 p = some (u, ln)) :
    resetReqAt d p f = sendCtl d u 0xA (bits f.toNat 20 204) := by
  simp [resetReqAt, ctlField_eq, ownId, hdst, hn]

end

/-! ### FABRIC_REFCLK_STOP (R563) -/

theorem exec_fabricRefclkStop (s : State) (south : Bool) :
    exec (.fabricRefclkStop south) s = goes s (freeStore (rcBegin (refclkStopAt s.dev south))) := rfl

/-- Ports that go down one after another are all down in the end. -/
theorem foldl_portDown_state {port : Nat → Nat} {l : List Nat} {d : Dev} {i : Nat}
    (h : i ∈ l ∨ (fabPort d (port i)).state = .down) :
    (fabPort (l.foldl (fun e i => portDown e (port i) false) d) (port i)).state = .down := by
  induction l generalizing d with
  | nil => simpa using h
  | cons j r ih =>
    refine ih ?_
    by_cases hj : port i = port j
    · exact .inr (by rw [hj]; exact portDown_state _ _)
    · rcases h with h | h
      · rcases List.mem_cons.mp h with rfl | h
        · exact absurd rfl hj
        · exact .inl h
      · exact .inr ((congrArg Prod.fst (portDown_other hj false)).trans h)

/-- The six ports of the die are down when the row ends (R563). -/
theorem refclkStop_down (d : Dev) (south : Bool) {i : Nat} (hi : i < 6) :
    (fabPort (freeStore (rcBegin (refclkStopAt d south))) (if south then 6 + i else i)).state = .down := by
  have hstop : (fabPort (refclkStopAt d south) (if south then 6 + i else i)).state = .down :=
    foldl_portDown_state (port := fun i => if south then 6 + i else i) (.inl (List.mem_range.mpr hi))
  exact ((freeStore_links (rcBegin_links (.refl trivial))).state _).trans hstop

/-- Settles O40: the branches of `agreeStart` and `resetReqAt`, and `portDown` for each port of the die. -/
theorem agreementAndResetRequests : Obligations.AgreementAndResetRequests := by
  refine ⟨fun s hs => ?agree, fun s p f d hd hk => ?reset, fun s south =>
    ⟨{ s with dev := freeStore (rcBegin (refclkStopAt s.dev south)) }, exec_fabricRefclkStop s south, ?stops, fun i hi => ?down⟩⟩
  case agree =>
    have hrow : ∀ {e}, agreeStart (clearFault s.dev 0xB0004) = e → exec .agree s = goes s e :=
      fun he => word_row (fun d => agreeStart d) rfl hs he
    exact ⟨fun h => hrow (agreeStart_not_ready h), fun h hw => hrow (agreeStart_running h hw),
      fun h hw => hrow (agreeStart_begins h hw)⟩
  case reset =>
    have hrow : ∀ {e}, resetReqAt d p f = e → exec (.resetReq p f) s = goes s e :=
      fun he => ctl_row (fun e => resetReqAt e p f) rfl hd hk he
    refine ⟨fun hdst => ⟨fun h => hrow (resetReqAt_accepted hdst h), fun h => hrow (resetReqAt_refused hdst h)⟩,
      resetReqWhy_eq_zero_iff, fun hdst hn => hrow (resetReqAt_no_route hdst hn),
      fun u ln hdst hn => hrow (resetReqAt_forwarded hdst hn)⟩
  case stops => simp only [refclkStopAt]
  case down => simpa using refclkStop_down s.dev south hi

end Sys2Proof.Machine
end

section
/-!
Attendance (R355, R357, R369 to R374).
-/
namespace Sys2Proof.Machine
open Sys2Proof.Safety

/-! ### What the end of a round of the Copybook leaves as it was -/

/-- The cores, the absent devices and the epoch of the tree stand as in `d₀`. -/
structure AbsenceKept (d₀ d : Dev) : Prop where
  cores : d.cores = d₀.cores
  absentSet : d.fab.absentSet = d₀.fab.absentSet
  tree : d.fab.tree = d₀.fab.tree

section
variable {d₀ d : Dev}

theorem AbsenceKept.refl (d : Dev) : AbsenceKept d d := ⟨rfl, rfl, rfl⟩
/-- A record update that leaves the cores and the fabric's absent devices and tree. -/
theorem AbsenceKept.update {me bw be tt hb cx fa cp de pa ho fu fl pr re rp gl ew fc ou} (h : AbsenceKept d₀ d)
    (habsent : fa.absentSet = d.fab.absentSet := by rfl) (htree : fa.tree = d.fab.tree := by rfl) :
    AbsenceKept d₀ ⟨me, bw, d.cores, be, tt, hb, cx, fa, cp, de, pa, ho, fu, fl, pr, re, rp, gl, ew, fc, ou⟩ :=
  ⟨h.cores, habsent.trans h.absentSet, htree.trans h.tree⟩
theorem AbsenceKept.sends {e : Dev} (h : AbsenceKept d₀ d) (hs : SendsOnly d e) : AbsenceKept d₀ e := by
  obtain ⟨⟨_, _, _, rfl⟩, _⟩ := hs
  exact ⟨h.cores, h.absentSet, h.tree⟩
theorem AbsenceKept.ite {c : Prop} [Decidable c] {a b : Dev} (ha : AbsenceKept d₀ a) (hb : AbsenceKept d₀ b) :
    AbsenceKept d₀ (if c then a else b) := by
  split
  · exact ha
  · exact hb

theorem signal_absence {vec : Nat} (h : AbsenceKept d₀ d) : AbsenceKept d₀ (signal d vec) := .ite (.ite h.update h.update) h
theorem logEvent_absence {code src arg : Nat} {data : List Byte} (h : AbsenceKept d₀ d) :
    AbsenceKept d₀ (logEvent d code src arg data) := signal_absence h.update
theorem agreeDrop_absence (h : AbsenceKept d₀ d) : AbsenceKept d₀ (agreeDrop d) := .ite h.update (signal_absence h.update)
theorem copyStopRound_absence {why : CopyLast} (h : AbsenceKept d₀ d) : AbsenceKept d₀ (copyStopRound d why) := by
  unfold copyStopRound
  split
  · exact signal_absence (logEvent_absence h.update)
  · exact signal_absence (logEvent_absence h.update)
  · exact h
theorem bellForward_absence {b : Nat} (h : AbsenceKept d₀ d) : AbsenceKept d₀ (bellForward d b) := by
  simp only [bellForward]
  split
  · exact h
  · split
    · exact h
    · exact h.update.sends (txQueueFrom_sends (.refl _))
theorem bellArrive_absence {b src : Nat} {op : BitVec 3} {value : Dword} (h : AbsenceKept d₀ d) :
    AbsenceKept d₀ (bellArrive d b src op value) := .ite h (bellForward_absence (.ite (logEvent_absence h.update) h.update))
theorem bellRelease_absence {b : Nat} {op : BitVec 3} {value : Dword} (h : AbsenceKept d₀ d) :
    AbsenceKept d₀ (bellRelease d b op value) :=
  h.update.sends (.foldl (fun h => txQueueFrom_sends h) (.refl _))
theorem startArrives_absence (h : AbsenceKept d₀ d) : AbsenceKept d₀ (startArrives d) := by
  unfold startArrives
  split
  · exact .ite (bellArrive_absence h.update) h
  · exact h
theorem roundNext_absence (h : AbsenceKept d₀ d) : AbsenceKept d₀ (roundNext d) :=
  .ite (.ite (startArrives_absence (bellRelease_absence h)) h) h
theorem cadence_absence (h : AbsenceKept d₀ d) : AbsenceKept d₀ (cadence d) := by
  unfold cadence
  split
  · exact h
  · exact h.update
end

/-! ### ABSENT takes effect (R371, R372) -/

/-- The device with one more absent device, and no transfer that waits for it. -/
def absentNoted (d : Dev) (gone : Nat) (tree : Byte) : Dev :=
  mapXfers { d with fab := { d.fab with absentSet := gone :: d.fab.absentSet, tree := tree } } (failWaits (fun o => o.dev.toNat == gone))
/-- The rounds of agreement and of the Copybook that an absent device ends, and the next one (R372). -/
def roundsRestarted (d : Dev) : Dev := roundNext (agreeDrop (copyStopRound (resetSystemBells d) .restarted))

section
variable {d : Dev} {gone : Nat} {tree : Byte}

theorem absentApply_again (h : gone ∈ d.fab.absentSet) : absentApply d gone tree = d := if_pos (by simpa using h)
theorem absentApply_first (h : gone ∉ d.fab.absentSet) : absentApply d gone tree =
    if (copyCfg (roundsRestarted (absentNoted d gone tree))).isSome then
      cadence { roundsRestarted (absentNoted d gone tree) with copy :=
        { (roundsRestarted (absentNoted d gone tree)).copy with lost := (roundsRestarted (absentNoted d gone tree)).copy.lost + 1 } }
    else roundsRestarted (absentNoted d gone tree) := if_neg (by simpa using h)

theorem absentApply_absence (h : gone ∉ d.fab.absentSet) : AbsenceKept (absentNoted d gone tree) (absentApply d gone tree) := by
  have hrounds : AbsenceKept (absentNoted d gone tree) (roundsRestarted (absentNoted d gone tree)) :=
    roundNext_absence (agreeDrop_absence (copyStopRound_absence (AbsenceKept.refl _).update))
  rw [absentApply_first h]
  exact .ite (cadence_absence hrounds.update) hrounds

/-- A transfer that is put through `failWaits` waits for nothing of the device that is gone (R352, R371). -/
theorem failWaits_waiting {x : Xfer} {o : Outstanding} (h : o ∈ (failWaits (fun o => o.dev.toNat == gone) x).waiting) :
    o.dev.toNat ≠ gone := by
  unfold failWaits at h
  split at h
  next => simpa using (List.mem_filter.mp h).2
  next hno =>
    intro he
    exact hno (List.any_eq_true.mpr ⟨o, h, by simp [he]⟩)
/-- The transfers of a core after each has been put through a function. -/
theorem mapXfers_xfers (d : Dev) {f : Xfer → Xfer} (v : Nat) :
    (coreOf (mapXfers d f) v).strm.xfers = (coreOf d v).strm.xfers.map f := by
  rw [coreOf, coreOf, mapXfers, mapGet, mapGet, mapGet?_map_of_fst]
  · cases mapGet? d.cores v <;> rfl
  · exact fun _ => rfl
theorem absentApply_waiting (h : gone ∉ d.fab.absentSet) {v : Nat} {x : Xfer}
    (hx : x ∈ (coreOf (absentApply d gone tree) v).strm.xfers) {o : Outstanding} (ho : o ∈ x.waiting) : o.dev.toNat ≠ gone := by
  rw [coreOf, (absentApply_absence h).cores] at hx
  obtain ⟨y, _, rfl⟩ := List.mem_map.mp (mapXfers_xfers _ v ▸ hx)
  exact failWaits_waiting ho

theorem copyStopRound_due (d : Dev) (why : CopyLast) : (copyStopRound d why).copy.due = d.copy.due := by
  unfold copyStopRound; split <;> simp
theorem copyStopRound_bells (d : Dev) (why : CopyLast) : (copyStopRound d why).bells = d.bells := by
  unfold copyStopRound; split <;> simp
theorem agreeDrop_copy (d : Dev) : (agreeDrop d).copy = d.copy := setAg_copy _ _
theorem agreeDrop_bells (d : Dev) : (agreeDrop d).bells = d.bells := setAg_bells _ _
theorem cadence_bells (d : Dev) : (cadence d).bells = d.bells := by
  unfold cadence; split <;> rfl
/-- A key that a filter takes out of a table has no value. -/
theorem mapGet?_filter_of_not {α : Type} {q : Nat × α → Bool} {k : Nat} (hq : ∀ v, q (k, v) = false) (m : NMap α) :
    mapGet? (m.filter q) k = none := by
  induction m with
  | nil => rfl
  | cons x r ih =>
    rw [List.filter_cons]
    split
    next hx => rw [mapGet?, if_neg (fun hk => by subst hk; simp [hq] at hx), ih]
    next => exact ih
/-- A system Bell that starts again has no arrival and no generation (R372). -/
theorem bellOf_resetSystemBells {b : Nat} (hb : 1017 ≤ b) : bellOf (resetSystemBells d) b = {} := by
  have hno : mapGet? (resetSystemBells d).bells b = none := mapGet?_filter_of_not (fun v => by simp; omega) _
  rw [bellOf, mapGet, hno]; rfl
/-- With no round due at the root, the system Bells stay as they start (R372). -/
theorem absentApply_bells (h : gone ∉ d.fab.absentSet) (hdue : d.copy.due = false) {b : Nat} (hb : 1017 ≤ b) :
    bellOf (absentApply d gone tree) b = {} := by
  have hrounds : (roundsRestarted (absentNoted d gone tree)).bells = (resetSystemBells (absentNoted d gone tree)).bells := by
    rw [roundsRestarted, roundNext, agreeDrop_copy, copyStopRound_due, if_neg (by simp [resetSystemBells, absentNoted, mapXfers, hdue]),
      agreeDrop_bells, copyStopRound_bells]
  have hbells : (absentApply d gone tree).bells = (resetSystemBells (absentNoted d gone tree)).bells := by
    rw [absentApply_first h]
    split
    · rw [cadence_bells]; exact hrounds
    · exact hrounds
  rw [bellOf, hbells]; exact bellOf_resetSystemBells hb
end

/-! ### The messages (R355, R369 to R371) -/

section
variable {d : Dev} {p : Nat} {f : BitVec 256}

theorem linkDownAt_eq : linkDownAt d f = if d.fab.id = 0
    then rootLinkDown d (bits f.toNat 20 16) (bits f.toNat 36 4) (bits f.toNat 40 16) else sendUp d 8 (bits f.toNat 20 204) := by
  simp [linkDownAt, isRoot, ctlField_eq]
theorem sendFlood_epoch (but ctype body : Nat) : (sendFlood d but ctype body).fab.epoch = d.fab.epoch := by
  obtain ⟨⟨_, _, _, h⟩, _⟩ := sendFlood_sends (but := but) (ctype := ctype) (body := body) (.refl d)
  rw [h]
theorem absentAt_again (h : (bits f.toNat 20 16, bits f.toNat 36 8) ∈ d.fab.seenAbsent) : absentAt d p f = d :=
  if_pos (by simpa [ctlField_eq] using h)
theorem absentAt_first (h : (bits f.toNat 20 16, bits f.toNat 36 8) ∉ d.fab.seenAbsent) :
    let passed := sendFlood { d with fab := { d.fab with seenAbsent := (bits f.toNat 20 16, bits f.toNat 36 8) :: d.fab.seenAbsent } } p 9
      (bits f.toNat 20 204)
    absentAt d p f = if bits f.toNat 36 8 = d.fab.epoch.toNat
      then absentApply passed (bits f.toNat 20 16) (BitVec.ofNat 8 (bits f.toNat 44 8)) else passed := by
  simp only [absentAt, ctlField_eq, sendFlood_epoch]
  exact if_neg (by simpa using h)
end

/-! ### HEARTBEAT_SEND and HEARTBEAT_MISS (R369, R373) -/

/-- Two folds agree where their steps agree on every value that is reached. -/
theorem foldl_eq_of_inv {α β : Type} {f g : α → β → α} (P : α → Prop) (hstep : ∀ a b, P a → f a b = g a b ∧ P (g a b)) {l : List β}
    {a : α} (ha : P a) : l.foldl f a = l.foldl g a := by
  induction l generalizing a with
  | nil => rfl
  | cons b r ih =>
    obtain ⟨heq, hnext⟩ := hstep a b ha
    rw [List.foldl_cons, List.foldl_cons, heq]
    exact ih hnext

theorem heartbeatSendAt_detained {d : Dev} (h : d.det.device = true) : heartbeatSendAt d = d := if_pos h
/-- The ID, the epoch and the root bit are the same at every port, since a send leaves them. -/
theorem heartbeatSendAt_ports {d : Dev} (h : d.det.device = false) : heartbeatSendAt d = (List.range 12).foldl (fun e u =>
    if portUp (fabPort e u) then sendCtl e u 2 (d.fab.id.toNat + d.fab.epoch.toNat * 2 ^ 16 + (if rootBit d then 2 ^ 24 else 0))
    else e) d := by
  rw [heartbeatSendAt, if_neg (by simp [h])]
  refine foldl_eq_of_inv (SendsOnly d) (fun e u he => ⟨?_, .ite (sendCtl_sends he) he⟩) (.refl d)
  obtain ⟨⟨_, _, _, rfl⟩, _⟩ := he
  have hroot : b2n (rootBit d) * 2 ^ 24 = if rootBit d then 2 ^ 24 else 0 := by cases rootBit d <;> rfl
  rw [← hroot]
  rfl

section
variable {d : Dev} {p : Nat}

theorem heartbeatMissAt_not_up (h : (fabPort d p).state ≠ .up) : heartbeatMissAt d p = d := if_pos (by simpa [portUp] using h)
variable (h : (fabPort d p).state = .up)
include h
theorem heartbeatMissAt_seen (hs : (fabPort d p).hbSeen = true) :
    heartbeatMissAt d p = modPort d p (fun x => { x with hbSeen := false }) := by simp [heartbeatMissAt, portUp, h, hs]
theorem heartbeatMissAt_missed (hs : (fabPort d p).hbSeen = false) : heartbeatMissAt d p =
    if 3 ≤ (fabPort d p).missRun + 1 then
      portDown (modPort d p (fun x => { x with miss := satAdd x.miss 1, missRun := x.missRun + 1 })) p true
    else modPort d p (fun x => { x with miss := satAdd x.miss 1, missRun := x.missRun + 1 }) := by
  simp [heartbeatMissAt, portUp, h, hs]
end

/-- Settles O37: each message by its row, ABSENT by what the end of the rounds leaves, and the windows of HEARTBEAT. -/
theorem attendance : Obligations.Attendance := by
  refine ⟨fun s p f d hd => ⟨?hello, ?heartbeat, ?linkDown, ?absent⟩,
    fun d gone tree => ⟨absentApply_again, fun h => ⟨(absentApply_absence h).absentSet, (absentApply_absence h).tree,
      (absentApply_links (m := (· = d.mem)) (.refl rfl)).mem, fun v x hx o ho => absentApply_waiting h hx ho,
      fun hdue b hb => absentApply_bells h hdue hb⟩⟩,
    fun d dev port nbr h => if_pos (by simpa using h),
    fun s => ⟨fun h => congrArg (goes s) (heartbeatSendAt_detained h), fun h => congrArg (goes s) (heartbeatSendAt_ports h)⟩, ?miss⟩
  case hello => exact fun hk => ctl_row (fun e => helloAt e p f) rfl hd hk rfl
  case heartbeat => exact fun hk => ctl_row (fun e => heartbeatAt e p f) rfl hd hk rfl
  case linkDown => exact fun hk => ctl_row (fun e => linkDownAt e f) rfl hd hk linkDownAt_eq
  case absent =>
    exact fun hk => ⟨fun h => ctl_row (fun e => absentAt e p f) rfl hd hk (absentAt_again h),
      fun h => ctl_row (fun e => absentAt e p f) rfl hd hk (absentAt_first h)⟩
  case miss =>
    intro s p hp
    have hrow : ∀ {e}, heartbeatMissAt s.dev p = e → exec (.heartbeatMiss p) s = goes s (freeStore (rcBegin e)) :=
      fun he => port_row (fun d => freeStore (rcBegin (heartbeatMissAt d p))) rfl hp (congrArg (fun e => freeStore (rcBegin e)) he)
    refine ⟨fun h => hrow (heartbeatMissAt_not_up h), fun h hs => hrow (heartbeatMissAt_seen h hs),
      fun h hs hn => hrow ((heartbeatMissAt_missed h hs).trans (if_neg (by omega))),
      fun h hs hn => ⟨hrow ((heartbeatMissAt_missed h hs).trans (if_pos hn)), portDown_state _ _, portDown_heldDown ?_ _⟩⟩
    rw [fabPort_modPort_same]; exact h

end Sys2Proof.Machine
end

section
/-!
The link rows (R330, R332, R333, R342 to R345, R471): what an acknowledgement drops from the replay buffer, and how a link comes up.
-/
namespace Sys2Proof.Machine
open Sys2Proof.Safety

/-! ### The replay buffer (R344) -/

/-- An acknowledgement takes its count of numbers off the held ones. -/
theorem dropAcked_sum : ∀ (n : Nat) (l : List TxFlit),
    ((dropAcked n l).map (fun t => txCount t - t.acked)).sum = (l.map (fun t => txCount t - t.acked)).sum - n
  | _, [] => by simp [dropAcked]
  | n, t :: r => by
    rw [dropAcked]
    split
    next h => rw [dropAcked_sum, List.map_cons, List.sum_cons]; omega
    next h =>
      have hcount : txCount { t with acked := t.acked + n } = txCount t := rfl
      simp only [List.map_cons, List.sum_cons, hcount]
      omega
/-- What is left of the held messages is their end. -/
theorem dropAcked_suffix : ∀ (n : Nat) (l : List TxFlit), (dropAcked n l).map (·.hdr) <:+ l.map (·.hdr)
  | _, [] => by simp [dropAcked]
  | n, t :: r => by
    rw [dropAcked]
    split
    · exact (dropAcked_suffix _ r).trans (List.suffix_cons _ _)
    · exact List.suffix_rfl
theorem dropAcked_hdr (n : Nat) (l : List TxFlit) :
    (dropAcked n l).map (·.hdr) = (l.map (·.hdr)).drop (l.length - (dropAcked n l).length) := by
  simpa using List.suffix_iff_eq_drop.mp (dropAcked_suffix n l)

/-! ### LINK_FLIT, ACK_DUE, RETRAIN_DONE and RESERVED_FLIT_TYPE (R342 to R345) -/

section
variable {d : Dev} {p : Nat} {f : BitVec 256}

/-- What a good link flit leaves of the replay buffer, and the replays since the last advance. -/
def ackedLeft (q : FabPort) (f : BitVec 256) : List TxFlit := dropAcked (ackedCount q (BitVec.ofNat 10 (bits f.toNat 4 10))) q.replay
def ackedReplays (q : FabPort) (f : BitVec 256) : Nat :=
  if 0 < ackedCount q (BitVec.ofNat 10 (bits f.toNat 4 10)) then 0 else q.replays
/-- The port after the acknowledgement and the credits of a good link flit. -/
def ackTaken (d : Dev) (p : Nat) (f : BitVec 256) : Dev :=
  modPort d p (fun x =>
    { x with replay := ackedLeft (fabPort d p) f, replays := ackedReplays (fabPort d p) f,
             credits := List.zipWith (· + ·) x.credits ((List.range 6).map (fun i => bits f.toNat (16 + 8 * i) 8)) })

theorem linkFlitAt_not_taken (h : portOpen (fabPort d p) = false ∨ flitType f ≠ 0) : linkFlitAt d p f = d := if_pos (by simpa using h)
section
variable (hopen : portOpen (fabPort d p) = true) (htype : flitType f = 0)
include hopen htype
theorem linkFlitAt_bad (hok : flitOk f = false) : linkFlitAt d p f = framingError d p := by simp [linkFlitAt, hopen, htype, hok]
theorem linkFlitAt_good (hok : flitOk f = true) : linkFlitAt d p f =
    if bit f.toNat 14 = true ∧ ackedLeft (fabPort d p) f ≠ [] then
      if ackedReplays (fabPort d p) f = 8 then
        modPort (ackTaken d p f) p (fun x =>
          { x with state := .training, retraining := true, rxFlit := none, rxHeld := [], rxNext := none })
      else txGo (replayAll (modPort (ackTaken d p f) p (fun x =>
        { x with replays := ackedReplays (fabPort d p) f + 1, replayCnt := satAdd x.replayCnt 1 })) p) p
    else txGo (ackTaken d p f) p := by
  have hnak : (bit f.toNat 14 && !(ackedLeft (fabPort d p) f).isEmpty) = true ↔
      bit f.toNat 14 = true ∧ ackedLeft (fabPort d p) f ≠ [] := by simp
  simp only [← hnak]
  simp only [linkFlitAt, hopen, htype, hok, ackTaken, ackedLeft, ackedReplays, decide_eq_true_eq]
  rfl
end

theorem ackDueAt_due (hopen : portOpen (fabPort d p) = true) (hn : (fabPort d p).unacked ≠ 0) : ackDueAt d p = sendAck d p false :=
  if_pos (by simp [hopen, hn])
theorem ackDueAt_not_due (h : portOpen (fabPort d p) = false ∨ (fabPort d p).unacked = 0) : ackDueAt d p = d :=
  if_neg (by rcases h with h | h <;> simp [h])

theorem retrainDoneAt_not_retraining {okay : Bool} (h : (fabPort d p).retraining = false) : retrainDoneAt d p okay = d :=
  if_pos (by simp [h])
theorem retrainDoneAt_fails (h : (fabPort d p).retraining = true) : retrainDoneAt d p false = portDown d p false := by
  simp [retrainDoneAt, h]
theorem retrainDoneAt_back (h : (fabPort d p).retraining = true) :
    let st := if d.host.syll then PortState.up else .boot
    retrainDoneAt d p true = txGo (replayAll (modPort d p (fun x =>
      { x with state := st, retraining := false, rcWait := false, replays := 0,
               lanes := if x.lanes = 0 then (if st = .boot then 1 else 4) else x.lanes,
               replayCnt := if x.replay.isEmpty then x.replayCnt else satAdd x.replayCnt 1 })) p) p := by
  by_cases hs : d.host.syll = true <;> simp [retrainDoneAt, h, syllActive, hs]

theorem reservedFlitAt_error (hopen : portOpen (fabPort d p) = true) (hdet : d.det.device = false) (ht : 6 ≤ flitType f) :
    reservedFlitAt d p f = framingError d p := if_pos (by simp [hopen, hdet, ht])
theorem reservedFlitAt_nothing (h : portOpen (fabPort d p) = false ∨ d.det.device = true ∨ flitType f < 6) : reservedFlitAt d p f = d :=
  if_neg (by rcases h with h | h | h <;> simp [h])

/-! ### Training (R330, R332, R333, R369, R471) -/

/-- When the port may train. -/
def portMayTrain (d : Dev) (p : Nat) (call : Bool) : Prop :=
  (fabPort d p).en = true ∧ pfault d (0xB1000 + 0x100 * p) = false ∧ (fabPort d p).retraining = false ∧ (fabPort d p).state ≠ .up ∧
    ((fabPort d p).heldDown = false ∨ call = true ∧ rootBit d = false) ∧ 6 ≤ d.rp.step

theorem portMayTrain_iff {call : Bool} (hp : p < 12) : portMayTrain d p call ↔
    ¬ (12 ≤ p || !(fabPort d p).en || pfault d (0xB1000 + 0x100 * p) || (fabPort d p).retraining || (fabPort d p).state == .up ||
      !(!(fabPort d p).heldDown || (call && !rootBit d)) || d.rp.step < 6) = true := by
  simp [portMayTrain, hp, or_iff_not_imp_left]

section
variable {full rev call : Bool} {lanes : Nat} {far : BitVec 2} (hp : p < 12)
include hp

theorem portTrainingAt_may_not (h : ¬ portMayTrain d p call) : portTrainingAt d p full lanes rev far call = d :=
  if_pos (by rw [portMayTrain_iff hp, not_not] at h; exact h)
variable (h : portMayTrain d p call)
include h
theorem portTrainingAt_full : portTrainingAt d p true lanes rev far call = if d.host.syll then
      rcBegin (if trainedWidth (isA0 d) (if far = (fabPort d p).chan then lanes else 0) = 0 then portDown d p false
        else linkUp d p .up (trainedWidth (isA0 d) (if far = (fabPort d p).chan then lanes else 0)) rev)
    else d := by
  rw [portTrainingAt, if_neg ((portMayTrain_iff hp).mp h)]
  cases hs : d.host.syll <;> simp [syllActive, hs]
theorem portTrainingAt_boot : portTrainingAt d p false lanes rev far call =
    if d.host.syll = false ∧ (fabPort d p).state ≠ .boot ∧ far = (fabPort d p).chan ∧ lanes % 2 = 1 then linkUp d p .boot 1 rev
    else d := by
  have hlane : bit (if far = (fabPort d p).chan then lanes else 0) 0 = true ↔ far = (fabPort d p).chan ∧ lanes % 2 = 1 := by
    split <;> simp [bit, *, Nat.testBit_zero]
  rw [portTrainingAt, if_neg ((portMayTrain_iff hp).mp h)]
  simp only [syllActive, hlane]
  by_cases hs : d.host.syll = true <;> by_cases hb : (fabPort d p).state = .boot <;> simp [hs, hb]
end

theorem fallbackAt_eq {far : BitVec 2} (hp : p < 12) : fallbackAt d p far =
    if (fabPort d p).en = true ∧ (fabPort d p).retraining = false ∧ (fabPort d p).state = .training ∧ d.host.syll = true ∧
      far = (fabPort d p).chan then rcBegin (linkUp d p .boot 1 (fabPort d p).rev) else d := by
  simp only [fallbackAt]
  by_cases h : (fabPort d p).en = true ∧ (fabPort d p).retraining = false ∧ (fabPort d p).state = .training ∧ d.host.syll = true ∧
      far = (fabPort d p).chan
  · obtain ⟨hen, hre, hst, hsy, hfar⟩ := h
    simp [hen, hre, hst, hsy, hfar, hp, syllActive]
  · rw [if_neg h, if_pos]
    by_contra hc
    refine h ?_
    simpa [syllActive, hp, and_assoc] using hc

end

/-! ### A link that comes up (R355) -/

theorem flitType_ctlFlit (ctype body : Nat) : flitType (ctlFlit ctype body) = 1 := by
  simp only [flitType, ctlFlit, bits, BitVec.toNat_ofNat, Nat.shiftRight_zero]
  omega
theorem ctlType_ctlFlit {ctype : Nat} (h : ctype < 64) (body : Nat) : ctlType (ctlFlit ctype body) = ctype := by
  simp only [ctlType, ctlFlit, bits, BitVec.toNat_ofNat, Nat.shiftRight_eq_div_pow]
  omega

/-- Slots leave a port without a change of anything else. -/
theorem emitSlots_out (d : Dev) (p : Nat) (slots : List Slot) : ∃ out, emitSlots d p slots = { d with out := out } := by
  simp only [emitSlots]
  generalize packWords _ _ _ = words
  induction words generalizing d with
  | nil => exact ⟨_, rfl⟩
  | cons w r ih => exact ih (emit d (.codeword p w))

/-- A port as its link comes up: numbers, credits and buffers start afresh. -/
def portFresh (q : FabPort) (st : PortState) (width : Nat) (rev : Bool) : FabPort :=
  { en := q.en, chan := q.chan, txinv := q.txinv, state := st, lanes := BitVec.ofNat 3 width, rev := rev,
    replayCnt := q.replayCnt, fecc := q.fecc, fecu := q.fecu, miss := q.miss, child := q.child, doneRx := q.doneRx }

/-- The port once its only waiting message, a control message, has left. -/
def ctlSent (t : TxFlit) (q : FabPort) : FabPort :=
  { q with txq := [], credits := q.credits.set 1 (q.credits.getD 1 0 - 1), txSeq := q.txSeq + 1, sending := none,
           replay := q.replay ++ [{ t with seq := q.txSeq, hdr := stampSeq t.hdr q.txSeq }] }

section
variable {d : Dev} {p : Nat} {q : FabPort} {t : TxFlit} (htype : flitType t.hdr = 1) (hdata : t.data = [])
include htype

theorem nextTx_ctl (hsend : sendable { q with txq := [t] } t = true) : nextTx { q with txq := [t] } = some t := by
  simp [nextTx, hsend, isBell, htype]
include hdata
/-- A control message leaves whole. -/
theorem txSend_ctl (hq : fabPort d p = { q with txq := [t] }) : ∃ out, txSend d p t =
    { modPort d p (fun _ => ctlSent t q) with out := out } := by
  obtain ⟨out, h⟩ := emitSlots_out (modPort d p (fun _ => ctlSent t q)) p (messageSlots (stampSeq t.hdr q.txSeq) [])
  refine ⟨out, Eq.trans ?_ h⟩
  simp only [txSend, hq, flitChan, htype, hdata]
  simp [ctlSent, eraseTx, messageSlots, begun, cdiv, flitSlots, htype, hdata, isBulk]
/-- The transmitter of an open port sends its only message, a control message, and then has nothing left. -/
theorem txGo_ctl (hopen : portOpen q = true) (hidle : q.sending = none) (hsend : sendable { q with txq := [t] } t = true)
    (hq : fabPort d p = { q with txq := [t] }) : ∃ out, txGo d p = { modPort d p (fun _ => ctlSent t q) with out := out } := by
  obtain ⟨out, h⟩ := txSend_ctl htype hdata hq
  refine ⟨out, ?_⟩
  have hresume : txResume d p = d := by simp [txResume, hq, hidle]
  rw [txGo, if_neg (by rw [hq, Bool.not_eq_true', Bool.not_eq_false]; exact hopen)]
  simp only [hresume, hq, List.length_singleton, txPump, nextTx_ctl htype hsend, h]
end

/-- The device with the port's link no longer down at either end (R370). -/
def linkNotDown (d : Dev) (p : Nat) : Dev :=
  let r := d.fab.record
  let mine := fun (l : Nat × Nat) => l == (ownId d, p) || l == (recNid r (ownId d) p, recNport r (ownId d) p)
  { d with fab := { d.fab with downLinks := d.fab.downLinks.filter (fun l => !mine l) } }
/-- The HELLO of a link. -/
def helloFlit (d : Dev) (p : Nat) : TxFlit := { seq := 0, hdr := ctlFlit 1 (d.glb.serial.toNat + p * 2 ^ 64) }

section
variable {d : Dev} {p w : Nat} {st : PortState} {rev : Bool}

/-- HELLO is of boot mode, and a link that has just come up has credits and room for it. -/
theorem sendable_hello (q : FabPort) : sendable { portFresh q st w rev with txq := [helloFlit d p] } (helloFlit d p) = true := by
  have htype : flitType (helloFlit d p).hdr = 1 := flitType_ctlFlit _ _
  have hboot : bootFlit (helloFlit d p).hdr = true := bootFlit_iff.mpr ⟨htype, .inl (ctlType_ctlFlit (by decide) _)⟩
  have hdata : (helloFlit d p).data = [] := rfl
  simp [sendable, hasCredit, hboot, flitChan, htype, hdata, portFresh, flitSlots, replayRoom, replayFlits, replayBytes]

variable (hst : st = .up ∨ st = .boot)
include hst
theorem portFresh_open (q : FabPort) : portOpen (portFresh q st w rev) = true := by
  rcases hst with rfl | rfl <;> rfl
theorem sendCtl_hello {d₀ : Dev} (hq : fabPort d p = portFresh (fabPort d₀ p) st w rev) :
    sendCtl d p 1 (d.glb.serial.toNat + p * 2 ^ 64) = txGo (modPort d p (fun q => { q with txq := q.txq ++ [helloFlit d p] })) p :=
  if_pos (by rw [hq]; rcases hst with rfl | rfl <;> rfl)

/-- A link that comes up starts afresh and says HELLO (R355). -/
theorem linkUp_eq : ∃ out, linkUp d p st w rev =
    { modPort (linkNotDown d p) p (fun q => ctlSent (helloFlit d p) (portFresh q st w rev)) with out := out } := by
  have hup : linkUp d p st w rev =
      sendCtl (modPort (linkNotDown d p) p (portFresh · st w rev)) p 1 (d.glb.serial.toNat + p * 2 ^ 64) := rfl
  have hport : ∀ f, fabPort (modPort (linkNotDown d p) p f) p = f (fabPort d p) := fun f => fabPort_modPort_same _ p f
  obtain ⟨out, h⟩ := txGo_ctl (flitType_ctlFlit 1 (d.glb.serial.toNat + p * 2 ^ 64)) rfl (portFresh_open hst (fabPort d p)) rfl
    (sendable_hello (fabPort d p))
    (hport (fun x => { portFresh x st w rev with txq := (portFresh x st w rev).txq ++ [helloFlit d p] }))
  refine ⟨out, ?_⟩
  rw [hup]
  refine (sendCtl_hello hst (hport _)).trans ?_
  rw [modPort_modPort]
  refine h.trans ?_
  rw [modPort_modPort]
  rfl
theorem linkUp_port : fabPort (linkUp d p st w rev) p = ctlSent (helloFlit d p) (portFresh (fabPort d p) st w rev) := by
  obtain ⟨out, h⟩ := linkUp_eq (d := d) (p := p) (w := w) (rev := rev) hst
  rw [h]
  exact fabPort_modPort_same (linkNotDown d p) p (fun q => ctlSent (helloFlit d p) (portFresh q st w rev))
theorem linkUp_other {u : Nat} (hu : u ≠ p) : fabPort (linkUp d p st w rev) u = fabPort d u := by
  obtain ⟨out, h⟩ := linkUp_eq (d := d) (p := p) (w := w) (rev := rev) hst
  rw [h]
  exact fabPort_modPort_other (linkNotDown d p) p u (fun q => ctlSent (helloFlit d p) (portFresh q st w rev)) hu
theorem linkUp_mem : (linkUp d p st w rev).mem = d.mem := by
  obtain ⟨out, h⟩ := linkUp_eq (d := d) (p := p) (w := w) (rev := rev) hst
  rw [h]; rfl
end

/-! ### The rows -/

section
variable {s : State} {p : Nat} (hp : p < 12)
include hp

theorem linkFlit_row {f : BitVec 256} {e : Dev} (he : linkFlitAt s.dev p f = e) : exec (.linkFlit p f) s = goes s e :=
  port_row (fun d => linkFlitAt d p f) rfl hp he
theorem ackDue_row {e : Dev} (he : ackDueAt s.dev p = e) : exec (.ackDue p) s = goes s e :=
  port_row (fun d => ackDueAt d p) rfl hp he
theorem retrainDone_row {okay : Bool} {e : Dev} (he : retrainDoneAt s.dev p okay = e) :
    exec (.retrainDone p okay) s = goes s (freeStore (rcBegin e)) :=
  port_row (fun d => freeStore (rcBegin (retrainDoneAt d p okay))) rfl hp (congrArg (fun e => freeStore (rcBegin e)) he)
theorem reservedFlitType_row {f : BitVec 256} {e : Dev} (he : reservedFlitAt s.dev p f = e) :
    exec (.reservedFlitType p f) s = goes s e := port_row (fun d => reservedFlitAt d p f) rfl hp he
end
theorem portTraining_row {s : State} {p : Nat} {full rev call : Bool} {lanes : BitVec 4} {far : BitVec 2} {e : Dev}
    (he : portTrainingAt s.dev p full lanes.toNat rev far call = e) :
    exec (.portTraining p full lanes rev far call) s = goes s (freeStore e) := congrArg (fun d => goes s (freeStore d)) he
theorem fullRateFallback_row {s : State} {p : Nat} {far : BitVec 2} {e : Dev} (he : fallbackAt s.dev p far = e) :
    exec (.fullRateFallback p far) s = goes s (freeStore e) := congrArg (fun d => goes s (freeStore d)) he

namespace Link

/-- Settles O36: the branches of each link row, the end of the replay buffer that an acknowledgement leaves, and `linkUp` as a fresh
port that has sent HELLO. -/
theorem linkRows : Obligations.LinkRows := by
  refine ⟨fun s p hp => ⟨fun f => ⟨?notTaken, ?bad, ?good⟩, ?ackDue, ?ackNot, ?notRetraining, ?retrained, fun f => ⟨?reserved, ?defined⟩,
    fun full rev call lanes far => ⟨?none, ?fullDown, ?fullUp, ?boot⟩, fun far => ⟨?falls, ?fallsNot⟩⟩,
    fun n l => ⟨dropAcked_sum n l, dropAcked_hdr n l⟩, ?up, fun d p held hp => ⟨portDown_state p held, portDown_mem p held⟩⟩
  case notTaken => exact fun h => linkFlit_row hp (linkFlitAt_not_taken h)
  case bad => exact fun ho ht hok => linkFlit_row hp (linkFlitAt_bad ho ht hok)
  case good =>
    intro ho ht hok
    have hgood := linkFlitAt_good ho ht hok
    refine ⟨fun h => linkFlit_row hp (hgood.trans (if_neg ?_)),
      fun hnak hleft hr => linkFlit_row hp (hgood.trans ((if_pos ⟨hnak, hleft⟩).trans (if_pos hr))),
      fun hnak hleft hr => linkFlit_row hp (hgood.trans ((if_pos ⟨hnak, hleft⟩).trans (if_neg hr)))⟩
    rintro ⟨hnak, hleft⟩
    rcases h with h | h
    · simp [h] at hnak
    · exact hleft h
  case ackDue => exact fun ho hn => ackDue_row hp (ackDueAt_due ho hn)
  case ackNot => exact fun h => ackDue_row hp (ackDueAt_not_due h)
  case notRetraining => exact fun okay h => retrainDone_row hp (retrainDoneAt_not_retraining h)
  case retrained => exact fun h => ⟨retrainDone_row hp (retrainDoneAt_fails h), retrainDone_row hp (retrainDoneAt_back h)⟩
  case reserved => exact fun ho hdet ht => reservedFlitType_row hp (reservedFlitAt_error ho hdet ht)
  case defined => exact fun h => reservedFlitType_row hp (reservedFlitAt_nothing h)
  case none =>
    refine fun h => portTraining_row ?_
    by_cases hm : portMayTrain s.dev p call
    · have h := h.resolve_left (not_not_intro hm)
      cases full with
      | true => exact (portTrainingAt_full hp hm).trans (if_neg (fun hs => by simp [hs] at h))
      | false =>
        refine (portTrainingAt_boot hp hm).trans (if_neg ?_)
        rintro ⟨hs, hb, hfar, hl⟩
        simp [hs, hb, hfar, hl] at h
    · exact portTrainingAt_may_not hp hm
  case fullDown =>
    rintro hm rfl hs h
    have hw : trainedWidth (isA0 s.dev) (if far = (fabPort s.dev p).chan then lanes.toNat else 0) = 0 := by
      split
      next hfar => exact h.resolve_left (not_not_intro hfar)
      next => simp [trainedWidth, bits]
    refine portTraining_row ((portTrainingAt_full hp hm).trans ?_)
    rw [if_pos hs, if_pos hw]
  case fullUp =>
    rintro hm rfl hs rfl hw
    refine portTraining_row ((portTrainingAt_full hp hm).trans ?_)
    rw [if_pos hs, if_pos rfl, if_neg hw]
  case boot =>
    rintro hm rfl hs hb hfar hl
    exact portTraining_row ((portTrainingAt_boot hp hm).trans (if_pos ⟨hs, hb, hfar, hl⟩))
  case falls => exact fun h => fullRateFallback_row ((fallbackAt_eq hp).trans (if_pos h))
  case fallsNot => exact fun h => fullRateFallback_row ((fallbackAt_eq hp).trans (if_neg h))
  case up =>
    intro d p w st rev hp hst
    simp only [linkUp_port hst]
    exact ⟨rfl, rfl, rfl, rfl, rfl, rfl, rfl, rfl, rfl, rfl, rfl, rfl, rfl, linkUp_mem hst, fun u hu => linkUp_other hst hu⟩

end Link

end Sys2Proof.Machine
end

section
/-!
Roll Call (R356 to R361, R377).
-/
namespace Sys2Proof.Machine
open Sys2Proof.Safety

/-! ### The fabric's registers after the operations that Roll Call uses -/

section
variable {d : Dev}

theorem setRc_eq (d : Dev) (r : RcState) : setRc d r =
    if d.fab.rc = r then { d with fab := { d.fab with rc := r } } else signal { d with fab := { d.fab with rc := r } } 11 := by
  unfold setRc
  split
  next h => subst h; rfl
  next => rfl
theorem setRc_fab (d : Dev) (r : RcState) : (setRc d r).fab = { d.fab with rc := r } := by
  unfold setRc
  split
  next h => rw [← h]
  next => rw [signal_fab]
theorem setAg_fab (d : Dev) (a : AgState) : (setAg d a).fab = { d.fab with ag := a } := by
  unfold setAg
  split
  next h => rw [← h]
  next => rw [signal_fab]
theorem agreeDrop_fab (d : Dev) : (agreeDrop d).fab = { d.fab with agMin := none, agMax := none, agQueue := 0, ag := .none } :=
  setAg_fab _ _
theorem copyStopRound_fab (d : Dev) (why : CopyLast) : (copyStopRound d why).fab = d.fab := by
  unfold copyStopRound; split <;> simp
theorem copyStopRound_glb (d : Dev) (why : CopyLast) : (copyStopRound d why).glb = d.glb := by
  unfold copyStopRound; split <;> simp
theorem dropTimetable_glb (d : Dev) : (dropTimetable d).glb = d.glb := (setAg_glb _ _).trans (copyStopRound_glb d .restarted)
/-- Ports put through a function one after another: only the ports change. -/
theorem foldl_modPort_ports (f : Nat → FabPort → FabPort) (l : List Nat) (d : Dev) :
    ∃ ports, l.foldl (fun e p => modPort e p (f p)) d = { d with fab := { d.fab with ports := ports } } := by
  induction l generalizing d with
  | nil => exact ⟨_, rfl⟩
  | cons p r ih =>
    obtain ⟨ports, h⟩ := ih (modPort d p (f p))
    exact ⟨ports, h⟩

theorem signal_ctxs (d : Dev) (vec : Nat) : (signal d vec).host.ctxs = d.host.ctxs := by
  unfold signal
  split
  · split <;> rfl
  · rfl
theorem setAg_ctxs (d : Dev) (a : AgState) : (setAg d a).host.ctxs = d.host.ctxs := by
  unfold setAg
  split
  · rfl
  · exact signal_ctxs _ _
theorem jobActive_agreeDrop (d : Dev) : jobActive (agreeDrop d) = jobActive d := by
  have hctxs : (agreeDrop d).host.ctxs = d.host.ctxs := setAg_ctxs _ _
  simp only [jobActive, ctxOf, hctxs]
theorem pfault_clearFault (d : Dev) (off : Nat) : pfault (clearFault d off) off = false := by simp [pfault, clearFault]
theorem rootBit_clearFault (d : Dev) : rootBit (clearFault d 0xB0004) = (clearFault d 0xB0004).fab.root := by
  simp [rootBit, pfault_clearFault]

/-! ### RCGO, and the failure and the start of Roll Call (R356, R358, R360, R361) -/

/-- The root as RCGO advances the epoch. -/
def epochBegun (d : Dev) : Dev := agreeDrop { d with fab := { d.fab with epoch := d.fab.epoch + 1, devs := [], rcErr := 0 } }

theorem jobActive_epochBegun (d : Dev) : jobActive (epochBegun d) = jobActive d := jobActive_agreeDrop _
theorem rcgoAt_not_root (h : rootBit d = false) : rcgoAt d = d := if_pos (by simp [h])
section
variable (hroot : rootBit d = true) (hsyll : syllActive d = true)
include hroot hsyll
theorem rcgoAt_job (hj : jobActive d = true) : rcgoAt d = rcFail (epochBegun d) 2 := by
  have hjob : jobActive (epochBegun d) = true := (jobActive_epochBegun d).trans hj
  rw [rcgoAt, if_neg (by simp [hroot, hsyll])]
  exact if_pos hjob
theorem rcgoAt_begins (hj : jobActive d = false) : rcgoAt d = rcBegin (setRc ((List.range 12).foldl (fun e p =>
      modPort e p (fun q => if q.heldDown && q.en then { q with heldDown := false, rcWait := true, state := .training } else q))
      (epochBegun d)) .running) := by
  have hjob : ¬ jobActive (epochBegun d) = true := by rw [jobActive_epochBegun, hj]; decide
  rw [rcgoAt, if_neg (by simp [hroot, hsyll])]
  exact if_neg hjob
end

/-- A failed Roll Call says so once (R360, R452). -/
theorem rcFail_eq (cause : Nat) :
    let lost := { d with fab := { d.fab with
      id := if d.fab.awaitDone then 0xFFFF else d.fab.id, rcErr := BitVec.ofNat 4 cause, devs := [], rc := .failed } }
    rcFail d cause = if d.fab.rc = .failed then lost else signal lost 11 := setRc_eq _ _

theorem rcBegin_waits (h : d.fab.rc ≠ .running ∨ d.fab.devs ≠ [] ∨ ∃ p, p < 12 ∧ (fabPort d p).rcWait = true) : rcBegin d = d :=
  if_pos (by simpa [or_assoc] using h)
/-- Numbering begins with the root alone (R358). -/
theorem rcBegin_numbers (hrc : d.fab.rc = .running) (hdevs : d.fab.devs = []) (hw : ∀ p, p < 12 → (fabPort d p).rcWait = false) :
    let d2 := (List.range 12).foldl (fun e p => modPort e p (fun q => { q with child := false }))
      (dropTimetable { d with fab := { d.fab with id := 0, parent := 12, awaitDone := true } })
    rcBegin d = numberOn { d2 with fab := { d2.fab with level := 0, tree := 0, torus := false, devs := [
      { serial := d.glb.serial, id := 0, level := 0, parent := 0xFFFF, route := [],
        ports := (List.range 12).map (fun p => (p, ownReport d2 p)) }] } } := by
  intro d2
  have hser : d2.glb.serial = d.glb.serial := by
    obtain ⟨_, h⟩ := foldl_modPort_ports (fun _ q => { q with child := false }) (List.range 12)
      (dropTimetable { d with fab := { d.fab with id := 0, parent := 12, awaitDone := true } })
    rw [show d2 = _ from h]
    exact congrArg (·.serial) (dropTimetable_glb _)
  rw [← hser, rcBegin, if_neg (by simp [hrc, hdevs]; simpa using hw)]

/-! ### RC_ASSIGN (R357, R358, R360, R361) -/

section
variable {p : Nat} {f : BitVec 256}

/-- The fields of RC_ASSIGN: its hops, the next of them, its device's ID and its epoch. -/
def rcHops (f : BitVec 256) : Nat := bits f.toNat 20 6
def rcHop (f : BitVec 256) : Nat := bits f.toNat 26 6
def rcEpoch (f : BitVec 256) : Byte := BitVec.ofNat 8 (bits f.toNat 216 8)
/-- The assignment is of another root: this device is one, or has an ID of another epoch that is not its parent's next one (R360). -/
def otherRoot (d : Dev) (p : Nat) (f : BitVec 256) : Prop :=
  rootBit d = true ∨ d.fab.rc = .numbered ∧ d.fab.epoch ≠ rcEpoch f ∧ ¬ (p = d.fab.parent ∧ rcEpoch f = d.fab.epoch + 1)
/-- The assignment is of a new epoch. -/
abbrev freshAssign (d : Dev) (f : BitVec 256) : Prop := d.fab.id = 0xFFFF ∨ d.fab.epoch ≠ rcEpoch f
/-- The refusal of an assignment (R360). -/
def assignRefused (d : Dev) (p : Nat) (f : BitVec 256) (reason : Nat) : Dev :=
  sendCtl (if d.fab.epoch ≠ rcEpoch f then agreeDrop d else d) p 5
    (setBits (setBits (bits f.toNat 20 180) 6 6 (rcHops f - 1)) 180 24 (reason + (rcEpoch f).toNat * 2 ^ 4))

theorem assignAt_forwarded (h : rcHop f < rcHops f) : assignAt d p f =
    sendCtl (if rcHop f + 1 = rcHops f then modPort d (hopEntry f (rcHop f)) (fun q => { q with child := true }) else d)
      (hopEntry f (rcHop f)) 3 (hopBody f (rcHop f) p (rcHop f + 1)) := if_neg (Nat.not_le.mpr h)
theorem assignAt_taken (h : rcHops f ≤ rcHop f) : assignAt d p f = takeAssign d p f := if_pos h

theorem otherRoot_iff : otherRoot d p f ↔ (rootBit d || (d.fab.rc == .numbered && d.fab.epoch != rcEpoch f &&
    !(p == d.fab.parent && rcEpoch f == d.fab.epoch + 1))) = true := by
  simp [otherRoot, and_assoc, imp_iff_not_or]
theorem freshAssign_iff : freshAssign d f ↔ (d.fab.id == 0xFFFF || d.fab.epoch != rcEpoch f) = true := by simp [freshAssign]

/-- The refusal of an assignment, as `takeAssign` writes it. -/
theorem assignRefused_eq (reason : Nat) : assignRefused d p f reason = sendCtl (if d.fab.epoch != rcEpoch f then agreeDrop d else d) p 5
    (setBits (setBits (ctlField f 0 180) 6 6 (ctlField f 0 6 - 1)) 180 24 (reason + (rcEpoch f).toNat * 2 ^ 4)) := by
  simp only [assignRefused, bne_iff_ne]; rfl
theorem takeAssign_other (h : otherRoot d p f) : takeAssign d p f = assignRefused d p f 1 :=
  (if_pos (otherRoot_iff.mp h)).trans (assignRefused_eq 1).symm
section
variable (h : ¬ otherRoot d p f)
include h
theorem takeAssign_busy (hf : freshAssign d f) (hj : jobActive d = true) : takeAssign d p f = assignRefused d p f 2 := by
  refine (if_neg (fun hc => h (otherRoot_iff.mpr hc))).trans ((if_pos ?_).trans (assignRefused_eq 2).symm)
  rw [Bool.and_eq_true]; exact ⟨freshAssign_iff.mp hf, hj⟩

/-- The device before it takes an ID: a new epoch drops the Timetable and lets the ports that Attendance took down train (R361, R369). -/
def epochTaken (d : Dev) (f : BitVec 256) : Dev :=
  let e := (List.range 12).foldl (fun e u => modPort e u (fun x => { x with
    child := false, heldDown := false, state := if x.heldDown && x.en then .training else x.state })) (dropTimetable d)
  { e with fab := { e.fab with epoch := rcEpoch f, tree := 0, pieces := [], absentSet := [] } }
theorem takeAssign_taken (hf : freshAssign d f → jobActive d = false) : takeAssign d p f =
    let base := if freshAssign d f then epochTaken d f else d
    (List.range 12).foldl (fun e u => sendUp e 4 (reportBody e u)) (setRc { base with fab :=
      { base.fab with id := BitVec.ofNat 16 (bits f.toNat 200 16), parent := p, awaitDone := true } } .numbered) := by
  refine (if_neg (fun hc => h (otherRoot_iff.mpr hc))).trans ((if_neg ?_).trans ?_)
  · rw [Bool.and_eq_true]
    rintro ⟨hc, hj⟩
    simp [hf (freshAssign_iff.mpr hc)] at hj
  · exact congrArg (fun base : Dev => (List.range 12).foldl (fun e u => sendUp e 4 (reportBody e u)) (setRc { base with fab :=
      { base.fab with id := BitVec.ofNat 16 (bits f.toNat 200 16), parent := p, awaitDone := true } } .numbered))
      (if_congr freshAssign_iff.symm rfl rfl)
end
end

/-! ### RC_REPORT, RC_REFUSE, RC_TOPO and RC_DONE (R357 to R361) -/

section
variable {p : Nat} {f : BitVec 256}

theorem reportAt_not_root (h : rootBit d = false) : reportAt d f = sendUp d 4 (bits f.toNat 20 204) := if_pos (by simp [h])
theorem reportAt_root (h : rootBit d = true) :
    let r : RcPort := { state := BitVec.ofNat 2 (bits f.toNat 48 2), nserial := BitVec.ofNat 64 (bits f.toNat 50 64),
                        nport := BitVec.ofNat 4 (bits f.toNat 114 4) }
    let devs := d.fab.devs.map (fun x => if x.id = bits f.toNat 20 16 ∧ bits f.toNat 44 4 < 12
      then { x with ports := mapPut x.ports (bits f.toNat 44 4) r } else x)
    reportAt d f = if d.fab.rc = .running ∧ bits f.toNat 36 8 = d.fab.epoch.toNat
      then numberOn { d with fab := { d.fab with devs := devs } } else d := by
  rw [reportAt, if_neg (by simp [h])]
  by_cases hm : d.fab.rc = .running ∧ bits f.toNat 36 8 = d.fab.epoch.toNat
  · obtain ⟨hrc, he⟩ := hm
    simp only [Bool.and_eq_true, beq_iff_eq, decide_eq_true_eq]
    simp [ctlField_eq, hrc, he]
  · refine (if_pos ?_).trans (if_neg hm).symm
    simpa [ctlField_eq, imp_iff_not_or] using hm
theorem refuseAt_eq :
    let d1 := if bits f.toNat 204 8 = d.fab.epoch.toNat ∧ (d.fab.rc = .running ∨ d.fab.rc = .numbered)
      then rcFail d (bits f.toNat 200 4) else d
    refuseAt d p f = if rcHop f = 0 then d1 else sendCtl d1 (hopEntry f (rcHop f)) 5 (hopBody f (rcHop f) p (rcHop f - 1)) := by
  have hmine : (bits f.toNat 204 8 == d.fab.epoch.toNat && (d.fab.rc == .running || d.fab.rc == .numbered)) = true ↔
      bits f.toNat 204 8 = d.fab.epoch.toNat ∧ (d.fab.rc = .running ∨ d.fab.rc = .numbered) := by simp
  simp only [← hmine]
  rfl

/-- A piece of the record, or RC_DONE, is of this device's epoch. -/
def ofEpoch (d : Dev) (f : BitVec 256) : Prop := bits f.toNat 20 8 = d.fab.epoch.toNat ∧ d.fab.rc = .numbered
theorem ofEpoch_iff : ofEpoch d f ↔ ¬ (bits f.toNat 20 8 != d.fab.epoch.toNat || d.fab.rc != .numbered) = true := by simp [ofEpoch]
theorem topoAt_not_mine (h : ¬ ofEpoch d f) : topoAt d f = d := if_pos (not_not.mp (ofEpoch_iff.not.mp h))
theorem topoAt_mine (h : ofEpoch d f) :
    let d1 := sendDown d 6 (bits f.toNat 20 204)
    topoAt d f = { d1 with fab := { d1.fab with
      pieces := mapPut d1.fab.pieces (bits f.toNat 28 24) (BitVec.ofNat 160 (bits f.toNat 52 160)) } } := by
  simp only [topoAt, ctlField_eq, Nat.reduceAdd]
  exact if_neg (ofEpoch_iff.mp h)
theorem doneAt_not_mine (h : ¬ ofEpoch d f) : doneAt d f = d := if_pos (not_not.mp (ofEpoch_iff.not.mp h))
theorem sendDown_pieces (ctype body : Nat) : (sendDown d ctype body).fab.pieces = d.fab.pieces := by
  obtain ⟨⟨_, _, _, h⟩, _⟩ := sendDown_sends (ctype := ctype) (body := body) (.refl d)
  rw [h]
theorem bits_one_eq (w i : Nat) : (bits w i 1 == 1) = bit w i := by
  rw [bits, bit, Nat.testBit_eq_decide_div_mod_eq, Nat.shiftRight_eq_div_pow]; rfl
theorem doneAt_mine (h : ofEpoch d f) : doneAt d f = rcComplete (sendDown d 7 (bits f.toNat 20 204))
    (joinPieces d.fab.pieces (bits f.toNat 28 15)) (bits f.toNat 28 15) (bit f.toNat 43) (bits f.toNat 44 64) := by
  rw [← sendDown_pieces 7 (bits f.toNat 20 204), ← bits_one_eq]
  simp only [doneAt, ctlField_eq, Nat.reduceAdd]
  exact if_neg (ofEpoch_iff.mp h)
end

/-! ### The end of Roll Call, and RC_REPORT_TIMEOUT (R359, R360) -/

/-- The fabric's registers when Roll Call is complete. -/
theorem rcComplete_fab (record : List Byte) (n topo : Nat) (torus : Bool) : ∃ ports, (rcComplete d record n torus topo).fab =
    { d.fab with record := record, count := BitVec.ofNat 15 n, torus := torus, topo := BitVec.ofNat 64 topo, pieces := [], devs := [],
                 absentSet := [], seenAbsent := [], downLinks := [], rcErr := 0, awaitDone := false, ports := ports, rc := .complete,
                 agMin := none, agMax := none, agQueue := 0, ag := .none } := by
  obtain ⟨ports, h⟩ := foldl_modPort_ports (fun p q => { q with nid := BitVec.ofNat 16 (recNid record (ownId d) p) }) (List.range 12)
    { d with fab := { d.fab with
      record := record, count := BitVec.ofNat 15 n, torus := torus, topo := BitVec.ofNat 64 topo, pieces := [], devs := [],
      absentSet := [], seenAbsent := [], downLinks := [], rcErr := 0, awaitDone := false } }
  refine ⟨ports, ?_⟩
  simp only [rcComplete]
  rw [agreeDrop_fab, setRc_fab, copyStopRound_fab]
  exact congrArg (fun e : Dev => { e.fab with rc := .complete, agMin := none, agMax := none, agQueue := 0, ag := .none }) h

/-- A device to which one more assignment goes. -/
def assignedAgain (x : RcDev) : RcDev := { x with attempts := x.attempts + 1 }

section
variable {dev : Nat}

theorem reportTimeoutAt_nothing (h : d.fab.rc ≠ .running ∨ ∀ x, d.fab.devs.find? (fun y => y.id == dev) = some x → reported x = true) :
    reportTimeoutAt d dev = d := by
  unfold reportTimeoutAt
  split
  next => rfl
  next x hx =>
    refine if_pos ?_
    rcases h with h | h
    · simp [h]
    · simp [h x hx]
variable {x : RcDev} (hrc : d.fab.rc = .running) (hx : d.fab.devs.find? (fun y => y.id == dev) = some x) (hr : reported x = false)
include hrc hx hr
theorem reportTimeoutAt_due : reportTimeoutAt d dev = if 3 ≤ x.attempts then rcFail d 5 else
    sendAssign { d with fab := { d.fab with devs := d.fab.devs.map (fun v => if v.id == dev then assignedAgain x else v) } }
      (assignedAgain x) := by
  simp only [reportTimeoutAt, hx]
  exact if_neg (by simp [hrc, hr])
end

end

/-- Settles O38: the branches of RCGO, of the failure and the start of Roll Call, of each message of it, and of the time-out. -/
theorem rollCall : Obligations.RollCall := by
  refine ⟨fun s hs => ?rcgo, fun d cause => ⟨rcFail_eq cause, rcBegin_waits, rcBegin_numbers⟩,
    fun s p f d hd => ⟨?forwarded, ?taken, ?reportUp, ?reportRoot, ?refuse, ?topo, ?done⟩, ?complete, ?timeout⟩
  case rcgo =>
    have hrow : ∀ {e}, rcgoAt (clearFault s.dev 0xB0004) = e → exec .rcgo s = goes s e := fun he => word_row (fun d => rcgoAt d) rfl hs he
    have hroot : ∀ {b}, (clearFault s.dev 0xB0004).fab.root = b → rootBit (clearFault s.dev 0xB0004) = b :=
      (rootBit_clearFault s.dev).trans
    exact ⟨fun h => hrow (rcgoAt_not_root (hroot h)), fun h hj => hrow (rcgoAt_job (hroot h) hs.2 hj),
      fun h hj => hrow (rcgoAt_begins (hroot h) hs.2 hj)⟩
  case forwarded => exact fun hk h => ctl_row (fun e => assignAt e p f) rfl hd hk (assignAt_forwarded h)
  case taken =>
    intro hk h
    have hrow : ∀ {e}, takeAssign d p f = e → exec (.rcAssign p f) s = goes s e :=
      fun he => ctl_row (fun e => assignAt e p f) rfl hd hk ((assignAt_taken h).trans he)
    exact ⟨fun ho => hrow (takeAssign_other ho), fun ho hf hj => hrow (takeAssign_busy ho hf hj),
      fun ho hf => hrow (takeAssign_taken ho hf)⟩
  case reportUp => exact fun hk h => ctl_row (fun e => reportAt e f) rfl hd hk (reportAt_not_root h)
  case reportRoot => exact fun hk h => ctl_row (fun e => reportAt e f) rfl hd hk (reportAt_root h)
  case refuse => exact fun hk => ctl_row (fun e => refuseAt e p f) rfl hd hk refuseAt_eq
  case topo =>
    exact fun hk => ⟨fun h => ctl_row (fun e => topoAt e f) rfl hd hk (topoAt_not_mine h),
      fun h => ctl_row (fun e => topoAt e f) rfl hd hk (topoAt_mine h)⟩
  case done =>
    exact fun hk => ⟨fun h => ctl_row (fun e => doneAt e f) rfl hd hk (doneAt_not_mine h),
      fun h => ctl_row (fun e => doneAt e f) rfl hd hk (doneAt_mine h)⟩
  case complete =>
    intro d record n topo torus
    obtain ⟨ports, h⟩ := rcComplete_fab (d := d) record n topo torus
    simp [h]
  case timeout =>
    intro s dev
    have hrow : ∀ {e}, reportTimeoutAt s.dev dev = e → exec (.rcReportTimeout dev) s = goes s e := fun he => congrArg (goes s) he
    exact ⟨fun h => hrow (reportTimeoutAt_nothing h), fun x hrc hx hr =>
      ⟨fun ha => hrow ((reportTimeoutAt_due hrc hx hr).trans (if_pos ha)),
        fun ha => hrow ((reportTimeoutAt_due hrc hx hr).trans (if_neg (Nat.not_le.mpr ha)))⟩⟩

end Sys2Proof.Machine
end

section
/-!
Bulk messages on a fabric port (R334, R337 to R339, R343, R344, R382): codewords, headers and data flits, one lemma for each outcome.
-/
namespace Sys2Proof.Machine
open Sys2Proof.Safety

/-! ### The rows (R339) -/

section
variable {s : State} {op p : Nat} {start : Option (BitVec 10)} {words : List Codeword}

theorem exec_bulkRow (h1 : 1 ≤ op) (h9 : op ≤ 9) : exec (bulkRow op p start words) s = goes s (bulkAt s op p start words) := by
  interval_cases op <;> rfl

/-- The port carries flits, and every good bulk header in the codewords is of the row's operation. -/
def bulkMine (d : Dev) (op p : Nat) (words : List Codeword) : Prop :=
  p < 12 ∧ portOpen (fabPort d p) = true ∧ ∀ w ∈ words, w.fec ≠ .lost → ∀ x ∈ slotsOf w.word,
    x.begins = true → flitOk x.body = true → flitType x.body = 4 ∨ flitType x.body = 5 →
      (bulkOf x.body).op = op ∧ (flitType x.body = 5 ↔ op = 3 ∨ op = 4)

theorem mem_headersIn {h : BitVec 256} : h ∈ headersIn words ↔ ∃ w ∈ words, w.fec ≠ .lost ∧ ∃ x ∈ slotsOf w.word,
    x.begins = true ∧ flitOk x.body = true ∧ (flitType x.body = 4 ∨ flitType x.body = 5) ∧ x.body = h := by
  simp only [headersIn, isBulk, List.mem_filterMap, List.mem_flatMap, List.mem_filter, bne_iff_ne, Option.ite_none_right_eq_some,
    Option.some.injEq, Bool.and_eq_true, Bool.or_eq_true, beq_iff_eq]
  constructor
  · rintro ⟨x, ⟨w, ⟨hw, hf⟩, hx⟩, ⟨⟨hb, ht⟩, hok⟩, he⟩
    exact ⟨w, hw, hf, x, hx, hb, hok, ht, he⟩
  · rintro ⟨w, hw, hf, x, hx, hb, hok, ht, he⟩
    exact ⟨x, ⟨w, ⟨hw, hf⟩, hx⟩, ⟨⟨hb, ht⟩, hok⟩, he⟩
theorem bulkMine_iff : bulkMine s.dev op p words ↔ ¬ (12 ≤ p || !portOpen (fabPort s.dev p) ||
    !(headersIn words).all (fun h => (bulkOf h).op == op && (bulkOf h).rsp == (op == 3 || op == 4))) = true := by
  have hall : (headersIn words).all (fun h => (bulkOf h).op == op && (bulkOf h).rsp == (op == 3 || op == 4)) = true ↔
      ∀ w ∈ words, w.fec ≠ .lost → ∀ x ∈ slotsOf w.word, x.begins = true → flitOk x.body = true →
        flitType x.body = 4 ∨ flitType x.body = 5 → (bulkOf x.body).op = op ∧ (flitType x.body = 5 ↔ op = 3 ∨ op = 4) := by
    have hrsp : ∀ h, ((bulkOf h).rsp == (op == 3 || op == 4)) = true ↔ (flitType h = 5 ↔ op = 3 ∨ op = 4) := by
      intro h
      rw [beq_iff_eq, Bool.eq_iff_iff]
      simp [bulkOf]
    simp only [List.all_eq_true, Bool.and_eq_true, beq_iff_eq (a := (bulkOf _).op), hrsp, mem_headersIn]
    constructor
    · exact fun h w hw hf x hx hb hok ht => h x.body ⟨w, hw, hf, x, hx, hb, hok, ht, rfl⟩
    · rintro h _ ⟨w, hw, hf, x, hx, hb, hok, ht, rfl⟩
      exact h w hw hf x hx hb hok ht
  simp [bulkMine, ← hall, and_assoc]

theorem bulkAt_not_mine (h : ¬ bulkMine s.dev op p words) : bulkAt s op p start words = s.dev :=
  if_pos (not_not.mp (bulkMine_iff.not.mp h))
/-- The port with the number at which a replay resumes inside a message. -/
def replayResumes (d : Dev) (p : Nat) (start : Option (BitVec 10)) : Dev :=
  start.elim d (fun n => modPort d p (fun q => { q with rxNext := some n, rxFlit := none }))
theorem bulkAt_mine (h : bulkMine s.dev op p words) :
    bulkAt s op p start words = words.foldl (codewordIn s.shadow p) (replayResumes s.dev p start) := by
  refine (if_neg (bulkMine_iff.mp h)).trans ?_
  cases start <;> rfl
end

/-! ### Headers and data flits (R337, R343, R344) -/

section
variable {s d : Dev} {p : Nat}

theorem slotIn_header {d1 : Dev} {f : BitVec 256} {okay : Bool} (ht : flitType f = 4 ∨ flitType f = 5)
    (hl : linkAccept d p f = (d1, okay)) : slotIn s p d { begins := true, body := f } =
      if okay = false then d1 else if bits f.toNat 56 5 = 0 then takeBulk s d1 p f []
      else modPort d1 p (fun q => { q with rxMsg := some { hdr := f } }) := by
  have hheader : slotIn s p d { begins := true, body := f } = headerIn s d p f := by
    rcases ht with ht | ht <;> simp [slotIn, flitIn, ht]
  rw [hheader, headerIn, hl]
  cases okay <;> rfl

/-- Eight slots of a data flit, put together again (R337). -/
theorem slotsData_dataSlots (g : BitVec 2048) : slotsData ((dataSlots g).map (·.body)) = g := by
  have hsum : (((dataSlots g).map (·.body)).mapIdx (fun i x => x.toNat * 2 ^ (256 * i))).sum =
      ((List.range 8).map (fun i => bits g.toNat (256 * i) 256 * 2 ^ (256 * i))).sum := by
    have hbits : ∀ i, (BitVec.ofNat 256 (bits g.toNat (256 * i) 256)).toNat = bits g.toNat (256 * i) 256 :=
      fun i => toNat_ofNat_of_lt (Nat.mod_lt _ (Nat.two_pow_pos 256))
    congr 1
    apply List.ext_getElem (by simp [dataSlots])
    intro i h1 h2
    simp [dataSlots, hbits]
  rw [slotsData, hsum, sum_bits_mul]
  rw [show 256 * 8 = 2048 from rfl, Nat.mod_eq_of_lt g.isLt, BitVec.ofNat_toNat, BitVec.setWidth_eq]

/-- The port inside a data flit, of which some slots have arrived. -/
def flitUnderWay (q : FabPort) (got : List (BitVec 256)) : FabPort :=
  { q with rxNext := some (q.rxSeq + 1), rxFlit := some (some q.rxSeq, got) }

theorem modPort_congr {f g : FabPort → FabPort} (h : f (fabPort d p) = g (fabPort d p)) : modPort d p f = modPort d p g := by
  simp only [modPort, h]

/-- A slot of a data flit. -/
def dataSlot (x : BitVec 256) : Slot := { begins := false, body := x }
theorem slotIn_data {x : BitVec 256} {m : RxMessage} (hm : (fabPort d p).rxMsg = some m) (hr : flitRefused d p m.hdr = false) :
    slotIn s p d (dataSlot x) = dataSlotIn s d p x := by simp [slotIn, dataSlot, hm, hr]
/-- What is under way has no part in whether a flit is refused. -/
theorem flitRefused_underWay (got : List (BitVec 256)) (f : BitVec 256) :
    flitRefused (modPort d p (flitUnderWay · got)) p f = flitRefused d p f := by
  simp [flitRefused, flitUnderWay, portOpen]

section
variable {m : RxMessage} (hm : (fabPort d p).rxMsg = some m) (hr : flitRefused d p m.hdr = false)
include hm hr

theorem slotIn_first {x : BitVec 256} (hflit : (fabPort d p).rxFlit = none) (hnext : (fabPort d p).rxNext = some (fabPort d p).rxSeq) :
    slotIn s p d (dataSlot x) = modPort d p (flitUnderWay · [x]) := by
  rw [slotIn_data hm hr]
  simp only [dataSlotIn, hflit]
  refine (if_pos (by simp)).trans (modPort_congr ?_)
  simp only [flitUnderWay, hnext]
  rfl
theorem slotIn_underWay (got : List (BitVec 256)) (x : BitVec 256) :
    slotIn s p (modPort d p (flitUnderWay · got)) (dataSlot x) = dataSlotIn s (modPort d p (flitUnderWay · got)) p x :=
  slotIn_data (m := m) (by simpa [flitUnderWay] using hm) ((flitRefused_underWay got _).trans hr)
/-- The slots of a data flit before its last one are kept. -/
theorem foldl_slotIn_underWay (l got : List (BitVec 256)) (h : got.length + l.length < 8) :
    (l.map dataSlot).foldl (slotIn s p) (modPort d p (flitUnderWay · got)) = modPort d p (flitUnderWay · (got ++ l)) := by
  induction l generalizing got with
  | nil => simp
  | cons x r ih =>
    have hstep : slotIn s p (modPort d p (flitUnderWay · got)) (dataSlot x) = modPort d p (flitUnderWay · (got ++ [x])) := by
      rw [slotIn_underWay hm hr]
      simp only [List.length_cons] at h
      simp only [dataSlotIn, fabPort_modPort_same]
      rw [if_pos (by simp [flitUnderWay]; omega), modPort_modPort]
      exact modPort_congr rfl
    rw [List.map_cons, List.foldl_cons, hstep, ih (got ++ [x]) (by simp at h ⊢; omega), List.append_assoc, List.singleton_append]

/-- The last slot of a data flit, with no Bell flit inserted into it: the data flit is whole. -/
theorem slotIn_last (got : List (BitVec 256)) (x : BitVec 256) (h : got.length = 7) (hheld : (fabPort d p).rxHeld = []) :
    slotIn s p (modPort d p (flitUnderWay · got)) (dataSlot x) = messageEnds s (dataAccept (modPort d p (fun q =>
      { q with rxNext := some (q.rxSeq + 1), rxFlit := none, rxHeld := [] })) p (some (fabPort d p).rxSeq) (slotsData (got ++ [x]))) p := by
  rw [slotIn_underWay hm hr]
  simp only [dataSlotIn, fabPort_modPort_same]
  rw [if_neg (by simp [flitUnderWay, h]), modPort_modPort]
  simp only [flitUnderWay, hheld, List.foldl_nil]
  exact congrArg (fun e => messageEnds s (dataAccept e p (some (fabPort d p).rxSeq) (slotsData (got ++ [x]))) p) (modPort_congr rfl)
end

theorem acceptOne_rxMsg (d : Dev) (p ch slots : Nat) : (fabPort (acceptOne d p ch slots) p).rxMsg = (fabPort d p).rxMsg := by
  have hemit : ∀ (e : Dev) (o : Out), fabPort (emit e o) p = fabPort e p := fun _ _ => rfl
  rw [acceptOne_eq]
  split <;> simp [sendAck_eq, hemit, acceptPort, ackPort]

/-- Eight slots in a row are a data flit, which joins its message; the last one of a message completes it (R337, R343). -/
theorem foldl_slotIn_dataSlots {g : BitVec 2048} {m : RxMessage} (hm : (fabPort d p).rxMsg = some m) (hflit : (fabPort d p).rxFlit = none)
    (hheld : (fabPort d p).rxHeld = []) (hr : flitRefused d p m.hdr = false)
    (hnext : (fabPort d p).rxNext = some (fabPort d p).rxSeq) (hok : dataOk g = true) :
    let d1 := acceptOne (modPort d p (fun q => { q with rxNext := some (q.rxSeq + 1), rxMsg := some { m with data := m.data ++ [g] } }))
      p (flitChan m.hdr) 8
    (dataSlots g).foldl (slotIn s p) d = if m.data.length + 1 < bits m.hdr.toNat 56 5 then d1
      else takeBulk s (modPort d1 p (fun q => { q with rxMsg := none })) p m.hdr (m.data ++ [g]) := by
  intro d1
  have hbodies := slotsData_dataSlots g
  have hslots : dataSlots g = ((dataSlots g).map (·.body)).map dataSlot := by simp [dataSlots, dataSlot]
  have hlen : ((dataSlots g).map (·.body)).length = 8 := by simp [dataSlots]
  rw [hslots]
  generalize (dataSlots g).map (·.body) = bodies at hbodies hlen
  obtain ⟨x, l, rfl⟩ := List.exists_cons_of_length_eq_add_one hlen
  obtain ⟨mid, y, rfl⟩ : ∃ mid y, l = mid ++ [y] :=
    ⟨l.dropLast, l.getLast (by rintro rfl; simp at hlen), (List.dropLast_append_getLast _).symm⟩
  have hmid : mid.length = 6 := by simpa using hlen
  have haccept : dataAccept (modPort d p (fun q => { q with rxNext := some (q.rxSeq + 1), rxFlit := none, rxHeld := [] })) p
      (some (fabPort d p).rxSeq) g = d1 := by
    rw [dataAccept_joins (m := m) (by simpa using hm) (by simp) hok, modPort_modPort]
    exact congrArg (fun e => acceptOne e p (flitChan m.hdr) 8) (modPort_congr (by simp [hflit, hheld]))
  have hmsg : (fabPort d1 p).rxMsg = some { m with data := m.data ++ [g] } := (acceptOne_rxMsg _ _ _ _).trans (by simp)
  rw [List.map_cons, List.foldl_cons, slotIn_first hm hr hflit hnext, List.map_append, List.foldl_append,
    foldl_slotIn_underWay hm hr mid [x] (by simp [hmid]), List.map_cons, List.map_nil, List.foldl_cons, List.foldl_nil,
    slotIn_last hm hr _ y (by simp [hmid]) hheld, List.append_assoc, List.singleton_append, hbodies, haccept]
  simp only [messageEnds, hmsg, bulkCount, List.length_append, List.length_singleton]

end

end Sys2Proof.Machine
end

section
/-!
Bulk messages that are received whole (R338, R339, R350 to R353): forwarded, refused, performed and answered, or matched to the
request that they answer.
-/
namespace Sys2Proof.Machine
open Sys2Proof.Safety

section
variable {s d : Dev} {p : Nat} {hdr : BitVec 256} {data : List (BitVec 2048)} {b : Bulk}

/-! ### Forwarded and delivered (R353) -/

theorem takeBulk_forwarded (h : (bulkOf hdr).dst ≠ ownId d) : takeBulk s d p hdr data =
    if (bulkOf hdr).ttl = 0 then dropBulk d (bulkOf hdr) else sendBulk d { bulkOf hdr with ttl := (bulkOf hdr).ttl - 1 } data p := if_neg h
theorem takeBulk_request (h : (bulkOf hdr).dst = ownId d) (ht : flitType hdr = 4) :
    takeBulk s d p hdr data = serveRequest d (bulkOf hdr) data := by
  have hrsp : (bulkOf hdr).rsp = false := by simp [bulkOf, ht]
  simp [takeBulk, h, deliverBulk, hrsp]
theorem takeBulk_response (h : (bulkOf hdr).dst = ownId d) (ht : flitType hdr = 5) (hc : (bulkOf hdr).core ≠ 0xFF) :
    takeBulk s d p hdr data = responseAt s d (bulkOf hdr) data := by
  have hrsp : (bulkOf hdr).rsp = true := by simp [bulkOf, ht]
  simp [takeBulk, h, deliverBulk, hrsp, hc]

/-! ### Stores and reductions on a device without an uncorrectable error (R211) -/

theorem wrPlace_badWords (hb : d.badWords = []) (a : Nat) (bs : List Byte) : (wrPlace d a bs).1.badWords = [] := by simp [wrPlace, hb]
theorem wrGranule_badWords (hb : d.badWords = []) (a : Nat) (bs : List Byte) : (wrGranule d a bs).1.badWords = [] := by
  unfold wrGranule
  split
  · exact wrPlace_badWords hb _ _
  · simp only [badMerge_of_clean hb, Option.isSome_none, Bool.false_eq_true, if_false]
    split
    · refine wrPlace_badWords (wrPlace_badWords ?_ _ _) _ _
      exact hb
    · exact wrPlace_badWords hb _ _
theorem wrSpan_badWords : ∀ (n : Nat) {d : Dev}, d.badWords = [] → ∀ (a : Nat) (bs : List Byte), (wrSpan n d a bs).1.badWords = []
  | 0, _, hb, _, _ => hb
  | n + 1, d, hb, a, bs => by
    unfold wrSpan
    split
    · exact hb
    · exact wrSpan_badWords n (wrGranule_badWords hb _ _) _ _
theorem wrBytes_badWords (hb : d.badWords = []) (a : Nat) (bs : List Byte) : (wrBytes d a bs).badWords = [] := by
  unfold wrBytes wrBytes'
  split
  · exact wrPlace_badWords hb a bs
  · exact wrSpan_badWords _ hb a bs

theorem heal_of_clean (hb : d.badWords = []) (addr len : Nat) (wr : Bool) : heal d addr len wr = d := by
  unfold heal
  split
  · exact healClean_of_clean hb _ _ _ _
  · rfl
theorem performOp_put_of_clean (hb : d.badWords = []) (plc a : Nat) (bs : List Byte) :
    performOp d [] plc a (.put bs) = (storeBytes d a bs plc, none) := by
  simp [performOp, heal_of_clean hb, badMerge_of_clean hb, raceWrite]

/-- One element put through an update (R210). -/
def elemUpdated (d : Dev) (u : Update) : Dev := wrBytes d u.addr (leBytes 4 (redElem u.op u.fmt (leNat (rdBytes d u.addr 4)) u.code))
/-- With no other transfer in flight the updates take place one after another. -/
theorem updateElems_of_clean (plc : Nat) : ∀ {us : List Update} {d : Dev}, d.badWords = [] → (∀ u ∈ us, boardPort u.addr = none) →
    updateElems d [] plc us = (us.foldl elemUpdated d, none)
  | [], _, _, _ => rfl
  | u :: r, d, hb, hboard => by
    have hone : storeBytes d u.addr (leBytes 4 (updateElem d [] u)) plc = elemUpdated d u := by
      simp [storeBytes, hboard u (List.mem_cons_self ..), updateElem, elemUpdated]
    simp only [updateElems, heal_of_clean hb, rdBad_of_clean hb, hone, List.foldl_cons]
    exact updateElems_of_clean plc (wrBytes_badWords hb _ _) fun v hv => hboard v (List.mem_cons_of_mem _ hv)

/-- The updates of pairs of an address and a code, by one reduction (R210, R286). -/
theorem foldl_elemUpdated (op : Nat) (f : Fmt) (l : List (Nat × Nat)) (d : Dev) :
    (l.map (fun x => ({ addr := x.1, op := op, fmt := f, code := x.2 } : Update))).foldl elemUpdated d =
      l.foldl (fun e x => wrBytes e x.1 (leBytes 4 (redElem op f (leNat (rdBytes e x.1 4)) x.2))) d := List.foldl_map ..

/-! ### Requests of other devices (R339, R350, R351) -/

theorem serveRequest_refused (h : requestStatus d b (requestOp b data) ≠ 0) :
    serveRequest d b data = sendBulk d (statusFor d b (requestStatus d b (requestOp b data))) [] 12 := by
  simp [serveRequest, h]

section
variable (hst : requestStatus d b (requestOp b data) = 0)
include hst

theorem serveRequest_read (hop : b.op = 2) (hb : (touchRead d b.addr (bits b.aux 0 12) 0).badWords = []) :
    let e := touchRead d b.addr (bits b.aux 0 12) 0
    serveRequest d b data = sendBulk e { statusFor d b 0 with op := 3, addr := bits b.aux 12 48, aux := bits b.aux 0 12 }
      (dataFlits 17 (rdBytes e b.addr (bits b.aux 0 12))) 12 := by
  simp [serveRequest, hst, hop, rdBad_of_clean hb]
/-- A request that changes memory, beside no transfer in flight and no update that it meets. -/
theorem serveRequest_performed (hop : b.op ≠ 2) (hx : (engines d).flatMap (fun x => (strmOf d x).xfers) = [])
    (hmet : metBefore (draw d) none (wopRanges b.addr (requestOp b data)) = []) {e : Dev}
    (hperf : performOp (draw d) [] 0 b.addr (requestOp b data) = (e, none)) :
    serveRequest d b data = sendBulk e (statusFor e b 0) [] 12 := by
  simp [serveRequest, hst, hop, hx, performBeside, hmet, hperf]
end

theorem performOp_write (hb : d.badWords = []) (hop : b.op = 1) : performOp (draw d) [] 0 b.addr (requestOp b data) =
    (storeBytes (draw d) b.addr (messageBytes data (bits b.aux 0 12)) 0, none) := by
  rw [requestOp, if_pos hop]
  exact performOp_put_of_clean (d := draw d) hb _ _ _
theorem performOp_reduction (hb : d.badWords = []) (h5 : 5 ≤ b.op) (h7 : b.op ≤ 7) :
    let n := bits b.aux 0 12
    let f := (fmtOf b.fmt).getD .fp32
    let codes := unpackRow f (n / (fmtBits f / 8)) (messageBytes data n)
    (∀ i, i < codes.length → boardPort (b.addr + 4 * i) = none) → performOp (draw d) [] 0 b.addr (requestOp b data) =
      ((codes.mapIdx (fun i c => (b.addr + 4 * i, c))).foldl (fun e x =>
        wrBytes e x.1 (leBytes 4 (redElem b.op f (leNat (rdBytes e x.1 4)) x.2))) (draw d), none) := by
  intro n f codes hboard
  have hupdates : updatesOf b.addr (.red b.op f codes) = (codes.mapIdx (fun i c => (b.addr + 4 * i, c))).map
      (fun x => ({ addr := x.1, op := b.op, fmt := f, code := x.2 } : Update)) := by
    apply List.ext_getElem (by simp [updatesOf])
    intro i h1 h2
    simp [updatesOf]
  have hop : requestOp b data = .red b.op f codes := by
    rw [requestOp, if_neg (by omega), if_pos (by simp [h5, h7])]
  rw [hop, ← foldl_elemUpdated, ← hupdates]
  refine updateElems_of_clean (d := draw d) 0 hb fun u hu => ?_
  obtain ⟨i, hi, rfl⟩ := List.mem_mapIdx.mp hu
  exact hboard i hi
theorem performOp_record (hb : d.badWords = []) (h8 : 8 ≤ b.op) (hlen : bits b.aux 36 24 ≠ 0) :
    let elems := (recordValues (b.op == 8) (bits b.aux 0 12) (messageBytes data (data.length * 252))).map
      (fun x => (recordAddr b.addr (bits b.aux 12 24) (bits b.aux 36 24) (bits b.aux 60 20) x.1, x.2))
    (∀ x ∈ elems, boardPort x.1 = none) → performOp (draw d) [] 0 b.addr (requestOp b data) =
      (elems.foldl (fun e x => wrBytes e x.1 (leBytes 4 (redElem 5 .fp32 (leNat (rdBytes e x.1 4)) x.2))) (draw d), none) := by
  intro elems hboard
  have hop : requestOp b data = .record (b.op == 8) (bits b.aux 0 12) (bits b.aux 12 24) (bits b.aux 36 24) (bits b.aux 60 20)
      (messageBytes data (data.length * 252)) := by
    rw [requestOp, if_neg (by omega), if_neg (by simp; omega)]
  have hupdates : updatesOf b.addr (requestOp b data) =
      elems.map (fun x => ({ addr := x.1, op := 5, fmt := .fp32, code := x.2 } : Update)) := by
    rw [hop, updatesOf, if_neg hlen, List.map_map]
    rfl
  rw [← foldl_elemUpdated, ← hupdates, hop]
  refine updateElems_of_clean (d := draw d) 0 hb fun u hu => ?_
  rw [← hop, hupdates] at hu
  obtain ⟨x, hx, rfl⟩ := List.mem_map.mp hu
  exact hboard x hx

/-! ### Responses (R350, R352) -/

/-- The device with one more late response. -/
def lateCounted (d : Dev) : Dev := { d with fab := { d.fab with late := satAdd d.fab.late 1 } }

theorem responseAt_no_transfer (h : xferOf d (.core b.core) b.slot = none) : responseAt s d b data = lateCounted d := by
  simp only [responseAt, h]; rfl
section
variable {x : Xfer} (hx : xferOf d (.core b.core) b.slot = some x)
include hx
theorem responseAt_unasked (h : answeredBy x b (bits b.aux 0 12) = none) : responseAt s d b data = lateCounted d := by
  simp only [responseAt, hx, h]; rfl
variable {o : Outstanding} (ho : answeredBy x b (bits b.aux 0 12) = some o)
include ho
theorem responseAt_status (hop : b.op ≠ 3) : responseAt s d b data =
    modXfer (if bits b.aux 0 4 = 6 then leaveOpen d (.core b.core) x else d) (.core b.core) b.slot (fun _ =>
      if x.status = 0 then { x with waiting := eraseWait x.waiting o, status := BitVec.ofNat 4 (bits b.aux 0 4) }
      else { x with waiting := eraseWait x.waiting o }) := by
  simp [responseAt, hx, ho, hop]
theorem responseAt_read (hop : b.op = 3) :
    let z := gatherAt { x with waiting := eraseWait x.waiting o } o.rtag.toNat (messageBytes data (bits b.aux 0 12))
    let e := modXfer d (.core b.core) b.slot (fun _ => z)
    responseAt s d b data = if x.status = 0 ∧ (eraseWait x.waiting o).any (·.read) = false ∧ x.hostWait = false ∧
      stillGuarded e (.core b.core) z = false then runXfer s e (.core b.core) b.slot else e := by
  simp [responseAt, hx, ho, hop, gatherAt, and_assoc]
end

end

/-! ### The statement up to the free choices (R276) -/

/-- An update that a free choice does not let a request meet, the next choice does not let it meet either. -/
theorem metBefore_draw (hfree : ∀ n a, Config.freeBit (n + 1) a = true → Config.freeBit n a = true) {d : Dev} {me : Option Nat}
    {rs : List (Nat × Nat)} (h : metBefore d me rs = []) : metBefore (draw d) me rs = [] := by
  rw [metBefore_eq_nil_iff] at h ⊢
  intro q hq c hc hmeets
  rw [Bool.eq_false_iff]
  exact fun hbit => Bool.eq_false_iff.mp (h q hq c hc hmeets) (hfree _ _ hbit)

/-- O39 holds where no free choice turns to true from one draw to the next: a request draws first, and meets the updates of
that draw, while the statement names those of the draw before. -/
theorem bulkMessages_of_steady_choices (hfree : ∀ n a, Config.freeBit (n + 1) a = true → Config.freeBit n a = true) :
    Obligations.BulkMessages := by
  refine ⟨fun s op p start words h1 h9 => ⟨fun h => ?notMine, fun h => ?mine⟩, fun s d p w => ⟨rfl, rfl, rfl⟩,
    fun s d d1 p f okay => slotIn_header, fun s d p g m => foldl_slotIn_dataSlots,
    fun s d p hdr data => ⟨takeBulk_forwarded, fun hd ht hst => ?refused,
      fun hd ht hst hb => ⟨fun hop hread => ?read, fun hx hmet => ?performed⟩,
      fun hd ht hc => ?response⟩⟩
  case notMine => rw [exec_bulkRow h1 h9, bulkAt_not_mine h]
  case mine =>
    rw [exec_bulkRow h1 h9, bulkAt_mine h]
    cases start <;> rfl
  case refused => exact (takeBulk_request hd ht).trans (serveRequest_refused hst)
  case read => exact (takeBulk_request hd ht).trans (serveRequest_read hst hop hread)
  case performed =>
    have hdone : ∀ {e}, (bulkOf hdr).op ≠ 2 → performOp (draw d) [] 0 (bulkOf hdr).addr (requestOp (bulkOf hdr) data) = (e, none) →
        takeBulk s d p hdr data = sendBulk e (statusFor e (bulkOf hdr) 0) [] 12 :=
      fun hop hperf => (takeBulk_request hd ht).trans (serveRequest_performed hst hop hx (metBefore_draw hfree hmet) hperf)
    exact ⟨fun hop => hdone (by omega) (performOp_write hb hop), fun h5 h7 hboard => hdone (by omega) (performOp_reduction hb h5 h7 hboard),
      fun h8 _ hlen hboard => hdone (by omega) (performOp_record hb h8 hlen hboard)⟩
  case response =>
    have hrow := takeBulk_response (s := s) (p := p) (data := data) hd ht hc
    refine ⟨fun hx => hrow.trans (responseAt_no_transfer hx), fun x hx => ⟨fun ho => hrow.trans (responseAt_unasked hx ho),
      fun o ho => ⟨fun hop => hrow.trans (responseAt_status hx ho hop), fun hop => ⟨fun h => ?_, fun hw hs hh hg => ?_⟩⟩⟩⟩
    · refine hrow.trans ((responseAt_read hx ho hop).trans (if_neg ?_))
      rintro ⟨hs, hw, hh, hg⟩
      rcases h with h | h | h | h
      · simp [hw] at h
      · exact h hs
      · simp [hh] at h
      · rw [hg] at h; cases h
    · exact hrow.trans ((responseAt_read hx ho hop).trans (if_pos ⟨hs, hw, hh, hg⟩))

/-- The root with a GB.CLEAR in core 1 that lists byte 0x1000 as one that it has overwritten. -/
def rootBesideClear : Dev := { Dev.reset with fab := { Dev.reset.fab with id := 0 }, cores := [(1, { cmds := [clearOfHbm] })] }
/-- A write of one byte at 0x1000 to device 0, and its byte. -/
def byteWrite : BitVec 256 := bulkHdr { dst := 0, src := 1, op := 1, core := 0, slot := 0, addr := 0x1000, aux := 1 } 1
def byteWritten : List (BitVec 2048) := [5]

theorem sendBulk_mem (d : Dev) (b : Bulk) (data : List (BitVec 2048)) (arr : Nat) : (sendBulk d b data arr).mem = d.mem := by
  have hout : LinksKept (· = d.mem) d (routeOut d b data arr).1 :=
    (LinksKept.refl (m := (· = d.mem)) rfl).sends (routeOut_sends (.refl d))
  exact (LinksKept.ite hout (dropBulk_links hout)).mem

theorem rootBesideClear_unmet (h0 : Config.freeBit 0 (0x1000 + 2 ^ 50) = false) : metBefore rootBesideClear none [(0x1000, 1)] = [] := by
  have hbusy : busyCmds rootBesideClear none = [(1, clearOfHbm)] := by decide +kernel
  rw [metBefore_eq_nil_iff, hbusy]
  intro q hq c hc _
  obtain rfl := List.mem_singleton.mp hq
  obtain rfl := List.mem_singleton.mp hc
  exact h0
theorem rootBesideClear_met (h1 : Config.freeBit 1 (0x1000 + 2 ^ 50) = true) : metBefore (draw rootBesideClear) none [(0x1000, 1)] =
    [{ addr := 0x1000, old := [0xFF, 0, 0, 0], core := 1, cmd := clearOfHbm }] := by
  have hbusy : busyCmds (draw rootBesideClear) none = [(1, clearOfHbm)] := by decide +kernel
  have hold : (List.range 4).map (fun i => ((clearOfHbm.undo.find? (fun c => c.1 == 0x1000 + i)).map (·.2)).getD
      (rdByte (draw rootBesideClear) (0x1000 + i))) = [0xFF, 0, 0, 0] := by decide +kernel
  have hat : ((clearOfHbm.undo.map (fun c => c.1 / 4 * 4)).eraseDups) = [0x1000] := by decide +kernel
  have hctr : (draw rootBesideClear).freeCtr = 1 := rfl
  simp only [metBefore, hbusy, List.flatMap_cons, List.flatMap_nil, hat, hctr, List.filter_cons, h1]
  simp [hold]

/-- The request is one that the statement speaks of. -/
theorem byteWrite_fits : (bulkOf byteWrite).dst = ownId rootBesideClear ∧ flitType byteWrite = 4 ∧ (bulkOf byteWrite).op = 1 ∧
    requestStatus rootBesideClear (bulkOf byteWrite) (requestOp (bulkOf byteWrite) byteWritten) = 0 ∧
    wopRanges (bulkOf byteWrite).addr (requestOp (bulkOf byteWrite) byteWritten) = [(0x1000, 1)] ∧
    (engines rootBesideClear).flatMap (fun x => (strmOf rootBesideClear x).xfers) = [] := by decide +kernel

/-- Where it meets the GB.CLEAR, the byte is cleared again behind the write (R276). -/
theorem byteWrite_cleared (h1 : Config.freeBit 1 (0x1000 + 2 ^ 50) = true) (s : Dev) (p : Nat) :
    memByte (takeBulk s rootBesideClear p byteWrite byteWritten).mem 0x1000 = 0 := by
  obtain ⟨hdst, htype, hop, hst, hranges, hx⟩ := byteWrite_fits
  have hend : (performOp (turnBack (draw rootBesideClear) [{ addr := 0x1000, old := [0xFF, 0, 0, 0], core := 1, cmd := clearOfHbm }])
      [] 0 (bulkOf byteWrite).addr (requestOp (bulkOf byteWrite) byteWritten)).2 = none := by decide +kernel
  rw [takeBulk_request hdst htype]
  simp only [serveRequest, hst, hop, hx, performBeside, hranges, rootBesideClear_met h1, hend]
  simp only [bne_self_eq_false, Bool.false_eq_true, if_false, List.isEmpty_cons, sendBulk_mem, OfNat.one_ne_ofNat]
  decide +kernel

/-- O39 fails where a choice is false at one draw and true at the next: the statement then stores 5, and the model 0. -/
theorem not_bulkMessages_of_turning_choice (h0 : Config.freeBit 0 (0x1000 + 2 ^ 50) = false)
    (h1 : Config.freeBit 1 (0x1000 + 2 ^ 50) = true) : ¬ Obligations.BulkMessages := by
  intro hclaim
  obtain ⟨-, -, -, -, hbulk⟩ := hclaim
  obtain ⟨hdst, htype, hop, hst, hranges, hx⟩ := byteWrite_fits
  obtain ⟨-, -, hserved, -⟩ := hbulk rootBesideClear rootBesideClear 0 byteWrite byteWritten
  obtain ⟨-, hperformed⟩ := hserved hdst htype hst rfl
  have hspec := (hperformed hx (hranges ▸ rootBesideClear_unmet h0)).1 hop
  have hmodel := byteWrite_cleared h1 rootBesideClear 0
  rw [hspec, sendBulk_mem] at hmodel
  exact absurd hmodel (by decide +kernel)

end Sys2Proof.Machine
end

section
/-!
Rounds of the Copybook (R388, R393, R396, R397, R404).
-/
namespace Sys2Proof.Machine
open Sys2Proof.Safety

/-! ### The rows -/

section
variable (s : State)

theorem exec_roundStart (ready : Bool) : exec (.roundStart ready) s = goes s (roundStartAt s.dev ready) := rfl
theorem exec_checkpointDue : exec .checkpointDue s = goes s (if cadenceDue s.dev then roundDue s.dev else s.dev) := rfl
theorem exec_drainComplete (okay : Bool) : exec (.drainComplete okay) s = goes s (drainEnd s.dev okay) := rfl
theorem exec_cadenceRecompute : exec .cadenceRecompute s = goes s (cadence s.dev) := rfl
theorem exec_now {s : State} (hs : served s) {e : Dev} (he : roundDue (clearFault s.dev 0xC0000) = e) : exec .now s = goes s e :=
  word_row (fun d => roundDue d) rfl hs he
theorem exec_abort {s : State} (hs : served s) {e : Dev} (he : roundAbort (clearFault s.dev 0xC0000) = e) :
    exec .abort s = goes s e := word_row (fun d => roundAbort d) rfl hs he

end

/-! ### The start of a round (R393, R396, R404) -/

section
variable {d e : Dev}

/-- Sends have no part in whether a round can open. -/
theorem roundMay_of_sends (h : SendsOnly d e) : roundMay e = roundMay d := by
  obtain ⟨⟨_, _, _, rfl⟩, _⟩ := h
  rfl
theorem copyCfg_of_sends (h : SendsOnly d e) : copyCfg e = copyCfg d := by
  obtain ⟨⟨_, _, _, rfl⟩, _⟩ := h
  rfl
/-- A release sends, beside the Bell's next generation. -/
theorem bellRelease_sends (d : Dev) (b : Nat) (op : BitVec 3) (value : Dword) :
    SendsOnly (modBell d b (nextGeneration d b value)) (bellRelease d b op value) :=
  .foldl (fun h => txQueueFrom_sends h) (.refl _)
/-- The previous round's end is read from Bells 1,020 and 1,021 alone. -/
theorem roundMay_modBell {b : Nat} (f : BellState → BellState) (h0 : 1020 ≠ b) (h1 : 1021 ≠ b) :
    roundMay (modBell d b f) = roundMay d := by
  simp only [roundMay, roundOver, bellOf_modBell_other _ _ _ _ h0, bellOf_modBell_other _ _ _ _ h1]
  rfl
theorem roundMay_bellRelease_start : roundMay (bellRelease d 1022 0 0) = roundMay d :=
  (roundMay_of_sends (bellRelease_sends d 1022 0 0)).trans (roundMay_modBell _ (by decide) (by decide))
theorem copyCfg_bellRelease (b : Nat) (op : BitVec 3) (value : Dword) : copyCfg (bellRelease d b op value) = copyCfg d :=
  (copyCfg_of_sends (bellRelease_sends d b op value)).trans rfl

theorem roundStartAt_root (h : d.fab.id = 0) (ready : Bool) :
    roundStartAt d ready = if d.copy.due && ready then sendStart d else d := by simp [roundStartAt, isRoot, h]
theorem isRoot_other (h : d.fab.id ≠ 0) : isRoot d = false := beq_false_of_ne h
theorem roundStartAt_other (h : d.fab.id ≠ 0) (ready : Bool) : roundStartAt d ready = startArrives d := by
  simp [roundStartAt, isRoot_other h]
/-- A round is due at the root alone. -/
theorem roundDue_other (h : d.fab.id ≠ 0) : roundDue d = d := by simp [roundDue, isRoot_other h]

variable {c : CopyCfg} (hc : copyCfg d = some c)
include hc

theorem startArrives_of_cfg : startArrives d = if roundMay d then joinRound d c else d := by simp [startArrives, hc]
theorem sendStart_of_cfg : sendStart d = if roundMay d then joinRound (bellRelease d 1022 0 0) c else d := by
  rw [sendStart, startArrives_of_cfg (by rw [copyCfg_bellRelease, hc]), roundMay_bellRelease_start, hc]
  by_cases h : roundMay d = true <;> simp [h]
/-- At the root a round can be due where ARM acts. -/
theorem roundDue_root (hid : d.fab.id = 0) : roundDue d = if armed d then
    (if d.fab.count.toNat ≤ 1 then sendStart { d with copy := { d.copy with due := true } }
      else { d with copy := { d.copy with due := true } }) else d := by
  by_cases ha : armed d = true <;> simp [roundDue, roundNext, isRoot, hid, ha, hc]

end

/-! ### The end of the drain, ABORT and COPY_SEQ (R388, R393, R396, R404) -/

section
variable {d : Dev}

/-- The device arrives at Bell 1,021 with the drain's success, and its freeze ends. -/
def drainAnswers (d : Dev) (okay : Bool) : Dev :=
  bellArrive { d with copy := { d.copy with waits := [], state := .opened, arrived1021 := true } } 1021 2000 3 (if okay then 1 else 0)

theorem drainEnd_not_frozen (h : d.copy.state ≠ .frozen) (okay : Bool) : drainEnd d okay = d := by simp [drainEnd, h]
theorem drainEnd_waits (h : d.copy.waits ≠ []) : drainEnd d true = d := by simp [drainEnd, h]
theorem drainEnd_complete (h : d.copy.state = .frozen) (hw : d.copy.waits = []) : drainEnd d true = drainAnswers d d.copy.drainOk := by
  have hn : ¬ (d.copy.state != .frozen || (true && !d.copy.waits.isEmpty)) = true := by simp [h, hw]
  rw [drainEnd, if_neg hn]
  cases hok : d.copy.drainOk <;> simp [drainAnswers, systemArrive, srcSystem, b2n, hok]
/-- A write without an answer fails the drain with the address at which it was lost (R352, R396). -/
theorem drainEnd_lost (h : d.copy.state = .frozen) {c : CopyCfg} (hc : copyCfg d = some c) : drainEnd d false =
    drainAnswers (logEvent { d with copy := { d.copy with drainOk := false } } 0x0501 0x105 0xFFFF (leBytes 4 5 ++
      leBytes 6 (((d.copy.waits.head?).map Prod.snd).getD (c.slotBase + (d.copy.seq.toNat + 1) % 2 * c.slotSize)))) false := by
  have hn : ¬ (d.copy.state != .frozen || (false && !d.copy.waits.isEmpty)) = true := by simp [h]
  rw [drainEnd, if_neg hn]
  simp [drainAnswers, drainFails, systemArrive, srcSystem, argNone, le, b2n, hc, slotOf, roundSeq]

theorem roundAbort_in_round (h : (d.copy.state = .opened ∨ d.copy.state = .frozen) ∧ d.copy.arrived1021 = false) :
    roundAbort d = bellArrive (copyStopRound d .aborted) 1021 2000 3 0 := by
  obtain ⟨h | h, ha⟩ := h <;> simp [roundAbort, h, ha, systemArrive, srcSystem]
theorem roundAbort_outside (h : ¬(d.copy.state = .opened ∨ d.copy.state = .frozen) ∨ d.copy.arrived1021 = true) :
    roundAbort d = d := by
  rcases h with h | h
  · cases hs : d.copy.state <;> simp_all [roundAbort]
  · cases hs : d.copy.state <;> simp [roundAbort, hs, h]

/-- Two words put together, as a number. -/
theorem toNat_append_words (x y : Word) : (x ++ y : Dword).toNat = x.toNat * 2 ^ 32 + y.toNat := by
  refine (BitVec.toNat_append x y).trans ?_
  rw [← Nat.shiftLeft_add_eq_or_of_lt y.isLt, Nat.shiftLeft_eq]
/-- A half of a 64-bit register replaced by a written word. -/
theorem ofNat_setHalf (x : Dword) (hi : Bool) (v : Word) : BitVec.ofNat 64 (setHalf x.toNat (if hi then 1 else 0) v.toNat) =
    if hi then v ++ BitVec.ofNat 32 x.toNat else BitVec.ofNat 32 (x.toNat / 2 ^ 32) ++ v := by
  have hx := x.isLt
  have hv := v.isLt
  apply BitVec.eq_of_toNat_eq
  cases hi
  · simp only [Bool.false_eq_true, if_false, toNat_append_words, BitVec.toNat_ofNat, setHalf, setBits, bits, Nat.mul_zero,
      Nat.shiftRight_zero]
    omega
  · simp only [if_true, toNat_append_words, BitVec.toNat_ofNat, setHalf, setBits, bits, Nat.mul_one, Nat.shiftRight_eq_div_pow]
    omega
theorem seqWrite_half (hi : Bool) (v : Word) : seqWrite d (if hi then 1 else 0) v.toNat =
    if d.copy.arm = false ∧ d.copy.state = .idle then { d with copy := { d.copy with
      seq := if hi then v ++ BitVec.ofNat 32 d.copy.seq.toNat else BitVec.ofNat 32 (d.copy.seq.toNat / 2 ^ 32) ++ v } }
    else d := by
  rw [seqWrite, ofNat_setHalf]
  cases ha : d.copy.arm <;> cases hs : d.copy.state <;> rfl

end

/-! ### Cadence (R397 to R399), and the end of a round without a commit -/

/-- The registers that the root recomputes: T squared is FIXED squared, or lies within 30 and 3,600 s squared (R397, R398). -/
theorem cadence_of_cfg {d : Dev} {c : CopyCfg} (hc : copyCfg d = some c) : ∃ sq tt cost mtbf,
    cadence d = { d with copy := { d.copy with
      fail := BitVec.ofNat 32 (c.fail0 + d.copy.lost), tSq := if isRoot d then sq else d.copy.tSq,
      t := if isRoot d then tt else d.copy.t, c := if isRoot d then cost else d.copy.c, m := if isRoot d then mtbf else d.copy.m } } ∧
    (c.fixed ≠ 0 → sq = (c.fixed * 1000000) ^ 2) ∧ (c.fixed = 0 → 30000000 ^ 2 ≤ sq ∧ sq ≤ 3600000000 ^ 2) := by
  simp only [cadence, hc]
  refine ⟨_, _, _, _, rfl, fun hf => ?fixed, fun hf => ?free⟩
  case fixed => rw [if_pos (by simpa using hf), Nat.pow_two]
  case free =>
    rw [if_neg (by simpa using hf)]
    split <;> omega

/-- What a round that stops leaves. -/
theorem copyStopRound_in_round {d : Dev} (why : CopyLast) (h : d.copy.state = .opened ∨ d.copy.state = .frozen) :
    (copyStopRound d why).copy = { d.copy with state := .idle, hold := false, last := why, freezeGen := none, snap := d.copy.cur } ∧
    (copyStopRound d why).mem = d.mem ∧ (copyStopRound d why).cores = d.cores := by
  rcases h with h | h <;> simp [copyStopRound, h]

/-- Settles O41: the start of a round by `roundStartAt`, `roundDue` and `startArrives` under the COPY section in force, the end of the
drain and ABORT by their branches, and the cadence by the bounds of T. -/
theorem checkpointRounds : Obligations.CheckpointRounds := by
  intro s c hc
  have hstart : ∀ {d : Dev}, copyCfg d = some c → sendStart d = if roundMay d then joinRound (bellRelease d 1022 0 0) c else d :=
    sendStart_of_cfg
  refine ⟨fun hid => ?other, fun hid => ?root, ?drain, fun hs => ?writes, ?cadence,
    fun d why h => ⟨_, rfl, copyStopRound_in_round why h⟩⟩
  case other =>
    refine ⟨fun ready => ?_, ?_, fun hs => exec_now hs (roundDue_other hid)⟩
    · rw [exec_roundStart, roundStartAt_other hid, startArrives_of_cfg hc]; rfl
    · rw [exec_checkpointDue, roundDue_other hid, ite_self]
  case root =>
    refine ⟨fun ready => ?_, ?_, fun hs => exec_now hs ?_⟩
    · rw [exec_roundStart, roundStartAt_root hid, hstart hc]; rfl
    · rw [exec_checkpointDue, roundDue_root hc hid, hstart (by exact hc)]; rfl
    · rw [roundDue_root (d := clearFault s.dev 0xC0000) hc hid, hstart (by exact hc)]; rfl
  case drain =>
    refine ⟨fun h okay => congrArg (goes s) (drainEnd_not_frozen h okay), fun h => congrArg (goes s) (drainEnd_waits h),
      fun h => ⟨fun hw => congrArg (goes s) (drainEnd_complete h hw), congrArg (goes s) (drainEnd_lost h hc)⟩⟩
  case writes =>
    refine ⟨fun h => exec_abort hs (roundAbort_in_round h), fun h => exec_abort hs (roundAbort_outside h),
      fun on => word_row (fun d => { d with copy := { d.copy with arm := on } }) rfl hs rfl, fun hi x => ?_⟩
    exact word_row (fun d => seqWrite d (if hi then 1 else 0) x.toNat) rfl hs (seqWrite_half hi x)
  case cadence =>
    obtain ⟨sq, tt, cost, mtbf, heq, hfixed, hfree⟩ := cadence_of_cfg hc
    refine ⟨_, exec_cadenceRecompute s, ?_⟩
    rw [heq]
    refine ⟨rfl, rfl, fun hid hf => ?_, fun hid hf => ?_, fun hid => ?_⟩
    · simpa [isRoot, hid] using hfixed hf
    · simpa [isRoot, hid] using hfree hf
    · simp [isRoot_other hid]

end Sys2Proof.Machine
end

section
/-!
What the end of a core's work leaves as it was (R137, R271, R401, R521): the registers of reset and power, and every core in Detention.
-/
namespace Sys2Proof.Machine
open Sys2Proof.Safety

/-- Device `d` has the reset and power registers of `d₀`, and its cores in Detention are still in it. -/
structure WorkEnds (d₀ d : Dev) : Prop where
  rp : d.rp = d₀.rp
  detained : ∀ u, (coreOf d₀ u).state = .detained → (coreOf d u).state = .detained

section
variable {d₀ d : Dev}

theorem WorkEnds.refl (d : Dev) : WorkEnds d d := ⟨rfl, fun _ h => h⟩
/-- A record update that leaves the cores and the reset registers. -/
theorem WorkEnds.update {me bw be tt hb cx fa cp de pa ho fu fl pr re gl ew fc ou} (h : WorkEnds d₀ d) :
    WorkEnds d₀ ⟨me, bw, d.cores, be, tt, hb, cx, fa, cp, de, pa, ho, fu, fl, pr, re, d.rp, gl, ew, fc, ou⟩ := ⟨h.rp, h.detained⟩
/-- A core that is put through a function under which Detention lasts. -/
theorem WorkEnds.core {v : Nat} {c : Core} (h : WorkEnds d₀ d) (hc : (coreOf d v).state = .detained → c.state = .detained) :
    WorkEnds d₀ (setCore d v c) := by
  refine ⟨h.rp, fun u hu => ?_⟩
  by_cases huv : u = v
  · subst huv
    rw [coreOf_setCore_same]
    exact hc (h.detained u hu)
  · rw [coreOf_setCore_other _ _ _ _ huv]
    exact h.detained u hu
theorem WorkEnds.modCore {v : Nat} {f : Core → Core} (h : WorkEnds d₀ d) (hf : ∀ c : Core, c.state = .detained → (f c).state = .detained) :
    WorkEnds d₀ (modCore d v f) := h.core (hf _)
theorem WorkEnds.ite {p : Prop} [Decidable p] {a b : Dev} (ha : WorkEnds d₀ a) (hb : WorkEnds d₀ b) : WorkEnds d₀ (if p then a else b) := by
  split
  · exact ha
  · exact hb
theorem WorkEnds.foldl {β : Type} {f : Dev → β → Dev} (hf : ∀ {e : Dev} {x : β}, WorkEnds d₀ e → WorkEnds d₀ (f e x)) {l : List β}
    (h : WorkEnds d₀ d) : WorkEnds d₀ (l.foldl f d) := List.foldlRecOn l f h (fun _ he _ _ => hf he)
theorem WorkEnds.store {a : Nat} {bs : List Byte} (h : WorkEnds d₀ d) : WorkEnds d₀ (wrBytes d a bs) := by
  rw [wrBytes_same d a bs]
  exact h.update

theorem logEvent_workEnds {code src arg : Nat} {data : List Byte} (h : WorkEnds d₀ d) : WorkEnds d₀ (logEvent d code src arg data) :=
  ⟨(logEvent_rp ..).trans h.rp, fun u hu => by rw [coreOf, logEvent_cores]; exact h.detained u hu⟩
theorem undoUnits_workEnds {unit : Nat → Nat} {cells : List Host.Cell} (h : WorkEnds d₀ d) : WorkEnds d₀ (undoUnits d unit cells) :=
  (WorkEnds.foldl (fun h => .ite h h.store) h).update
theorem loseOwn_workEnds {v : Nat} {detained : Bool} (h : WorkEnds d₀ d) : WorkEnds d₀ (loseOwn d v detained) :=
  .foldl logEvent_workEnds h
theorem loseStolen_workEnds {v : Nat} (h : WorkEnds d₀ d) : WorkEnds d₀ (loseStolen d v) := by
  refine .foldl (fun h => ?_) h
  split
  · exact h
  · dsimp only
    split
    · exact h
    · exact .foldl logEvent_workEnds (h.core fun hdet => hdet)
theorem freeHands_workEnds {v : Nat} (h : WorkEnds d₀ d) : WorkEnds d₀ (freeHands d v) := by
  have hstate : ∀ u, (coreOf (freeHands d v) u).state = (coreOf d u).state := by
    intro u
    rw [coreOf, coreOf, freeHands, mapGet, mapGet, mapGet?_map_of_fst]
    · cases mapGet? d.cores u <;> rfl
    · exact fun _ => rfl
  exact ⟨h.rp, fun u hu => (hstate u).trans (h.detained u hu)⟩
theorem dropHeld_workEnds {v : Nat} (h : WorkEnds d₀ d) : WorkEnds d₀ (dropHeld d v) := h.update
theorem undoBytes_workEnds {cells : List Host.Cell} (h : WorkEnds d₀ d) : WorkEnds d₀ (undoBytes d cells) := undoUnits_workEnds h
theorem abandonCore_workEnds {v : Nat} {keep : Bool} (h : WorkEnds d₀ d) : WorkEnds d₀ (abandonCore d v keep) := by
  unfold abandonCore
  refine .modCore (freeHands_workEnds (loseStolen_workEnds (loseOwn_workEnds (dropHeld_workEnds (undoBytes_workEnds h))))) ?_
  exact fun _ hdet => hdet

/-- A Proctor in Detention meets no fault of a broken ring. -/
theorem ringFault_detained {c : Core} (h : c.state = .detained) (w : Nat) : (ringFault c w).state = .detained := by
  rw [ringFault, if_pos (by simp [h]), h]
theorem breakMember_workEnds {m : Nat × Nat} (h : WorkEnds d₀ d) : WorkEnds d₀ (breakMember d m) := by
  have hundo : WorkEnds d₀ (undoRing d m.1 m.2) := .ite ((undoUnits_workEnds h).modCore fun _ hdet => hdet) (undoUnits_workEnds h)
  exact hundo.modCore fun c hdet => ringFault_detained ((dropRingCmds_state c _).1.trans hdet) _
theorem breakRing_workEnds {r v a cause : Nat} (h : WorkEnds d₀ d) : WorkEnds d₀ (breakRing d r v a cause) :=
  .ite h (logEvent_workEnds (.foldl breakMember_workEnds h.update))
theorem breakRingsOf_workEnds {v cause : Nat} (h : WorkEnds d₀ d) : WorkEnds d₀ (breakRingsOf d v cause) := by
  refine .foldl (fun h => ?_) h
  split
  · exact breakRing_workEnds h
  · exact h
theorem detainStop_workEnds {v : Nat} (h : WorkEnds d₀ d) : WorkEnds d₀ (detainStop d v) := by
  unfold detainStop
  exact .modCore (breakRingsOf_workEnds (abandonCore_workEnds h)) fun _ _ => rfl

end

end Sys2Proof.Machine
end

section
/-!
Detention of a core and of the device, and the stop of all work (R400 to R403, R405, R541).
-/
namespace Sys2Proof.Machine
open Sys2Proof.Safety

theorem isDetained_iff {d : Dev} {v : Nat} : isDetained d v = true ↔ (coreOf d v).state = .detained := by simp [isDetained]

/-- The code of a log entry just written. -/
theorem logEvent_head_code (d : Dev) (code src arg : Nat) (data : List Byte) :
    (logEvent d code src arg data).reg.log.head?.map (·.code) = some (BitVec.ofNat 16 code) := by
  have h := congrArg (Option.map Prod.fst) (logEvent_head d code src arg data)
  rwa [Option.map_map] at h

/-! ### What follows a core's Detention -/

/-- HALT_REQ leaves no core that issues. -/
theorem issuing_haltReqCore (c : Core) : issuing (haltReqCore c) = false := by
  unfold haltReqCore
  split
  · simp [issuing]
  · next h =>
    split
    · simp [issuing]
    · simpa using h

/-- Core v, and every core that a HALT_REQ reaches, issues nothing. -/
theorem issuing_foldl_haltReqAt {d : Dev} {v : Nat} {us : List Nat} {u : Nat} (hv : issuing (coreOf d v) = false) (hu : u ∈ us) :
    issuing (coreOf (us.foldl (fun e u => if u = v then e else haltReqAt e u) d) u) = false := by
  refine foldl_establishes (e := d) (inv := fun e => issuing (coreOf e v) = false) (p := fun u e => issuing (coreOf e u) = false)
    (fun e x he => ?_) (fun e x _ he => ?_) (fun e x y he => ?_) hv u hu
  · split
    · exact he
    · next hx => rwa [haltReqAt, coreOf_modCore_other _ _ _ _ (Ne.symm hx)]
  · split
    · next hx => rwa [hx]
    · rw [haltReqAt, coreOf_modCore_same]; exact issuing_haltReqCore _
  · split
    · exact he
    · by_cases hxy : x = y
      · rw [hxy, haltReqAt, coreOf_modCore_same]; exact issuing_haltReqCore _
      · rwa [haltReqAt, coreOf_modCore_other _ _ _ _ hxy]

/-- The jobs of all contexts are marked as stopped by a Detention. -/
def jobsDetained (d : Dev) : Dev :=
  (List.range 4).foldl (fun e k => modCtx e k (fun x => { x with job := x.job.map (fun j => { j with detained := true }) })) d

section
variable (d : Dev)

theorem jobsDetained_det : (jobsDetained d).det = d.det := foldl_keeps _ Dev.det (fun e k => modCtx_det e k _) _ d
theorem jobsDetained_reg : (jobsDetained d).reg = d.reg := foldl_keeps _ Dev.reg (fun e k => modCtx_reg e k _) _ d
theorem jobsDetained_copy : (jobsDetained d).copy = d.copy := foldl_keeps _ Dev.copy (fun e k => modCtx_copy e k _) _ d
theorem jobsDetained_cores : (jobsDetained d).cores = d.cores := foldl_modCtx_cores _ _ d
theorem jobsDetained_job {k : Nat} (hk : k < 4) {j : Job} (hj : (ctxOf (jobsDetained d) k).job = some j) : j.detained = true := by
  have hall := foldl_establishes (e := d) (l := List.range 4) (inv := fun _ => True)
    (f := fun e k => modCtx e k (fun x => { x with job := x.job.map (fun j => { j with detained := true }) }))
    (p := fun k e => ∀ j, (ctxOf e k).job = some j → j.detained = true)
    (fun _ _ _ => trivial) (fun e x _ _ j hj => ?_) (fun e x y he j hj => ?_) trivial
  · exact hall k (List.mem_range.mpr hk) j hj
  · rw [ctxOf_modCtx_same] at hj
    obtain ⟨i, -, rfl⟩ := Option.map_eq_some_iff.mp hj
    rfl
  · by_cases hxy : x = y
    · rw [hxy, ctxOf_modCtx_same] at hj
      obtain ⟨i, -, rfl⟩ := Option.map_eq_some_iff.mp hj
      rfl
    · exact he j (by rwa [ctxOf_modCtx_other _ _ _ _ hxy] at hj)

end

/-! ### Detention of a core (R401, R402) -/

section
variable {d : Dev} {v : Nat} (cause : Nat)

theorem detainCore_absent (h : gridCores d ≤ v ∨ isDetained d v = true) : detainCore d v cause = d := by
  refine if_pos ?_
  rcases h with h | h
  · simp [h]
  · simp [isDetained_iff.mp h]

/-- Core v stopped, its Detention recorded and logged, with all work to be stopped. -/
def coreDetained (d : Dev) (v cause : Nat) : Dev :=
  let d1 := detainStop d v
  let d2 := { d1 with det := { d1.det with cause := BitVec.ofNat 4 cause, core := BitVec.ofNat 8 v, stopping := true } }
  signal (logEvent d2 0x0901 (coreBlock d v) v (by1 cause ++ by1 v)) 13
/-- Then every other core halts, and the jobs end as detained. -/
def othersHalted (d : Dev) (v n : Nat) : Dev := (List.range n).foldl (fun e u => if u = v then e else haltReqAt e u) d

theorem detainCore_enters (hv : v < gridCores d) (h : isDetained d v = false) :
    detainCore d v cause = jobsDetained (othersHalted (coreDetained d v cause) v (gridCores d)) := by
  refine if_neg ?_
  simpa [← isDetained_iff, h] using hv

theorem coreDetained_state : (coreOf (coreDetained d v cause) v).state = .detained := by
  rw [coreDetained, coreOf, signal_cores, logEvent_cores]
  exact coreOf_detainStop d v
theorem coreDetained_det : (coreDetained d v cause).det =
    { d.det with cause := BitVec.ofNat 4 cause, core := BitVec.ofNat 8 v, stopping := true } := by
  rw [coreDetained, signal_det, logEvent_det, detainStop_det]
theorem coreDetained_log : (coreDetained d v cause).reg.log.head?.map (·.code) = some 0x0901 := by
  rw [coreDetained, signal_reg]
  exact logEvent_head_code ..

variable (e : Dev) (n : Nat)

theorem othersHalted_det : (othersHalted e v n).det = e.det := foldl_keeps _ Dev.det (fun e u => by split <;> rfl) _ e
theorem othersHalted_reg : (othersHalted e v n).reg = e.reg := foldl_keeps _ Dev.reg (fun e u => by split <;> rfl) _ e

end

/-- What a core's Detention leaves. -/
theorem detainCore_effect {d : Dev} {v : Nat} (cause : Nat) (hv : v < gridCores d) (h : isDetained d v = false) :
    isDetained (detainCore d v cause) v = true ∧
    (detainCore d v cause).det = { d.det with cause := BitVec.ofNat 4 cause, core := BitVec.ofNat 8 v, stopping := true } ∧
    (detainCore d v cause).reg.log.head?.map (·.code) = some 0x0901 ∧
    (∀ u, u < gridCores d → issuing (coreOf (detainCore d v cause) u) = false) ∧
    ∀ k j, k < 4 → (ctxOf (detainCore d v cause) k).job = some j → j.detained = true := by
  refine ⟨isDetained_iff.mpr (detainCore_detained cause hv), ?_⟩
  rw [detainCore_enters cause hv h]
  refine ⟨?_, ?_, fun u hu => ?_, fun k j hk hj => jobsDetained_job _ hk hj⟩
  · rw [jobsDetained_det, othersHalted_det, coreDetained_det]
  · rw [jobsDetained_reg, othersHalted_reg, coreDetained_log]
  · rw [coreOf_of_cores (jobsDetained_cores _)]
    exact issuing_foldl_haltReqAt (by simp [issuing, coreDetained_state]) (List.mem_range.mpr hu)

/-! ### Detention of the device (R403) -/

theorem copyStopRound_ended (d : Dev) (why : CopyLast) :
    (copyStopRound d why).copy.state ≠ .opened ∧ (copyStopRound d why).copy.state ≠ .frozen := by
  by_cases h : d.copy.state = .opened ∨ d.copy.state = .frozen
  · rw [(copyStopRound_in_round why h).1]; exact ⟨nofun, nofun⟩
  · rw [not_or] at h
    have hsame : copyStopRound d why = d := by
      cases hs : d.copy.state <;> simp_all [copyStopRound]
    rw [hsame]; exact h
theorem copyStopRound_cores (d : Dev) (why : CopyLast) : (copyStopRound d why).cores = d.cores := by
  unfold copyStopRound; split <;> simp

/-- Every core of the grid stopped, one after another. -/
def allStopped (d : Dev) (n : Nat) : Dev :=
  (List.range n).foldl (fun e v => if (coreOf e v).state = .detained then e else detainStop e v) d

theorem allStopped_detained (d : Dev) {n v : Nat} (hv : v < n) : (coreOf (allStopped d n) v).state = .detained := by
  refine foldl_establishes (e := d) (inv := fun _ => True) (p := fun v e => (coreOf e v).state = .detained)
    (fun _ _ _ => trivial) (fun e x _ _ => ?_) (fun e x y he => ?_) trivial v (List.mem_range.mpr hv)
  · split
    · assumption
    · exact coreOf_detainStop e x
  · split
    · exact he
    · exact (detainStop_workEnds (.refl e)).detained x he

section
variable {d : Dev} (cause : Nat)

theorem detainDevice_again (h : d.det.device = true) : detainDevice d cause = d := if_pos h
/-- Every core of the device stopped, as its Detention begins. -/
def coresDetained (d : Dev) (cause : Nat) : Dev :=
  allStopped { d with det := { d.det with device := true, cause := BitVec.ofNat 4 cause } } (gridCores d)
/-- Then its round ends and its jobs are marked. -/
def deviceStopped (d : Dev) (cause : Nat) : Dev := jobsDetained (copyStopRound (coresDetained d cause) .aborted)
theorem detainDevice_enters (h : d.det.device = false) :
    detainDevice d cause = signal (logEvent (deviceStopped d cause) 0x0901 0xFFFF 0xFFFF (by1 cause ++ by1 0xFF)) 13 :=
  if_neg (by simp [h])

/-- What the device's Detention leaves. -/
theorem detainDevice_effect (h : d.det.device = false) :
    (detainDevice d cause).det = { d.det with device := true, cause := BitVec.ofNat 4 cause } ∧
    (∀ v, v < gridCores d → isDetained (detainDevice d cause) v = true) ∧
    (detainDevice d cause).copy.state ≠ .opened ∧ (detainDevice d cause).copy.state ≠ .frozen ∧
    (detainDevice d cause).reg.log.head?.map (·.code) = some 0x0901 := by
  have hcores : (detainDevice d cause).cores = (coresDetained d cause).cores := by
    rw [detainDevice_enters cause h, signal_cores, logEvent_cores, deviceStopped, jobsDetained_cores, copyStopRound_cores]
  have hround : (detainDevice d cause).copy = (copyStopRound (coresDetained d cause) .aborted).copy := by
    rw [detainDevice_enters cause h, signal_copy, logEvent_copy, deviceStopped, jobsDetained_copy]
  refine ⟨by rw [detainDevice_det, if_neg (by simp [h])], fun v hv => ?_, ?_⟩
  · rw [isDetained_iff, coreOf_of_cores hcores]
    exact allStopped_detained _ hv
  · rw [hround, detainDevice_enters cause h, signal_reg]
    exact ⟨(copyStopRound_ended _ _).1, (copyStopRound_ended _ _).2, logEvent_head_code ..⟩

end

/-! ### The stop of all work (R402) -/

theorem exec_workStopTimeout (s : State) : exec .workStopTimeout s = goes s (workStopAt s.dev) := rfl

section
variable {d : Dev}

theorem workStopAt_idle (h : d.det.stopping = false) : workStopAt d = d := if_pos (by simp [h])
/-- The cores that still run are to be block-reset. -/
theorem workStopAt_stopping (h : d.det.stopping = true) : workStopAt d =
    registrarResets { d with det := { d.det with stopping := false } }
      ((List.range (gridCores d)).filter (fun v => !coreStopped (coreOf d v).state)) := if_neg (by simp [h])

end

/-- The resets that the Registrar wants wait behind one that runs. -/
theorem registrarResets_behind {d : Dev} (h : d.rp.blockReset ≠ none) (vs : List Nat) : registrarResets d vs =
    { d with rp := { d.rp with blockQueue := d.rp.blockQueue ++ vs.map (fun v => BitVec.ofNat 8 (coreBlock d v)) } } :=
  if_pos (Option.isSome_iff_ne_none.mpr h)
/-- With none running the first starts, and the others wait behind it. -/
theorem registrarResets_first {d : Dev} {vs : List Nat} {b : Byte} {r : List Byte} (h : d.rp.blockReset = none)
    (hvs : vs.map (fun v => BitVec.ofNat 8 (coreBlock d v)) = b :: r) : registrarResets d vs =
      registrarGo { d with rp := { d.rp with blockQueue := d.rp.blockQueue ++ r } } b := by
  simp [registrarResets, h, hvs]

/-- A write of DET_CTL with its fields read from the word (R405, R541). -/
theorem dcoreAt_word (d : Dev) (value : Word) : dcoreAt d value.toNat =
    let d1 := { d with det := { d.det with vcore := BitVec.ofNat 8 value.toNat } }
    let d2 := if bit value.toNat 8 then detainCore d1 (value.toNat % 256) 4 else d1
    if bit value.toNat 9 then detainDevice d2 4 else d2 := by
  have hcode : BitVec.ofNat 8 (value.toNat % 256) = BitVec.ofNat 8 value.toNat := BitVec.eq_of_toNat_eq (by simp)
  simp only [dcoreAt, bits, Nat.shiftRight_zero, Nat.reducePow, hcode]

/-- Settles O42: Detention of a core and of the device by what they leave, and the stop of all work by `registrarResets`. -/
theorem detentionEntered : Obligations.DetentionEntered := by
  intro s
  refine ⟨fun hs => ⟨fun value => word_row (fun d => dcoreAt d value.toNat) rfl hs (dcoreAt_word _ value),
      word_row (fun d => detainDevice d 4) rfl hs rfl⟩,
    fun d v cause hv h _ => ⟨_, rfl, detainCore_effect cause hv h⟩, fun d v cause => detainCore_absent cause,
    fun d cause h _ => ⟨_, rfl, detainDevice_effect cause h⟩, fun d cause => detainDevice_again cause,
    fun h => congrArg (goes s) (workStopAt_idle h), fun h => ?stops⟩
  case stops =>
    rw [exec_workStopTimeout, workStopAt_stopping h]
    refine ⟨fun hb => congrArg (goes s) ?runs, fun hb hleft => congrArg (goes s) ?none, fun b r hb hblocks => congrArg (goes s) ?next⟩
    case runs => exact registrarResets_behind (d := { s.dev with det := { s.dev.det with stopping := false } }) hb _
    case none => simp [registrarResets, hb, hleft]
    case next => exact registrarResets_first hb hblocks

end Sys2Proof.Machine
end

section
/-!
What a warm and a cold reset leave (R389, R508, R509, R522, R526 to R528).
-/
namespace Sys2Proof.Machine
open Sys2Proof.Safety

/-! ### The record of a reset (R522, R527, R528) -/

section
variable (d : Dev) (cause src : Nat) (kind : ResetKind)

/-- The device with one more reset of a cause counted, which a record holds. -/
def resetRecorded (d : Dev) (cause src : Nat) (kind : ResetKind) : Dev :=
  { d with rp := { d.rp with
    cnt := mapPut d.rp.cnt cause (satAdd (mapGet 0 d.rp.cnt cause) 1), resetAt := some (nowUs d)
    lastCause := BitVec.ofNat 4 cause, lastKind := kind, lastEarly := d.rp.step == 1 || d.rp.step == 2
    lastBlock := 0, lastSrc := BitVec.ofNat 16 src } }

variable {d kind}

/-- A reset that meets no other takes the record. -/
theorem recordReset_alone (h : resetTogether d = false) (hk : kind ≠ .block) :
    recordReset d cause kind 0 src = resetRecorded d cause src kind := by
  simp [recordReset, resetRecorded, h, hk]
/-- A warm reset beside a cold one is counted and does not take the record. -/
theorem recordReset_beside_cold (h : resetTogether d = true) (hc : d.rp.lastKind = .cold) :
    recordReset d cause .warm 0 src = { d with rp := { d.rp with
      cnt := mapPut d.rp.cnt cause (satAdd (mapGet 0 d.rp.cnt cause) 1), resetAt := some (nowUs d) } } := by
  have hk : takesRecord d cause .warm = false := by simp [takesRecord, hc]
  simp [recordReset, h, hk]

/-! ### The two resets (R508, R509) -/

theorem warmReset_beside_cold (h : resetTogether d = true) (hc : d.rp.lastKind = .cold) :
    warmReset d cause src = { d with rp := { d.rp with
      cnt := mapPut d.rp.cnt cause (satAdd (mapGet 0 d.rp.cnt cause) 1), resetAt := some (nowUs d) } } := by
  simp only [warmReset, h, hc, recordReset_beside_cold cause src h hc]
  rfl
theorem warmReset_alone (h : resetTogether d = false) : warmReset d cause src =
    let e := clearDomains (resetRecorded d cause src .warm) (keepsHbm d cause)
    let early := d.rp.step == 1 || d.rp.step == 2
    { e with rp := { e.rp with step := if early then 1 else 3, trimV := if early then false else e.rp.trimV } } := by
  simp [warmReset, h, recordReset_alone cause src h (kind := .warm) nofun]
theorem coldReset_alone (h : resetTogether d = false) : coldReset d cause src =
    let e := clearDomains (resetRecorded d cause src .cold) false
    { e with
      pace := {}, hbm := [], cxl := [], fab := { root := strapRoot d.rp.strap.toNat }, host := {}, glb := { timeUs := d.glb.timeUs }
      rp := { e.rp with
        swKind := false, keepHbm := false, trimV := false, trimDef := false, blk := 0, honoured := false, blkTo := 0x64,
        strap := 0, capUf := 0, ehMj := 0, huValid := false, step := 1, strapDone := false } } := by
  simp only [coldReset, recordReset_alone cause src h (kind := .cold) nofun]

end

/-! ### Memory after a reset (R389, R509) -/

/-- A cell that a filter takes out reads as unlisted. -/
theorem memByte_filter_of_not {p : Nat → Bool} {x : Nat} (h : p x = false) (m : List Host.Cell) :
    memByte (m.filter (fun c => p c.1)) x = 0 :=
  memByte_none x fun c hc hx => by simp [hx, h] at hc

/-- Without a COPY section nothing is protected: memory is lost by its address alone. -/
theorem memByte_loseMemory {d : Dev} (hc : copyCfg d = none) (keep : Bool) (a : Nat) :
    memByte (loseMemory d keep).mem a = if clearedAddr keep a then 0 else memByte d.mem a := by
  have hprot : protectedAddr d a = false := by simp [protectedAddr, hc]
  cases hcl : clearedAddr keep a
  · exact memByte_filter d.mem (fun a => !clearedAddr keep a && !protectedAddr d a) a (by simp [hcl, hprot])
  · exact memByte_filter_of_not (p := fun a => !clearedAddr keep a && !protectedAddr d a) (by simp [hcl]) d.mem

theorem clearedAddr_hbm {a : Nat} (keep : Bool) (h : a < 0x100000000000) : clearedAddr keep a = !keep := by
  cases keep <;> simp [clearedAddr] <;> omega
theorem clearedAddr_windows {a : Nat} (keep : Bool) (h : 0x200000000000 ≤ a) (h' : a < 0x300000000000) : clearedAddr keep a = true := by
  simp [clearedAddr, h, h']
theorem clearedAddr_above {a : Nat} (keep : Bool) (h : 0x300000000000 ≤ a) : clearedAddr keep a = false := by
  simp [clearedAddr]; omega

section
variable {d : Dev} {cause src : Nat} (h : resetTogether d = false)
include h

theorem memByte_warmReset (hc : copyCfg d = none) (a : Nat) :
    memByte (warmReset d cause src).mem a = if clearedAddr (keepsHbm d cause) a then 0 else memByte d.mem a := by
  rw [warmReset_alone cause src h]
  exact memByte_loseMemory (d := resetRecorded d cause src .warm) hc _ a
theorem memByte_coldReset (hc : copyCfg d = none) (a : Nat) :
    memByte (coldReset d cause src).mem a = if clearedAddr false a then 0 else memByte d.mem a := by
  rw [coldReset_alone cause src h]
  exact memByte_loseMemory (d := resetRecorded d cause src .cold) hc _ a

end

/-- Settles O52: a reset that meets no other by `warmReset_alone` and `coldReset_alone`, and memory by the address. -/
theorem resetEffects : Obligations.ResetEffects := by
  intro d cause src hcause hsrc
  have hcode : (BitVec.ofNat 4 cause).toNat = cause := by simpa using hcause
  have hid : (BitVec.ofNat 16 src).toNat = src := by simpa using hsrc
  refine ⟨warmReset_beside_cold cause src, fun h => ⟨?warm, ?cold, fun hc a => ?memory⟩⟩
  case warm =>
    rw [warmReset_alone cause src h]
    refine ⟨hcode, rfl, hid, rfl, mapGet_mapPut_same _ _ _ _, rfl, rfl, rfl, rfl, rfl, rfl, rfl, rfl, rfl, rfl, rfl, rfl, rfl, rfl, ?_⟩
    simp
  case cold =>
    rw [coldReset_alone cause src h]
    exact ⟨hcode, rfl, rfl, rfl, rfl, rfl, rfl, rfl, rfl, rfl, rfl, rfl, rfl, rfl, rfl, rfl, rfl⟩
  case memory =>
    simp only [memByte_coldReset h hc, memByte_warmReset h hc]
    refine ⟨fun ha => ?_, fun ha ha' => ?_, fun ha => ?_⟩
    · rw [clearedAddr_hbm _ ha, clearedAddr_hbm _ ha]
      cases keepsHbm d cause <;> exact ⟨rfl, rfl⟩
    · rw [clearedAddr_windows _ ha ha', clearedAddr_windows _ ha ha']
      exact ⟨rfl, rfl⟩
    · rw [clearedAddr_above _ ha, clearedAddr_above _ ha]
      exact ⟨rfl, rfl⟩

end Sys2Proof.Machine
end

section
/-!
Block resets (R402, R518 to R521, R523, R533, R539).
-/
namespace Sys2Proof.Machine
open Sys2Proof.Safety

/-! ### The request (R519, R523) -/

/-- A write of a word in a block that is served at once takes effect (R431, R539). -/
theorem early_row {s : State} {off : Nat} {a : Answer} {e : Dev} (f : Dev → Dev) (ha : a = onEarly s off f) (hs : awake s)
    (he : f (clearFault s.dev off) = e) : a = goes s e := by
  rw [ha, onEarly_awake s off f hs, he]; rfl

section
variable {d : Dev} {blk : Nat}

theorem blockRefused_eq (d : Dev) (blk : Nat) : blockRefused d blk = if d.rp.done = false then 4
    else if d.rp.blockReset ≠ none then 1 else if blk = 0xEE ∨ blk = 0xEF ∨ 0xFC ≤ blk then 2
    else if blk < 0xE0 ∧ regionCore d blk = none then 3 else 0 := by
  simp [blockRefused, Option.isSome_iff_ne_none, or_assoc]

theorem blockStart_refused (requester : Nat) (h : blockRefused d blk ≠ 0) : blockStart d blk requester =
    logEvent d 0x0105 0x103 0xFFFF (leBytes 1 requester ++ leBytes 1 (blockRefused d blk) ++ leBytes 2 blk) :=
  if_pos (by simpa using h)
/-- The device with a block reset asked for. -/
def blockAsked (d : Dev) (blk requester : Nat) : Dev :=
  { d with rp := { d.rp with
    blockReset := some { block := BitVec.ofNat 8 blk, requester := BitVec.ofNat 8 requester, since := nowUs d } } }
/-- A core is asked to go idle by HALT_REQ (R519). -/
theorem blockStart_core (requester : Nat) (h : blockRefused d blk = 0) {v : Nat} (hlo : blk < 0xE0) (hv : regionCore d blk = some v) :
    blockStart d blk requester = haltReqAt (blockAsked d blk requester) v := by
  simp [blockStart, h, hv, hlo, blockAsked]
theorem blockStart_other (requester : Nat) (h : blockRefused d blk = 0) (hhi : 0xE0 ≤ blk) :
    blockStart d blk requester = blockAsked d blk requester := by
  rw [blockStart, if_neg (by simp [h])]
  dsimp only
  split
  · rw [if_neg (by omega), blockAsked]
  · rfl

/-- RST_BLOCK takes BLK. -/
def blkWritten (d : Dev) (blk : Nat) : Dev := { d with rp := { d.rp with blk := BitVec.ofNat 8 blk } }
/-- BLK has no part in which core a region holds, or in whether a reset is refused. -/
theorem regionCore_blkWritten (blk r : Nat) : regionCore (blkWritten (clearFault d 0x10008) blk) r = regionCore d r := rfl
theorem blockRefused_blkWritten (blk r : Nat) : blockRefused (blkWritten (clearFault d 0x10008) blk) r = blockRefused d r := rfl
theorem rstBlockWrite_word (d : Dev) (value : Word) : rstBlockWrite d value.toNat =
    if bit value.toNat 8 then blockStart (blkWritten d (value.toNat % 256)) (value.toNat % 256) 0
    else blkWritten d (value.toNat % 256) := by
  simp only [rstBlockWrite, bits, Nat.shiftRight_zero, Nat.reducePow, blkWritten]

end

/-! ### The ends of a block reset (R519 to R521) -/

section
variable {s : State}

theorem exec_blockIdle : exec .blockIdle s = blockEnds s (fun b => blockIsIdle s.dev b.block.toNat) true := rfl
theorem exec_blockResetTimeout :
    exec .blockResetTimeout s = blockEnds s (fun b => b.since + blockTimeout s.dev ≤ nowUs s.dev) false := rfl
theorem blockEnds_none (h : s.dev.rp.blockReset = none) (now : BlockReset → Bool) (honoured : Bool) :
    blockEnds s now honoured = goes s s.dev := by simp [blockEnds, h, goes]
theorem blockEnds_some {b : BlockReset} (h : s.dev.rp.blockReset = some b) (now : BlockReset → Bool) (honoured : Bool) :
    blockEnds s now honoured = if now b then .next { s with
      dev := blockDone (beforeReset s.dev b.block.toNat honoured) honoured, shadow := shadowReset s.shadow b.block.toNat }
      else goes s s.dev := by simp [blockEnds, h, goes]

end

/-! ### What a block is after its reset (R520, R521, R523) -/

/-- The reset of a block, by its kind. -/
def resetBlock (d : Dev) (blk : Nat) (honoured : Bool) : Dev :=
  if blk < 0xE0 then (match regionCore d blk with
    | some v => resetCore d v honoured
    | none => d)
  else if blk < 0xEC then resetHbm d (blk - 0xE0) honoured
  else if blk < 0xEE then resetTier d (blk - 0xEC)
  else resetPort d (blk - 0xF0) honoured
/-- The device that no longer waits for the block, with the reset counted under cause 0xA and recorded. -/
def blockRecorded (d : Dev) (b : BlockReset) (honoured : Bool) : Dev :=
  { fixParity d 0x10008 with rp := { d.rp with
    blockReset := none, honoured := honoured, cnt := mapPut d.rp.cnt 0xA (satAdd (mapGet 0 d.rp.cnt 0xA) 1)
    lastCause := 0xA, lastKind := .block, lastEarly := false, lastBlock := b.block, lastSrc := 0xFFFF } }
theorem recordReset_block (d : Dev) (b : BlockReset) (honoured : Bool) :
    recordReset (fixParity { d with rp := { d.rp with blockReset := none, honoured := honoured } } 0x10008) 0xA .block b.block.toNat noSrc =
      blockRecorded d b honoured := by
  simp [recordReset, blockRecorded, fixParity, noSrc]

section
variable {d : Dev} (honoured : Bool)

theorem resetCore_rp (d : Dev) (v : Nat) : (resetCore d v honoured).rp = d.rp := by
  have hwork : WorkEnds d (if honoured then dropHeld (loseOwn d v false) v else abandonCore d v false) :=
    .ite (dropHeld_workEnds (loseOwn_workEnds (.refl d))) (abandonCore_workEnds (.refl d))
  exact (breakRingsOf_workEnds hwork).rp
/-- A core is reset to its Block values; its ring step counts stay (R520). -/
theorem coreOf_resetCore (d : Dev) (v : Nat) : coreOf (resetCore d v honoured) v = { ringSteps := (coreOf d v).ringSteps } :=
  coreOf_setCore_same _ v _
theorem resetBlock_rp (d : Dev) (blk : Nat) : (resetBlock d blk honoured).rp = d.rp := by
  have hctl : ∀ c, (resetHbm d c honoured).rp = d.rp := fun c => by cases honoured <;> rfl
  unfold resetBlock
  split
  · split
    · exact resetCore_rp honoured d _
    · rfl
  · split
    · exact hctl _
    · split <;> rfl

theorem resetBlock_core {blk v : Nat} (h : blk < 0xE0) (hv : regionCore d blk = some v) :
    resetBlock d blk honoured = resetCore d v honoured := by simp [resetBlock, h, hv]
theorem resetBlock_hbm {c : Nat} (h : c < 12) : resetBlock d (0xE0 + c) honoured = resetHbm d c honoured := by
  rw [resetBlock, if_neg (by omega), if_pos (by omega), Nat.add_sub_cancel_left]
theorem resetBlock_tier {p : Nat} (h : p < 2) : resetBlock d (0xEC + p) honoured = resetTier d p := by
  rw [resetBlock, if_neg (by omega), if_neg (by omega), if_pos (by omega), Nat.add_sub_cancel_left]
theorem resetBlock_port (d : Dev) (p : Nat) : resetBlock d (0xF0 + p) honoured = resetPort d p honoured := by
  rw [resetBlock, if_neg (by omega), if_neg (by omega), if_neg (by omega), Nat.add_sub_cancel_left]

/-- A controller keeps its error counts and retrains. -/
theorem hbmOf_resetHbm (d : Dev) (c : Nat) : hbmOf (resetHbm d c honoured) c = {
    ceCnt := (hbmOf d c).ceCnt, ueCnt := (hbmOf d c).ueCnt, ueAddr := (hbmOf d c).ueAddr, refreshes := (hbmOf d c).refreshes,
    state := if syllActive d then .training else .off, selfRefresh := honoured } := by
  rw [resetHbm, hbmOf_modHbm_same]
  cases honoured <;> rfl
theorem cxlOf_resetTier (d : Dev) (p : Nat) : cxlOf (resetTier d p) p = { cxlOf d p with
    lines := [], flushing := false, flushPages := [], filling := [], logBusy := false, hit := 0, miss := 0, wb := 0, logBank := false } := by
  rw [resetTier, emptyCache, cxlOf_modCxl_same, cxlOf_modCxl_same]
/-- A port retrains, unless Attendance holds it down (R345, R369). -/
theorem fabPort_resetPort (d : Dev) (p : Nat) :
    (fabPort (resetPort d p honoured) p).state = (if (fabPort d p).heldDown then .down else .training) ∧
    (fabPort (resetPort d p honoured) p).replay = if honoured then (fabPort d p).replay else [] := by
  rw [resetPort, fabPort_modPort_same]
  exact ⟨rfl, rfl⟩

variable {b : BlockReset} (hb : d.rp.blockReset = some b)
include hb

/-- With no other reset wanted, the device is left reset and the reset is logged. -/
theorem blockDone_last (hq : d.rp.blockQueue = []) : blockDone d honoured =
    logEvent (resetBlock (blockRecorded d b honoured) b.block.toNat honoured) 0x0103 0x103 (blockArg d b.block.toNat)
      (by1 b.block.toNat ++ by1 (b2n honoured) ++ le 4 (nowUs d - b.since)) := by
  have hqueue : (logEvent (resetBlock (blockRecorded d b honoured) b.block.toNat honoured) 0x0103 0x103 (blockArg d b.block.toNat)
      (by1 b.block.toNat ++ by1 (b2n honoured) ++ le 4 (nowUs d - b.since))).rp.blockQueue = [] := by
    rw [logEvent_rp, resetBlock_rp]; exact hq
  simp only [blockDone, hb, recordReset_block]
  split
  · rfl
  · next q r heq => cases (heq.symm.trans hqueue)

/-- What the reset of a block leaves, of the reset registers and of the block. -/
theorem blockDone_effect (hq : d.rp.blockQueue = []) : ∃ t, blockDone d honoured = t ∧
    t.rp.blockReset = none ∧ t.rp.honoured = honoured ∧ t.rp.lastCause = 0xA ∧ t.rp.lastKind = .block ∧ t.rp.lastBlock = b.block ∧
    mapGet 0 t.rp.cnt 0xA = satAdd (mapGet 0 d.rp.cnt 0xA) 1 ∧ t.reg.log.head?.map (·.code) = some 0x0103 ∧
    (∀ v, b.block.toNat < 0xE0 → regionCore d b.block.toNat = some v → coreOf t v = { ringSteps := (coreOf d v).ringSteps }) ∧
    (∀ c, c < 12 → b.block.toNat = 0xE0 + c → hbmOf t c = {
      ceCnt := (hbmOf d c).ceCnt, ueCnt := (hbmOf d c).ueCnt, ueAddr := (hbmOf d c).ueAddr, refreshes := (hbmOf d c).refreshes,
      state := if syllActive d then .training else .off, selfRefresh := honoured }) ∧
    (∀ p, p < 2 → b.block.toNat = 0xEC + p → (cxlOf t p).lines = [] ∧ (cxlOf t p).hit = 0 ∧ (cxlOf t p).miss = 0 ∧
      (cxlOf t p).wb = 0 ∧ (cxlOf t p).logBank = false ∧ (cxlOf t p).ueCnt = (cxlOf d p).ueCnt) ∧
    (∀ p, p < 12 → b.block.toNat = 0xF0 + p → (fabPort t p).state = (if (fabPort d p).heldDown then .down else .training) ∧
      (fabPort t p).replay = (if honoured then (fabPort d p).replay else [])) := by
  refine ⟨_, blockDone_last honoured hb hq, ?_⟩
  have hrp := resetBlock_rp honoured (blockRecorded d b honoured) b.block.toNat
  simp only [logEvent_rp, hrp]
  refine ⟨rfl, rfl, rfl, rfl, rfl, mapGet_mapPut_same _ _ _ _, logEvent_head_code .., fun v hlo hv => ?core, fun c hc heq => ?hbm,
    fun p hp heq => ?tier, fun p _ heq => ?port⟩
  case core =>
    rw [coreOf_of_cores (logEvent_cores ..), resetBlock_core honoured (d := blockRecorded d b honoured) hlo hv]
    exact coreOf_resetCore honoured _ v
  case hbm =>
    rw [hbmOf, logEvent_hbm, heq, resetBlock_hbm honoured hc]
    exact hbmOf_resetHbm honoured _ c
  case tier =>
    have hcache := cxlOf_resetTier (blockRecorded d b honoured) p
    simp only [cxlOf, logEvent_cxl, heq, resetBlock_tier honoured hp] at hcache ⊢
    rw [hcache]
    exact ⟨rfl, rfl, rfl, rfl, rfl, rfl⟩
  case port =>
    rw [fabPort, logEvent_fab, heq, resetBlock_port]
    exact fabPort_resetPort honoured _ p

end

/-- Settles O55: the request by `blockStart`, the ends by `blockEnds`, and what each kind of block is after its reset. -/
theorem blockResets : Obligations.BlockResets := by
  intro s
  refine ⟨fun hs value => ?request, fun blk => blockRefused_eq s.dev blk, fun b hb => ?ends,
    fun hb => ⟨blockEnds_none hb _ _, blockEnds_none hb _ _⟩, fun d blk => rfl,
    fun d honoured b hb hq => blockDone_effect honoured hb hq⟩
  case request =>
    have hrow : ∀ {e}, rstBlockWrite (clearFault s.dev 0x10008) value.toNat = e → exec (.blockResetGo value) s = goes s e :=
      fun he => early_row (fun d => rstBlockWrite d value.toNat) rfl hs he
    have hgoes : bit value.toNat 8 = true → ∀ {e}, blockStart (blkWritten (clearFault s.dev 0x10008) (value.toNat % 256))
        (value.toNat % 256) 0 = e → exec (.blockResetGo value) s = goes s e :=
      fun hgo _ he => hrow ((rstBlockWrite_word _ value).trans ((if_pos hgo).trans he))
    have hrefused := blockRefused_blkWritten (d := s.dev) (value.toNat % 256) (value.toNat % 256)
    refine ⟨fun hgo => hrow ((rstBlockWrite_word _ value).trans (if_neg (by simp [hgo]))), fun hgo =>
      ⟨fun why hwhy hne => hgoes hgo ?refused, fun hok => ⟨fun v hlo hv => hgoes hgo ?core, fun hhi => hgoes hgo ?other⟩⟩⟩
    case refused =>
      subst hwhy
      rw [blockStart_refused 0 (by rwa [hrefused]), hrefused]
      rfl
    case core =>
      rw [blockStart_core 0 (by rwa [hrefused]) hlo (by rwa [regionCore_blkWritten])]
      rfl
    case other =>
      rw [blockStart_other 0 (by rwa [hrefused]) hhi]
      rfl
  case ends =>
    rw [exec_blockIdle, exec_blockResetTimeout, blockEnds_some hb, blockEnds_some hb]
    refine ⟨fun h => ?_, fun h => ?_, fun h => ?_, fun h => ?_⟩
    · rw [if_neg (by simp [h])]
    · rw [if_pos h]
    · rw [if_neg (by simpa using h)]
    · rw [if_pos (by simpa using h)]

end Sys2Proof.Machine
end

section
/-!
Function Level Reset (R449): what STOP, the abort of the HDMA lists and the reset of the contexts' registers leave of each context.
-/
namespace Sys2Proof.Machine
open Sys2Proof.Safety

/-! ### Passes over the contexts -/

/-- A pass that changes part `k` at its step `k`, and no other part, leaves each part changed once. -/
theorem foldl_range_each {α β : Type} {f : α → Nat → α} {g : α → Nat → β} {u : β → β} {n : Nat}
    (hsame : ∀ e k, k < n → g (f e k) k = u (g e k)) (hother : ∀ e k j, j ≠ k → g (f e k) j = g e j) (e : α) {k : Nat} (hk : k < n) :
    g ((List.range n).foldl f e) k = u (g e k) := by
  suffices hall : ∀ m, m ≤ n → ∀ k, g ((List.range m).foldl f e) k = if k < m then u (g e k) else g e k by
    rw [hall n (Nat.le_refl n), if_pos hk]
  intro m
  induction m with
  | zero => intro _ k; rfl
  | succ m ih =>
    intro hm k
    rw [List.range_succ, List.foldl_append, List.foldl_cons, List.foldl_nil]
    by_cases h : k = m
    · rw [h, hsame _ _ hm, ih (by omega), if_neg (Nat.lt_irrefl m), if_pos (Nat.lt_succ_self m)]
    · rw [hother _ _ _ h, ih (by omega)]
      simp only [show (k < m + 1) = (k < m) by simp; omega]

/-! ### What STOP leaves of the contexts (R448) -/

/-- The fields of a context that STOP does not move: its cores, its record ring and its job. -/
def ctxView (d : Dev) (k : Nat) : BitVec 256 × Dword × Option Job := ((ctxOf d k).cores, (ctxOf d k).cpl, (ctxOf d k).job)
/-- The job is asked to stop. -/
def stopAsked (x : BitVec 256 × Dword × Option Job) : BitVec 256 × Dword × Option Job :=
  (x.1, x.2.1, x.2.2.map (fun j => { j with stopReq := true }))

theorem ctxView_of_ctxs {d e : Dev} (h : e.host.ctxs = d.host.ctxs) (k : Nat) : ctxView e k = ctxView d k := by
  simp only [ctxView, ctxOf, h]
theorem ctxOf_of_ctxs {d e : Dev} (h : e.host.ctxs = d.host.ctxs) (k : Nat) : ctxOf e k = ctxOf d k := by rw [ctxOf, ctxOf, h]

theorem logEvent_ctxs (d : Dev) (code src arg : Nat) (data : List Byte) : (logEvent d code src arg data).host.ctxs = d.host.ctxs :=
  signal_ctxs _ 2
theorem wrBytes_host (d : Dev) (a : Nat) (bs : List Byte) : (wrBytes d a bs).host = d.host := by rw [wrBytes_same d a bs]
theorem completion_ctxs (d : Dev) (k : Nat) (seq : BitVec 16) (jobid vec result core halt : Nat) (reply : HostReply) :
    (completion d k seq jobid vec result core halt reply).host.ctxs = d.host.ctxs := by
  unfold completion
  dsimp only
  rw [signal_ctxs, apply_ite (fun e : Dev => e.host.ctxs), wrBytes_host, logEvent_ctxs, ite_self]
theorem ctxView_modCtx {d : Dev} {k : Nat} {f : Ctx → Ctx}
    (hf : ∀ x, (f x).cores = x.cores ∧ (f x).cpl = x.cpl ∧ (f x).job = x.job) (j : Nat) : ctxView (modCtx d k f) j = ctxView d j := by
  by_cases h : j = k
  · obtain ⟨hcores, hcpl, hjob⟩ := hf (ctxOf d k)
    simp only [h, ctxView, ctxOf_modCtx_same, hcores, hcpl, hjob]
  · simp only [ctxView, ctxOf_modCtx_other _ _ _ _ h]
theorem ctxView_discardOne (d : Dev) (k : Nat) (reply : HostReply) (j : Nat) : ctxView (discardOne d k reply) j = ctxView d j :=
  (ctxView_of_ctxs (completion_ctxs ..) j).trans (ctxView_modCtx (f := fun x => { x with head := x.head + 1 }) (fun _ => ⟨rfl, rfl, rfl⟩) j)
theorem ctxView_discards (d : Dev) (k : Nat) (reply : HostReply) (n j : Nat) :
    ctxView (Nat.repeat (fun e => discardOne e k reply) n d) j = ctxView d j := by
  induction n with
  | zero => rfl
  | succ n ih => exact (ctxView_discardOne _ k reply j).trans ih

theorem hostHalt_ctxs (d : Dev) (v : Nat) : (hostHalt d v).host.ctxs = d.host.ctxs := rfl

/-- STOP asks the job of its own context to stop. -/
theorem ctxView_stopAt (d : Dev) {k : Nat} (hk : k < 4) (reply : HostReply) (j : Nat) :
    ctxView (stopAt d k reply) j = if j = k then stopAsked (ctxView d k) else ctxView d j := by
  rw [← ctxView_discards d k reply (pendCount (ctxOf d k)) j, ← ctxView_discards d k reply (pendCount (ctxOf d k)) k,
    stopAt, if_neg (by omega)]
  dsimp only
  generalize Nat.repeat (fun e => discardOne e k reply) (pendCount (ctxOf d k)) d = e
  split
  · next hnone =>
    by_cases h : j = k
    · simp [h, stopAsked, ctxView, hnone]
    · rw [if_neg h]
  · next i hsome =>
    rw [ctxView_of_ctxs (foldl_keeps _ (fun e : Dev => e.host.ctxs) hostHalt_ctxs _ _)]
    by_cases h : j = k
    · simp [h, stopAsked, ctxView, hsome]
    · simp only [if_neg h, ctxView, ctxOf_modCtx_other _ _ _ _ h]

/-! ### The abort of the HDMA lists, and the registers of the contexts (R449) -/

theorem hdmaCheck_ctxs (d : Dev) (c : Nat) : (hdmaCheck d c).host.ctxs = d.host.ctxs := by
  unfold hdmaCheck
  dsimp only
  split
  · rfl
  · split
    · exact signal_ctxs _ _
    · rfl
theorem hdmaAbort_ctxs (d : Dev) (c : Nat) : (hdmaAbort d c).host.ctxs = d.host.ctxs := by
  unfold hdmaAbort
  dsimp only
  split
  · rfl
  · exact hdmaCheck_ctxs _ _

/-- The registers of a context after Function Level Reset. -/
def ctxDisabled (x : Ctx) : Ctx := { x with en := false, fence := false, remote := false, head := 0, tail := 0 }

/-- The device as the jobs are asked to stop and the lists aborted. -/
def flrStopped (d : Dev) (reply : HostReply) : Dev :=
  (List.range 4).foldl hdmaAbort ((List.range 4).foldl (fun e k => stopAt e k reply) d)

theorem ctxView_flrStopped (d : Dev) (reply : HostReply) {k : Nat} (hk : k < 4) :
    ctxView (flrStopped d reply) k = stopAsked (ctxView d k) := by
  rw [flrStopped, ctxView_of_ctxs (foldl_keeps _ (fun e : Dev => e.host.ctxs) hdmaAbort_ctxs _ _)]
  refine foldl_range_each (f := fun e k => stopAt e k reply) (g := ctxView) (fun e k hk => ?_) (fun e k j h => ?_) d hk
  · rw [ctxView_stopAt e hk, if_pos rfl]
  · by_cases hk : k < 4
    · rw [ctxView_stopAt e hk, if_neg h]
    · rw [stopAt, if_pos (by omega)]
theorem ctxOf_flrAt (d : Dev) (reply : HostReply) {k : Nat} (hk : k < 4) :
    ctxOf (flrAt d reply) k = ctxDisabled (ctxOf (flrStopped d reply) k) :=
  foldl_range_each (g := ctxOf) (u := ctxDisabled)
    (f := fun e k => fixParity (modCtx e k (fun x => { x with en := false, fence := false, remote := false, head := 0, tail := 0 }))
      (0x60100 + 0x100 * k))
    (fun e k _ => ctxOf_modCtx_same e k ctxDisabled) (fun e k j h => ctxOf_modCtx_other e k j ctxDisabled h) (flrStopped d reply) hk

/-- What Function Level Reset leaves of each context. -/
theorem flrAt_effect (d : Dev) (reply : HostReply) {k : Nat} (hk : k < 4) : ∃ x, ctxOf (flrAt d reply) k = x ∧ x.en = false ∧
    x.fence = false ∧ x.remote = false ∧ x.head = 0 ∧ x.tail = 0 ∧ x.cores = (ctxOf d k).cores ∧ x.cpl = (ctxOf d k).cpl ∧
    x.job = (ctxOf d k).job.map (fun j => { j with stopReq := true }) := by
  have hview := ctxView_flrStopped d reply hk
  rw [ctxOf_flrAt d reply hk]
  simp only [ctxView, stopAsked, Prod.mk.injEq] at hview
  generalize ctxOf (flrStopped d reply) k = x at hview ⊢
  obtain ⟨hcores, hcpl, hjob⟩ := hview
  exact ⟨_, rfl, rfl, rfl, rfl, rfl, rfl, hcores, hcpl, hjob⟩

end Sys2Proof.Machine
end

section
/-!
The host's window BAR4 (R403, R434, R435): an access within one 4 KiB page, served or refused.
-/
namespace Sys2Proof.Machine
open Sys2Proof.Safety

/-- A range within one page is one piece. -/
theorem cutRange_of_page {a len : Nat} (hlen : 0 < len) (hpage : a % 0x1000 + len ≤ 0x1000) :
    cutRange 0x1000 (len / 0x1000 + 2) a len = [(a, len)] := by
  have hpiece : min (min len 0x1000) (0x1000 - a % 0x1000) = len := by omega
  simp only [cutRange, if_neg (show len ≠ 0 by omega), hpiece, Nat.sub_self, if_true]

/-! ### The access (R431, R434, R452) -/

/-- The local address of byte `off` of the window (R434). -/
def winAddr (d : Dev) (off : Nat) : Nat := d.host.winHi.toNat * 2 ^ 36 + off

section
variable {s : State} {off len : Nat} {wr : Option (List Byte)}

theorem exec_windowAccess (s : State) (off len : Nat) (wr : Option (List Byte)) (poisoned : Bool) :
    exec (.windowAccess off len wr poisoned) s = goes s (windowAt s off len wr poisoned) := rfl

variable (hlen : 0 < len) (hend : off + len ≤ 2 ^ 36) (hwr : ∀ bs ∈ wr, bs.length = len)
include hlen hend hwr

/-- An access that lies in the window: in D3hot it is an Unsupported Request, a poisoned write is discarded, and any other goes page
by page. -/
theorem windowAt_within (poisoned : Bool) : windowAt s off len wr poisoned =
    if s.dev.host.d3hot then emit s.dev (.unsupported (winAddr s.dev off))
    else if poisoned && wr.isSome then signal (hostRefuse s.dev (winAddr s.dev off) 8) 15
    else (cutRange 0x1000 (len / 0x1000 + 2) (winAddr s.dev off) len).foldl (fun e r =>
      windowPage s.shadow e r.1 r.2 (wr.map (fun bs => (bs.drop (r.1 - winAddr s.dev off)).take r.2))) s.dev := by
  have hlength : (wr.map (·.length)).getD len = len := by
    cases wr with
    | none => rfl
    | some bs => exact hwr bs rfl
  have hfits : (len != 0 && decide (off + len ≤ 2 ^ 36) && (wr.map (·.length)).getD len == len) = true := by
    rw [hlength, decide_eq_true hend]
    simp only [Bool.and_true, beq_self_eq_true, bne_iff_ne]
    omega
  simp only [windowAt, hfits, Bool.not_true, Bool.false_eq_true, if_false, winAddr]

/-- Within one page the access is that of the page. -/
theorem windowAt_page (hs : awake s) (hpage : winAddr s.dev off % 0x1000 + len ≤ 0x1000) {poisoned : Bool} (hp : (poisoned && wr.isSome) = false) :
    windowAt s off len wr poisoned = windowPage s.shadow s.dev (winAddr s.dev off) len wr := by
  have hbytes : wr.map (fun bs => (bs.drop 0).take len) = wr := by
    cases wr with
    | none => rfl
    | some bs => rw [Option.map_some, List.drop_zero, List.take_of_length_le (Nat.le_of_eq (hwr bs rfl))]
  rw [windowAt_within hlen hend hwr, if_neg (Bool.eq_false_iff.mp hs), if_neg (Bool.eq_false_iff.mp hp), cutRange_of_page hlen hpage]
  simp only [List.foldl_cons, List.foldl_nil, Nat.sub_self, hbytes]

end

/-! ### A page (R403, R435) -/

section
variable {sh d : Dev} {a n : Nat}

/-- A refused read is counted, logged and answered with Completer Abort. -/
def readRefused (d : Dev) (a cause : Nat) : Dev := emit (hostRefuse d a cause) (.completerAbort a)

/-- A write is never refused for what a read would find. -/
theorem windowCause_write_ne (d : Dev) (a n : Nat) : windowCause d a n true ≠ 7 := by
  cases hk : addrKind d a <;> simp [windowCause, hk] <;> split_ifs <;> decide

section
variable (h : syllActive d = false ∨ pfault d 0x6000C = true)
include h

theorem windowPage_late_read : windowPage sh d a n none = readRefused d a 1 := by
  rcases h with h | h <;> simp [windowPage, h, readRefused]
theorem windowPage_late_write (bs : List Byte) : windowPage sh d a n (some bs) = hostRefuse d a 1 := by
  rcases h with h | h <;> simp [windowPage, h]

end

section
variable (hact : syllActive d = true) (hpar : pfault d 0x6000C = false)
include hact hpar

/-- A read outside board memory is refused by its cause, or served. -/
theorem windowPage_read (hb : boardPort a = none) : windowPage sh d a n none =
    if windowCause d a n false = 0 then windowRead d sh a n
    else if windowCause d a n false = 7 then readRefused (ueEvent d ((rdBad d a n).getD a) none) a 7
    else readRefused d a (windowCause d a n false) := by
  simp only [windowPage, hact, hpar, hb, Option.isSome_none, Bool.not_true, Bool.or_false, Bool.false_eq_true, if_false]
  split
  · next h => rw [if_pos h]
  · next h => rw [h, if_neg (by decide), if_pos rfl]; rfl
  · next h0 h7 => rw [if_neg h0, if_neg h7]; rfl
/-- A write is refused by its cause, or takes place unless the device is detained. -/
theorem windowPage_write (bs : List Byte) : windowPage sh d a n (some bs) =
    if windowCause d a n true = 0 then (if d.det.device then d else windowWrite d a bs)
    else hostRefuse d a (windowCause d a n true) := by
  cases hb : boardPort a <;>
    simp only [windowPage, hact, hpar, hb, Option.isSome_some, Bool.not_true, Bool.or_false, Bool.false_eq_true, if_false, if_true]
  all_goals
    split
    · next h => rw [if_pos h]
    · next h => exact absurd h (windowCause_write_ne d a n)
    · next h0 _ => rw [if_neg h0]

end

theorem windowRead_hbm (hk : addrKind d a = .hbm) (hb : boardPort a = none) :
    windowRead d sh a n = emit d (.readData a (rdBytes d a n)) := by simp [windowRead, hk, touchRead, hb]
theorem windowWrite_hbm (hk : addrKind d a = .hbm) (hbad : d.badWords = []) (bs : List Byte) :
    windowWrite d a bs = storeBytes d a bs 0 := by
  simp [windowWrite, hk, heal_of_clean hbad, badMerge_of_clean hbad]

end

end Sys2Proof.Machine
end

section
/-!
The host function beside its window (R431, R451, R452, R510, R532, R542): HDMA lists, MSI-X, PERST#, register accesses, and D3hot.
-/
namespace Sys2Proof.Machine
open Sys2Proof.Safety

/-- A request of the host that is not refused takes effect (R431). -/
theorem host_row {s : State} {off : Nat} {a : Answer} {e : Dev} (f : Dev → Dev) (ha : a = onHost s off f) (hs : awake s)
    (he : f s.dev = e) : a = goes s e := by
  rcases onHost_cases s off f with h | h
  · rw [ha, h.2, he]; rfl
  · exact absurd hs h.1

/-! ### HDMA lists (R451) -/

section
variable {d : Dev} {c : Nat}

/-- A list with an entry to come, or a channel with a transfer in flight, is not complete. -/
theorem hdmaCheck_pending {l : BList} (hl : (hdmaOf d c).strm.lists = [l]) (h : l.next < l.count) : hdmaCheck d c = d := by
  simp only [hdmaCheck, hl]
  exact if_neg (by simp; omega)
theorem hdmaCheck_complete {l : BList} (hl : (hdmaOf d c).strm.lists = [l]) (hbusy : (hdmaOf d c).busy = true) (h : l.count ≤ l.next)
    (hx : (hdmaOf d c).strm.xfers = []) : hdmaCheck d c =
      signal (modHdma d c (fun x => { x with busy := false, strm := { x.strm with lists := [] } })) (7 + c) := by
  simp only [hdmaCheck, hl]
  exact if_pos (by simp [hbusy, h, hx])

/-- The fields of HDMA_CTL as written. -/
def hdmaWritten (d : Dev) (c value : Nat) : Dev :=
  modHdma d c (fun h => { h with
    count := BitVec.ofNat 16 value, ctx := BitVec.ofNat 4 (bits value 16 4), pri := BitVec.ofNat 2 (bits value 20 2) })
/-- The list that HDMA_CTL and HDMA_LIST describe. -/
def hdmaList (d : Dev) (c value : Nat) : BList :=
  { id := 0, base := (hdmaOf d c).list.toNat, count := value % 0x10000, pri := BitVec.ofNat 2 (bits value 20 2) }
/-- The channel busy with that list. -/
def hdmaStarted (d : Dev) (c value : Nat) : Dev :=
  modHdma (hdmaWritten d c value) c (fun h => { h with busy := true, strm := { h.strm with lists := [hdmaList d c value] } })
theorem hdmaOf_hdmaStarted (d : Dev) (c value : Nat) : hdmaOf (hdmaStarted d c value) c = { hdmaOf (hdmaWritten d c value) c with
    busy := true, strm := { (hdmaOf (hdmaWritten d c value) c).strm with lists := [hdmaList d c value] } } := hdmaOf_modHdma_same ..
theorem hdmaOf_hdmaWritten_strm (d : Dev) (c value : Nat) : (hdmaOf (hdmaWritten d c value) c).strm = (hdmaOf d c).strm := by
  rw [hdmaWritten, hdmaOf_modHdma_same]

variable {value : Nat} (hc : c < 4)
include hc

theorem hdmaCtlWrite_fields (h : bit value 22 = false ∨ (hdmaOf d c).busy = true ∨ hdmaFault (hdmaWritten d c value) c = true) :
    hdmaCtlWrite d c value = hdmaWritten d c value := by
  have hcount : BitVec.ofNat 16 (bits value 0 16) = BitVec.ofNat 16 value := BitVec.eq_of_toNat_eq (by simp [bits])
  simp only [hdmaCtlWrite, if_neg (show ¬ 4 ≤ c by omega), hcount]
  refine if_pos ?_
  rw [hdmaOf_modHdma_same]
  rcases h with h | h | h
  · simp [h]
  · simp [h]
  · exact (congrArg (fun b => _ || b) h).trans (Bool.or_true _)
theorem hdmaCtlWrite_go (hgo : bit value 22 = true) (hbusy : (hdmaOf d c).busy = false)
    (hfault : hdmaFault (hdmaWritten d c value) c = false) :
    hdmaCtlWrite d c value = hdmaCheck (hdmaStarted d c value) c := by
  have hcount : BitVec.ofNat 16 (bits value 0 16) = BitVec.ofNat 16 value := BitVec.eq_of_toNat_eq (by simp [bits])
  have hn : ¬ (!bit value 22 || (hdmaOf d c).busy || hdmaFault (hdmaWritten d c value) c) = true := by simp [hgo, hbusy, hfault]
  simp only [hdmaCtlWrite, if_neg (show ¬ 4 ≤ c by omega), hcount, hdmaOf_modHdma_same]
  exact (if_neg hn).trans (by rw [BitVec.toNat_ofNat]; rfl)

omit hc in
/-- With an entry to come the list stays. -/
theorem hdmaCheck_hdmaStarted_pending (h : value % 0x10000 ≠ 0) : hdmaCheck (hdmaStarted d c value) c = hdmaStarted d c value :=
  hdmaCheck_pending (by rw [hdmaOf_hdmaStarted]) (Nat.pos_of_ne_zero h)
omit hc in
/-- Without one, and with no transfer in flight, it is complete at once. -/
theorem hdmaCheck_hdmaStarted_empty (h : value % 0x10000 = 0) (hx : (hdmaOf d c).strm.xfers = []) :
    hdmaCheck (hdmaStarted d c value) c =
      signal (modHdma (hdmaStarted d c value) c (fun h => { h with busy := false, strm := { h.strm with lists := [] } })) (7 + c) :=
  hdmaCheck_complete (by rw [hdmaOf_hdmaStarted]) (by rw [hdmaOf_hdmaStarted]) (Nat.le_of_eq h)
    (by rw [hdmaOf_hdmaStarted]; exact (congrArg StreamState.xfers (hdmaOf_hdmaWritten_strm d c value)).trans hx)

end

/-! ### MSI-X and PERST# (R431, R452, R510) -/

section
variable {d : Dev}

theorem msixUnmaskAt_eq (d : Dev) {vec : Nat} (hv : vec < 16) : msixUnmaskAt d vec =
    let m := BitVec.ofNat 16 (2 ^ vec)
    let h := { d.host with msixMask := d.host.msixMask &&& ~~~m }
    if (d.host.msixEn && !d.host.msixAll && bit d.host.msixPend.toNat vec) = true then
      { d with host := { h with msixPend := h.msixPend &&& ~~~m }, out := .msix vec :: d.out }
    else { d with host := h } := if_neg (by omega)
theorem perstAt_asserted (h : d.rp.perstLow = false) :
    perstAt d true = warmReset { d with rp := { d.rp with perstLow := true } } 3 0xFFFF := by
  simp [perstAt, h, noSrc]

/-! ### Register accesses (R532, R535, R542) -/

theorem exec_registerWrite (s : State) (off size : Nat) (value : Option Dword) :
    exec (.registerWrite off size value) s = goes s (registerWriteAt s.dev s.shadow off size (value.map (·.toNat))) := rfl

variable {sh : Dev} {off size : Nat}

theorem registerWriteAt_write (hsize : 0 < size) (hoff : off < 0x1000000) (x : Nat) :
    registerWriteAt d sh off size (some x) = bar0Write d off size x := by
  simp [registerWriteAt, show size ≠ 0 by omega, hoff]
theorem registerWriteAt_read (hsize : 0 < size) (hoff : off < 0x1000000) :
    registerWriteAt d sh off size none = bar0Read d sh off size := by
  simp [registerWriteAt, show size ≠ 0 by omega, hoff]

/-- A register takes the low word of what is written. -/
theorem ofNat_word (x : Nat) : BitVec.ofNat 32 (x % 2 ^ 32) = BitVec.ofNat 32 x := BitVec.eq_of_toNat_eq (by simp)
theorem bar0Write_d3hot (h : d.host.d3hot = true) (x : Nat) : bar0Write d off size x = emit d (.unsupported off) := if_pos h
theorem bar0Read_d3hot (h : d.host.d3hot = true) : bar0Read d sh off size = emit d (.unsupported off) := if_pos h

variable (hs : d.host.d3hot = false)
include hs

theorem bar0Write_word (hal : off % 4 = 0) (x : Nat) : bar0Write d off 4 x = regWrite d off (x % 2 ^ 32) true := by
  simp [bar0Write, hs, hal]
theorem bar0Write_bad (h4 : ¬(size = 4 ∧ off % 4 = 0)) (h8 : ¬(size = 8 ∧ off % 8 = 0)) (x : Nat) :
    bar0Write d off size x = badAccess d := by
  simp [bar0Write, hs, h4, h8]
theorem bar0Read_bad (h4 : ¬(size = 4 ∧ off % 4 = 0)) (h8 : ¬(size = 8 ∧ off % 8 = 0)) :
    bar0Read d sh off size = emit (badAccess d) (.readData off (zeros size)) := by
  simp [bar0Read, hs, h4, h8]
/-- Below the mailboxes a read changes nothing. -/
theorem bar0Read_word (hoff : off < 0x30000) (hal : off % 4 = 0) :
    bar0Read d sh off 4 = emit d (.readData off (leBytes 4 (regWord d sh off))) := by
  have hlate : regRead d sh off = (d, regWord d sh off) := by
    simp [regRead, show ¬ 0x30000 ≤ off by omega, show ¬ 0x40000 ≤ off by omega]
  simp [bar0Read, hs, hal, hlate]

omit hs in
theorem regWrite_scratch (d : Dev) (x : Nat) : regWrite d 0x0C x true =
    { clearFault d 0x0C with glb := { (clearFault d 0x0C).glb with scratch := BitVec.ofNat 32 x } } := by
  simp [regWrite, earlyBlock, liveWrite]
omit hs in
/-- A write of a core register waits for the next slow-clock edge (R535). -/
theorem regWrite_core (hact : syllActive d = true) (hlo : 0xC00000 ≤ off) (hhi : off < 0xC00000 + 0x1000 * gridCores d) (x : Nat) :
    regWrite d off x true = { d with edgeWrites := d.edgeWrites ++ [(off, BitVec.ofNat 32 x)] } := by
  simp [regWrite, hact, hlo, hhi]

end

/-! ### D3hot (R431) -/

section
variable {s : State} (h : s.dev.host.d3hot = true)
include h

theorem onHost_d3hot (off : Nat) (f : Dev → Dev) : onHost s off f = goes s (emit s.dev (.unsupported off)) :=
  congrArg (ran s) (if_pos h)
theorem apertureAt_d3hot {k off len : Nat} {wr : Option (List Byte)} (hk : k < 4) (hlen : 0 < len) (hend : off + len ≤ 0x10000)
    (hwr : ∀ bs ∈ wr, bs.length = len) : apertureAt s.dev k off len wr = emit s.dev (.unsupported (0x10000 * k + off)) := by
  have hlength : (wr.map (·.length)).getD len = len := by
    cases wr with
    | none => rfl
    | some bs => exact hwr bs rfl
  simp [apertureAt, hlength, h, show ¬ 4 ≤ k by omega, show len ≠ 0 by omega, show ¬ 0x10000 < off + len by omega]

/-- In D3hot every memory request of the host is an Unsupported Request. -/
theorem exec_d3hot {i : Instr} {off : Nat} (hi : requestOffset s.dev i = some off) : exec i s = goes s (emit s.dev (.unsupported off)) := by
  have hhost : ∀ {o : Nat} {a f}, some o = some off → a = onHost s o f → a = goes s (emit s.dev (.unsupported off)) := by
    rintro o a f ho rfl
    cases ho
    exact onHost_d3hot h off f
  have hprc : ∀ {v a f}, some (0xC00000 + 0x1000 * v) = some off → a = onPrc s v f → a = goes s (emit s.dev (.unsupported off)) :=
    fun ho ha => hhost ho ha
  have hlate : ∀ {o : Nat} {a f}, some o = some off → a = onLate s o f → a = goes s (emit s.dev (.unsupported off)) :=
    fun ho ha => hhost ho ha
  have hword : ∀ {o : Nat} {a f}, some o = some off → a = onWord s o f → a = goes s (emit s.dev (.unsupported off)) :=
    fun ho ha => hlate ho ha
  have hearly : ∀ {o : Nat} {a f}, some o = some off → a = onEarly s o f → a = goes s (emit s.dev (.unsupported off)) :=
    fun ho ha => hhost ho ha
  cases i with
  | prcStart v => exact hprc (a := execPrcStart v s) hi rfl
  | haltReq v => exact hprc (a := execHaltReq v s) hi rfl
  | resume v => exact hprc (a := execResume v s) hi rfl
  | clrStall v => exact hprc (a := execClrStall v s) hi rfl
  | now => exact hword (a := execNow s) hi rfl
  | abort => exact hword (a := execAbort s) hi rfl
  | arm on => exact hword (a := execArm on s) hi rfl
  | copySeqWrite hi' x => exact hword (a := execCopySeqWrite hi' x s) hi rfl
  | dcore x => exact hword (a := execDcore x s) hi rfl
  | ddev => exact hword (a := execDdev s) hi rfl
  | rcgo => exact hword (a := execRcgo s) hi rfl
  | agree => exact hword (a := execAgree s) hi rfl
  | flush p => exact hlate (a := execFlush p s) hi rfl
  | logswap p => exact hlate (a := execLogswap p s) hi rfl
  | clrcnt => exact hlate (a := execClrcnt s) hi rfl
  | swrst x => exact hearly (a := execSwrst x s) hi rfl
  | rstClrcnt => exact hearly (a := execRstClrcnt s) hi rfl
  | blockResetGo x => exact hearly (a := execBlockResetGo x s) hi rfl
  | stop k reply => exact hearly (a := execStop k s reply) hi rfl
  | en k x reply => exact hearly (a := execEn k x s reply) hi rfl
  | coresWrite k n x => exact hearly (a := execCoresWrite k n x s) hi rfl
  | hdmaGo c x => exact hearly (a := execHdmaGo c x s) hi rfl
  | msixUnmask vec => exact hhost (a := execMsixUnmask vec s) hi rfl
  | doorbell k o len wr =>
    obtain ⟨⟨hk, hlen, hend, hwr⟩, ⟨⟩⟩ := Option.ite_none_right_eq_some.mp hi
    exact congrArg (goes s) (apertureAt_d3hot h hk hlen hend hwr)
  | windowAccess o len wr poisoned =>
    obtain ⟨⟨hlen, hend, hwr⟩, ⟨⟩⟩ := Option.ite_none_right_eq_some.mp hi
    rw [exec_windowAccess, windowAt_within hlen hend hwr, if_pos h]
    rfl
  | registerWrite o size x =>
    obtain ⟨⟨hsize, ho⟩, ⟨⟩⟩ := Option.ite_none_right_eq_some.mp hi
    rw [exec_registerWrite]
    cases x with
    | none => exact congrArg (goes s) ((registerWriteAt_read hsize ho).trans (bar0Read_d3hot h))
    | some x => exact congrArg (goes s) ((registerWriteAt_write hsize ho _).trans (bar0Write_d3hot h _))
  | _ => cases hi

end

/-- Settles O46: FLR by what it leaves of each context, the window by its page, and each other row by its own branches. -/
theorem hostFunction : Obligations.HostFunction := by
  intro s
  refine ⟨fun reply => ⟨flrAt s.dev reply, rfl, fun k hk => flrAt_effect s.dev reply hk⟩, fun off len poisoned hlen hend hs => ?window,
    fun c value hc hs => ?hdma, fun enter => rfl, fun vec hvec hs => ?msix, rfl, fun h => congrArg (goes s) (perstAt_asserted h),
    fun hs => ⟨fun x => ?scratch, fun off size x hsize hoff h4 h8 => ?bad, fun off hoff hal => ?read, fun v o x hv ho hal hact => ?core⟩,
    fun h i off hi => exec_d3hot h hi⟩
  case window =>
    have hread : winAddr s.dev off % 0x1000 + len ≤ 0x1000 → ∀ {e}, windowPage s.shadow s.dev (winAddr s.dev off) len none = e →
        exec (.windowAccess off len none poisoned) s = goes s e :=
      fun hpage _ he => congrArg (goes s) ((windowAt_page hlen hend (fun _ h => absurd h (Option.not_mem_none _)) hs hpage (Bool.and_false _)).trans he)
    have hwrite : winAddr s.dev off % 0x1000 + len ≤ 0x1000 → ∀ {bs : List Byte} {e}, bs.length = len →
        windowPage s.shadow s.dev (winAddr s.dev off) len (some bs) = e → exec (.windowAccess off len (some bs) false) s = goes s e :=
      fun hpage _ _ hbs he => congrArg (goes s)
        ((windowAt_page hlen hend (by rintro _ ⟨⟩; exact hbs) hs hpage (Bool.false_and _)).trans he)
    refine ⟨fun bs hbs => congrArg (goes s) ?poisoned, fun hpage => ⟨fun hlate => ⟨hread hpage (windowPage_late_read hlate),
      fun bs hbs => hwrite hpage hbs (windowPage_late_write hlate bs)⟩, fun hserved hpar => ⟨fun hb => ?reads, fun bs hbs => ?writes⟩⟩⟩
    case poisoned =>
      rw [windowAt_within hlen hend (by rintro _ ⟨⟩; exact hbs), if_neg (Bool.eq_false_iff.mp hs)]
      exact if_pos rfl
    case reads =>
      have hserve := windowPage_read (sh := s.shadow) (n := len) hserved.2 hpar hb
      refine ⟨fun cause hcause h0 h7 => hread hpage (hserve.trans ?_), fun g hcause hbad => hread hpage (hserve.trans ?_),
        fun hk hcause => hread hpage (hserve.trans ?_)⟩
      · subst hcause
        exact (if_neg h0).trans (if_neg h7)
      · refine (if_neg fun h => Nat.noConfusion (hcause.symm.trans h)).trans ((if_pos hcause).trans ?_)
        exact congrArg (fun g => readRefused (ueEvent s.dev g none) (winAddr s.dev off) 7) (congrArg (Option.getD · _) hbad)
      · exact (if_pos hcause).trans (windowRead_hbm hk hb)
    case writes =>
      have hserve := windowPage_write (sh := s.shadow) (a := winAddr s.dev off) (n := len) hserved.2 hpar bs
      refine ⟨fun cause hcause h0 => hwrite hpage hbs (hserve.trans ?_), fun hcause hdet => hwrite hpage hbs (hserve.trans ?_),
        fun hcause hdet hk hbad => hwrite hpage hbs (hserve.trans ?_)⟩
      · subst hcause
        exact if_neg h0
      · exact (if_pos hcause).trans (if_pos hdet)
      · exact (if_pos hcause).trans ((if_neg (Bool.eq_false_iff.mp hdet)).trans (windowWrite_hbm hk hbad bs))
  case hdma =>
    have hrow : ∀ {e}, hdmaCtlWrite (clearFault s.dev (0x60808 + 0x40 * c)) c value.toNat = e → exec (.hdmaGo c value) s = goes s e :=
      fun he => early_row (fun d => hdmaCtlWrite d c value.toNat) rfl hs he
    refine ⟨fun h => hrow (hdmaCtlWrite_fields hc h), fun hgo hbusy hfault => ⟨fun hn => hrow ?_, fun hz hx => hrow ?_⟩⟩
    · rw [hdmaCtlWrite_go (d := clearFault s.dev (0x60808 + 0x40 * c)) hc hgo hbusy hfault, hdmaCheck_hdmaStarted_pending hn]
      rfl
    · rw [hdmaCtlWrite_go (d := clearFault s.dev (0x60808 + 0x40 * c)) hc hgo hbusy hfault, hdmaCheck_hdmaStarted_empty (d := clearFault s.dev (0x60808 + 0x40 * c)) hz hx]
      rfl
  case msix =>
    have hrow : ∀ {e}, msixUnmaskAt s.dev vec = e → exec (.msixUnmask vec) s = goes s e :=
      fun he => host_row (fun d => msixUnmaskAt d vec) rfl hs he
    refine ⟨fun hen hall hpend => hrow ((msixUnmaskAt_eq _ hvec).trans (if_pos (by simp [hen, hall, hpend]))),
      fun h => hrow ((msixUnmaskAt_eq _ hvec).trans (if_neg ?_))⟩
    rcases h with h | h | h <;> simp [h]
  case scratch =>
    rw [exec_registerWrite]
    refine congrArg (goes s) ((registerWriteAt_write (by decide) (by decide) x.toNat).trans ?_)
    rw [bar0Write_word hs (by decide), regWrite_scratch, ofNat_word]
  case bad =>
    exact ⟨congrArg (goes s) ((registerWriteAt_write hsize hoff x.toNat).trans (bar0Write_bad hs h4 h8 _)),
      congrArg (goes s) ((registerWriteAt_read hsize hoff).trans (bar0Read_bad hs h4 h8))⟩
  case read =>
    exact congrArg (goes s) ((registerWriteAt_read (by decide) (by omega)).trans (bar0Read_word hs hoff hal))
  case core =>
    have hgrid : gridCores s.dev ≤ 192 := by unfold gridCores; split <;> omega
    refine congrArg (goes s) ((registerWriteAt_write (by decide) (by omega) x.toNat).trans ?_)
    rw [bar0Write_word hs (by omega), regWrite_core hact (by omega) (by omega), ofNat_word]

end Sys2Proof.Machine
end

section
/-!
The clear of the pacers' counters (R429), which keeps the parity fault of its word.
-/
namespace Sys2Proof.Machine
open Sys2Proof.Safety

/-- CLRCNT clears the counters of every pacer, and nothing else. -/
theorem exec_clrcnt {s : State} (h : served s) : exec .clrcnt s = goes s (clearPacers s.dev) := onLate_served s 0x20000 _ h

/-- Two answers that go on with the same queue agree in the device. -/
theorem goes_inj {s : State} {d e : Dev} (h : goes s d = goes s e) : d = e := by
  injection h with h
  exact congrArg State.dev h

/-- It takes place as a write of the whole word PACE_CTL (0x20000) would only where that word has no parity fault to clear. -/
theorem exec_clrcnt_of_word_iff {s : State} (h : served s) :
    exec .clrcnt s = goes s (clearPacers (clearFault s.dev 0x20000)) ↔ clearFault s.dev 0x20000 = s.dev := by
  rw [exec_clrcnt h]
  refine ⟨fun heq => ?_, fun heq => by rw [heq]⟩
  have hdev : clearPacers s.dev = clearPacers (clearFault s.dev 0x20000) := goes_inj heq
  have hglb : s.dev.glb = (clearFault s.dev 0x20000).glb := (congrArg Dev.glb hdev :)
  exact congrArg (fun g : Glb => { s.dev with glb := g }) hglb.symm

/-- A served device whose word PACE_CTL is in parity fault. -/
def paceCtlFaulted : State := { dev := { host := { syll := true }, glb := { faulted := [0x20000] } }, shadow := {} }

/-- Refutes O43: CLRCNT (`exec_clrcnt`) leaves the parity fault of PACE_CTL, which the statement has it clear. -/
theorem not_clocksAndBeats : ¬ Obligations.ClocksAndBeats := by
  intro h
  have hserved : served paceCtlFaulted := ⟨rfl, rfl⟩
  obtain ⟨-, -, -, -, -, -, -, hclr⟩ := h paceCtlFaulted
  have hdev := (exec_clrcnt_of_word_iff hserved).mp (hclr hserved)
  have hfault : ([] : List Nat) = [0x20000] := congrArg (fun d : Dev => d.glb.faulted) hdev
  nomatch hfault

end Sys2Proof.Machine
end

section
/-!
Pace epochs, the margin levels and the power limit (R408, R412 to R416, R418 to R420, R425 to R428).
-/
namespace Sys2Proof.Machine
open Sys2Proof.Safety

/-! ### Passes over the pacers -/

/-- A pass that puts the pacer of each region it comes to through an idempotent `u`, and changes no other, leaves each pacer of its
list put through `u`. -/
theorem pacerOf_foldl {f : Dev → Nat → Dev} {u : Nat → Pacer → Pacer} (hsame : ∀ e r, pacerOf (f e r) r = u r (pacerOf e r))
    (hother : ∀ e r q, q ≠ r → pacerOf (f e r) q = pacerOf e q) (hagain : ∀ r p, u r (u r p) = u r p)
    (rs : List Nat) (e : Dev) (q : Nat) : pacerOf (rs.foldl f e) q = if q ∈ rs then u q (pacerOf e q) else pacerOf e q := by
  induction rs generalizing e with
  | nil => rfl
  | cons r rs ih =>
    rw [List.foldl_cons, ih]
    by_cases h : q = r
    · subst h
      simp [hsame, hagain]
    · simp [hother e r q h, h]

/-- A pass of changes of one pacer each leaves everything but the pacers. -/
theorem foldl_modPacer_rest (g : Nat → Pacer → Pacer) (rs : List Nat) (d : Dev) :
    ∃ pacers, rs.foldl (fun e r => modPacer e r (g r)) d = { d with pace := { d.pace with pacers := pacers } } := by
  induction rs generalizing d with
  | nil => exact ⟨_, rfl⟩
  | cons r rs ih =>
    obtain ⟨pacers, h⟩ := ih (modPacer d r (g r))
    exact ⟨pacers, h⟩

/-! ### The announcement (R419) -/

section
variable {d : Dev} {b src : Nat} {op : BitVec 3} {value : Dword}

theorem bellForward_pace : (bellForward d b).pace = d.pace := by
  simp only [bellForward]
  split
  · rfl
  · split
    · rfl
    · obtain ⟨⟨_, _, _, h⟩, -⟩ := txQueueFrom_sends (.refl _)
      rw [txQueue, h]
      rfl
theorem bellForward_arrivals : (bellOf (bellForward d b) b).arrivals = (bellOf d b).arrivals := by
  simp only [bellForward]
  split
  · rfl
  · split
    · rfl
    · obtain ⟨⟨_, _, _, h⟩, -⟩ := txQueueFrom_sends (.refl _)
      rw [txQueue, h]
      simp [bellOf, modBell]
theorem bellArrive_pace : (bellArrive d b src op value).pace = d.pace := by
  simp only [bellArrive]
  split
  · rfl
  · rw [bellForward_pace, apply_ite Dev.pace, logEvent_pace, ite_self]
    rfl
theorem bellArrive_mem : (bellArrive d b src op value).mem = d.mem := (bellArrive_links (m := (· = d.mem)) (.refl rfl)).mem
theorem bellArrive_cores : (bellArrive d b src op value).cores = d.cores := (bellArrive_absence (.refl d)).cores

/-- Source `src` has arrived at Bell `b`. -/
def hasArrived (b src : Nat) (d : Dev) : Prop := (bellOf d b).arrivals.any (fun a => a.src == src) = true

/-- An arrival puts its source among those that have arrived, and takes none from them. -/
theorem hasArrived_bellArrive (x : Nat) : hasArrived b x (bellArrive d b src op value) ↔ hasArrived b x d ∨ src = x := by
  unfold hasArrived bellArrive
  dsimp only
  split
  · next h =>
    refine ⟨.inl, ?_⟩
    rintro (hx | rfl)
    · exact hx
    · exact h
  · have hadd : (bellOf (modBell d b (fun s => { s with arrivals := s.arrivals ++ [{ src := src, op := op, value := value }] })) b).arrivals
        = (bellOf d b).arrivals ++ [{ src := src, op := op, value := value }] := by rw [bellOf_modBell_same]
    rw [bellForward_arrivals]
    split
    · rw [bellOf, logEvent_bells, ← bellOf, hadd]
      simp
    · rw [hadd]
      simp

end

section
variable (d : Dev) (n : Byte)

/-- The members of the epoch have loaded their standby registers. -/
def standbyLoaded : Dev := d.pace.members.foldl (fun e r => modPacer e r (fun p => { p with standby := freeWord d 10 r })) d
/-- The code is announced, with no member arrived. -/
def codeAnnounced : Dev :=
  let e := draw (standbyLoaded d)
  { e with pace := { e.pace with phase := .announced n } }
/-- The members arrive at Bell 1,016, one after another. -/
def membersArrived (rs : List Nat) (d : Dev) : Dev := rs.foldl (fun e r => bellArrive e 1016 r 0 0) d

theorem standbyLoaded_rest : ∃ pacers, standbyLoaded d = { d with pace := { d.pace with pacers := pacers } } :=
  foldl_modPacer_rest (fun r p => { p with standby := freeWord d 10 r }) _ d
theorem pacerOf_standbyLoaded (r : Nat) : pacerOf (standbyLoaded d) r =
    if r ∈ d.pace.members then { pacerOf d r with standby := freeWord d 10 r } else pacerOf d r :=
  pacerOf_foldl (u := fun r p => { p with standby := freeWord d 10 r }) (fun e r => pacerOf_modPacer_same e r _)
    (fun e r q => pacerOf_modPacer_other e r q _) (fun _ _ => rfl) _ d r

theorem announce_eq : announce d n = membersArrived d.pace.members (codeAnnounced d n) := by
  obtain ⟨pacers, h⟩ := standbyLoaded_rest d
  have hmembers : (draw (standbyLoaded d)).pace.members = d.pace.members := by rw [h]; rfl
  rw [← hmembers]
  rfl

variable {d n} (rs : List Nat)

theorem membersArrived_pace : (membersArrived rs d).pace = d.pace := foldl_keeps _ Dev.pace (fun _ _ => bellArrive_pace) rs d
theorem membersArrived_mem : (membersArrived rs d).mem = d.mem := foldl_keeps _ Dev.mem (fun _ _ => bellArrive_mem) rs d
theorem membersArrived_cores : (membersArrived rs d).cores = d.cores := foldl_keeps _ Dev.cores (fun _ _ => bellArrive_cores) rs d
theorem membersArrived_all : ∀ r ∈ rs, hasArrived 1016 r (membersArrived rs d) :=
  foldl_establishes (e := d) (inv := fun _ => True) (p := hasArrived 1016) (fun _ _ _ => trivial)
    (fun _ x _ _ => (hasArrived_bellArrive x).mpr (.inr rfl)) (fun _ x _ h => (hasArrived_bellArrive x).mpr (.inl h)) trivial

/-- What the announcement of a code leaves. -/
theorem announce_effect : (announce d n).mem = d.mem ∧ (announce d n).cores = d.cores ∧
    (announce d n).pace = { d.pace with phase := .announced n, pacers := (announce d n).pace.pacers } ∧
    (∀ r, r ∈ d.pace.members → pacerOf (announce d n) r = { pacerOf d r with standby := freeWord d 10 r } ∧
      (bellOf (announce d n) 1016).arrivals.any (fun a => a.src == r) = true) ∧
    (∀ r, r ∉ d.pace.members → pacerOf (announce d n) r = pacerOf d r) := by
  have hpace : (announce d n).pace = (codeAnnounced d n).pace := by rw [announce_eq, membersArrived_pace]
  have hpacer : ∀ r, pacerOf (announce d n) r = pacerOf (standbyLoaded d) r := fun r => by rw [pacerOf, hpace]; rfl
  obtain ⟨pacers, hrest⟩ := standbyLoaded_rest d
  refine ⟨?_, ?_, ?_, fun r hr => ⟨?_, ?_⟩, fun r hr => ?_⟩
  · rw [announce_eq, membersArrived_mem, codeAnnounced, hrest]; rfl
  · rw [announce_eq, membersArrived_cores, codeAnnounced, hrest]; rfl
  · rw [hpace, codeAnnounced, hrest]; rfl
  · rw [hpacer, pacerOf_standbyLoaded, if_pos hr]
  · rw [announce_eq]; exact membersArrived_all _ r hr
  · rw [hpacer, pacerOf_standbyLoaded, if_neg hr]

end

/-! ### Epochs (R418 to R420, R422, R425, R427) -/

section
variable {d : Dev}

/-- The regions out of reset take part in a new epoch. -/
def epochOpened (d : Dev) : Dev :=
  { d with pace := { d.pace with busy := true, epoch := d.pace.epoch + 1, members := epochRegions d } }

theorem paceEpochAt_none (h : d.pace.busy = true ∨ d.rp.pwr ≠ .on ∨ paceN d = d.pace.cur.toNat) : paceEpochAt d = d :=
  if_pos (by simpa [epochsRun, or_assoc] using h)
theorem paceEpochAt_held (h : d.pace.cur.toNat < paceN d) (hheld : d.pace.upBlocked = true ∨ d.pace.lowRun < 10) :
    paceEpochAt d = d := by
  simp only [paceEpochAt]
  split
  · rfl
  · exact if_pos (by simpa [h] using hheld)

section
variable (hbusy : d.pace.busy = false) (hon : d.rp.pwr = .on)
include hbusy hon

theorem paceEpochAt_down (h : paceN d < d.pace.cur.toNat) : paceEpochAt d = announce (epochOpened d) (BitVec.ofNat 8 (paceN d)) := by
  have hup : ¬ d.pace.cur.toNat < paceN d := by omega
  simp [paceEpochAt, epochsRun, epochBegin, hbusy, hon, hup, Nat.ne_of_lt h, epochOpened]
theorem paceEpochAt_up (h : d.pace.cur.toNat < paceN d) (hfree : d.pace.upBlocked = false) (hlow : 10 ≤ d.pace.lowRun) :
    paceEpochAt d = { epochOpened d with pace := { (epochOpened d).pace with
      phase := .rails (BitVec.ofNat 8 (min (paceN d) (d.pace.cur.toNat + 5))) } } := by
  simp [paceEpochAt, epochsRun, epochBegin, hbusy, hon, h, Nat.ne_of_gt h, hfree, Nat.not_lt.mpr hlow, epochOpened]

end

theorem railsSettledAt_rails {n : Byte} (h : d.pace.phase = .rails n) :
    railsSettledAt d = announce { d with pace := { d.pace with volt := n } } n := by simp only [railsSettledAt, h]
theorem railTimeoutAt_rails {n : Byte} (h : d.pace.phase = .rails n) : railTimeoutAt d = logEvent { d with pace := { d.pace with
    busy := false, phase := .idle, lowRun := 0, skipWindow := true, members := [], upBlocked := true } }
    0x0302 0x102 0xFFFF (leBytes 1 n.toNat) := by simp only [railTimeoutAt, h, epochOver, argNone, by1]
theorem railsSettledAt_other (h : ∀ n, d.pace.phase ≠ .rails n) : railsSettledAt d = d := by
  unfold railsSettledAt
  split
  · next n hn => exact absurd hn (h n)
  · rfl
theorem railTimeoutAt_other (h : ∀ n, d.pace.phase ≠ .rails n) : railTimeoutAt d = d := by
  unfold railTimeoutAt
  split
  · next n hn => exact absurd hn (h n)
  · rfl

end

/-! ### Pacers that trim too long, and the margin (R408, R412 to R416) -/

section
variable {d : Dev} {r : Nat} (hr : r < 236)
include hr

theorem pacerTimeoutAt_trimming (h : (pacerOf d r).state = .trimming) :
    pacerTimeoutAt d r = modPacer d r (fun p => { p with state := .failed }) := if_pos (by simp [hr, h])
theorem marginAt_level {level : BitVec 2} (h : level ≠ 3) : marginAt d r level = modPacer d r (fun p => { p with level := level }) :=
  if_neg (by simpa [hr] using h)

end

section
variable {d : Dev} {r : Nat}

theorem pacerTimeoutAt_other (h : (pacerOf d r).state ≠ .trimming) : pacerTimeoutAt d r = d := if_neg (by simp [h])
theorem marginAt_never : marginAt d r 3 = d := rfl
theorem criticalAt_long (h : 1024 ≤ (pacerOf d r).critRun) : criticalAt d r =
    logEvent (modPacer d r (fun p => { p with critRun := 0 })) 0x0303 0x100 0xFFFF (leBytes 1 r) := if_neg (by omega)
theorem criticalAt_short (h : (pacerOf d r).critRun < 1024) : criticalAt d r = d := if_pos h

end
theorem exec_criticalLevel {s : State} {r : Nat} (hr : r < 236) : exec (.criticalLevel r) s = goes s (criticalAt s.dev r) :=
  congrArg (goes s) (if_pos hr)

/-! ### The power limit (R426 to R428) -/

section
variable {d : Dev} {w : Nat}

/-- A window of mean `w` has ended, with CEIL and the count of its low windows as given. -/
def windowEnded (d : Dev) (w : Nat) (ceil : Byte) (run : Nat) : Dev :=
  let low := decide (100 * w ≤ 97 * limitW d)
  let above := decide (limitW d < w)
  { d with
    rp := { d.rp with vinW := BitVec.ofNat 16 w }
    pace := { d.pace with
      ceil := if pfault d 0x20010 then 0x28 else ceil, ceilRun := run, skipWindow := false, means := (w :: d.pace.means).take 100
      lowRun := if d.pace.skipWindow || !low then 0 else d.pace.lowRun + 1
      pstr := d.pace.pstr && (!d.pace.pstrDown || above), pstrDown := d.pace.pstrDown && above } }

theorem powerWindowAt_above (h : limitW d < w) : powerWindowAt d w =
    let e := windowEnded d w (BitVec.ofNat 8 (max 0x28 (d.pace.cur.toNat - 2))) 0
    paceFall (if d.pace.cur = 0x28 then logEvent e 0x0205 0x102 0xFFFF (leBytes 4 w) else e) := by
  have hlow : ¬ 100 * w ≤ 97 * limitW d := by omega
  have hcur : d.pace.cur.toNat = 0x28 ↔ d.pace.cur = 0x28 := by rw [← BitVec.toNat_inj]; rfl
  simp [powerWindowAt, windowEnded, h, hlow, hcur, argNone, le]
theorem powerWindowAt_rise (h : w ≤ limitW d) (hlow : 100 * w ≤ 97 * limitW d) (hrun : 99 ≤ d.pace.ceilRun) :
    powerWindowAt d w = windowEnded d w (BitVec.ofNat 8 (min 0xA0 (d.pace.ceil.toNat + 1))) 0 := by
  have hrise : 100 ≤ d.pace.ceilRun + 1 := by omega
  simp [powerWindowAt, windowEnded, Nat.not_lt.mpr h, hlow, hrise]
theorem powerWindowAt_low (h : w ≤ limitW d) (hlow : 100 * w ≤ 97 * limitW d) (hrun : d.pace.ceilRun < 99) :
    powerWindowAt d w = windowEnded d w d.pace.ceil (d.pace.ceilRun + 1) := by
  have hrise : ¬ 100 ≤ d.pace.ceilRun + 1 := by omega
  simp [powerWindowAt, windowEnded, Nat.not_lt.mpr h, hlow, hrise]
theorem powerWindowAt_between (h : w ≤ limitW d) (hlow : ¬ 100 * w ≤ 97 * limitW d) :
    powerWindowAt d w = windowEnded d w d.pace.ceil 0 := by
  simp [powerWindowAt, windowEnded, Nat.not_lt.mpr h, hlow]

theorem paceFall_none (h : d.pace.cur.toNat ≤ paceN d) : paceFall d = d := if_neg (Nat.not_lt.mpr h)
theorem powerStretchAt_above (h : fastW d < w) (hp : d.pace.pstr = false) :
    powerStretchAt d w = { d with pace := { d.pace with pstr := true, pstrDown := false } } := if_neg (by simp [h, hp])
theorem powerStretchAt_other (h : w ≤ fastW d ∨ d.pace.pstr = true) : powerStretchAt d w = d := if_pos (by simpa using h)

end

/-- Settles O44: each row by the cases of its operation, and the announcement by `announce_effect`. -/
theorem pacing : Obligations.Pacing := by
  refine ⟨fun s => ⟨fun h => congrArg (goes s) (paceEpochAt_none h), fun hbusy hon => ⟨?down, ?held, ?up⟩, fun n h => ?rails,
    fun h => ?noRails, fun d n => ⟨_, rfl, announce_effect⟩, fun r hr => ?pacer⟩,
    fun s w => ⟨?above, ?low, ?between, fun d => paceFall_none, ?stretch, ?noStretch⟩⟩
  case down => exact fun h => congrArg (goes s) (paceEpochAt_down hbusy hon h)
  case held => exact fun h hheld => congrArg (goes s) (paceEpochAt_held h hheld)
  case up => exact fun h hfree hlow => congrArg (goes s) (paceEpochAt_up hbusy hon h hfree hlow)
  case rails => exact ⟨congrArg (goes s) (railsSettledAt_rails h), congrArg (goes s) (railTimeoutAt_rails h)⟩
  case noRails => exact ⟨congrArg (goes s) (railsSettledAt_other h), congrArg (goes s) (railTimeoutAt_other h)⟩
  case pacer =>
    refine ⟨fun h => congrArg (goes s) (pacerTimeoutAt_trimming hr h), fun h => congrArg (goes s) (pacerTimeoutAt_other h),
      fun level h => congrArg (goes s) (marginAt_level hr h), congrArg (goes s) marginAt_never, ?_⟩
    rw [exec_criticalLevel hr]
    exact ⟨fun h => congrArg (goes s) (criticalAt_long h), fun h => congrArg (goes s) (criticalAt_short h)⟩
  case above => exact fun h => congrArg (goes s) (powerWindowAt_above h)
  case low =>
    intro h hlow
    exact ⟨fun hrun => congrArg (goes s) (powerWindowAt_rise h (of_decide_eq_true hlow) hrun),
      fun hrun => congrArg (goes s) (powerWindowAt_low h (of_decide_eq_true hlow) hrun)⟩
  case between => exact fun h hlow => congrArg (goes s) (powerWindowAt_between h (of_decide_eq_false hlow))
  case stretch => exact fun h hp => congrArg (goes s) (powerStretchAt_above h hp)
  case noStretch => exact fun h => congrArg (goes s) (powerStretchAt_other h)

end Sys2Proof.Machine
end

section
/-!
Cores at rest through the resets of others, and the device that wakes (R520, R525).
-/
namespace Sys2Proof.Machine
open Sys2Proof.Safety

/-- A map of the values of a table acts on the value under each key. -/
theorem mapGet_map_value {α : Type} (x : α) (f : α → α) (m : NMap α) (k : Nat) :
    mapGet x (m.map (fun p => (p.1, f p.2))) k = ((mapGet? m k).map f).getD x :=
  congrArg (Option.getD · x) (mapGet?_map_of_fst (g := fun p => (p.1, f p.2)) (fun _ => rfl) m k)

/-- A core with every field at its reset value but for the ring step counts. -/
def atRest (c : Core) : Prop := ∃ steps, c = { ringSteps := steps }
/-- Core `e` counts the ring steps of `c`, and is at rest where `c` is. -/
def restKept (c e : Core) : Prop := e.ringSteps = c.ringSteps ∧ (atRest c → atRest e)
/-- Every core of `d` counts the ring steps that it counts in `d₀`, and is at rest where it is so there. -/
def CoresRest (d₀ d : Dev) : Prop := ∀ u, restKept (coreOf d₀ u) (coreOf d u)

section
variable {d₀ d : Dev}

theorem restKept.refl (c : Core) : restKept c c := ⟨rfl, id⟩
theorem restKept.trans {a b c : Core} (h : restKept a b) (h' : restKept b c) : restKept a c := ⟨h'.1.trans h.1, h'.2 ∘ h.2⟩

theorem CoresRest.refl (d : Dev) : CoresRest d d := fun _ => .refl _
/-- A record update that leaves the cores. -/
theorem CoresRest.update {me bw be tt hb cx fa cp de pa ho fu fl pr re rp gl ew fc ou} (h : CoresRest d₀ d) :
    CoresRest d₀ ⟨me, bw, d.cores, be, tt, hb, cx, fa, cp, de, pa, ho, fu, fl, pr, re, rp, gl, ew, fc, ou⟩ := h
theorem CoresRest.of_cores {e : Dev} (h : CoresRest d₀ d) (he : e.cores = d.cores) : CoresRest d₀ e :=
  fun u => coreOf_of_cores he u ▸ h u
theorem CoresRest.core {v : Nat} {c : Core} (h : CoresRest d₀ d) (hc : restKept (coreOf d v) c) : CoresRest d₀ (setCore d v c) := by
  intro u
  by_cases huv : u = v
  · subst huv
    rw [coreOf_setCore_same]
    exact (h u).trans hc
  · rw [coreOf_setCore_other _ _ _ _ huv]
    exact h u
theorem CoresRest.modCore {v : Nat} {f : Core → Core} (h : CoresRest d₀ d) (hf : ∀ c, restKept c (f c)) :
    CoresRest d₀ (modCore d v f) := h.core (hf _)
theorem CoresRest.ite {p : Prop} [Decidable p] {a b : Dev} (ha : CoresRest d₀ a) (hb : CoresRest d₀ b) :
    CoresRest d₀ (if p then a else b) := by
  split
  · exact ha
  · exact hb
theorem CoresRest.foldl {β : Type} {f : Dev → β → Dev} (hf : ∀ {e : Dev} {x : β}, CoresRest d₀ e → CoresRest d₀ (f e x)) {l : List β}
    (h : CoresRest d₀ d) : CoresRest d₀ (l.foldl f d) := List.foldlRecOn l f h (fun _ he _ _ => hf he)

/-! ### Work that another core loses (R271, R521) -/

theorem logEvent_coresRest {code src arg : Nat} {data : List Byte} (h : CoresRest d₀ d) : CoresRest d₀ (logEvent d code src arg data) :=
  h.of_cores (logEvent_cores ..)
theorem undoUnits_coresRest {unit : Nat → Nat} {cells : List Host.Cell} (h : CoresRest d₀ d) : CoresRest d₀ (undoUnits d unit cells) :=
  h.of_cores (undoUnits_cores _ _ _)
theorem loseOwn_coresRest {v : Nat} {detained : Bool} (h : CoresRest d₀ d) : CoresRest d₀ (loseOwn d v detained) :=
  .foldl logEvent_coresRest h
/-- A mark on commands leaves a core at rest, which has none. -/
theorem restKept_mapCmds (g : Issued → Issued) (c : Core) : restKept c { c with cmds := c.cmds.map g } := by
  refine ⟨rfl, ?_⟩
  rintro ⟨steps, rfl⟩
  exact ⟨steps, rfl⟩
theorem loseStolen_coresRest {v : Nat} (h : CoresRest d₀ d) : CoresRest d₀ (loseStolen d v) := by
  refine .foldl (fun h => ?_) h
  split
  · exact h
  · dsimp only
    split
    · exact h
    · exact .foldl logEvent_coresRest (h.core (restKept_mapCmds _ _))
/-- A core whose engines have no task of core `v` in hand. -/
def handsFreed (v : Nat) (c : Core) : Core := { c with vec := { c.vec with hand := c.vec.hand.filter (fun h => h.2.1 != v) } }
theorem restKept_handsFreed (v : Nat) (c : Core) : restKept c (handsFreed v c) := by
  refine ⟨rfl, ?_⟩
  rintro ⟨steps, rfl⟩
  exact ⟨steps, rfl⟩
theorem coreOf_freeHands (d : Dev) (v u : Nat) : coreOf (freeHands d v) u = ((mapGet? d.cores u).map (handsFreed v)).getD {} :=
  mapGet_map_value ({} : Core) (handsFreed v) d.cores u
theorem freeHands_coresRest {v : Nat} (h : CoresRest d₀ d) : CoresRest d₀ (freeHands d v) := by
  refine fun u => (h u).trans ?_
  rw [coreOf_freeHands, coreOf, mapGet]
  cases mapGet? d.cores u with
  | none => exact .refl _
  | some c => exact restKept_handsFreed v c
theorem undoBytes_coresRest {cells : List Host.Cell} (h : CoresRest d₀ d) : CoresRest d₀ (undoBytes d cells) := undoUnits_coresRest h
theorem dropHeld_coresRest {v : Nat} (h : CoresRest d₀ d) : CoresRest d₀ (dropHeld d v) := h.update
theorem abandonCore_coresRest {v : Nat} (h : CoresRest d₀ d) : CoresRest d₀ (abandonCore d v false) := by
  unfold abandonCore
  refine .modCore (freeHands_coresRest (loseStolen_coresRest (loseOwn_coresRest (dropHeld_coresRest (undoBytes_coresRest h)))))
    fun c => ⟨rfl, ?_⟩
  rintro ⟨steps, rfl⟩
  exact ⟨steps, rfl⟩

/-! ### Rings that break (R137) -/

/-- A core at rest has no ring command, so that a break takes back nothing there. -/
theorem undoRing_coresRest {v a : Nat} (h : CoresRest d₀ d) : CoresRest d₀ (undoRing d v a) := by
  unfold undoRing
  dsimp only
  split
  · next hacc =>
    refine (undoUnits_coresRest h).core ⟨rfl, ?_⟩
    rw [coreOf_of_cores (undoUnits_cores _ _ _)]
    rintro ⟨steps, hrest⟩
    rw [hrest] at hacc
    cases hacc
  · exact undoUnits_coresRest h
theorem restKept_dropRingCmds (c : Core) (a : Nat) : restKept c (dropRingCmds c a) := by
  refine ⟨?_, ?_⟩
  · unfold dropRingCmds
    dsimp only
    split <;> rfl
  · rintro ⟨steps, rfl⟩
    exact ⟨steps, rfl⟩
/-- A broken ring faults Proctors that run or stand in break, and so none at rest. -/
theorem restKept_ringFault (c : Core) (w : Nat) : restKept c (ringFault c w) := by
  refine ⟨?_, ?_⟩
  · unfold ringFault
    split
    · rfl
    · split <;> rfl
  · rintro ⟨steps, rfl⟩
    exact ⟨steps, rfl⟩
theorem breakMember_coresRest {m : Nat × Nat} (h : CoresRest d₀ d) : CoresRest d₀ (breakMember d m) :=
  (undoRing_coresRest h).modCore fun c => (restKept_dropRingCmds c _).trans (restKept_ringFault _ _)
theorem breakRing_coresRest {r v a cause : Nat} (h : CoresRest d₀ d) : CoresRest d₀ (breakRing d r v a cause) :=
  .ite h (logEvent_coresRest (.foldl breakMember_coresRest h.update))
theorem breakRingsOf_coresRest {v cause : Nat} (h : CoresRest d₀ d) : CoresRest d₀ (breakRingsOf d v cause) := by
  refine .foldl (fun h => ?_) h
  split
  · exact breakRing_coresRest h
  · exact h

end

/-! ### The resets of every core (R520, R525) -/

/-- The reset of a core brings it to rest, and leaves the others there that are so. -/
theorem resetCore_coresRest (d : Dev) (v : Nat) (honoured : Bool) : CoresRest d (resetCore d v honoured) := by
  intro u
  by_cases huv : u = v
  · subst huv
    rw [coreOf_resetCore]
    exact ⟨rfl, fun _ => ⟨_, rfl⟩⟩
  · have hdrop : CoresRest d (dropHeld (loseOwn d v false) v) := dropHeld_coresRest (loseOwn_coresRest (.refl d))
    rw [resetCore, coreOf_setCore_other _ _ _ _ huv]
    exact breakRingsOf_coresRest (.ite hdrop (abandonCore_coresRest (.refl d))) u

/-- Every core of the grid reset, one after another. -/
def coresReset (d : Dev) : Dev := (List.range (gridCores d)).foldl (fun e v => resetCore e v (coreIdle (coreOf e v))) d

theorem coreOf_coresReset (d : Dev) {v : Nat} (hv : v < gridCores d) :
    coreOf (coresReset d) v = { ringSteps := (coreOf d v).ringSteps } := by
  have hrest : atRest (coreOf (coresReset d) v) :=
    foldl_establishes (e := d) (inv := fun _ => True) (p := fun v e => atRest (coreOf e v)) (fun _ _ _ => trivial)
      (fun e x _ _ => ⟨_, coreOf_resetCore _ e x⟩) (fun e x y h => (resetCore_coresRest e y _ x).2 h) trivial v (List.mem_range.mpr hv)
  have hsteps : (coreOf (coresReset d) v).ringSteps = (coreOf d v).ringSteps :=
    foldl_keeps _ (fun e : Dev => (coreOf e v).ringSteps) (fun e x => (resetCore_coresRest e x _ v).1) _ d
  obtain ⟨steps, h⟩ := hrest
  rw [h] at hsteps ⊢
  exact congrArg (fun x => ({ ringSteps := x } : Core)) hsteps

/-- The pacers of a device that wakes have not been released. -/
theorem pacerOf_wakeUp (d : Dev) (q : Nat) : (pacerOf (wakeUp d) q).released = false ∧ (pacerOf (wakeUp d) q).state = .inReset := by
  have h := mapGet_map_value {} (fun p : Pacer => { p with state := .inReset, released := false }) (coresReset d).pace.pacers q
  rw [show pacerOf (wakeUp d) q = _ from h]
  cases mapGet? (coresReset d).pace.pacers q <;> exact ⟨rfl, rfl⟩
theorem hbmOf_wakeUp (d : Dev) (c : Nat) : (hbmOf (wakeUp d) c).selfRefresh = false := by
  have h := mapGet_map_value {} (fun x : HbmCtl => { x with selfRefresh := false }) (coresReset d).hbm c
  rw [show hbmOf (wakeUp d) c = _ from h]
  cases mapGet? (coresReset d).hbm c <;> rfl

end Sys2Proof.Machine
end

section
/-!
The commands of the Registrar's mailbox (R411, R507, R524, R525, R550, R551).
-/
namespace Sys2Proof.Machine
open Sys2Proof.Safety

/-! ### The status of a request (R551) -/

/-- The answer to a request by R551: 2 for a wrong length or field, 3 for a command that is not allowed, 5 during a settings write or
a sag, and otherwise what the command does. -/
def gatedAnswer (d : Dev) (len : Nat) (fields allowed : Prop) [Decidable fields] [Decidable allowed] (act : Dev) : Dev :=
  if mbLen d.reg.mb ≠ len ∨ ¬fields then regRespond d 2 [] else if ¬allowed then regRespond d 3 []
  else if d.reg.write ≠ none ∨ d.reg.sag ≠ none then regRespond d 5 [] else act

section
variable {d : Dev} {len : Nat} {P Q : Prop} [Decidable P] [Decidable Q] {a b : Dev}

/-- A request that passes every check is served. -/
theorem gatedAnswer_served (hlen : mbLen d.reg.mb = len) (hP : P) (hQ : Q) (hw : d.reg.write = none) (hs : d.reg.sag = none) :
    gatedAnswer d len P Q a = a := by simp [gatedAnswer, hlen, hP, hQ, hw, hs]
/-- What a command does matters only to a request that passes every check. -/
theorem gatedAnswer_congr (h : mbLen d.reg.mb = len → P → Q → d.reg.write = none → d.reg.sag = none → a = b) :
    gatedAnswer d len P Q a = gatedAnswer d len P Q b := by
  unfold gatedAnswer
  split
  · rfl
  · next hfields =>
    split
    · rfl
    · next hQ =>
      split
      · rfl
      · next hfree =>
        simp only [not_or, not_not] at hfields hQ hfree
        exact h hfields.1 hfields.2 hQ hfree.1 hfree.2
/-- The gate of the mailbox answers as R551 says. -/
theorem regGate_answer {fields needsFw allowed : Bool} (hP : fields = true ↔ P) (hQ : ((needsFw && !d.reg.fw) || !allowed) = false ↔ Q) :
    (if regGate d len fields needsFw allowed != 0 then regRespond d (regGate d len fields needsFw allowed) [] else a) =
      gatedAnswer d len P Q a := by
  have hQ' : ((needsFw && !d.reg.fw) || !allowed) = true ↔ ¬Q := by rw [← hQ, Bool.not_eq_false]
  have hlen : (mbLen d.reg.mb != len || !fields) = true ↔ mbLen d.reg.mb ≠ len ∨ ¬P := by simp [← hP]
  have hbusy : (d.reg.write.isSome || d.reg.sag.isSome) = true ↔ d.reg.write ≠ none ∨ d.reg.sag ≠ none := by
    simp [Option.isSome_iff_ne_none]
  unfold gatedAnswer regGate
  simp only [hlen, hQ', hbusy]
  split
  · rfl
  · split
    · rfl
    · split <;> rfl

end

/-! ### INFO, LOG_READ, TOPO_READ, SETTINGS_READ, WATCHDOG and the reserved commands (R550) -/

section
variable {d : Dev}

/-- A row of a command that is not asked changes nothing. -/
theorem notAsked {k : Nat} (h : regAsked d k = false) (a : Dev) : (if !regAsked d k then d else a) = d := if_pos (by simp [h])
theorem asked {k : Nat} (h : regAsked d k = true) (a : Dev) : (if !regAsked d k then d else a) = a := if_neg (by simp [h])

theorem infoAt_asked (h : regAsked d 1 = true) : infoAt d = gatedAnswer d 0 True True (regRespond d 0
    (if d.reg.fw then leBytes 4 (compVersion d 2) ++ leBytes 4 d.reg.wdPeriod.toNat else List.replicate 8 0)) :=
  (asked h _).trans (regGate_answer (by simp) (by simp))
theorem logReadAt_asked (h : regAsked d 3 = true) :
    let n := mbField d.reg.mb 4 2
    let es := logFrom d (BitVec.ofNat 32 (mbField d.reg.mb 0 4)) n
    logReadAt d = gatedAnswer d 6 (1 ≤ n ∧ n ≤ 127) True
      (regRespond d 0 (leBytes 4 (oldestSeq d).toNat ++ leBytes 4 es.length ++ es.flatMap logBytes)) :=
  (asked h _).trans (regGate_answer (by simp) (by simp))
theorem topoReadAt_asked (h : regAsked d 4 = true) :
    let n := mbField d.reg.mb 4 2
    topoReadAt d = gatedAnswer d 6 (1 ≤ n ∧ n ≤ 4064) (d.reg.fw = true ∧ d.fab.rc = .complete)
      (regRespond d 0 ((d.fab.record.drop (mbField d.reg.mb 0 4)).take n)) :=
  (asked h _).trans (regGate_answer (by simp) (by simp))
theorem settingsReadAt_asked (h : regAsked d 7 = true) :
    settingsReadAt d = gatedAnswer d 0 True (d.reg.fw = true) (regRespond d 0 (settingsBody d)) :=
  (asked h _).trans (regGate_answer (by simp) (by simp))
theorem watchdogSetAt_asked (h : regAsked d 10 = true) :
    let ms := mbField d.reg.mb 0 4
    watchdogSetAt d = gatedAnswer d 4 (10 ≤ ms ∧ ms ≤ 60000) (d.reg.fw = true)
      (regRespond { d with reg := { d.reg with wdPeriod := BitVec.ofNat 32 ms } } 0 []) :=
  (asked h _).trans (regGate_answer (by simp) (by simp))
theorem regReservedAt_asked (h : regAsked d (mbCmd d.reg.mb) = true) (hc : mbCmd d.reg.mb = 0 ∨ 0xB ≤ mbCmd d.reg.mb) :
    regReservedAt d = regRespond d 1 [] := if_pos (by simpa [h] using hc)

/-! ### PACE_REQ (R411) -/

/-- The policy firmware writes the target with a code of its choice. -/
def targetWritten (d : Dev) : Dev := writeTgt (draw d) (Config.freeNat d.freeCtr 0 % 256)
/-- What the policy firmware does with a request for a pace: it refuses, or it writes the target. -/
def paceDecided (d : Dev) : Dev :=
  if Config.freeBit d.freeCtr 0 then regRespond (draw d) 4 []
  else regRespond (targetWritten d) 0 (by1 (targetWritten d).pace.tgt.toNat)
theorem paceReqAt_asked (h : regAsked d 5 = true) :
    let code := mbField d.reg.mb 0 1
    paceReqAt d = gatedAnswer d 1 (0x28 ≤ code ∧ code ≤ 0xA0) (d.reg.fw = true) (paceDecided d) :=
  (asked h _).trans (regGate_answer (by simp [paceCodeOk]) (by simp))

theorem epochBegin_tgt (n : Nat) : (epochBegin d n).pace.tgt = d.pace.tgt := by
  unfold epochBegin
  dsimp only
  split
  · rfl
  · obtain ⟨-, -, hpace, -⟩ := announce_effect (d := epochOpened d) (n := BitVec.ofNat 8 n)
    have htgt := congrArg Pacing.tgt hpace
    exact htgt
theorem paceChanged_tgt : (paceChanged d).pace.tgt = d.pace.tgt := by
  unfold paceChanged
  split
  · split
    · exact epochBegin_tgt _
    · rfl
  · rfl

theorem by1_toNat (c : Byte) : by1 c.toNat = [c] := by simp [by1, leBytes]

/-- A write of PACE_TGT ends the block of upward epochs, and takes a code that R410 defines. -/
def targetOpen (d : Dev) (c : Byte) : Dev := { draw d with pace := { d.pace with tgt := c, upBlocked := false } }

theorem writeTgt_defined {c : Byte} (h : 0x28 ≤ c.toNat ∧ c.toNat ≤ 0xA0) : writeTgt (draw d) c.toNat = paceChanged (targetOpen d c) := by
  rw [writeTgt, if_pos (by simpa [paceCodeOk] using h), BitVec.ofNat_toNat, BitVec.setWidth_eq]
  rfl
theorem writeTgt_reserved {c : Byte} (h : c.toNat < 0x28 ∨ 0xA0 < c.toNat) :
    writeTgt (draw d) c.toNat = logEvent (targetOpen d d.pace.tgt) 0x0301 0x102 0xFFFF [c] := by
  rw [writeTgt, if_neg (by simp [paceCodeOk]; omega), by1_toNat]
  rfl

/-- The firmware refuses; or the target is the code that it chooses, unless that code is reserved (R410). -/
theorem paceDecided_cases (d : Dev) : paceDecided d = regRespond (draw d) 4 [] ∨ ∃ c : Byte,
    (0x28 ≤ c.toNat ∧ c.toNat ≤ 0xA0 ∧ (paceChanged (targetOpen d c)).pace.tgt = c ∧
      paceDecided d = regRespond (paceChanged (targetOpen d c)) 0 [c]) ∨
    ((c.toNat < 0x28 ∨ 0xA0 < c.toNat) ∧
      paceDecided d = regRespond (logEvent (targetOpen d d.pace.tgt) 0x0301 0x102 0xFFFF [c]) 0 [d.pace.tgt]) := by
  obtain ⟨c, hc⟩ : ∃ c : Byte, c.toNat = Config.freeNat d.freeCtr 0 % 256 := ⟨BitVec.ofNat 8 (Config.freeNat d.freeCtr 0), by simp⟩
  unfold paceDecided targetWritten
  rw [← hc]
  split
  · exact .inl rfl
  · refine .inr ⟨c, ?_⟩
    by_cases hok : 0x28 ≤ c.toNat ∧ c.toNat ≤ 0xA0
    · have htgt : (paceChanged (targetOpen d c)).pace.tgt = c := paceChanged_tgt
      refine .inl ⟨hok.1, hok.2, htgt, ?_⟩
      rw [writeTgt_defined hok, htgt, by1_toNat]
    · have hno : c.toNat < 0x28 ∨ 0xA0 < c.toNat := by omega
      refine .inr ⟨hno, ?_⟩
      rw [writeTgt_reserved hno, logEvent_pace, by1_toNat]
      rfl

/-! ### POWER_STATE (R524, R525) -/

/-- What a request for a power state does, by the state that the device is in. -/
def powerReached (d : Dev) (want : Nat) : Dev :=
  match d.rp.pwr with
  | .on => if want = 0 then regRespond d 0 [0] else if d.pace.busy then d
    else if want = 1 then regRespond (enterPower d .park) 0 [1] else regRespond (enterPower d .sleep) 0 [2]
  | .park => if want = 0 then regRespond (enterPower d .on) 0 [0] else if want = 1 then regRespond d 0 [1]
    else regRespond (enterPower d .sleep) 0 [2]
  | .sleep => if want = 2 then regRespond d 0 [2] else regRespond (wakeUp d) 0 [0]
  | .standby => regRespond d 0 [3]

theorem powerStateAt_asked (h : regAsked d 6 = true) :
    let want := mbField d.reg.mb 0 1
    powerStateAt d = gatedAnswer d 1 (want ≤ 2) (d.reg.fw = true ∧ powerAllowed d = true) (powerReached d want) := by
  refine (asked h _).trans ((regGate_answer (P := mbField d.reg.mb 0 1 ≤ 2) (by simp) (by simp)).trans
    (gatedAnswer_congr fun _ hw _ _ _ => ?_))
  generalize mbField d.reg.mb 0 1 = want at hw ⊢
  unfold powerReached
  cases hp : d.rp.pwr
  all_goals
    simp only [hp]
    obtain rfl | rfl | rfl : want = 0 ∨ want = 1 ∨ want = 2 := by omega
    all_goals rfl

end

/-- Settles O56: each command by the gate of R551 and what it then does, and the device that wakes by the resets of its cores. -/
theorem registrarCommands : Obligations.RegistrarCommands := by
  intro s
  refine ⟨fun h => congrArg (goes s) (infoAt_asked h), fun h => congrArg (goes s) (logReadAt_asked h),
    fun h => congrArg (goes s) (topoReadAt_asked h), fun h => ?pace, fun h => congrArg (goes s) (settingsReadAt_asked h),
    fun h => congrArg (goes s) (watchdogSetAt_asked h), fun h hc => congrArg (goes s) (regReservedAt_asked h hc),
    fun h => congrArg (goes s) (powerStateAt_asked h),
    fun e => ⟨rfl, rfl, rfl, rfl, fun v hv => coreOf_coresReset e hv, hbmOf_wakeUp e, pacerOf_wakeUp e⟩, ?notAsked⟩
  case pace =>
    refine ⟨fun hno => congrArg (goes s) ((paceReqAt_asked h).trans (gatedAnswer_congr fun hlen hcode hfw hw hs =>
      absurd ⟨hlen, hcode.1, hcode.2, hfw, hw, hs⟩ hno)), ?_⟩
    rintro ⟨hlen, hlo, hhi, hfw, hw, hs⟩
    exact ⟨paceDecided s.dev, congrArg (goes s) ((paceReqAt_asked h).trans (gatedAnswer_served hlen ⟨hlo, hhi⟩ hfw hw hs)),
      paceDecided_cases s.dev⟩
  case notAsked =>
    intro x hx h
    simp only [List.mem_cons, List.not_mem_nil, or_false] at hx
    rcases hx with rfl | rfl | rfl | rfl | rfl | rfl | rfl
    all_goals exact congrArg (goes s) (notAsked h _)

end Sys2Proof.Machine
end

section
/-!
The release order (R408, R424, R425, R455, R475, R479, R497, R512 to R517).
-/
namespace Sys2Proof.Machine
open Sys2Proof.Safety

/-! ### The strap and the trim (R515, R516) -/

/-- Eight equal samples are a group that agrees. -/
theorem strapMeasure_first {mv : List Nat} {x : Nat} (h : ∀ i, i < 8 → mv[i]? = some x) (n : Nat) :
    strapMeasure (n + 1) mv = min 15 (x / 100) := by
  have hgroup : mv.take 8 = List.replicate 8 x := by
    refine List.ext_getElem? fun i => ?_
    by_cases hi : i < 8
    · rw [List.getElem?_take_of_lt hi, h i hi, List.getElem?_replicate_of_lt hi]
    · simp [hi]
  rw [strapMeasure, hgroup]
  exact if_pos (by simp [List.replicate])

/-- The host interface after a source has fired (R452). -/
def hostSignalled (h : HostIf) (vec : Nat) : HostIf :=
  if h.msixEn && (h.msixAll || bit h.msixMask.toNat vec) then { h with msixPend := h.msixPend ||| BitVec.ofNat 16 (2 ^ vec) } else h
theorem signal_host (d : Dev) (vec : Nat) : (signal d vec).host = hostSignalled d.host vec := by
  cases hen : d.host.msixEn
  · simp [signal, hostSignalled, hen]
  · cases hmask : d.host.msixAll || bit d.host.msixMask.toNat vec <;> simp [signal, hostSignalled, hen, hmask]

section
variable (d : Dev)

/-- The settings body in force is taken from the flash. -/
def settingsTaken : Dev := { d with rp := { d.rp with settings := settingsBody d } }
/-- Every port takes its setting. -/
def portsSet : NMap FabPort :=
  (List.range 12).foldl (fun m p => mapPut m p (portSetting (settingsTaken d) p (mapGet {} m p))) d.fab.ports
/-- The trim is loaded, and with it the settings, the serial and the identity of the function. -/
def trimTaken : Dev :=
  let body := settingsBody d
  { d with
    rp := { d.rp with step := 3, turn := 0, trimV := true, trimDef := !(copyInForce d trimRegion).isSome, settings := body }
    host := { d.host with cfg := configOf d body }
    fab := { d.fab with
      ports := portsSet d }
    glb := { d.glb with serial := BitVec.ofNat 64 (flashSerial d) } }

variable {d}

theorem trimLoaded_other {fromFlash : Bool} (h : d.rp.step ≠ 2 ∨ fromFlash ≠ (copyInForce d trimRegion).isSome) :
    trimLoaded d fromFlash = d := if_pos (by simpa using h)
theorem trimLoaded_taken (h : d.rp.step = 2) : trimLoaded d (copyInForce d trimRegion).isSome =
    if (copyInForce d trimRegion).isSome then trimTaken d else logEvent (trimTaken d) 0x0102 0x103 argNone [] :=
  if_neg (by simp [h])

/-- A pass that puts each value of a table through its own `g` does so once. -/
theorem mapGet_foldl_put {α : Type} (x : α) (g : Nat → α → α) (m : NMap α) {n k : Nat} (hk : k < n) :
    mapGet x ((List.range n).foldl (fun m p => mapPut m p (g p (mapGet x m p))) m) k = g k (mapGet x m k) :=
  congrArg Prod.snd (foldl_range_each (e := m) (g := fun m p => (p, mapGet x m p))
    (f := fun m p => mapPut m p (g p (mapGet x m p))) (u := fun y => (y.1, g y.1 y.2))
    (fun m p _ => by simp) (fun m p q hq => by simp [mapGet_mapPut_other _ _ _ _ _ hq]) hk)
/-- A setting takes the settings body and the strap alone of the reset registers. -/
theorem portSetting_of_settings {e : Dev} (hs : e.rp.settings = d.rp.settings) (hc : e.rp.strap = d.rp.strap) (p : Nat) (q : FabPort) :
    portSetting e p q = portSetting d p q := by
  unfold portSetting
  rw [hs, hc]
/-- Each port takes its setting once. -/
theorem fabPort_trimTaken {p : Nat} (hp : p < 12) :
    fabPort (trimTaken d) p = portSetting { d with rp := (trimTaken d).rp } p (fabPort d p) := by
  have hports : (trimTaken d).fab.ports = portsSet d := by rw [trimTaken]
  rw [fabPort, hports, portsSet, mapGet_foldl_put _ _ _ hp]
  exact portSetting_of_settings rfl rfl p _

/-- What the load leaves where no event is logged, and an event changes of that the log and the pending vectors alone. -/
theorem trimLoaded_effect (h : d.rp.step = 2) : let valid := (copyInForce d trimRegion).isSome
    let noted := if valid then d else logEvent d 0x0102 0x103 0xFFFF []
    let t := trimLoaded d valid
    t.reg = noted.reg ∧ t.host = { noted.host with cfg := configOf d (settingsBody d) } ∧ t.rp = (trimTaken d).rp ∧
      t.glb = (trimTaken d).glb ∧ t.mem = d.mem ∧ t.pace = d.pace ∧ ∀ p, p < 12 → fabPort t p = fabPort (trimTaken d) p := by
  simp only [trimLoaded_taken h]
  cases (copyInForce d trimRegion).isSome
  · refine ⟨?_, ?_, logEvent_rp .., logEvent_glb .., logEvent_mem .., logEvent_pace .., fun p _ => by simp [fabPort]⟩
    · simp only [Bool.false_eq_true, if_false, logEvent, signal_reg]
      rfl
    · simp only [Bool.false_eq_true, if_false, logEvent, signal_host, hostSignalled, trimTaken]
      split <;> rfl
  · exact ⟨rfl, rfl, rfl, rfl, rfl, rfl, fun _ _ => rfl⟩

end

/-! ### The identity key (R479) -/

theorem drbgNat_lt {n k : Nat} (hk : k = 8 * n) (g : Drbg) : (drbgNat g n).1 < 2 ^ k := by
  have hlen : (drbgTake g n).1.reverse.length ≤ n := by simp [drbgTake]
  calc (drbgNat g n).1 < 256 ^ (drbgTake g n).1.reverse.length := leNat_lt _
    _ ≤ 256 ^ n := Nat.pow_le_pow_right (by decide) hlen
    _ = 2 ^ k := by rw [hk, Nat.pow_mul]
theorem or_one_lt {r k : Nat} (hk : k ≠ 0) (h : r < 2 ^ k) : r ||| 1 < 2 ^ k := Nat.or_lt_two_pow h (Nat.one_lt_two_pow hk)

/-- A prime that is found has at most 1,536 bits, and its square at least 3,072. -/
theorem findPrime_size {other p fuel : Nat} {g g' : Drbg} (h : findPrime other fuel g = (some p, g')) :
    p < 2 ^ 1536 ∧ 2 ^ 3071 ≤ p * p := by
  induction fuel generalizing g with
  | zero => nomatch h
  | succ fuel ih =>
    unfold findPrime at h
    dsimp only at h
    split at h
    · exact ih h
    · next hgood =>
      split at h
      · obtain rfl : (drbgNat g 192).1 ||| 1 = p := Option.some.inj (congrArg Prod.fst h)
        refine ⟨or_one_lt (k := 1536) (by decide) (drbgNat_lt (k := 1536) rfl g), ?_⟩
        simp only [Bool.or_eq_true, decide_eq_true_eq, not_or, Nat.not_lt] at hgood
        obtain ⟨⟨hsquare, -⟩, -⟩ := hgood
        exact hsquare
      · exact ih h

/-- A product of two k-bit numbers whose squares have 2k bits has 2k bits. -/
theorem bitLen_mul {a b k n : Nat} (hn : n + 1 = k + k) (ha : a < 2 ^ k) (hb : b < 2 ^ k) (haa : 2 ^ n ≤ a * a) (hbb : 2 ^ n ≤ b * b) :
    bitLen (a * b) = n + 1 := by
  refine bitLen_of_top_bit (Nat.mul_self_le_mul_self_iff.mp ?_) ?_
  · calc 2 ^ n * 2 ^ n ≤ a * a * (b * b) := Nat.mul_le_mul haa hbb
      _ = a * b * (a * b) := Nat.mul_mul_mul_comm a a b b
  · rw [hn, Nat.pow_add]
    exact Nat.mul_lt_mul'' ha hb

/-- The modulus of a key that is made has 3,072 bits. -/
theorem bitLen_makeKey {g : Drbg} {m e : Nat} (h : (makeKey g).1 = some (m, e)) : bitLen m = 3072 := by
  unfold makeKey at h
  split at h
  · next p g1 hp =>
    split at h
    · next q g2 hq =>
      obtain ⟨rfl, -⟩ := Prod.mk.inj (Option.some.inj h)
      obtain ⟨hplt, hpsq⟩ := findPrime_size hp
      obtain ⟨hqlt, hqsq⟩ := findPrime_size hq
      exact bitLen_mul (k := 1536) (n := 3071) rfl hplt hqlt hpsq hqsq
    · nomatch h
  · nomatch h

/-! ### The Prefect (R455, R475, R479, R496, R497) -/

section
variable {d : Dev}

theorem copyStopRound_rp (why : CopyLast) : (copyStopRound d why).rp = d.rp := by
  unfold copyStopRound
  split <;> simp
theorem detainDevice_rp (cause : Nat) : (detainDevice d cause).rp = d.rp := by
  by_cases h : d.det.device = true
  · rw [detainDevice_again cause h]
  · have hstop : (coresDetained d cause).rp = d.rp :=
      foldl_keeps _ Dev.rp (fun e v => by split <;> [rfl; exact (detainStop_workEnds (.refl e)).rp]) _ _
    have hjobs : (deviceStopped d cause).rp = (copyStopRound (coresDetained d cause) .aborted).rp :=
      foldl_keeps _ Dev.rp (fun e k => modCtx_rp e k _) _ _
    rw [detainDevice_enters cause (Bool.eq_false_iff.mpr h), signal_rp, logEvent_rp, hjobs, copyStopRound_rp, hstop]
theorem prefectError_rp : (prefectError d).rp = d.rp := by
  have hdetained : ∀ e : Dev, (if e.host.syll then detainDevice e 5 else e).rp = e.rp := fun e => by
    rw [apply_ite Dev.rp, detainDevice_rp, ite_self]
  exact (hdetained _).trans (logEvent_rp ..)

theorem toStep_of_rp {e : Dev} (h : e.rp = d.rp) (step turn : Nat) :
    toStep e step turn = { e with rp := { d.rp with step := step, turn := turn } } := by rw [toStep, h]

/-- The Primer takes the boot source of the strap. -/
def primerStarted (d : Dev) : Dev :=
  let src := strapSource d.rp.strap.toNat
  { d with prefect := { d.prefect with
    source := src, boot := if src = .recovery then .recWaiting else .waiting, recCause := if src = .recovery then 1 else 0 } }
theorem releasePrefect_passes : releasePrefect d true = toStep (identityKey (primerStarted d)) 4 0 := by
  simp [releasePrefect, primerStarted]
theorem releasePrefect_fails : releasePrefect d false = { prefectError d with rp := { d.rp with step := 4, turn := 0 } } :=
  toStep_of_rp prefectError_rp 4 0

theorem identityKey_kept (h : lifeCycle d.fuses ≠ 0 ∨ d.fuses.idMod ≠ 0) : identityKey d = d := if_pos (by simpa using h)
/-- A request readies the generator alone. -/
theorem drbgReady_rest : (drbgReady d).rp = d.rp ∧ (drbgReady d).fuses = d.fuses ∧
    (drbgReady d).prefect.source = d.prefect.source ∧ (drbgReady d).prefect.boot = d.prefect.boot := by
  unfold drbgReady
  dsimp only
  split <;> exact ⟨rfl, rfl, rfl, rfl⟩
/-- In BLANK a key of 3,072 bits is generated, where primes are found for it. -/
theorem identityKey_made (hl : lifeCycle d.fuses = 0) (hm : d.fuses.idMod = 0) : let t := identityKey d
    t.rp = d.rp ∧ t.prefect.source = d.prefect.source ∧ t.prefect.boot = d.prefect.boot ∧
      t.fuses = { d.fuses with idMod := t.fuses.idMod, idExp := t.fuses.idExp } ∧ (t.fuses.idMod ≠ 0 → bitLen t.fuses.idMod = 3072) := by
  obtain ⟨hrp, hfuses, hsource, hboot⟩ := drbgReady_rest (d := d)
  simp only [identityKey, hl, hm, bne_self_eq_false, Bool.or_self, Bool.false_eq_true, if_false]
  refine ⟨hrp, hsource, hboot, by rw [hfuses], fun hne => ?_⟩
  cases hmade : (makeKey (drbgReady d).prefect.drbg).1 with
  | none => simp [hmade] at hne
  | some key => exact bitLen_makeKey (e := key.2) hmade

end

/-! ### Regions that are started and released (R408, R424, R425, R513) -/

section
variable {d : Dev} {rs : List Nat} {cs : List Crossing}

theorem startPacers_rp : (startPacers d rs).rp = d.rp := (draw_rp _).trans (foldl_keeps _ Dev.rp (fun e r => modPacer_rp e r _) rs d)
/-- Each pacer in reset starts, and another is left. -/
theorem pacerOf_startPacers (q : Nat) : pacerOf (startPacers d rs) q = if q ∈ rs ∧ (pacerOf d q).state = .inReset then
    { pacerOf d q with state := .trimming, inBand := 0, released := false, delay := freeWord d 10 q } else pacerOf d q := by
  rw [ite_and]
  refine pacerOf_foldl (u := fun r p => if p.state = .inReset then
    { p with state := .trimming, inBand := 0, released := false, delay := freeWord d 10 r } else p)
    (fun e r => pacerOf_modPacer_same e r _) (fun e r q => pacerOf_modPacer_other e r q _) (fun r p => ?_) rs d q
  by_cases h : p.state = .inReset <;> simp [h]

theorem calibrate_rp : (calibrate d rs cs).rp = d.rp := by
  refine foldl_keeps _ Dev.rp (fun e c => ?_) cs d
  split
  · rfl
  · split
    · rfl
    · simp only [logEvent_rp, apply_ite Dev.rp, modPacer_rp, ite_self]
theorem releaseGroup_rp : (releaseGroup d rs cs).rp = d.rp := by
  refine Eq.trans (foldl_keeps _ Dev.rp (fun e r => ?_) rs _) calibrate_rp
  split
  · rfl
  · exact logEvent_rp ..
/-- Without crossings each stable pacer is released, and another is left. -/
theorem pacerOf_releaseGroup (q : Nat) : pacerOf (releaseGroup d rs []) q =
    if q ∈ rs ∧ (pacerOf d q).state = .stable then { pacerOf d q with released := true } else pacerOf d q := by
  rw [ite_and]
  refine pacerOf_foldl (u := fun _ p => if p.state = .stable then { p with released := true } else p)
    (fun e r => ?_) (fun e r q hq => ?_) (fun r p => ?_) rs d q
  · split
    · rw [pacerOf_modPacer_same]
    · rw [pacerOf, logEvent_pace]; rfl
  · split
    · exact pacerOf_modPacer_other e r q _ hq
    · rw [pacerOf, logEvent_pace]; rfl
  · by_cases h : p.state = .stable <;> simp [h]
theorem releaseGroup_failed {q : Nat} (h : (pacerOf d q).state = .failed) :
    releaseGroup d [q] [] = logEvent d 0x0104 0x103 0xFFFF (leBytes 1 q) := by simp [releaseGroup, calibrate, h, argNone, by1]

/-- A crossing between two stable regions has its tokens counted, or marks both failed where it lies out of its bounds. -/
theorem calibrate_stable {c : Crossing} (hc : c.a ∈ rs) (ha : c.a < 236) (hb : c.b < 236) (has : (pacerOf d c.a).state = .stable)
    (hbs : (pacerOf d c.b).state = .stable) :
    let count := (c.trip + 624) / 625 + 2
    let bad := fun (p : Pacer) => { p with state := .failed, released := false }
    calibrate d rs [c] = if c.fwd ≤ 500 * crossBeats c.kind ∧ count ≤ 16 then
        { d with pace := { d.pace with tokens := ((c.a, c.b), count) :: d.pace.tokens.filter (fun t => t.1 != (c.a, c.b)) } }
      else logEvent (modPacer (modPacer d c.a bad) c.b bad) 0x0304 0x102 0xFFFF (leBytes 1 c.a ++ leBytes 1 c.b) := by
  have hgood : crossGood c = true ↔ c.fwd ≤ 500 * crossBeats c.kind ∧ (c.trip + 624) / 625 + 2 ≤ 16 := by
    simp [crossGood, crossTokens, cdiv]
  simp only [calibrate, List.foldl_cons, List.foldl_nil, sideReady, has, hbs, hgood, ha, hb, if_true]
  refine (if_neg (by simp [hc])).trans ?_
  split <;> rfl

end

/-! ### The steps (R512 to R517) -/

section
variable {d : Dev} {mv : List Nat} {pass : Bool} {cs : List Crossing}

theorem releaseStepAt_one (h : d.rp.step = 1) :
    releaseStepAt d mv pass cs = if d.rp.vauxOk && !d.rp.resetInLow then releaseAux d mv else d := by simp only [releaseStepAt, h]
theorem releaseStepAt_three (h : d.rp.step = 3) :
    releaseStepAt d mv pass cs = if d.rp.trimV then releasePrefect d pass else d := by simp only [releaseStepAt, h]
theorem releaseStepAt_five (h : d.rp.step = 5) : releaseStepAt d mv pass cs =
    if d.rp.vinGood && !d.rp.perstLow && !d.rp.resetInLow && !d.rp.thold && !d.rp.switchOpen then releaseNorth d else d := by
  simp only [releaseStepAt, h]
theorem releaseStepAt_seven (h : d.rp.step = 7) : releaseStepAt d mv pass cs = releaseHbm d cs := by simp only [releaseStepAt, h]
theorem releaseStepAt_die {die sub : Nat} (h : (d.rp.step = 8 ∧ die = 0 ∧ sub = d.rp.turn) ∨
    (d.rp.step = 9 ∧ die = 1 + d.rp.turn / 8 ∧ sub = d.rp.turn % 8)) : releaseStepAt d mv pass cs = releaseDie d die sub cs := by
  obtain ⟨hstep, rfl, rfl⟩ | ⟨hstep, rfl, rfl⟩ := h <;> simp only [releaseStepAt, hstep]
/-- The release has no step of its own at the trim load, nor once it is done. -/
theorem releaseStepAt_none (h : d.rp.step = 2 ∨ d.rp.step = 0 ∨ 11 ≤ d.rp.step) : releaseStepAt d mv pass cs = d := by
  obtain h | h | h := h
  · simp only [releaseStepAt, h]
  · simp only [releaseStepAt, h]
  · obtain ⟨k, hk⟩ := Nat.exists_eq_add_of_le' h
    simp only [releaseStepAt, hk]

/-- The link of the host trains at a rate and a width that its protocol has. -/
theorem releaseNorth_link : 4 ≤ (releaseNorth d).host.rate.toNat ∧ (releaseNorth d).host.rate.toNat ≤ 6 ∧
    (releaseNorth d).host.width.toNat ∈ [1, 2, 4, 8, 16] := by
  have hrate : (releaseNorth d).host.rate.toNat = 4 + Config.freeNat d.freeCtr 0 % 3 :=
    (BitVec.toNat_ofNat _ 3).trans (Nat.mod_eq_of_lt (by omega))
  have hwidth : ∀ i, i < 5 → (BitVec.ofNat 5 ([1, 2, 4, 8, 16].getD i 16)).toNat ∈ [1, 2, 4, 8, 16] := by decide
  exact ⟨by omega, by omega, hwidth _ (Nat.mod_lt _ (by decide))⟩

/-! A turn of step 7. -/

theorem releaseHbm_starts (h : (pacerOf d (224 + d.rp.turn)).state = .inReset) :
    releaseHbm d cs = startPacers d [224 + d.rp.turn] := by simp only [releaseHbm, h]
theorem releaseHbm_waits (h : (pacerOf d (224 + d.rp.turn)).state = .trimming) : releaseHbm d cs = d := by simp only [releaseHbm, h]
theorem releaseHbm_ends (hstep : d.rp.step = 7)
    (h : (pacerOf d (224 + d.rp.turn)).state = .stable ∨ (pacerOf d (224 + d.rp.turn)).state = .failed) :
    releaseHbm d cs = { releaseGroup d [224 + d.rp.turn] cs with
      rp := if d.rp.turn < 11 then { d.rp with turn := d.rp.turn + 1 } else { d.rp with step := 8, turn := 0 } } := by
  have hgroup : releaseHbm d cs = toStep (releaseGroup d [224 + d.rp.turn] cs) (if d.rp.turn < 11 then 7 else 8)
      (if d.rp.turn < 11 then d.rp.turn + 1 else 0) := by
    rcases h with h | h <;> simp only [releaseHbm, h]
  rw [hgroup, toStep_of_rp releaseGroup_rp, ← hstep]
  split <;> rfl

/-! A turn of steps 8 and 9. -/

variable {die sub : Nat}

theorem releaseDie_rails : releaseDie d die 0 cs = { startPacers d (dieRegions die) with rp := { d.rp with turn := d.rp.turn + 1 } } :=
  toStep_of_rp startPacers_rp _ _
theorem releaseDie_waits (hsub : 0 < sub) (h : groupReady d (rowRegions die (sub - 1)) = false) : releaseDie d die sub cs = d :=
  (if_neg (Nat.ne_of_gt hsub)).trans (if_pos (by simp [h]))
theorem releaseDie_row (hsub : 0 < sub) (h : groupReady d (rowRegions die (sub - 1)) = true) :
    releaseDie d die sub cs = { releaseGroup d (rowRegions die (sub - 1)) cs with
      rp := if d.rp.step = 8 ∧ sub = 7 then { d.rp with step := 9, turn := 0 }
        else if d.rp.step = 9 ∧ d.rp.turn = 23 then { d.rp with step := 10, turn := 0 } else { d.rp with turn := d.rp.turn + 1 } } := by
  refine (if_neg (Nat.ne_of_gt hsub)).trans ((if_neg (by simp [h])).trans ?_)
  simp only [toStep_of_rp releaseGroup_rp, releaseGroup_rp, Bool.and_eq_true, decide_eq_true_eq]
  split
  · rfl
  · split <;> rfl

end

/-- Settles O54: the steps by what each releases, in the order of R512. -/
theorem releaseOrder : Obligations.ReleaseOrder := by
  intro s mv pass cs
  have hrun : ∀ {e}, releaseStepAt s.dev mv pass cs = e → exec (.releaseStep mv pass cs) s = goes s e := congrArg (goes s)
  have hload : ∀ {valid e}, trimLoaded s.dev valid = e → exec (.trimLoadDone valid) s = goes s e := congrArg (goes s)
  refine ⟨fun h hv hr => hrun ?aux, fun h hno => hrun ?auxWaits, fun x hx => strapMeasure_first hx 16, fun h => ?trim,
    fun h valid => hload (trimLoaded_other (.inl h)), fun h => ?prefect, fun h => hrun ?registrar, fun h => ?north, fun h => hrun ?south,
    fun h => ?hbm, fun die sub h => ?die, fun h => hrun ?done, fun h => hrun (releaseStepAt_none (.inr h)),
    fun e rs q => pacerOf_startPacers q, fun e rs q => pacerOf_releaseGroup q, fun e q => releaseGroup_failed,
    fun e rs c => calibrate_stable⟩
  case aux => exact (releaseStepAt_one h).trans (if_pos (by simp [hv, hr]))
  case auxWaits => exact (releaseStepAt_one h).trans (if_neg (by rcases hno with hno | hno <;> simp [hno]))
  case trim =>
    obtain ⟨hreg, hhost, hrp, hglb, hmem, hpace, hports⟩ := trimLoaded_effect h
    refine ⟨hrun (releaseStepAt_none (.inl h)), hload (trimLoaded_other (.inr (Bool.not_ne_self _))),
      ⟨_, rfl, hreg, hhost, hrp, hglb, hmem, hpace, fun p hp => ?_⟩⟩
    rw [hports p hp, hrp]
    exact fabPort_trimTaken hp
  case prefect =>
    refine ⟨fun ht => hrun ((releaseStepAt_three h).trans (if_neg (by simp [ht]))), fun ht => ?_⟩
    have hrelease := (releaseStepAt_three (mv := mv) (pass := pass) (cs := cs) h).trans (if_pos ht)
    refine ⟨?fails, ?kept, ?made⟩
    case fails =>
      rintro rfl
      exact hrun (hrelease.trans releasePrefect_fails)
    case kept =>
      rintro rfl hkey
      refine hrun (hrelease.trans (releasePrefect_passes.trans ?_))
      rw [identityKey_kept (d := primerStarted s.dev) hkey]
      rfl
    case made =>
      rintro rfl hl hm
      obtain ⟨hrp, hsource, hboot, hfuses, hbits⟩ := identityKey_made (d := primerStarted s.dev) hl hm
      refine ⟨_, hrun (hrelease.trans (releasePrefect_passes.trans (toStep_of_rp hrp 4 0))), rfl, hsource, hboot, hfuses, hbits⟩
  case registrar => simp only [releaseStepAt, h]; rfl
  case north =>
    refine ⟨fun hvin hperst hreset hhold hopen => ⟨releaseNorth s.dev, hrun ?_, rfl, releaseNorth_link⟩, fun hno => hrun ?_⟩
    · exact (releaseStepAt_five h).trans (if_pos (by simp [hvin, hperst, hreset, hhold, hopen]))
    · exact (releaseStepAt_five h).trans (if_neg (by rcases hno with hno | hno | hno | hno | hno <;> simp [hno]))
  case south => simp only [releaseStepAt, h]; rfl
  case hbm =>
    exact ⟨fun hq => hrun ((releaseStepAt_seven h).trans (releaseHbm_starts hq)),
      fun hq => hrun ((releaseStepAt_seven h).trans (releaseHbm_waits hq)),
      fun hq => hrun ((releaseStepAt_seven h).trans (releaseHbm_ends h hq))⟩
  case die =>
    have hdie := releaseStepAt_die (mv := mv) (pass := pass) (cs := cs) h
    refine ⟨fun hz => hrun (hdie.trans ?_), fun hsub => ⟨fun hg => hrun (hdie.trans (releaseDie_waits hsub hg)),
      fun hg => hrun (hdie.trans (releaseDie_row hsub hg))⟩⟩
    subst hz
    exact releaseDie_rails
  case done => simp only [releaseStepAt, h]; rfl

end Sys2Proof.Machine
end

section
/-!
The step, and what every command leaves alone (R533, R535).
-/
namespace Sys2Proof.Machine
open Sys2Proof.Safety

/-! ### An empty queue -/

/-- A pass whose steps change nothing changes nothing. -/
theorem foldl_eq_self {α β : Type} {f : α → β → α} {l : List β} {a : α} (h : ∀ b ∈ l, f a b = a) : l.foldl f a = a :=
  List.foldlRecOn (motive := (· = a)) l f rfl fun _ he b hb => he ▸ h b hb

/-- With no message being sent no time passes on the ports. -/
theorem txSettle_none {d : Dev} (h : ∀ p, p < 12 → (fabPort d p).sending = none) : txSettle d = d :=
  foldl_eq_self fun p hp => if_neg (by simp [h p (List.mem_range.mp hp)])

/-- Settles O1: the two cases of a step, and what an empty queue leaves by `txSettle_none`. -/
theorem stepRunsFrontCommand : Obligations.StepRunsFrontCommand := by
  refine ⟨⟨fun s i r h => ?front, fun s i => rfl, fun s nbits w => ⟨rfl, rfl⟩⟩, fun s h => ?idle⟩
  case front => simp only [step, h]
  case idle =>
    have hstep : step s = goes s (txSettle s.dev) := by simp only [step, h, goes]
    exact ⟨hstep, fun hports => hstep.trans (congrArg (goes s) (txSettle_none hports))⟩

/-! ### The frame of a command -/

/-- A stream engine's row changes the device alone. -/
theorem onEngine_ran (s : State) (e : Engine) (f : Dev → Dev) : ∃ d, onEngine s e f = goes s d :=
  (onEngine_cases s e f).elim (fun h => ⟨_, h⟩) fun h => ⟨_, h⟩

/-- Every command but the three that touch the shadow copies changes the device alone. -/
theorem exec_goes {i : Instr} (s : State) (hedge : i ≠ .slowClockEdge) (hidle : i ≠ .blockIdle) (hlate : i ≠ .blockResetTimeout) :
    ∃ d, exec i s = goes s d := by
  cases i with
  | slowClockEdge => exact absurd rfl hedge
  | blockIdle => exact absurd rfl hidle
  | blockResetTimeout => exact absurd rfl hlate
  | copy e | fill e | reduceAdd e | reduceMin e | reduceMax e | topk e | sign e | expandTopk e | expandSign e
    | transferComplete e | hostCompletionTimeout e => exact onEngine_ran s e _
  | _ => exact ⟨_, rfl⟩

/-- The end of a block reset leaves the queue. -/
theorem blockEnds_pending (s : State) (now : BlockReset → Bool) (honoured : Bool) :
    ∃ t, blockEnds s now honoured = .next t ∧ t.pending = s.pending := by
  unfold blockEnds
  split
  · split <;> exact ⟨_, rfl, rfl⟩
  · exact ⟨_, rfl, rfl⟩

/-- Every command ends in a next state and leaves the queue. -/
theorem exec_pending (i : Instr) (s : State) : ∃ t, exec i s = .next t ∧ t.pending = s.pending := by
  by_cases hedge : i = .slowClockEdge
  · exact hedge ▸ ⟨_, rfl, rfl⟩
  by_cases hidle : i = .blockIdle
  · exact hidle ▸ blockEnds_pending s _ true
  by_cases hlate : i = .blockResetTimeout
  · exact hlate ▸ blockEnds_pending s _ false
  obtain ⟨d, h⟩ := exec_goes s hedge hidle hlate
  exact ⟨_, h, rfl⟩

/-- A step takes the front command off the queue. -/
theorem step_pending (s : State) : ∃ t, step s = .next t ∧ t.pending = s.pending.tail := by
  unfold step
  split
  · next h => exact ⟨_, rfl, by simp [h]⟩
  · next i r h =>
    obtain ⟨t, ht, hpending⟩ := exec_pending i { s with pending := r }
    exact ⟨t, ht, by rw [hpending, h, List.tail_cons]⟩

/-- A run goes on from the next state. -/
theorem run_succ {M : Host.Core} {s t : M.State} (h : M.step s = .next t) (n : Nat) : M.run (n + 1) s = M.run n t := by
  rw [Host.Core.run, h]

/-- As many steps as there are commands empty the queue. -/
theorem run_pending (n : Nat) : ∀ s : State, s.pending.length = n → ∃ t, Sys2Proof.core.run n s = .next t ∧ t.pending = [] := by
  induction n with
  | zero => exact fun s h => ⟨s, rfl, List.length_eq_zero_iff.mp h⟩
  | succ n ih =>
    intro s h
    obtain ⟨t, ht, hpending⟩ := step_pending s
    obtain ⟨u, hu, hempty⟩ := ih t (by rw [hpending, List.length_tail, h, Nat.add_sub_cancel])
    exact ⟨u, (run_succ (M := Sys2Proof.core) ht n).trans hu, hempty⟩

/-- Settles O2: the frame of each command by `exec_goes`, and a run by induction on the queue. -/
theorem everyCommandGoesOn : Obligations.EveryCommandGoesOn := by
  refine ⟨fun i s => ?_, fun s => run_pending _ s rfl⟩
  obtain ⟨t, ht, hpending⟩ := exec_pending i s
  refine ⟨t, ht, hpending, fun hedge hidle hlate => ?_⟩
  obtain ⟨d, hd⟩ := exec_goes s hedge hidle hlate
  injection ht.symm.trans hd with h
  rw [h]

end Sys2Proof.Machine
end

section
/-!
What a mailbox response leaves in the buffer (R480, R549).
-/
namespace Sys2Proof.Machine

/-- A buffer filled with a record reads as zero beyond it. -/
theorem mbRead_beyond {m : Mailbox} {bs : List Byte} (h : m.buf = mbFill bs) (n : Nat) :
    mbRead m bs.length n = List.replicate n 0 := by
  refine List.ext_getElem (by simp [mbRead]) fun i hi hj => ?_
  simp only [mbRead, List.getElem_map, List.getElem_range, List.getElem_replicate, h, mapGet_mbFill]
  rw [List.getD_eq_getElem?_getD, List.getElem?_eq_none (by omega), Option.getD_none]

section
variable (m : Mailbox) (status : Nat) (payload : List Byte)

@[simp] theorem mbRead_length (off n : Nat) : (mbRead m off n).length = n := by simp [mbRead]

/-- The fields of a response before its payload: CMD, STATUS, TAG, LEN and six zero bytes. -/
def mbHead : List Byte := mbRead m 0 2 ++ leBytes 2 status ++ mbRead m 4 4 ++ leBytes 2 payload.length ++ zeros 6

theorem mbHead_length : (mbHead m status payload).length = 16 := by simp [mbHead, zeros]
theorem mbRespond_buf : (mbRespond m status payload).buf = mbFill (mbHead m status payload ++ payload) := rfl

/-- A field of the head reads back. -/
theorem mbRead_mbRespond_head {off n : Nat} (h : off + n ≤ 16) :
    mbRead (mbRespond m status payload) off n = ((mbHead m status payload).drop off).take n := by
  have hlen := mbHead_length m status payload
  rw [mbRead_mbFill _ _ _ _ (mbRespond_buf m status payload) (by simp [hlen]; omega),
    List.drop_append_of_le_length (by omega), List.take_append_of_le_length (by simp [hlen]; omega)]
theorem mbRead_mbRespond_payload : mbRead (mbRespond m status payload) 16 payload.length = payload := by
  rw [mbRead_mbFill _ _ _ _ (mbRespond_buf m status payload) (by simp [mbHead_length]), ← mbHead_length m status payload,
    List.drop_left, List.take_length]
theorem mbRead_mbRespond_beyond (n : Nat) : mbRead (mbRespond m status payload) (16 + payload.length) n = List.replicate n 0 := by
  rw [← mbHead_length m status payload, ← List.length_append]
  exact mbRead_beyond (mbRespond_buf m status payload) n

end

/-- Settles O47: each field of the response by its place in the record, and the rest of the buffer by `mbRead_beyond`. -/
theorem mailboxResponses : Obligations.MailboxResponses := by
  intro m status payload
  refine ⟨rfl, rfl, ?_, ?_, ?_, ?_, mbRead_mbRespond_payload m status payload, mbRead_mbRespond_beyond m status payload,
    fun h => if_neg h, fun h => if_pos h, fun off bs h => if_pos h⟩
  all_goals
    rw [mbRead_mbRespond_head _ _ _ (by decide), mbHead]
    simp [List.drop_append, List.drop_eq_nil_of_le]

end Sys2Proof.Machine
end

section
/-!
The doorbell page, the descriptors and the jobs of a context (R433, R436, R439 to R448).
-/
namespace Sys2Proof.Machine
open Sys2Proof.Safety

/-! ### The credit (R440) -/

theorem pendCount_eq_zero_iff {c : Ctx} : pendCount c = 0 ↔ c.tail = c.head := by
  unfold pendCount
  exact ⟨fun h => by bv_omega, fun h => by bv_omega⟩
theorem pendCount_eq_one {c : Ctx} (h : c.tail = c.head + 1) : pendCount c = 1 := by
  unfold pendCount
  bv_omega

/-! ### The doorbell page (R433, R439, R441) -/

section
variable {d : Dev} {k : Nat}

/-- The field at the start of a list is the number of its first bytes. -/
theorem leAt_zero {bs : List Byte} {n : Nat} (h : n ≤ bs.length) : leAt bs 0 n = leNat (bs.take n) := by
  simp [leAt, slice, h]

variable (hk : k < 4) (hs : d.host.d3hot = false)
include hk hs

theorem apertureAt_late {off : Nat} {bs : List Byte} (hact : syllActive d = false) (hbs : bs ≠ []) (hend : off + bs.length ≤ 0x10000) :
    apertureAt d k off bs.length (some bs) = hostRefuse d (0x10000 * k + off) 1 ∧
      apertureAt d k off bs.length none = emit (hostRefuse d (0x10000 * k + off) 1) (.completerAbort (0x10000 * k + off)) := by
  simp [apertureAt, hk, hs, hact, hbs, hend]

variable (hact : syllActive d = true)
include hact

theorem doorbellAt_served (value : Nat) : doorbellAt d k value =
    let c := ctxOf d k
    let tail := BitVec.ofNat 16 value
    if c.en = false then hostRefuse d (0x10000 * k + 0x1000) 0x0A
    else if 16 < (tail - c.head).toNat then hostRefuse d (0x10000 * k + 0x1000) 0x09
    else modCtx d k (fun x => { x with tail := tail }) := by
  simp [doorbellAt, hk, hs, hact]

theorem apertureAt_doorbell {bs : List Byte} (h : bs.length = 4 ∨ bs.length = 8) :
    apertureAt d k 0x1000 bs.length (some bs) = doorbellAt d k (leNat (bs.take 4)) := by
  rw [← leAt_zero (n := 4) (by omega)]
  rcases h with h | h <;> simp [apertureAt, hk, hs, hact, h]
theorem apertureAt_credit : apertureAt d k 0x1004 4 none = emit d (.readData (0x10000 * k + 0x1004) (leBytes 4 (creditOf (ctxOf d k)))) := by
  simp [apertureAt, hk, hs, hact]
theorem apertureAt_slots {off : Nat} {bs : List Byte} (hbs : bs ≠ []) (hend : off + bs.length ≤ 0x400) :
    apertureAt d k off bs.length (some bs) = slotWrite d k off bs ∧
      apertureAt d k off bs.length none = emit d (.readData (0x10000 * k + off) (zeros bs.length)) := by
  have hpage : off + bs.length ≤ 0x10000 := by omega
  simp [apertureAt, hk, hs, hact, hbs, hend, hpage]
theorem apertureAt_bad {off : Nat} {bs : List Byte} (hbs : bs ≠ []) (hend : off + bs.length ≤ 0x10000) (hlo : off < 0x1008)
    (hhi : 0x1000 < off + bs.length) (hbell : off ≠ 0x1000 ∨ (bs.length ≠ 4 ∧ bs.length ≠ 8)) (hcredit : off ≠ 0x1004 ∨ bs.length ≠ 4) :
    apertureAt d k off bs.length (some bs) = badAccess d := by
  have hslot : ¬ off + bs.length ≤ 0x400 := by omega
  have hb : ¬(off = 0x1000 ∧ (bs.length = 4 ∨ bs.length = 8)) := by omega
  have hc : ¬(off = 0x1004 ∧ bs.length = 4) := by omega
  simp [apertureAt, hk, hs, hact, hbs, hend, hlo, hhi, hslot, hb, hc]

end

/-! ### Descriptor slots (R439, R442) -/

/-- A run of bytes put into a table reads back. -/
theorem mapGet_foldl_mapIdx (x : Byte) (m : NMap Byte) (off : Nat) (bs : List Byte) {o : Nat} (hlo : off ≤ o) (hhi : o < off + bs.length) :
    mapGet x ((bs.mapIdx (fun i b => (off + i, b))).foldl (fun m p => mapPut m p.1 p.2) m) o = bs.getD (o - off) x := by
  induction bs using List.reverseRecOn with
  | nil => simp at hhi; omega
  | append_singleton bs b ih =>
    rw [List.mapIdx_concat, List.foldl_append, List.foldl_cons, List.foldl_nil]
    by_cases h : o = off + bs.length
    · subst h
      simp
    · have hin : o < off + bs.length := by simp at hhi; omega
      rw [mapGet_mapPut_other _ _ _ _ _ h, ih hin, List.getD_append _ _ _ _ (by omega)]

/-- Bytes written to slots that no doorbell covers read back. -/
theorem slotWrite_slots {d : Dev} {k off o : Nat} {bs : List Byte} (hlo : off ≤ o) (hhi : o < off + bs.length)
    (hfree : pendCount (ctxOf d k) = 0) : mapGet 0 (ctxOf (slotWrite d k off bs) k).slots o = bs.getD (o - off) 0 := by
  have hslots : (ctxOf (slotWrite d k off bs) k).slots =
      (bs.mapIdx (fun i b => (off + i, b))).foldl (fun m p => mapPut m p.1 p.2) (ctxOf d k).slots := by
    simp only [slotWrite, hfree, Nat.not_lt_zero, decide_false, Bool.false_and, Bool.false_eq_true, if_false]
    exact congrArg Ctx.slots (ctxOf_modCtx_same d k fun x =>
      { x with slots := (bs.mapIdx (fun i b => (off + i, b))).foldl (fun m p => mapPut m p.1 p.2) x.slots })
  rw [hslots, mapGet_foldl_mapIdx 0 _ off bs hlo hhi]

/-! ### DESCRIPTOR_TAKE (R440, R443, R444) -/

section
variable {d : Dev} {k : Nat}

theorem descriptorTakeAt_none (reply : HostReply) (h : (ctxOf d k).en = false ∨ ctxFault d k = true ∨ (ctxOf d k).job ≠ none ∨
    (ctxOf d k).tail = (ctxOf d k).head) : descriptorTakeAt d k reply = d := by
  refine if_pos ?_
  rw [← pendCount_eq_zero_iff] at h
  rcases h with h | h | h | h <;> simp [h, Option.isSome_iff_ne_none]

/-- Descriptor HEAD is taken. -/
def headTaken (d : Dev) (k : Nat) : Dev := modCtx d k (fun x => { x with head := x.head + 1 })

/-- The job of the descriptor at HEAD. -/
def descJob (c : Ctx) : Job :=
  { jobid := BitVec.ofNat 32 (descField c c.head 0 4), vec := BitVec.ofNat 8 (descField c c.head 4 1), seq := c.head,
    cores := BitVec.ofNat 256 (descField c c.head 0x20 32) }
/-- A core starts at its START register, or at the address that the descriptor at HEAD gives it. -/
def descStart (c : Ctx) (d : Dev) (v : Nat) : Dev :=
  startCore (if bit (descField c c.head 5 1) 0 then d
    else modCore d v (fun x => { x with start := BitVec.ofNat 48 (descField c c.head 8 8 + v * descField c c.head 0x10 4) })) v

section
variable (hk : k < 4) (hen : (ctxOf d k).en = true) (hfault : ctxFault d k = false) (hjob : (ctxOf d k).job = none)
  (hne : (ctxOf d k).tail ≠ (ctxOf d k).head) (reply : HostReply)
include hk hen hfault hjob hne

theorem descriptorTakeAt_refused {r : Nat} (hr : descRefusal d (ctxOf d k) (ctxOf d k).head = some r) : descriptorTakeAt d k reply =
    completion (headTaken d k) k (ctxOf d k).head (descField (ctxOf d k) (ctxOf d k).head 0 4)
      (descField (ctxOf d k) (ctxOf d k).head 4 1) r 0xFF 0 reply := by
  have hpend : pendCount (ctxOf d k) ≠ 0 := mt pendCount_eq_zero_iff.mp hne
  simp only [descriptorTakeAt, hr]
  exact if_neg (by simp [hk, hen, hfault, hjob, hpend])
theorem descriptorTakeAt_taken (hr : descRefusal d (ctxOf d k) (ctxOf d k).head = none) : descriptorTakeAt d k reply =
    (coreList (descJob (ctxOf d k)).cores).foldl (descStart (ctxOf d k))
      (modCtx (headTaken d k) k (fun x => { x with job := some (descJob (ctxOf d k)) })) := by
  have hpend : pendCount (ctxOf d k) ≠ 0 := mt pendCount_eq_zero_iff.mp hne
  simp only [descriptorTakeAt, hr]
  exact if_neg (by simp [hk, hen, hfault, hjob, hpend])

end

/-! ### JOB_END and STOP_TIMEOUT (R445, R447, R448) -/

theorem jobEndAt_none (h : (ctxOf d k).job = none) (reply : HostReply) : jobEndAt d k reply = d := by simp [jobEndAt, h]
theorem stopTimeoutAt_none (h : (ctxOf d k).job = none) : stopTimeoutAt d k = d := by simp [stopTimeoutAt, h]

section
variable {j : Job}

theorem jobResult_detained (h : j.detained = true) : jobResult d j = 3 := if_pos h
theorem jobResult_stopped (h : j.detained = false) (hstop : j.stopReq = true) : jobResult d j = 2 := by simp [jobResult, h, hstop]

section
variable (h : j.detained = false) (hstop : j.stopReq = false)
include h hstop

theorem jobResult_halted (hall : ∀ v ∈ coreList j.cores, (coreOf d v).state = .halted) : jobResult d j = 0 := by
  have hno : ∀ t : PState, t ≠ .halted → ∀ v ∈ coreList j.cores, ((coreOf d v).state == t) = false := fun t ht v hv => by
    simpa [hall v hv] using ht.symm
  have hstopped : ((coreList j.cores).any fun v => (coreOf d v).state == .stopped && (coreOf d v).hostStop) = false :=
    List.any_eq_false.mpr fun v hv => by simp [hno .stopped nofun v hv]
  have hfaulted : ((coreList j.cores).any fun v => (coreOf d v).state == .faulted) = false :=
    List.any_eq_false.mpr fun v hv => by simp [hno .faulted nofun v hv]
  have hhalted : ((coreList j.cores).all fun v => (coreOf d v).state == .halted) = true :=
    List.all_eq_true.mpr fun v hv => by simp [hall v hv]
  simp only [jobResult, h, hstop, hstopped, hfaulted, hhalted, Bool.false_eq_true, Bool.or_false, if_false, if_true]
theorem jobResult_faulted (hall : ∀ v ∈ coreList j.cores, (coreOf d v).state ≠ .stopped)
    (hex : ∃ v ∈ coreList j.cores, (coreOf d v).state = .faulted) : jobResult d j = 1 := by
  obtain ⟨u, hu, hfault⟩ := hex
  have hstopped : ((coreList j.cores).any fun v => (coreOf d v).state == .stopped && (coreOf d v).hostStop) = false :=
    List.any_eq_false.mpr fun v hv => by simp [hall v hv]
  have hfaulted : ((coreList j.cores).any fun v => (coreOf d v).state == .faulted) = true :=
    List.any_eq_true.mpr ⟨u, hu, by simp [hfault]⟩
  simp only [jobResult, h, hstop, hstopped, hfaulted, Bool.false_eq_true, Bool.or_false, if_false, if_true]

end

variable (hj : (ctxOf d k).job = some j)
include hj

theorem jobEndAt_waits (h : ∃ v ∈ coreList j.cores, jobCoreOver j (coreOf d v) = false) (reply : HostReply) :
    jobEndAt d k reply = d := by
  have hall : ((coreList j.cores).all fun v => jobCoreOver j (coreOf d v)) = false := by simpa using h
  simp [jobEndAt, hj, hall]
theorem jobEndAt_ends (h : ∀ v ∈ coreList j.cores, jobCoreOver j (coreOf d v) = true) (reply : HostReply) :
    let r := jobResult d j
    let core := ((coreList j.cores).find? (fun v => endedWith r (coreOf d v).state)).getD ((coreList j.cores).headD 0xFF)
    jobEndAt d k reply = completion (modCtx d k (fun x => { x with job := none })) k j.seq j.jobid.toNat j.vec.toNat r core
      (coreOf d core).haltCode.toNat reply := by
  have hall : ((coreList j.cores).all fun v => jobCoreOver j (coreOf d v)) = true := List.all_eq_true.mpr h
  simp [jobEndAt, hj, hall]
theorem stopTimeoutAt_none_asked (h : j.stopReq = false) : stopTimeoutAt d k = d := by simp [stopTimeoutAt, hj, h]
theorem stopTimeoutAt_asked (h : j.stopReq = true) : stopTimeoutAt d k =
    registrarResets d ((coreList j.cores).filter (fun v => !stopSpares (coreOf d v).state)) := by simp [stopTimeoutAt, hj, h]

end

/-! ### STOP, EN and CORES (R436, R441, R448) -/

/-- The active job of a context is asked to stop, and its cores to halt. -/
def jobStopped (k : Nat) (d : Dev) : Dev :=
  match (ctxOf d k).job with
  | none => d
  | some j => (coreList j.cores).foldl hostHalt (modCtx d k (fun x => { x with job := some { j with stopReq := true } }))

/-- The registers of a context after a write of its control word. -/
def ctlWritten (value : Nat) (x : Ctx) : Ctx :=
  { x with
    en := bit value 0, fence := bit value 1, remote := bit value 2
    head := if (bit value 0 && !x.en) = true then 0 else x.head
    tail := if (bit value 0 && !x.en) = true then 0 else x.tail }

section
variable (hk : k < 4) (reply : HostReply)
include hk

theorem stopAt_eq : stopAt d k reply = jobStopped k (Nat.repeat (fun e => discardOne e k reply) (pendCount (ctxOf d k)) d) :=
  if_neg (by omega)
theorem stopAt_empty (h : (ctxOf d k).tail = (ctxOf d k).head) : stopAt d k reply = jobStopped k d := by
  rw [stopAt_eq hk, pendCount_eq_zero_iff.mpr h]
  rfl
theorem stopAt_one (h : (ctxOf d k).tail = (ctxOf d k).head + 1) : stopAt d k reply = jobStopped k (discardOne d k reply) := by
  rw [stopAt_eq hk, pendCount_eq_one h]
  rfl

theorem ctxCtlWrite_eq (value : Nat) : ctxCtlWrite d k value reply =
    if bit value 3 = true then stopAt (modCtx d k (ctlWritten value)) k reply else modCtx d k (ctlWritten value) := if_neg (by omega)

omit reply

/-- A write of CORES leaves the context idle, within the grid, and apart from the others. -/
def coresLegal (d : Dev) (k mask : Nat) : Prop :=
  (ctxOf d k).job = none ∧ (ctxOf d k).tail = (ctxOf d k).head ∧ mask < 2 ^ gridCores d ∧
    ∀ j, j < 4 → j ≠ k → (ctxOf d j).cores.toNat &&& mask = 0

theorem coresWriteAt_legal {n value : Nat} (hn : n < 8) (h : coresLegal d k (setBits (ctxOf d k).cores.toNat (32 * n) 32 value)) :
    coresWriteAt d k n value =
      modCtx d k (fun x => { x with cores := BitVec.ofNat 256 (setBits (ctxOf d k).cores.toNat (32 * n) 32 value) }) := by
  obtain ⟨hjob, hempty, hgrid, hapart⟩ := h
  refine (if_neg (by simp [hk, hn])).trans (if_pos ?_)
  simp only [hjob, pendCount_eq_zero_iff.mpr hempty, hgrid, Option.isNone_none, decide_true, Bool.and_true, Bool.true_and,
    List.all_eq_true, List.mem_range, Bool.or_eq_true, beq_iff_eq]
  exact fun j hj => or_iff_not_imp_left.mpr (hapart j hj)
theorem coresWriteAt_refused {n value : Nat} (hn : n < 8) (h : ¬ coresLegal d k (setBits (ctxOf d k).cores.toNat (32 * n) 32 value)) :
    coresWriteAt d k n value = logEvent d 0x0A02 0x104 k (leBytes 1 k) := by
  refine (if_neg (by simp [hk, hn])).trans (if_neg fun hlegal => h ?_)
  simp only [Bool.and_eq_true, Option.isNone_iff_eq_none, decide_eq_true_eq, pendCount_eq_zero_iff, List.all_eq_true, List.mem_range,
    Bool.or_eq_true, beq_iff_eq] at hlegal
  obtain ⟨⟨⟨hjob, hempty⟩, hapart⟩, hgrid⟩ := hlegal
  exact ⟨hjob, hempty, hgrid, fun j hj hne => (hapart j hj).resolve_left hne⟩

end

end

/-! ### Completion records (R445, R446) -/

/-- Why a completion record is lost: the first of the causes that hold, and the host's answer after them. -/
theorem recordWhy (d : Dev) (a : Nat) (reply : HostReply) :
    (if recordBlocked d a = 0 then replyCause reply else recordBlocked d a) =
      if 2 ^ 46 < a + 32 then 1 else if d.host.d3hot then 4 else if !d.host.busMaster then 5 else replyCause reply := by
  unfold recordBlocked
  split
  · rfl
  · split
    · rfl
    · split <;> rfl

theorem completion_eq (d : Dev) (k : Nat) (seq : BitVec 16) (jobid vec result core halt : Nat) (reply : HostReply) :
    let a := (ctxOf d k).cpl.toNat + seq.toNat % 16 * 32
    let why := if 2 ^ 46 < a + 32 then 1 else if d.host.d3hot then 4 else if !d.host.busMaster then 5 else replyCause reply
    completion d k seq jobid vec result core halt reply =
      signal (if why = 0 then wrBytes d (0x400000000000 + a) (leBytes 4 jobid ++ leBytes 1 result ++ leBytes 1 core ++ leBytes 2 halt
            ++ leBytes 4 seq.toNat ++ leBytes 4 (creditOf (ctxOf d k)) ++ leBytes 8 d.glb.timeUs.toNat ++ zeros 8)
          else logEvent d 0x0A03 0x104 k (leBytes 1 k ++ leBytes 4 seq.toNat ++ leBytes 1 why)) (if vec < 16 then vec else 3 + k) := by
  simp only [completion, recordWhy]
  rfl

/-- Settles O45: each row by the cases of its operation. -/
theorem hostJobs : Obligations.HostJobs := by
  intro s k hk
  refine ⟨fun hs => ⟨fun bs hbs => ?bell, ?credit, fun off bs hbs hend => ⟨fun hslot => ?slots, ?bad⟩⟩,
    fun hs hact off bs hbs hend => ?late, fun d off bs o hlo hhi hfree => slotWrite_slots hlo hhi hfree,
    fun h reply => congrArg (goes s) (descriptorTakeAt_none reply h), fun hen hfault hjob hne reply => ⟨fun r hr => ?refused, ?taken⟩,
    fun h reply => ⟨congrArg (goes s) (jobEndAt_none h reply), congrArg (goes s) (stopTimeoutAt_none h)⟩,
    fun j hj => ⟨fun h reply => congrArg (goes s) (jobEndAt_waits hj h reply), fun h reply => congrArg (goes s) (jobEndAt_ends hj h reply),
      jobResult_detained, jobResult_stopped, jobResult_halted, jobResult_faulted,
      fun h => congrArg (goes s) (stopTimeoutAt_none_asked hj h), fun h => congrArg (goes s) (stopTimeoutAt_asked hj h)⟩,
    fun hs => ⟨fun h reply => ?stopEmpty, fun h reply => ?stopOne, fun value reply => ⟨fun hstop => ?en, fun hstop h => ?enStop⟩,
      fun n value hn => ⟨fun h => ?cores, fun h => ?coresRefused⟩⟩,
    fun d seq jobid vec result core halt reply => ?record⟩
  case bell => exact congrArg (goes s) ((apertureAt_doorbell hk hs.1 hs.2 hbs).trans (doorbellAt_served hk hs.1 hs.2 _))
  case credit => exact congrArg (goes s) (apertureAt_credit hk hs.1 hs.2)
  case slots =>
    obtain ⟨hwrite, hread⟩ := apertureAt_slots hk hs.1 hs.2 hbs hslot
    exact ⟨congrArg (goes s) hwrite, congrArg (goes s) hread⟩
  case bad => exact fun hlo hhi hbell hcredit => congrArg (goes s) (apertureAt_bad hk hs.1 hs.2 hbs hend hlo hhi hbell hcredit)
  case late =>
    obtain ⟨hwrite, hread⟩ := apertureAt_late hk hs hact hbs hend
    exact ⟨congrArg (goes s) hwrite, congrArg (goes s) hread⟩
  case refused => exact congrArg (goes s) (descriptorTakeAt_refused hk hen hfault hjob hne reply hr)
  case taken => exact fun hr => congrArg (goes s) (descriptorTakeAt_taken hk hen hfault hjob hne reply hr)
  case stopEmpty => exact early_row (fun d => stopAt d k reply) rfl hs (stopAt_empty hk reply h)
  case stopOne => exact early_row (fun d => stopAt d k reply) rfl hs (stopAt_one hk reply h)
  case en =>
    exact early_row (fun d => ctxCtlWrite d k value.toNat reply) rfl hs ((ctxCtlWrite_eq hk reply _).trans (if_neg (by simp [hstop])))
  case enStop =>
    exact early_row (fun d => ctxCtlWrite d k value.toNat reply) rfl hs
      ((ctxCtlWrite_eq hk reply _).trans ((if_pos hstop).trans (stopAt_empty hk reply h)))
  case cores => exact early_row (fun d => coresWriteAt d k n value.toNat) rfl hs (coresWriteAt_legal hk hn h)
  case coresRefused => exact early_row (fun d => coresWriteAt d k n value.toNat) rfl hs (coresWriteAt_refused hk hn h)
  case record =>
    refine (completion_eq d k seq jobid vec result core halt reply).trans ?_
    cases reply <;> rfl

end Sys2Proof.Machine
end

section
/-!
The hold-up measurement that the boot ROM serves (R504, R550).
-/
namespace Sys2Proof.Machine
open Sys2Proof.Safety

/-- The switch opens for a sag. -/
def sagOpened (d : Dev) (mw v1 : Nat) : Dev :=
  { d with
    reg := { d.reg with sag := some { mw := sagPower mw, v1 := v1 } }
    rp := { d.rp with vinMv := BitVec.ofNat 16 v1 } }

/-- HOLDUP needs VIN and no policy firmware: the boot ROM serves it too (R550). -/
theorem holdupAt_opens {d : Dev} (h : regAsked d 9 = true) (hlen : mbLen d.reg.mb = 0) (hvin : d.rp.vinGood = true)
    (hwrite : d.reg.write = none) (hsag : d.reg.sag = none) (mw v1 : Nat) : holdupAt d mw v1 = sagOpened d mw v1 := by
  simp [holdupAt, regGate, h, hlen, hvin, hwrite, hsag, sagOpened]

/-- A device whose boot ROM has HOLDUP before it, with VIN good and the policy firmware not active. -/
def bootRomHoldup : State :=
  { dev := { reg := { running := true, mb := { state := .busy, buf := mbFill [9] } }, rp := { vinGood := true } }, shadow := {} }

/-- Refutes O57: before the policy firmware runs HOLDUP opens the switch (`holdupAt_opens`, R550), where the statement has it answered
with status 3. -/
theorem not_holdUpAndSettings : ¬ Obligations.HoldUpAndSettings := by
  intro h
  have hasked : regAsked bootRomHoldup.dev 9 = true := by decide
  have hlen : mbLen bootRomHoldup.dev.reg.mb = 0 := by decide
  obtain ⟨hholdup, -⟩ := h bootRomHoldup
  obtain ⟨-, -, hfree⟩ := hholdup 0 0
  obtain ⟨-, hanswer⟩ := hfree rfl rfl
  have hdev : sagOpened bootRomHoldup.dev 0 0 = regRespond bootRomHoldup.dev 3 [] :=
    (holdupAt_opens hasked hlen rfl rfl rfl 0 0).symm.trans
      ((goes_inj (hanswer hasked)).trans ((if_neg (not_not.mpr hlen)).trans (if_pos (.inl rfl))))
  have hsag := congrArg (fun d : Dev => d.reg.sag) hdev
  simp [sagOpened, regRespond, bootRomHoldup] at hsag

end Sys2Proof.Machine
end

section
/-!
Supply events and the sources of a reset (R500 to R507, R510, R511, R526, R527, R531, R541).
-/
namespace Sys2Proof.Machine
open Sys2Proof.Safety

section
variable {d : Dev}

/-! ### Power on, and the loss of VAUX (R501, R526) -/

theorem powerOnReset_up (h : d.rp.vauxOk = true) : powerOnReset d = d := if_pos h
theorem powerOnReset_rises (h : d.rp.vauxOk = false) :
    let c := coldReset { d with rp := { d.rp with vauxOk := true } } 1 0xFFFF
    powerOnReset d = { c with reg := {}, glb := {}, rp := { c.rp with resetAt := none, lastEarly := false } } := if_neg (by simp [h])

theorem vauxLossAt_down (h : d.rp.vauxOk = false) (held : Bool) : vauxLossAt d held = d := if_pos (by simp [h])
/-- What the loss of VAUX leaves: with VBAK the backup domain, without it free values in its place. -/
theorem vauxLossAt_effect (h : d.rp.vauxOk = true) : let t := vauxLossAt d true
    let u := vauxLossAt d false
    t.rp.vauxOk = false ∧ t.rp.vinGood = false ∧ t.reg = {} ∧ t.glb = {} ∧ t.rp.cnt = d.rp.cnt ∧ t.rp.lastCause = d.rp.lastCause ∧
      t.rp.lastKind = d.rp.lastKind ∧ t.rp.lastSrc = d.rp.lastSrc ∧ t.cores = [] ∧ t.ttl = {} ∧ t.flash = d.flash ∧ t.fuses = d.fuses ∧
      u = { t with freeCtr := t.freeCtr + 1, rp := { t.rp with
        cnt := u.rp.cnt, lastCause := u.rp.lastCause, lastKind := u.rp.lastKind, lastEarly := u.rp.lastEarly,
        lastBlock := u.rp.lastBlock, lastSrc := u.rp.lastSrc } } := by
  have hup : ¬ (!d.rp.vauxOk) = true := by simp [h]
  have hheld : vauxLossAt d true = _ := if_neg hup
  have hlost : vauxLossAt d false = _ := if_neg hup
  rw [hheld, hlost]
  exact ⟨rfl, rfl, rfl, rfl, rfl, rfl, rfl, rfl, rfl, rfl, rfl, rfl, rfl⟩

/-! ### VIN (R500, R503, R505, R506) -/

theorem vinGoodAt_held (h : d.rp.switchOpen = true ∨ d.rp.overvolt = true) : vinGoodAt d = d := if_pos (by simpa using h)
/-- VIN is good; what it measures is kept, or free within its range. -/
theorem vinGoodAt_effect (hswitch : d.rp.switchOpen = false) (hover : d.rp.overvolt = false) : let t := vinGoodAt d
    t = draw { d with rp := { d.rp with vinGood := true, vinMv := t.rp.vinMv } } ∧
      (d.rp.vinGood = true → t.rp.vinMv = d.rp.vinMv) ∧ (d.rp.vinGood = false → 43000 ≤ t.rp.vinMv.toNat ∧ t.rp.vinMv.toNat ≤ 62000) := by
  simp only [vinGoodAt, hswitch, hover, Bool.or_self, Bool.false_eq_true, if_false]
  refine ⟨rfl, fun h => if_pos h, fun h => ?_⟩
  simp only [draw_rp, h, Bool.false_eq_true, if_false, BitVec.toNat_ofNat]
  omega

theorem powerFailAt_eq (mv : BitVec 16) : powerFailAt d mv.toNat = if d.rp.pfail then d else
    logEvent { d with rp := { d.rp with pfail := true, vinMv := mv } } 0x0201 0x100 0xFFFF (leBytes 4 mv.toNat) := by
  rw [powerFailAt, BitVec.ofNat_toNat, BitVec.setWidth_eq]
  rfl
theorem powerFailClearAt_eq :
    powerFailClearAt d = { d with rp := { d.rp with pfail := false, switchOpen := d.rp.overvolt && d.rp.switchOpen } } := by
  cases h : d.rp.overvolt <;> simp [powerFailClearAt, h]

/-! ### Temperatures (R511, R531) -/

theorem logEvent_fw (code src arg : Nat) (data : List Byte) : (logEvent d code src arg data).reg.fw = d.reg.fw := by
  rw [logEvent, signal_reg]

theorem thermalTripAt_eq (c : BitVec 8) : thermalTripAt d c.toNat = if c.toNat < 115 ∨ d.rp.thold = true then d else
    { warmReset d 9 0xFFFF with rp := { (warmReset d 9 0xFFFF).rp with thold := true, dieTemp := c } } := by
  simp [thermalTripAt, noSrc]

/-- A die sensor's warning is logged. -/
def warned (d : Dev) (sensor c : BitVec 8) : Dev :=
  logEvent { d with rp := { d.rp with dieTemp := c } } 0x0204 0x100 0xFFFF (leBytes 1 sensor.toNat ++ leBytes 1 c.toNat)

theorem thermalWarningAt_warned {sensor c : BitVec 8} (h : 105 ≤ c.toNat) :
    thermalWarningAt d sensor.toNat c.toNat = warned d sensor c := by
  rw [thermalWarningAt, if_neg (by omega), BitVec.ofNat_toNat, BitVec.setWidth_eq]
  rfl
/-- Without the policy firmware the ceiling stays. -/
theorem thermPolicy_none (h : d.reg.fw = false) : thermPolicy d = d := if_neg (by simp [h])
/-- The policy firmware writes the ceiling with a code of its choice, unless that code is reserved (R410). -/
theorem thermPolicy_writes (h : d.reg.fw = true) : ∃ code : Byte, thermPolicy d =
    if 0x28 ≤ code.toNat ∧ code.toNat ≤ 0xA0 then paceChanged { draw d with pace := { d.pace with therm := code } }
    else logEvent (draw d) 0x0301 0x102 0xFFFF [code] := by
  obtain ⟨code, hcode⟩ : ∃ code : Byte, code.toNat = Config.freeNat d.freeCtr 0 % 256 :=
    ⟨BitVec.ofNat 8 (Config.freeNat d.freeCtr 0), by simp⟩
  refine ⟨code, ?_⟩
  simp only [thermPolicy, h, if_true, ← hcode, writeTherm, paceCodeOk, Bool.and_eq_true, decide_eq_true_eq, by1_toNat,
    BitVec.ofNat_toNat, BitVec.setWidth_eq]
  rfl

/-! ### RESET_IN#, and software resets (R510, R527, R541) -/

/-- The fields of a write of RST_CTL. -/
def rstCtlWritten (d : Dev) (v : Nat) : Dev :=
  { d with rp := { d.rp with swKind := bit v 1, keepHbm := bit v 2, cnt := if bit v 3 then [] else d.rp.cnt } }

theorem rstCtlWrite_eq (v : Nat) : rstCtlWrite d v = if bit v 0 then
    (if bit v 1 then coldReset (rstCtlWritten d v) 5 0xFFFF else warmReset (rstCtlWritten d v) 5 0xFFFF) else rstCtlWritten d v := by
  cases h : bit v 3 <;> simp [rstCtlWrite, rstCtlWritten, kindReset, noSrc, h]

end

/-- Settles O53: each row by the equation of its operation. -/
theorem powerAndResetSources : Obligations.PowerAndResetSources := by
  intro s
  refine ⟨fun h => congrArg (goes s) (powerOnReset_up h), fun h => congrArg (goes s) (powerOnReset_rises h),
    fun h held => congrArg (goes s) (vauxLossAt_down h held), fun h => ⟨_, _, rfl, rfl, vauxLossAt_effect h⟩,
    fun h => congrArg (goes s) (vinGoodAt_held h), fun hswitch hover => ⟨_, rfl, vinGoodAt_effect hswitch hover⟩,
    fun mv => congrArg (goes s) (powerFailAt_eq mv), congrArg (goes s) powerFailClearAt_eq, rfl, fun mv => rfl, rfl, rfl,
    fun c => congrArg (goes s) (thermalTripAt_eq c), rfl, fun sensor c => ⟨fun h => ?cool, fun h hfw => ?boot, fun h hfw => ?policy⟩,
    rfl, rfl, rfl, fun hs => ⟨fun value => ?swrst, early_row (fun d => { d with rp := { d.rp with cnt := [] } }) rfl hs rfl⟩⟩
  case cool => exact congrArg (goes s) (if_pos h)
  case boot =>
    refine congrArg (goes s) ((if_neg (by omega)).trans ?_)
    rw [thermalWarningAt_warned h]
    exact thermPolicy_none ((logEvent_fw ..).trans hfw)
  case policy =>
    obtain ⟨code, hcode⟩ := thermPolicy_writes (d := warned s.dev sensor c) ((logEvent_fw ..).trans hfw)
    refine ⟨code, congrArg (goes s) ((if_neg (by omega)).trans ?_)⟩
    rw [thermalWarningAt_warned h, hcode, warned, logEvent_pace]
  case swrst => exact early_row (fun d => rstCtlWrite d value.toNat) rfl hs (rstCtlWrite_eq value.toNat)

end Sys2Proof.Machine
end

section
/-!
The status of a request to the Prefect (R481, R497), and the delivery of a bundle by the host (R463 to R465, R473).
-/
namespace Sys2Proof.Machine
open Sys2Proof.Safety

/-! ### Requests (R481, R497) -/

section
variable {d e act : Dev}

/-- A row of a Prefect's command that is not asked changes nothing. -/
theorem prfNotAsked {k : Nat} (h : prfAsked d k = false) (a : Dev) : (if !prfAsked d k then d else a) = d := if_pos (by simp [h])
theorem prfAsked_row {k : Nat} (h : prfAsked d k = true) (a : Dev) : (if !prfAsked d k then d else a) = a := if_neg (by simp [h])

/-- The gate of the mailbox answers 7 in the error state, 2 for a wrong length or field, and 3 for a command that is not allowed. -/
theorem prfGate_answer {fields allowed : Bool} {P Q : Prop} [Decidable P] [Decidable Q] (hP : fields = false ↔ P)
    (hQ : allowed = false ↔ Q) :
    (if prfGate d fields allowed != 0 then prfRespond e (prfGate d fields allowed) [] else act) =
      if d.prefect.boot = .error then prfRespond e 7 [] else if P then prfRespond e 2 [] else if Q then prfRespond e 3 [] else act := by
  simp only [← hP, ← hQ, prfGate]
  split
  · rfl
  · cases fields <;> cases allowed <;> rfl
/-- The gate of a command that every boot state and life cycle allows. -/
theorem prfGate_answer_always {fields : Bool} {P : Prop} [Decidable P] (hP : fields = false ↔ P) :
    (if prfGate d fields true != 0 then prfRespond e (prfGate d fields true) [] else act) =
      if d.prefect.boot = .error then prfRespond e 7 [] else if P then prfRespond e 2 [] else act :=
  prfGate_answer (Q := False) hP (by simp)

end

/-! ### DELIVER (R464, R473) -/

section
variable {d : Dev}

theorem receiving_iff : receiving d = true ↔ d.prefect.boot = .receiving ∨ d.prefect.boot = .recReceiving := by simp [receiving]
theorem receiving_of_boot {b : BootState} (h : d.prefect.boot = b) (hb : b ≠ .receiving) (hb' : b ≠ .recReceiving) : receiving d = false := by
  simp [receiving, h, hb, hb']

/-- A block that the host delivers is read by sixteen requests. -/
theorem readBlock_first (addr : Nat) :
    readBlock d addr 0 = (List.range 16).foldl (fun d i => emit d (.hostRead (addr + 4096 * i) 4096)) d := by
  simp only [readBlock, Nat.mul_zero, Nat.add_zero]

theorem deliverAt_asked (h : prfAsked d 3 = true) :
    let addr := prfField d 0 8
    deliverAt d = if d.prefect.boot = .error then prfRespond d 7 []
      else if prfLen d ≠ 10 ∨ addr % 4096 ≠ 0 then prfRespond d 2 []
      else if d.prefect.boot = .receiving ∨ d.prefect.boot = .recReceiving then prfRespond d 5 []
      else if (d.prefect.boot == .recWaiting || (d.prefect.boot == .waiting && d.prefect.source == .host)) && d.host.busMaster then
        prfRespond (deliverBegin d addr (prfField d 8 2)) 0 []
      else prfRespond d 3 [] := by
  refine (prfAsked_row h _).trans ((prfGate_answer_always (P := prfLen d ≠ 10 ∨ prfField d 0 8 % 4096 ≠ 0) ?_).trans ?_)
  · simp [imp_iff_not_or]
  · simp only [receiving_iff]

end

/-! ### The checks on a block (R463) -/

/-- A delivery by the host fails a check: recovery mode, with the bundle error. -/
def hostFailed (d : Dev) (code : Byte) : Dev :=
  { d with prefect := { d.prefect with bundle := none, boot := .recWaiting, bundleErr := code, recCause := 2, chainLost := false } }
/-- The bundle with a block, and the manifest that stands for it. -/
def blockTaken (b : Bundle) (m : Manifest) (part : List Byte) : Bundle :=
  { b with manifest := some m, blocks := mapPut b.blocks b.blocks.length part }
/-- Block n completes a component whose bytes do not have its HASH. -/
def hashWrong (b : Bundle) (m : Manifest) (n : Nat) : Bool :=
  (m.comps.filter (fun c => c.first ≤ n && n < c.first + c.blocks && compWhole b c)).any
    (fun c => leNat (sha256 (compBytes b c)) != c.hash.toNat)

section
variable {d : Dev} {b : Bundle} {data : List Byte} (hb : d.prefect.bundle = some b)
include hb

theorem bundleFails_host (hport : b.port = 12) (code : Nat) : bundleFails d code = hostFailed d (BitVec.ofNat 8 code) := by
  simp [bundleFails, hb, hport, hostFailed, setPrf]

theorem blockArrived_crc {n : Nat} (h : crc32c (data.take 65532) ≠ leAt data 65532 4) : blockArrived d n data = bundleFails d 1 := by
  simp only [blockArrived, hb]
  exact if_pos (by simpa using h)

variable (hcrc : crc32c (data.take 65532) = leAt data 65532 4)
include hcrc

theorem blockArrived_rejected {e : Nat} (h : manifestCheck d (data.take 65532) b.nblk = .error e) :
    blockArrived d 0 data = bundleFails d e := by
  simp only [blockArrived, hb, h, if_true]
  exact if_neg (by simp [hcrc])
theorem blockArrived_checked {m : Manifest}
    (hm : if b.blocks.length = 0 then manifestCheck d (data.take 65532) b.nblk = .ok m else b.manifest = some m) :
    let b1 := blockTaken b m (data.take 65532)
    blockArrived d b.blocks.length data = if hashWrong b1 m b.blocks.length = true then bundleFails d 8
      else if b1.blocks.length = b.nblk then bundleVerified d b1
      else { d with prefect := { d.prefect with bundle := some b1 } } := by
  have hpart : ¬ (crc32c (data.take 65532) != leAt data 65532 4) = true := by simp [hcrc]
  split at hm
  · next h0 =>
    simp only [blockArrived, hb, h0, hm, if_true, if_neg hpart, hashWrong, blockTaken, List.any_filter]
    rfl
  · next h0 =>
    simp only [blockArrived, hb, h0, hm, if_false, if_neg hpart, hashWrong, blockTaken, List.any_filter]
    rfl

end

/-! ### A verified bundle, and the next block (R463, R465, R475) -/

section
variable {d d₀ : Dev} {b : Bundle}

theorem sendDone_sends {p result cause : Nat} (h : SendsOnly d₀ d) : SendsOnly d₀ (sendDone d p result cause) := sendCtl_sends h
theorem sendOffer_sends {p : Nat} (h : SendsOnly d₀ d) : SendsOnly d₀ (sendOffer d b p) := by
  unfold sendOffer
  split
  · exact sendCtl_sends h
  · exact h
theorem offerAll_sends (h : SendsOnly d₀ d) : SendsOnly d₀ (offerAll d) := by
  unfold offerAll
  split
  · exact h
  · exact .ite h (.foldl (fun h => .ite (sendOffer_sends h) h) h)

/-- The device as the bundle is verified, before its offers go out. -/
def verifiedHeld (d : Dev) (b : Bundle) : Dev :=
  { d with prefect := { d.prefect with
    bundle := some { b with verified := true, chunks := [] }, boot := .activating, bundleErr := 0, chainLost := false } }

theorem bundleVerified_sends : SendsOnly (verifiedHeld d b) (bundleVerified d b) := by
  have hports : SendsOnly (verifiedHeld d b)
      ((List.range 12).foldl (fun e p => modPort e p (fun q => { q with doneRx := false })) (verifiedHeld d b)) :=
    .foldl (fun h => h.port ⟨rfl, rfl⟩) (.refl _)
  exact offerAll_sends (.ite (sendDone_sends hports) hports)
/-- What a bundle that passes every check leaves. -/
theorem bundleVerified_effect (d : Dev) (b : Bundle) : let t := bundleVerified d b
    t.prefect.boot = .activating ∧ t.prefect.bundleErr = 0 ∧ t.prefect.bundle = some { b with verified := true, chunks := [] } ∧
      t.mem = d.mem ∧ t.host = d.host := by
  obtain ⟨⟨_, _, _, h⟩, -⟩ := bundleVerified_sends (d := d) (b := b)
  rw [h]
  exact ⟨rfl, rfl, rfl, rfl, rfl⟩
theorem bundleVerified_receiving : receiving (bundleVerified d b) = false := by
  obtain ⟨hboot, -⟩ := bundleVerified_effect d b
  exact receiving_of_boot hboot nofun nofun

theorem bundleBlockAt_none {data : List Byte} (h : receiving d = false ∨
    (∀ b, d.prefect.bundle = some b → b.port ≠ 12 ∨ b.verified = true) ∨ data.length ≠ 65536) : bundleBlockAt d data = d := by
  unfold bundleBlockAt
  split
  · rfl
  · next b hb =>
    refine if_pos ?_
    rcases h with h | h | h
    · simp [h]
    · rcases h b hb with h | h <;> simp [h]
    · simp [h]

section
variable {data : List Byte} (hb : d.prefect.bundle = some b) (hport : b.port = 12) (hver : b.verified = false)
  (hrec : receiving d = true) (hlen : data.length = 65536)
include hb hport hver hrec hlen

/-- After a block that leaves a bundle to receive, the next is read. -/
theorem bundleBlockAt_next : bundleBlockAt d data =
    let e := blockArrived d b.blocks.length data
    if receiving e then readBlock e b.addr.toNat (b.blocks.length + 1) else e := by
  simp only [bundleBlockAt, hb]
  exact if_neg (by simp [hport, hver, hrec, hlen])
theorem bundleBlockAt_fails {code : Nat} (h : blockArrived d b.blocks.length data = bundleFails d code) :
    bundleBlockAt d data = hostFailed d (BitVec.ofNat 8 code) := by
  rw [bundleBlockAt_next hb hport hver hrec hlen, h, bundleFails_host hb hport]
  exact if_neg nofun
theorem bundleBlockAt_crc (h : crc32c (data.take 65532) ≠ leAt data 65532 4) : bundleBlockAt d data = hostFailed d 1 :=
  bundleBlockAt_fails hb hport hver hrec hlen (blockArrived_crc hb h)

variable (hcrc : crc32c (data.take 65532) = leAt data 65532 4)
include hcrc

theorem bundleBlockAt_rejected {e : Nat} (h0 : b.blocks.length = 0)
    (h : manifestCheck d (data.take 65532) b.nblk = .error e) : bundleBlockAt d data = hostFailed d (BitVec.ofNat 8 e) :=
  bundleBlockAt_fails hb hport hver hrec hlen (by rw [h0]; exact blockArrived_rejected hb hcrc h)

variable {m : Manifest}
  (hm : if b.blocks.length = 0 then manifestCheck d (data.take 65532) b.nblk = .ok m else b.manifest = some m)
include hm

theorem bundleBlockAt_wrong (h : hashWrong (blockTaken b m (data.take 65532)) m b.blocks.length = true) :
    bundleBlockAt d data = hostFailed d 8 :=
  bundleBlockAt_fails hb hport hver hrec hlen ((blockArrived_checked hb hcrc hm).trans (if_pos h))

variable (hok : hashWrong (blockTaken b m (data.take 65532)) m b.blocks.length = false)
include hok

theorem bundleBlockAt_more (h : (blockTaken b m (data.take 65532)).blocks.length ≠ b.nblk) : bundleBlockAt d data =
    readBlock { d with prefect := { d.prefect with bundle := some (blockTaken b m (data.take 65532)) } } b.addr.toNat
      (b.blocks.length + 1) := by
  rw [bundleBlockAt_next hb hport hver hrec hlen,
    (blockArrived_checked hb hcrc hm).trans ((if_neg (Bool.eq_false_iff.mp hok)).trans (if_neg h))]
  exact if_pos hrec
theorem bundleBlockAt_last (h : (blockTaken b m (data.take 65532)).blocks.length = b.nblk) :
    bundleBlockAt d data = bundleVerified d (blockTaken b m (data.take 65532)) := by
  rw [bundleBlockAt_next hb hport hver hrec hlen,
    (blockArrived_checked hb hcrc hm).trans ((if_neg (Bool.eq_false_iff.mp hok)).trans (if_pos h))]
  exact if_neg (Bool.eq_false_iff.mp bundleVerified_receiving)

end

/-! ### HOST_READ_ERROR (R465) -/

/-- A delivery that is aborted leaves the device waiting as before it. -/
theorem bundleAbort_eq (h : receiving d = true) : bundleAbort d = { d with prefect := { d.prefect with
    bundle := none, boot := if d.prefect.boot = .recReceiving then .recWaiting else .waiting, bundleErr := 9, chainLost := false } } := by
  rcases receiving_iff.mp h with h | h <;> simp [bundleAbort, waitAgain, inRecovery, setPrf, h]
theorem hostReadErrorAt_none (h : receiving d = false ∨ ∀ b, d.prefect.bundle = some b → b.port ≠ 12) : hostReadErrorAt d = d := by
  refine if_neg ?_
  rcases h with h | h
  · simp [h]
  · cases hb : d.prefect.bundle with
    | none => simp
    | some b => simp [h b hb]
theorem hostReadErrorAt_aborts (hb : d.prefect.bundle = some b) (hport : b.port = 12) (hrec : receiving d = true) :
    hostReadErrorAt d = bundleAbort d := if_pos (by simp [hb, hport, hrec])

end

end Sys2Proof.Machine
end

section
/-!
Activation (R472, R475), and what a change of the pace leaves of the rest of the device.
-/
namespace Sys2Proof.Machine
open Sys2Proof.Safety

/-! ### What Bells, the log and a change of the pace leave as it was -/

/-- The memory, the controllers and the ports of the device, its Prefect, and what tells which firmware runs. -/
def runView (d : Dev) : List Host.Cell × NMap HbmCtl × NMap CxlPort × Prefect × Bool × Bool × Word :=
  (d.mem, d.hbm, d.cxl, d.prefect, d.host.syll, d.reg.fw, d.reg.wdPeriod)

section
variable {d : Dev}

theorem runView_of_sends {e : Dev} (h : SendsOnly d e) : runView e = runView d := by
  obtain ⟨⟨_, _, _, rfl⟩, -⟩ := h
  rfl
theorem runView_signal (vec : Nat) : runView (signal d vec) = runView d := by
  unfold signal
  split
  · split <;> rfl
  · rfl
theorem runView_logEvent (code src arg : Nat) (data : List Byte) : runView (logEvent d code src arg data) = runView d :=
  runView_signal 2
theorem runView_bellForward (b : Nat) : runView (bellForward d b) = runView d := by
  unfold bellForward
  dsimp only
  split
  · rfl
  · split
    · rfl
    · exact (runView_of_sends (txQueueFrom_sends (.refl _))).trans rfl
theorem runView_bellArrive (b src : Nat) (op : BitVec 3) (value : Dword) : runView (bellArrive d b src op value) = runView d := by
  unfold bellArrive
  dsimp only
  split
  · rfl
  · rw [runView_bellForward, apply_ite runView, runView_logEvent, ite_self]
    rfl
theorem runView_announce (n : Byte) : runView (announce d n) = runView d := by
  obtain ⟨pacers, h⟩ := standbyLoaded_rest d
  have harrived : runView (membersArrived d.pace.members (codeAnnounced d n)) = runView (codeAnnounced d n) :=
    foldl_keeps _ runView (fun _ _ => runView_bellArrive ..) _ _
  rw [announce_eq, harrived, codeAnnounced, h]
  rfl
theorem runView_epochBegin (n : Nat) : runView (epochBegin d n) = runView d := by
  unfold epochBegin
  dsimp only
  split
  · rfl
  · exact runView_announce _
theorem runView_paceChanged : runView (paceChanged d) = runView d := by
  unfold paceChanged
  split
  · split
    · exact runView_epochBegin _
    · rfl
  · rfl
theorem runView_writeTherm (c : Nat) : runView (writeTherm d c) = runView d := by
  unfold writeTherm
  split
  · exact runView_paceChanged
  · exact runView_logEvent ..
theorem runView_thermPolicy : runView (thermPolicy d) = runView d := by
  unfold thermPolicy
  split
  · exact runView_writeTherm _
  · rfl

/-- A write of the thermal ceiling leaves the target. -/
theorem writeTherm_tgt (c : Nat) : (writeTherm d c).pace.tgt = d.pace.tgt := by
  unfold writeTherm
  split
  · exact paceChanged_tgt
  · rw [logEvent_pace]
theorem thermPolicy_tgt : (thermPolicy d).pace.tgt = d.pace.tgt := by
  unfold thermPolicy
  split
  · exact writeTherm_tgt _
  · rfl

/-! ### Every component runs (R472) -/

/-- The Syllabus is active, and the policy firmware runs. -/
def syllabusActive (d : Dev) (m : Manifest) : Dev :=
  { d with
    prefect := { d.prefect with active := some m, boot := .active, doneLog := [] }
    host := { d.host with syll := true }
    reg := { d.reg with fw := true, wdPeriod := 1000 } }
/-- Every controller trains. -/
def hbmTrains (d : Dev) : Dev := (List.range 12).foldl (fun e c => modHbm e c (fun h => { h with state := .training })) d
/-- Both CXL ports train. -/
def cxlTrains (d : Dev) : Dev := cxlStart (cxlStart d 0) 1
/-- The fabric ports retrain at full rate. -/
def portsRetrain (d : Dev) : Dev := (List.range 12).foldl portStart d
/-- The firmware writes the target and the ceiling of the pace. -/
def paceStarted (d : Dev) : Dev := thermPolicy (writeTgt d 0x7D)

theorem activate_eq (d : Dev) (m : Manifest) : activate d m =
    freeStore (d.prefect.doneLog.foldl logDone (paceStarted (portsRetrain (cxlTrains (hbmTrains (syllabusActive d m)))))) := rfl

variable (d)

theorem hbmOf_hbmTrains {c : Nat} (hc : c < 12) : (hbmOf (hbmTrains d) c).state = .training :=
  congrArg HbmCtl.state (foldl_range_each (g := hbmOf) (u := fun h => { h with state := .training })
    (fun e c _ => hbmOf_modHbm_same e c _) (fun e c _ h => hbmOf_modHbm_other e c _ _ h) d hc)
theorem hbmTrains_rest : ∃ hbm, hbmTrains d = { d with hbm := hbm } := by
  refine List.foldlRecOn (motive := fun e => ∃ hbm, e = { d with hbm := hbm }) (List.range 12)
    (fun e c => modHbm e c (fun h => { h with state := .training })) ⟨d.hbm, rfl⟩ ?_
  rintro _ ⟨hbm, rfl⟩ c -
  exact ⟨_, rfl⟩
theorem cxlOf_cxlTrains {p : Nat} (hp : p < 2) :
    (cxlOf (cxlTrains d) p).link = .training ∧ (cxlOf (cxlTrains d) p).perst = false := by
  obtain rfl | rfl : p = 0 ∨ p = 1 := by omega
  · rw [cxlTrains, cxlStart, cxlOf_modCxl_other _ _ _ _ (by decide), cxlStart, cxlOf_modCxl_same]
    exact ⟨rfl, rfl⟩
  · rw [cxlTrains, cxlStart, cxlOf_modCxl_same]
    exact ⟨rfl, rfl⟩

theorem runView_portsRetrain : runView (portsRetrain d) = runView d := foldl_keeps portStart runView (fun _ _ => rfl) _ d
theorem writeTgt_open : writeTgt d 0x7D = paceChanged { d with pace := { d.pace with tgt := 0x7D, upBlocked := false } } := rfl
theorem runView_paceStarted : runView (paceStarted d) = runView d := by
  rw [paceStarted, runView_thermPolicy, writeTgt_open, runView_paceChanged]
  rfl
theorem paceStarted_tgt : (paceStarted d).pace.tgt = 0x7D := by rw [paceStarted, thermPolicy_tgt, writeTgt_open, paceChanged_tgt]
theorem runView_logDones (l : List (Nat × Byte)) : runView (l.foldl logDone d) = runView d :=
  foldl_keeps logDone runView (fun _ _ => runView_logEvent ..) l d
theorem logDones_pace (l : List (Nat × Byte)) : (l.foldl logDone d).pace = d.pace :=
  foldl_keeps logDone Dev.pace (fun _ _ => logEvent_pace ..) l d

/-- The free of the bundle store changes the bundle alone. -/
theorem freeStore_eq : freeStore d = { d with prefect := { d.prefect with bundle := (freeStore d).prefect.bundle } } := by
  unfold freeStore
  split <;> rfl

/-- What the activation of a bundle leaves. -/
theorem activate_effect (m : Manifest) : let t := activate d m
    t.prefect.boot = .active ∧ t.prefect.active = some m ∧ t.prefect.dest = d.prefect.dest ∧
      t.host.syll = true ∧ t.reg.fw = true ∧ t.reg.wdPeriod = 1000 ∧ t.pace.tgt = 0x7D ∧ t.mem = d.mem ∧
      (∀ c, c < 12 → (hbmOf t c).state = .training) ∧ ∀ p, p < 2 → (cxlOf t p).link = .training ∧ (cxlOf t p).perst = false := by
  obtain ⟨hbm, hrest⟩ := hbmTrains_rest (syllabusActive d m)
  have hcontrollers := fun c => hbmOf_hbmTrains (syllabusActive d m) (c := c)
  have hports := fun p => cxlOf_cxlTrains (hbmTrains (syllabusActive d m)) (p := p)
  have hview := (runView_logDones (paceStarted (portsRetrain (cxlTrains (hbmTrains (syllabusActive d m))))) d.prefect.doneLog).trans
    ((runView_paceStarted _).trans (runView_portsRetrain _))
  have htgt := congrArg Pacing.tgt
    (logDones_pace (paceStarted (portsRetrain (cxlTrains (hbmTrains (syllabusActive d m))))) d.prefect.doneLog)
  rw [paceStarted_tgt] at htgt
  rw [activate_eq]
  generalize d.prefect.doneLog.foldl logDone (paceStarted (portsRetrain (cxlTrains (hbmTrains (syllabusActive d m))))) = e at hview htgt ⊢
  rw [hrest] at hview hcontrollers hports
  simp only [runView, Prod.mk.injEq] at hview
  obtain ⟨hmem, hhbm, hcxl, hprefect, hsyll, hfw, hperiod⟩ := hview
  rw [freeStore_eq]
  refine ⟨congrArg Prefect.boot hprefect, congrArg Prefect.active hprefect, (congrArg Prefect.dest hprefect :), hsyll, hfw, hperiod, htgt, hmem,
    fun c hc => ?_, fun p hp => ?_⟩
  · rw [← hcontrollers c hc, hbmOf, hbmOf, hhbm]
    rfl
  · rw [cxlOf, hcxl]
    exact hports p hp

end

/-! ### ACTIVATION (R472) -/

section
variable {d : Dev} {fails : List Nat} {wrong : List (Nat × Nat × Byte)}

theorem activationAt_other (h : d.prefect.boot ≠ .activating) : activationAt d fails wrong = d := if_pos (by simpa using h)

/-- The copies of a bundle's components do not fail, and what is read back has their HASHes. -/
def copiesGood (b : Bundle) (m : Manifest) (fails : List Nat) (wrong : List (Nat × Nat × Byte)) : Bool :=
  m.comps.all (fun c => !fails.contains c.type && leNat (sha256 (mapGet [] (copied b m fails wrong) c.type)) == c.hash.toNat)

theorem activationAt_eq {b : Bundle} {m : Manifest} (hboot : d.prefect.boot = .activating) (hb : d.prefect.bundle = some b)
    (hm : b.manifest = some m) : activationAt d fails wrong = if copiesGood b m fails wrong = true then
      activate (setPrf d (fun p => { p with dest := copied b m fails wrong })) m
    else freeStore (setPrf d (fun p => { p with dest := [], boot := .recWaiting, bundleErr := 0xB, recCause := 3 })) := by
  have hgood : (m.comps.all (fun c => !fails.contains c.type) && readBackOk m (copied b m fails wrong)) = copiesGood b m fails wrong := by
    rw [Bool.eq_iff_iff]
    simp only [copiesGood, readBackOk, Bool.and_eq_true, List.all_eq_true, forall₂_and]
  refine (if_neg (by simp [hboot])).trans ?_
  simp only [hb, Option.bind_some, hm, hgood]

end

/-- Settles O48: DELIVER by its checks, a block by what is found in it, and ACTIVATION by what is read back. -/
theorem hostDelivery : Obligations.HostDelivery := by
  intro s
  refine ⟨fun h => ?deliver, fun h => congrArg (goes s) (prfNotAsked h _), fun data h => congrArg (goes s) (bundleBlockAt_none h),
    fun b data hb hport hver hrec hlen => ⟨fun hcrc => congrArg (goes s) (bundleBlockAt_crc hb hport hver hrec hlen hcrc),
      fun hcrc => ⟨fun e h0 he => congrArg (goes s) (bundleBlockAt_rejected hb hport hver hrec hlen hcrc h0 he), fun m hm => ?checked⟩⟩,
    fun d b => ⟨_, rfl, bundleVerified_effect d b⟩, fun h => congrArg (goes s) (hostReadErrorAt_none h),
    fun b hb hport hrec => congrArg (goes s) ((hostReadErrorAt_aborts hb hport hrec).trans (bundleAbort_eq hrec)),
    fun fails wrong h => congrArg (goes s) (activationAt_other h), fun fails wrong b m hboot hb hm => ?activation,
    fun d m => ⟨_, rfl, activate_effect d m⟩⟩
  case deliver =>
    refine congrArg (goes s) ((deliverAt_asked h).trans ?_)
    rw [deliverBegin, readBlock_first]
    rfl
  case checked =>
    exact ⟨fun h => congrArg (goes s) (bundleBlockAt_wrong hb hport hver hrec hlen hcrc hm h),
      fun hok h => congrArg (goes s) (bundleBlockAt_more hb hport hver hrec hlen hcrc hm hok h),
      fun hok h => congrArg (goes s) (bundleBlockAt_last hb hport hver hrec hlen hcrc hm hok h)⟩
  case activation =>
    exact ⟨fun h => congrArg (goes s) ((activationAt_eq hboot hb hm).trans (if_pos h)),
      fun h => congrArg (goes s) ((activationAt_eq hboot hb hm).trans (if_neg (Bool.eq_false_iff.mp h)))⟩

end Sys2Proof.Machine
end

section
/-!
Delivery of a bundle over the fabric (R466 to R471, R473, R475).
-/
namespace Sys2Proof.Machine
open Sys2Proof.Safety

/-! ### OFFER (R467, R468) -/

section
variable {d : Dev} {p : Nat} {f : BitVec 256} {pfx : BitVec 128} {b : Bundle}

/-- The PREFIX of an OFFER. -/
def offerPfx (f : BitVec 256) : BitVec 128 := BitVec.ofNat 128 (bits f.toNat 62 128)
/-- An OFFER is held to the end of its slow-clock period. -/
def offerHeld (d : Dev) (p : Nat) (f : BitVec 256) : Dev :=
  { d with prefect := { d.prefect with offers := d.prefect.offers ++ [(p, bits f.toNat 20 10, offerPfx f)] } }

theorem offerAt_off (h : d.prefect.boot = .selfTest ∨ d.prefect.boot = .error) : offerAt d p f = d := if_pos (by simpa using h)

section
variable (hself : d.prefect.boot ≠ .selfTest) (herr : d.prefect.boot ≠ .error)
include hself herr

theorem offerAt_eq : offerAt d p f = if offerNotWanted d (offerPfx f) = true then sendCtl d p 0xE 2
    else if offerFits d (offerPfx f) = true then offerHeld d p f else d := if_neg (by simp [hself, herr])
theorem offerAt_answered (h : offerNotWanted d (offerPfx f) = true) : offerAt d p f = sendCtl d p 0xE 2 :=
  (offerAt_eq hself herr).trans (if_pos h)
theorem offerAt_wanted (h : offerNotWanted d (offerPfx f) = false) :
    offerAt d p f = if offerFits d (offerPfx f) = true then offerHeld d p f else d :=
  (offerAt_eq hself herr).trans (if_neg (Bool.eq_false_iff.mp h))

end

/-- A device that is active or about to be wants no bundle. -/
theorem offerNotWanted_of_boot (h : d.prefect.boot = .active ∨ d.prefect.boot = .activating) : offerNotWanted d pfx = true := by
  rcases h with h | h <;> simp [offerNotWanted, h]
theorem offerNotWanted_of_verified (hb : d.prefect.bundle = some b) (hver : b.verified = true) : offerNotWanted d pfx = true := by
  simp [offerNotWanted, hb, hver]
/-- Without a bundle any other device wants one. -/
theorem offerNotWanted_none (hb : d.prefect.bundle = none) (hact : d.prefect.boot ≠ .active) (hing : d.prefect.boot ≠ .activating) :
    offerNotWanted d pfx = false := by simp [offerNotWanted, hb, hact, hing]

section
variable (hboot : d.prefect.boot = .receiving ∨ d.prefect.boot = .recReceiving) (hb : d.prefect.bundle = some b)
include hboot hb

/-- A device that receives a bundle does not want it from a second port. -/
theorem offerNotWanted_receiving : offerNotWanted d pfx =
    (b.verified || (decide (b.port < 12) && !d.prefect.chainLost && b.pfx == pfx)) := by
  have hrec := receiving_iff.mpr hboot
  rcases hboot with h | h <;> simp [offerNotWanted, h, hb, hrec]
/-- It takes another port for one that went down. -/
theorem offerFits_receiving : offerFits d pfx = (d.prefect.chainLost && b.pfx == pfx) := by
  rcases hboot with h | h <;> simp [offerFits, h, hb]

end

theorem offerFits_waiting (h : d.prefect.boot = .waiting) (hs : d.prefect.source ≠ .recovery) : offerFits d pfx = true := by
  simp [offerFits, h, hs]
/-- After a rejection another PREFIX is taken (R475). -/
theorem offerFits_recWaiting (h : d.prefect.boot = .recWaiting) : offerFits d pfx = true ↔
    d.prefect.recCause = 2 ∧ d.prefect.source ≠ .recovery ∧ pfx ∉ d.prefect.rejected := by simp [offerFits, h, and_assoc]

end

/-! ### PULL and DATA (R467, R468) -/

section
variable {d : Dev} {p : Nat} {f : BitVec 256} {b : Bundle}

theorem pullAt_none (hb : d.prefect.bundle = none) : pullAt d p f = d := by simp [pullAt, hb]
theorem dataAt_none (hb : d.prefect.bundle = none) : dataAt d p f = d := by simp [dataAt, hb]

variable (hb : d.prefect.bundle = some b)
include hb

theorem pullAt_ignored (h : b.verified = false ∨ bits f.toNat 30 3 = 0 ∨ 4 < bits f.toNat 30 3 ∨
    b.nblk < bits f.toNat 20 10 + bits f.toNat 30 3) : pullAt d p f = d := by
  have hno : b.verified = false ∨ ctlField f 10 3 = 0 ∨ 4 < ctlField f 10 3 ∨ b.nblk < ctlField f 0 10 + ctlField f 10 3 := h
  simp only [pullAt, hb]
  exact if_pos (by simpa [or_assoc] using hno)

/-- Every chunk of block n goes out. -/
abbrev blockSent (b : Bundle) (p : Nat) (d : Dev) (n : Nat) : Dev :=
  (List.range 4096).foldl (fun d c => sendCtl d p 0xD (n + c * 2 ^ 10 +
    leAt (mapGet [] b.blocks n ++ leBytes 4 (crc32c (mapGet [] b.blocks n))) (16 * c) 16 * 2 ^ 22)) d

theorem pullAt_serves (hver : b.verified = true) (hpos : 0 < bits f.toNat 30 3) (hmax : bits f.toNat 30 3 ≤ 4)
    (hend : bits f.toNat 20 10 + bits f.toNat 30 3 ≤ b.nblk) :
    pullAt d p f = ((List.range (bits f.toNat 30 3)).map (bits f.toNat 20 10 + ·)).foldl (blockSent b p) d := by
  have hok : ¬(b.verified = false ∨ bits f.toNat 30 3 = 0 ∨ 4 < bits f.toNat 30 3 ∨ b.nblk < bits f.toNat 20 10 + bits f.toNat 30 3) := by
    simp only [hver, Bool.true_eq_false, false_or]
    omega
  change ¬(b.verified = false ∨ ctlField f 10 3 = 0 ∨ 4 < ctlField f 10 3 ∨ b.nblk < ctlField f 0 10 + ctlField f 10 3) at hok
  rw [List.foldl_map]
  simp only [pullAt, hb]
  exact if_neg (by simpa [or_assoc] using hok)

theorem dataAt_ignored (h : b.port ≠ p ∨ b.verified = true ∨ b.asked ≤ bits f.toNat 20 10 ∨ mapGet? b.blocks (bits f.toNat 20 10) ≠ none ∨
    d.prefect.chainLost = true ∨ receiving d = false) : dataAt d p f = d := by
  simp only [dataAt, hb, ctlField_eq]
  exact if_pos (by simpa [or_assoc, Option.isSome_iff_ne_none] using h)

/-- The bundle with a chunk of a requested block. -/
def chunkKept (b : Bundle) (f : BitVec 256) : Bundle :=
  { b with
    chunks := mapMod [] b.chunks (bits f.toNat 20 10)
      (fun m => mapPut m (bits f.toNat 30 12) (BitVec.ofNat 128 (bits f.toNat 42 128))) }

theorem dataAt_kept (hp : b.port = p) (hver : b.verified = false) (hasked : bits f.toNat 20 10 < b.asked)
    (hnew : mapGet? b.blocks (bits f.toNat 20 10) = none) (hlost : d.prefect.chainLost = false) (hrec : receiving d = true) :
    dataAt d p f = pullMore (takeBlocks 5 { d with prefect := { d.prefect with bundle := some (chunkKept b f) } }) := by
  simp only [dataAt, hb, ctlField_eq]
  exact if_neg (by simp [hp, hver, hasked, hnew, hlost, hrec])

end

/-! ### DONE (R470, R471) -/

section
variable {d : Dev} {p : Nat} {f : BitVec 256}

/-- Offering on the port ends, and a port in boot mode of an active device trains. -/
def doneTaken (d : Dev) (p : Nat) : Dev :=
  modPort d p (fun q => { q with
    doneRx := true, state := if syllActive d = true ∧ q.state = .boot then .training else q.state })

theorem chainDoneAt_eq : chainDoneAt d p f =
    if bits f.toNat 20 4 ≠ 1 then doneTaken d p
    else if d.reg.fw = true then
      logEvent (doneTaken d p) 0x0804 0x101 p (leBytes 1 p ++ leBytes 1 (BitVec.ofNat 8 (bits f.toNat 24 8)).toNat)
    else setPrf (doneTaken d p) (fun x => { x with doneLog := x.doneLog ++ [(p, BitVec.ofNat 8 (bits f.toNat 24 8))] }) := by
  have hport : modPort d p (fun q => { q with
      doneRx := true, state := if syllActive d && q.state = .boot then .training else q.state }) = doneTaken d p := by
    simp only [doneTaken, Bool.and_eq_true, decide_eq_true_eq]
  simp only [chainDoneAt, hport, ctlField_eq, Nat.add_zero, bne_iff_ne]
  rfl

end

/-! ### The offers of a slow-clock period, and the blocks that are pulled (R468) -/

section
variable {d : Dev}

/-- The OFFERs of the period that the device would take, from ports in boot mode. -/
def offersOpen (d : Dev) : List (Nat × Nat × BitVec 128) :=
  d.prefect.offers.filter (fun o => offerFits d o.2.2 && (fabPort d o.1).state == .boot)
/-- The OFFER of the lowest port of a list. -/
def lowestOffer (l : List (Nat × Nat × BitVec 128)) : Option (Nat × Nat × BitVec 128) :=
  (List.range 12).findSome? (fun p => l.find? (fun o => o.1 == p))

theorem takeOffers_none (h : d.prefect.offers = []) : takeOffers d = d := by
  have hnone : (List.range 12).findSome? (fun p => ([] : List (Nat × Nat × BitVec 128)).find? (fun o => o.1 == p)) = none := rfl
  simp only [takeOffers, h, List.filter_nil, hnone, setPrf]
  rw [← h]

theorem pullMore_none (h : ∀ b, d.prefect.bundle = some b → b.verified = true ∨ b.asked = b.nblk ∨ b.asked = b.blocks.length + 4) :
    pullMore d = d := by
  unfold pullMore
  split
  · rfl
  · next b hb =>
    refine if_pos ?_
    rcases h b hb with h | h | h <;> simp [h]
theorem pullMore_pulls {b : Bundle} (hb : d.prefect.bundle = some b) (hver : b.verified = false) :
    let n := min (4 - (b.asked - b.blocks.length)) (b.nblk - b.asked)
    0 < n → pullMore d = sendCtl { d with prefect := { d.prefect with bundle := some { b with asked := b.asked + n } } } b.port 0xC
      (b.asked + n * 2 ^ 10) := by
  intro n hn
  simp only [pullMore, hb]
  exact if_neg (by simp only [hver, Bool.or_false, decide_eq_true_eq]; omega)

/-- The first OFFER of a list is the one of the lowest port where the others come from higher ones. -/
theorem lowestOffer_head {o : Nat × Nat × BitVec 128} {l : List (Nat × Nat × BitVec 128)} (ho : o.1 < 12) (h : ∀ x ∈ l, o.1 < x.1) :
    lowestOffer (o :: l) = some o := by
  obtain ⟨k, hk⟩ : ∃ k, 12 = o.1 + (k + 1) := ⟨11 - o.1, by omega⟩
  have hlower : (List.range o.1).findSome? (fun p => (o :: l).find? (fun x => x.1 == p)) = none := by
    refine List.findSome?_eq_none_iff.mpr fun p hp => List.find?_eq_none.mpr fun x hx => ?_
    rw [List.mem_range] at hp
    rcases List.mem_cons.mp hx with rfl | hx
    · simp; omega
    · have := h x hx
      simp; omega
  have hsplit : List.range 12 = List.range o.1 ++ (List.range (k + 1)).map (o.1 + ·) := by rw [hk, List.range_add]
  rw [lowestOffer, hsplit, List.findSome?_append, hlower, Option.none_or, List.range_succ_eq_map]
  simp

/-- Without a bundle four blocks of the OFFER that is taken are pulled. -/
theorem takeOffer_pulls {q nblk : Nat} {pfx : BitVec 128} (hboot : d.prefect.boot = .waiting) (hblocks : 4 ≤ nblk) :
    takeOffer d q nblk pfx = sendCtl { d with prefect := { d.prefect with
      chainLost := false, boot := .receiving, bundle := some { port := q, nblk := nblk, pfx := pfx, asked := 4 } } } q 0xC (4 * 2 ^ 10) := by
  have hfour : min 4 nblk = 4 := Nat.min_eq_left hblocks
  have hboot' : (if inRecovery d.prefect.boot = true then BootState.recReceiving else .receiving) = .receiving := by
    rw [hboot]
    rfl
  simp only [takeOffer, setPrf, hboot']
  refine (pullMore_pulls rfl rfl (by simp; omega)).trans ?_
  simp only [List.length_nil, Nat.sub_zero, Nat.zero_add, hfour]

theorem takeOffers_takes {q nblk : Nat} {pfx : BitVec 128} {rest : List (Nat × Nat × BitVec 128)}
    (hoffers : d.prefect.offers = (q, nblk, pfx) :: rest) (hq : q < 12) (hport : (fabPort d q).state = .boot)
    (hboot : d.prefect.boot = .waiting) (hsource : d.prefect.source ≠ .recovery)
    (hrest : ∀ o ∈ rest, q < o.1 ∧ ((fabPort d o.1).state = .boot → o.2.2 ≠ pfx)) (hblocks : 4 ≤ nblk) :
    takeOffers d = sendCtl { d with prefect := { d.prefect with
      offers := [], chainLost := false, boot := .receiving,
      bundle := some { port := q, nblk := nblk, pfx := pfx, asked := 4 } } } q 0xC (4 * 2 ^ 10) := by
  obtain ⟨l, hall, hl⟩ : ∃ l, offersOpen d = (q, nblk, pfx) :: l ∧ ∀ o ∈ l, q < o.1 ∧ o.2.2 ≠ pfx := by
    refine ⟨rest.filter (fun o => offerFits d o.2.2 && (fabPort d o.1).state == .boot), ?_, fun o ho => ?_⟩
    · rw [offersOpen, hoffers, List.filter_cons_of_pos (by simp [offerFits_waiting hboot hsource, hport])]
    · obtain ⟨ho, hopen⟩ := List.mem_filter.mp ho
      obtain ⟨hlt, hpfx⟩ := hrest o ho
      simp only [Bool.and_eq_true, beq_iff_eq] at hopen
      exact ⟨hlt, hpfx hopen.2⟩
  have hlowest : lowestOffer (offersOpen d) = some (q, nblk, pfx) := by
    rw [hall]
    exact lowestOffer_head hq fun o ho => (hl o ho).1
  have hothers : (offersOpen d).filter (fun o => o.1 != q && o.2.2 == pfx) = [] := by
    refine List.filter_eq_nil_iff.mpr fun o ho => ?_
    rw [hall] at ho
    rcases List.mem_cons.mp ho with rfl | ho
    · simp
    · simp [(hl o ho).2]
  have hrec : receiving (setPrf d (fun x => { x with offers := [] })) = false := receiving_of_boot hboot nofun nofun
  have htake := takeOffer_pulls (d := setPrf d (fun x => { x with offers := [] })) (q := q) (pfx := pfx) hboot hblocks
  simp only [lowestOffer, offersOpen] at hlowest hothers
  simp only [takeOffers, hlowest, hothers, hrec, htake]
  rfl

end

/-! ### OFFER_REPEAT and CHAIN_TIMEOUT (R467, R469) -/

section
variable {d : Dev} {b : Bundle}

theorem offerAll_none (h : d.prefect.bundle = none) : offerAll d = d := by simp [offerAll, h]
theorem offerAll_unverified (hb : d.prefect.bundle = some b) (hver : b.verified = false) : offerAll d = d := by
  simp [offerAll, hb, hver]
theorem offerAll_offers {m : Manifest} (hb : d.prefect.bundle = some b) (hver : b.verified = true) (hm : b.manifest = some m) :
    offerAll d = (List.range 12).foldl (fun e u => if (fabPort e u).state = .boot ∧ (fabPort e u).doneRx = false then
      sendCtl e u 0xB (b.nblk + m.svn * 2 ^ 10 + m.mdig.toNat % 2 ^ 128 * 2 ^ 42) else e) d := by
  simp [offerAll, hb, hver, sendOffer, hm]

theorem chainTimeoutAt_none (h : d.prefect.chainLost = false ∨ receiving d = false) : chainTimeoutAt d = d :=
  if_neg (by rcases h with h | h <;> simp [h])
theorem chainTimeoutAt_aborts (hrec : receiving d = true) (hlost : d.prefect.chainLost = true) : chainTimeoutAt d = bundleAbort d :=
  if_pos (by simp [hrec, hlost])

end

/-- Settles O49: an OFFER by whether it is wanted and fits, each other row by the cases of its operation. -/
theorem chainDelivery : Obligations.ChainDelivery := by
  intro s p f d
  refine ⟨fun hd => ⟨fun hk => ?offer, fun hk => ?pull, fun hk => ?data, fun hk => ?done⟩, takeOffers_none,
    fun q nblk pfx rest hoffers hq hport hboot hsource hrest hblocks => takeOffers_takes hoffers hq hport hboot hsource hrest hblocks,
    pullMore_none, fun b hb hver _ => pullMore_pulls hb hver, fun h => congrArg (goes s) (offerAll_none h),
    fun b hb hver => congrArg (goes s) (offerAll_unverified hb hver),
    fun b m hb hver hm => congrArg (goes s) (offerAll_offers hb hver hm), fun h => congrArg (goes s) (chainTimeoutAt_none h),
    fun hrec hlost => congrArg (goes s) ((chainTimeoutAt_aborts hrec hlost).trans (bundleAbort_eq hrec))⟩
  case offer =>
    have hrow : ∀ {e}, offerAt d p f = e → exec (.offer p f) s = goes s e := ctl_row (fun e => offerAt e p f) rfl hd hk
    refine ⟨fun h => hrow (offerAt_off h), fun h => hrow ?_, fun b hb hver hself herr =>
      hrow (offerAt_answered hself herr (offerNotWanted_of_verified hb hver)), fun b hboot hb => ?receiving, fun hb => ⟨?_, ?_⟩⟩
    case receiving =>
      have hself : d.prefect.boot ≠ .selfTest := by rcases hboot with h | h <;> simp [h]
      have herr : d.prefect.boot ≠ .error := by rcases hboot with h | h <;> simp [h]
      have hwant := offerNotWanted_receiving (pfx := offerPfx f) hboot hb
      have hfits := offerFits_receiving (pfx := offerPfx f) hboot hb
      refine ⟨fun hlost hport hpfx => ?_, fun hver h => ?_, fun hver hlost hpfx => ?_⟩
      · change b.pfx = offerPfx f at hpfx
        exact hrow (offerAt_answered hself herr (by simp [hwant, hlost, hport, hpfx]))
      · change b.pfx ≠ offerPfx f ∨ _ at h
        refine hrow ((offerAt_wanted hself herr ?_).trans (if_neg ?_))
        · rcases h with h | ⟨h, -⟩ <;> simp [hwant, hver, h]
        · rcases h with h | ⟨-, h⟩ <;> simp [hfits, h]
      · change b.pfx = offerPfx f at hpfx
        exact hrow ((offerAt_wanted hself herr (by simp [hwant, hver, hlost])).trans (if_pos (by simp [hfits, hlost, hpfx])))
    · exact offerAt_answered (by rcases h with h | h <;> simp [h]) (by rcases h with h | h <;> simp [h]) (offerNotWanted_of_boot h)
    · intro hboot hsource
      exact hrow ((offerAt_wanted (by simp [hboot]) (by simp [hboot])
        (offerNotWanted_none hb (by simp [hboot]) (by simp [hboot]))).trans (if_pos (offerFits_waiting hboot hsource)))
    · intro hboot
      refine hrow ((offerAt_wanted (by simp [hboot]) (by simp [hboot])
        (offerNotWanted_none hb (by simp [hboot]) (by simp [hboot]))).trans ?_)
      simp only [offerFits_recWaiting hboot]
      rfl
  case pull =>
    have hrow : ∀ {e}, pullAt d p f = e → exec (.pull p f) s = goes s e := ctl_row (fun e => pullAt e p f) rfl hd hk
    exact ⟨fun hb => hrow (pullAt_none hb), fun b hb => ⟨fun h => hrow (pullAt_ignored hb h),
      fun hver hpos hmax hend => hrow (pullAt_serves hb hver hpos hmax hend)⟩⟩
  case data =>
    have hrow : ∀ {e}, dataAt d p f = e → exec (.data p f) s = goes s e := ctl_row (fun e => dataAt e p f) rfl hd hk
    exact ⟨fun hb => hrow (dataAt_none hb), fun b hb => ⟨fun h => hrow (dataAt_ignored hb h),
      fun hp hver hasked hnew hlost hrec => hrow (dataAt_kept hb hp hver hasked hnew hlost hrec)⟩⟩
  case done => exact ctl_row (fun e => freeStore (chainDoneAt e p f)) rfl hd hk (congrArg freeStore chainDoneAt_eq)

end Sys2Proof.Machine
end

section
/-!
The error state of the Prefect (R497): what Detention leaves of the Prefect and the fuses.
-/
namespace Sys2Proof.Machine

/-- Device `d` has the Prefect and the fuses of `d₀`. -/
structure PrefectKept (d₀ d : Dev) : Prop where
  prefect : d.prefect = d₀.prefect
  fuses : d.fuses = d₀.fuses

section
variable {d₀ d : Dev}

theorem PrefectKept.refl (d : Dev) : PrefectKept d d := ⟨rfl, rfl⟩
/-- A record update that leaves the Prefect and the fuses. -/
theorem PrefectKept.update {me bw co be tt hb cx fa cp de pa ho fl re rp gl ew fc ou} (h : PrefectKept d₀ d) :
    PrefectKept d₀ ⟨me, bw, co, be, tt, hb, cx, fa, cp, de, pa, ho, d.fuses, fl, d.prefect, re, rp, gl, ew, fc, ou⟩ :=
  ⟨h.prefect, h.fuses⟩
theorem PrefectKept.ite {p : Prop} [Decidable p] {a b : Dev} (ha : PrefectKept d₀ a) (hb : PrefectKept d₀ b) :
    PrefectKept d₀ (if p then a else b) := by
  split
  · exact ha
  · exact hb
theorem PrefectKept.foldl {β : Type} {f : Dev → β → Dev} (hf : ∀ {e : Dev} {x : β}, PrefectKept d₀ e → PrefectKept d₀ (f e x))
    {l : List β} (h : PrefectKept d₀ d) : PrefectKept d₀ (l.foldl f d) := List.foldlRecOn l f h (fun _ he _ _ => hf he)
theorem PrefectKept.store {a : Nat} {bs : List Byte} (h : PrefectKept d₀ d) : PrefectKept d₀ (wrBytes d a bs) := by
  rw [wrBytes_same d a bs]
  exact h.update
theorem PrefectKept.signal {vec : Nat} (h : PrefectKept d₀ d) : PrefectKept d₀ (Machine.signal d vec) :=
  ⟨(signal_prefect ..).trans h.prefect, (signal_fuses ..).trans h.fuses⟩
theorem PrefectKept.log {code src arg : Nat} {data : List Byte} (h : PrefectKept d₀ d) :
    PrefectKept d₀ (logEvent d code src arg data) := .signal h.update

theorem undoUnits_prefectKept {unit : Nat → Nat} {cells : List Host.Cell} (h : PrefectKept d₀ d) :
    PrefectKept d₀ (undoUnits d unit cells) := (PrefectKept.foldl (fun h => .ite h h.store) h).update
theorem loseOwn_prefectKept {v : Nat} {detained : Bool} (h : PrefectKept d₀ d) : PrefectKept d₀ (loseOwn d v detained) :=
  .foldl .log h
theorem loseStolen_prefectKept {v : Nat} (h : PrefectKept d₀ d) : PrefectKept d₀ (loseStolen d v) := by
  refine .foldl (fun h => ?_) h
  split
  · exact h
  · dsimp only
    split
    · exact h
    · exact .foldl .log h.update
theorem abandonCore_prefectKept {v : Nat} {keep : Bool} (h : PrefectKept d₀ d) : PrefectKept d₀ (abandonCore d v keep) := by
  have hundo : PrefectKept d₀ (undoBytes d ((coreOf d v).cmds.flatMap (·.undo) ++ (coreOf d v).strm.xfers.flatMap (·.undo))) :=
    undoUnits_prefectKept h
  exact (loseStolen_prefectKept (loseOwn_prefectKept (d := dropHeld _ v) hundo.update)).update.update
theorem breakMember_prefectKept {m : Nat × Nat} (h : PrefectKept d₀ d) : PrefectKept d₀ (breakMember d m) := by
  have hundo : PrefectKept d₀ (undoRing d m.1 m.2) := .ite (undoUnits_prefectKept h).update (undoUnits_prefectKept h)
  exact hundo.update
theorem breakRing_prefectKept {r v a cause : Nat} (h : PrefectKept d₀ d) : PrefectKept d₀ (breakRing d r v a cause) :=
  .ite h (.log (.foldl breakMember_prefectKept h.update))
theorem breakRingsOf_prefectKept {v cause : Nat} (h : PrefectKept d₀ d) : PrefectKept d₀ (breakRingsOf d v cause) := by
  refine .foldl (fun h => ?_) h
  split
  · exact breakRing_prefectKept h
  · exact h
theorem detainStop_prefectKept {v : Nat} (h : PrefectKept d₀ d) : PrefectKept d₀ (detainStop d v) :=
  (breakRingsOf_prefectKept (abandonCore_prefectKept h)).update
theorem copyStopRound_prefectKept {why : CopyLast} (h : PrefectKept d₀ d) : PrefectKept d₀ (copyStopRound d why) := by
  unfold copyStopRound
  split
  · exact .signal (.log h.update)
  · exact .signal (.log h.update)
  · exact h
/-- Detention of the device leaves its Prefect and its fuses. -/
theorem detainDevice_prefectKept {cause : Nat} (h : PrefectKept d₀ d) : PrefectKept d₀ (detainDevice d cause) :=
  .ite h (.signal (.log (.foldl .update (copyStopRound_prefectKept (.foldl (fun h => .ite h (detainStop_prefectKept h)) h.update)))))

/-- The Prefect in the error state, before its event and the Detention of the device. -/
def errorHeld (d : Dev) : Dev :=
  { draw d with prefect := { d.prefect with
    drbg := {}, entropy := 0, boot := .error, bundle := if d.prefect.bundle.any (·.verified) then d.prefect.bundle else none } }

variable (d)

theorem prefectError_eq : prefectError d =
    let e := logEvent (errorHeld d) 0x0B02 0x101 0xFFFF (by1 (freeWord d 8 0).toNat)
    if e.host.syll then detainDevice e 5 else e := rfl
theorem logEvent_syll (code src arg : Nat) (data : List Byte) : (logEvent d code src arg data).host.syll = d.host.syll := by
  rw [logEvent, signal_host]
  unfold hostSignalled
  split <;> rfl

/-- A failed test loses the volatile CSPs and a bundle that is not verified, and detains an active device. -/
theorem prefectError_effect : let t := prefectError d
    t.prefect.boot = .error ∧ t.prefect.drbg = {} ∧ t.prefect.entropy = 0 ∧ t.fuses = d.fuses ∧
      (d.host.syll = true → t.det.device = true) ∧ (d.host.syll = false → t.det = d.det) ∧
      ∀ b, d.prefect.bundle = some b → b.verified = false → t.prefect.bundle = none := by
  have hlog : PrefectKept (errorHeld d) (logEvent (errorHeld d) 0x0B02 0x101 0xFFFF (by1 (freeWord d 8 0).toNat)) := .log (.refl _)
  have hkept : PrefectKept (errorHeld d) (prefectError d) := .ite (detainDevice_prefectKept hlog) hlog
  have hdet : (prefectError d).det = if d.host.syll then
      (if d.det.device then d.det else { d.det with device := true, cause := BitVec.ofNat 4 5 }) else d.det := by
    rw [prefectError_eq]
    dsimp only
    rw [logEvent_syll, apply_ite Dev.det, detainDevice_det, logEvent_det]
    rfl
  refine ⟨congrArg Prefect.boot hkept.prefect, congrArg Prefect.drbg hkept.prefect, congrArg Prefect.entropy hkept.prefect,
    hkept.fuses, fun h => ?_, fun h => hdet.trans (by simp [h]), fun b hb hv => ?_⟩
  · rw [hdet, if_pos h]
    split <;> simp [*]
  · exact (congrArg Prefect.bundle hkept.prefect).trans (by simp [errorHeld, hb, hv])

end

end Sys2Proof.Machine
end

section
/-!
The Prefect's mailbox commands one by one (R474, R477, R481 to R483, R496, R499).
-/
namespace Sys2Proof.Machine

section
variable {d : Dev}

/-! ### STATUS, SELFTEST, NONCE, the reserved commands and the entropy test (R481, R482, R497) -/

theorem prfStatusAt_eq (h : prfAsked d 1 = true) :
    prfStatusAt d = if prfLen d = 0 then prfRespond d 0 (statusRecord d) else prfRespond d 2 [] := by
  refine (prfAsked_row h _).trans ?_
  by_cases hl : prfLen d = 0
  · rw [if_neg (by simp [hl]), if_pos hl]
  · rw [if_pos (by simp [hl]), if_neg hl]
theorem prfReservedAt_eq (h : prfAsked d (mbCmd d.prefect.mb) = true) (hc : mbCmd d.prefect.mb = 0 ∨ 0xA ≤ mbCmd d.prefect.mb) :
    prfReservedAt d = prfRespond d (if d.prefect.boot = .error then 7 else 1) [] :=
  if_neg (by simpa [h, or_iff_not_imp_left] using hc)
theorem selftestAt_eq (h : prfAsked d 2 = true) (pass : Bool) : selftestAt d pass =
    if d.prefect.boot = .error then prfRespond d 7 [] else if prfLen d ≠ 0 then prfRespond d 2 []
    else if pass then prfRespond d 0 [] else prfRespond (prefectError d) 7 [] :=
  (prfAsked_row h _).trans (prfGate_answer_always (by simp))
theorem nonceAt_eq (h : prfAsked d 4 = true) : nonceAt d =
    if d.prefect.boot = .error then prfRespond d 7 [] else if prfLen d ≠ 0 then prfRespond d 2 []
    else prfRespond (setPrf (drbgUsed d 32) (fun p => { p with nonce := some (BitVec.ofNat 256 (leNat (randomBytes d 32))) })) 0
      (randomBytes d 32) :=
  (prfAsked_row h _).trans (prfGate_answer_always (by simp))
theorem entropyFailAt_none (h : d.prefect.boot = .error ∨ d.prefect.boot = .selfTest) : entropyFailAt d = d :=
  if_pos (by simpa using h)
theorem entropyFailAt_fails (he : d.prefect.boot ≠ .error) (hs : d.prefect.boot ≠ .selfTest) : entropyFailAt d = prefectError d :=
  if_neg (by simp [he, hs])

/-! ### ENROL and REVOKE (R477) -/

/-- An owner slot changes in the fuses alone. -/
theorem modOwner_eq {e : Dev} (he : e.fuses = d.fuses) (i : Nat) (f : KeySlot → KeySlot) : modOwner e i f =
    { e with fuses := { d.fuses with owner := mapPut d.fuses.owner i (f (mapGet {} d.fuses.owner i)) } } := by
  rw [modOwner, he]
  rfl
theorem enrolAt_eq (h : prfAsked d 5 = true) : enrolAt d =
    let signed := lifeCycle d.fuses ≠ 1
    let e := if signed then useNonce d else d
    let slot := mapGet {} d.fuses.owner (prfField d 0 1)
    let added := { slot with hash := BitVec.ofNat 256 (leNat (sha256 (mbBytes d.prefect.mb 4 384))), used := true }
    if d.prefect.boot = .error then prfRespond e 7 []
    else if ¬(prfLen d = (if signed then 1160 else 388) ∧ prfField d 0 1 ≤ 7 ∧ prfField d 1 3 = 0 ∧
      (signed → prfField d 389 3 = 0)) then prfRespond e 2 []
    else if ¬(lifeCycle d.fuses = 1 ∨ lifeCycle d.fuses = 2) then prfRespond e 3 []
    else if signed ∧ authOk d 5 388 false = false then prfRespond e 4 []
    else if slot.used then prfRespond e 6 []
    else prfRespond { e with fuses := { d.fuses with owner := mapPut d.fuses.owner (prfField d 0 1) added } } 0 [] := by
  refine (prfAsked_row h _).trans ((prfGate_answer
    (P := ¬(prfLen d = (if lifeCycle d.fuses ≠ 1 then 1160 else 388) ∧ prfField d 0 1 ≤ 7 ∧ prfField d 1 3 = 0 ∧
      (lifeCycle d.fuses ≠ 1 → prfField d 389 3 = 0)))
    (Q := ¬(lifeCycle d.fuses = 1 ∨ lifeCycle d.fuses = 2)) ?fields ?life).trans ?_)
  case fields => by_cases hs : lifeCycle d.fuses = 1 <;> simp [hs, authRsv]
  case life => simp
  by_cases hs : lifeCycle d.fuses = 1
  · simp [hs, modOwner_eq (e := d) rfl]
  · simp [hs, modOwner_eq (d := d) (e := useNonce d) rfl]
theorem revokeAt_eq (h : prfAsked d 6 = true) : revokeAt d =
    if d.prefect.boot = .error then prfRespond (useNonce d) 7 []
    else if ¬(prfLen d = 776 ∧ prfField d 0 1 ≤ 7 ∧ prfField d 1 3 = 0 ∧ prfField d 5 3 = 0) then prfRespond (useNonce d) 2 []
    else if authOk d 6 4 false = false then prfRespond (useNonce d) 4 []
    else prfRespond (modOwner (useNonce d) (prfField d 0 1) (fun k => { k with revoked := true })) 0 [] := by
  refine (prfAsked_row h _).trans ((prfGate_answer_always
    (P := ¬(prfLen d = 776 ∧ prfField d 0 1 ≤ 7 ∧ prfField d 1 3 = 0 ∧ prfField d 5 3 = 0)) ?_).trans ?_)
  · simp [authRsv, Bool.and_assoc]
  · simp

/-! ### COMMIT (R474) -/

theorem not_runtime_iff : runtime d = false ↔ d.prefect.boot ≠ .active := by simp [runtime]
theorem commitSvnAt_eq (h : prfAsked d 7 = true) : commitSvnAt d =
    if d.prefect.boot = .error then prfRespond (useNonce d) 7 []
    else if ¬(prfLen d = 772 ∧ prfField d 1 3 = 0) then prfRespond (useNonce d) 2 []
    else if d.prefect.boot ≠ .active then prfRespond (useNonce d) 3 []
    else if authOk d 7 0 false = false then prfRespond (useNonce d) 4 []
    else match d.prefect.active with
      | none => prfRespond (useNonce d) 3 []
      | some m => prfRespond (((maskList 4 m.revoke.toNat).filter (· != m.vkey)).foldl revokeVendor
          { useNonce d with fuses := { d.fuses with svnMin := max d.fuses.svnMin m.svn } }) 0 [] := by
  refine (prfAsked_row h _).trans ((prfGate_answer (P := ¬(prfLen d = 772 ∧ prfField d 1 3 = 0)) ?fields not_runtime_iff).trans ?_)
  case fields => simp [authRsv]
  simp only [Bool.not_eq_true']
  rfl

theorem commitSvnAt_inactive (h : prfAsked d 7 = true) (he : d.prefect.boot ≠ .error) (hlen : prfLen d = 772)
    (hrsv : prfField d 1 3 = 0) (hb : d.prefect.boot ≠ .active) : commitSvnAt d = prfRespond (useNonce d) 3 [] := by
  simp [commitSvnAt_eq h, he, hlen, hrsv, hb]
theorem commitSvnAt_unsigned (h : prfAsked d 7 = true) (hlen : prfLen d = 772) (hrsv : prfField d 1 3 = 0)
    (hb : d.prefect.boot = .active) (ha : authOk d 7 0 false = false) : commitSvnAt d = prfRespond (useNonce d) 4 [] := by
  simp [commitSvnAt_eq h, hlen, hrsv, hb, ha]

theorem foldl_revokeVendor (l : List Nat) (e : Dev) : l.foldl revokeVendor e =
    { e with fuses := { e.fuses with vendor := (l.foldl revokeVendor e).fuses.vendor } } := by
  induction l generalizing e with
  | nil => rfl
  | cons i l ih => exact ih (revokeVendor e i)
/-- The vendor slots of a list are revoked, and the others stay. -/
theorem mapGet_foldl_revokeVendor (l : List Nat) (e : Dev) (i : Nat) : mapGet {} (l.foldl revokeVendor e).fuses.vendor i =
    { mapGet {} e.fuses.vendor i with revoked := (mapGet {} e.fuses.vendor i).revoked || decide (i ∈ l) } := by
  induction l generalizing e with
  | nil => simp
  | cons j l ih =>
    rw [List.foldl_cons, ih]
    by_cases hij : i = j
    · subst hij
      simp [revokeVendor, mapMod]
    · simp [revokeVendor, mapMod, mapGet_mapPut_other _ _ _ _ _ hij, hij]
theorem prfRespond_fuses (e : Dev) (status : Nat) (payload : List Byte) : (prfRespond e status payload).fuses = e.fuses :=
  signal_fuses ..
/-- COMMIT raises the least security version, and revokes the vendor slots of the mask but the one that signed. -/
theorem commitSvnAt_burns {m : Manifest} (h : prfAsked d 7 = true) (hlen : prfLen d = 772) (hrsv : prfField d 1 3 = 0)
    (hboot : d.prefect.boot = .active) (hauth : authOk d 7 0 false = true) (hm : d.prefect.active = some m) :
    let t := commitSvnAt d
    t = prfRespond { useNonce d with fuses := { d.fuses with svnMin := max d.fuses.svnMin m.svn, vendor := t.fuses.vendor } } 0 [] ∧
      ∀ i, mapGet {} t.fuses.vendor i = { mapGet {} d.fuses.vendor i with
        revoked := (mapGet {} d.fuses.vendor i).revoked || (bit m.revoke.toNat i && decide (i < 4) && i != m.vkey) } := by
  intro t
  have ht : t = prfRespond (((maskList 4 m.revoke.toNat).filter (· != m.vkey)).foldl revokeVendor
      { useNonce d with fuses := { d.fuses with svnMin := max d.fuses.svnMin m.svn } }) 0 [] := by
    simp [t, commitSvnAt_eq h, hlen, hrsv, hboot, hauth, hm]
  refine ⟨?_, fun i => ?_⟩
  · rw [ht, prfRespond_fuses]
    exact congrArg (prfRespond · 0 []) (foldl_revokeVendor ..)
  · rw [ht, prfRespond_fuses, mapGet_foldl_revokeVendor]
    have hmem : decide (i ∈ (maskList 4 m.revoke.toNat).filter (· != m.vkey)) =
        (bit m.revoke.toNat i && decide (i < 4) && i != m.vkey) := by
      rw [Bool.eq_iff_iff]
      simp [maskList, indices, bit, and_comm, and_left_comm]
    rw [hmem]

/-! ### UNLOCK (R498, R499) -/

/-- The four bytes at the front of a request: its flags and three reserved bytes. -/
theorem prfField_front : prfField d 0 4 = prfField d 0 1 + 256 * prfField d 1 3 := by
  simp [prfField, mbField, mbRead, leNat, List.range_succ]
theorem prfField_front_lt : prfField d 0 1 < 256 := by simpa [prfField, mbField, mbRead] using leNat_lt (mbRead d.prefect.mb 8 1)
theorem prfField_of_front_zero (h : prfField d 0 4 = 0) : prfField d 0 1 = 0 ∧ prfField d 1 3 = 0 := by
  have := prfField_front (d := d)
  omega
theorem prfField_of_front_one (h : prfField d 0 4 = 1) : prfField d 0 1 = 1 ∧ prfField d 1 3 = 0 := by
  have := prfField_front (d := d)
  have := prfField_front_lt (d := d)
  omega

theorem unlockAt_unsigned (h : prfAsked d 8 = true) (h0 : prfField d 0 1 = 0) : unlockAt d =
    if d.prefect.boot = .error then prfRespond d 7 [] else if ¬(prfLen d = 4 ∧ prfField d 1 3 = 0) then prfRespond d 2 []
    else if d.prefect.boot ≠ .active then prfRespond d 3 [] else prfRespond (setScopes d 0) 0 [] := by
  refine (prfAsked_row h _).trans ((prfGate_answer (P := ¬(prfLen d = 4 ∧ prfField d 1 3 = 0)) ?fields not_runtime_iff).trans ?_)
  case fields => simp [h0]
  simp [h0]
theorem unlockAt_locks (h : prfAsked d 8 = true) (hb : d.prefect.boot = .active) (hrsv : prfField d 1 3 = 0) (hlen : prfLen d = 4)
    (h0 : prfField d 0 1 = 0) : unlockAt d = prfRespond (setScopes d 0) 0 [] := by
  simp [unlockAt_unsigned h h0, hb, hrsv, hlen]
theorem unlockAt_inactive (h : prfAsked d 8 = true) (he : d.prefect.boot ≠ .error) (hb : d.prefect.boot ≠ .active)
    (h0 : prfField d 0 4 = 0) (hlen : prfLen d = 4) : unlockAt d = prfRespond d 3 [] := by
  simp [unlockAt_unsigned h (prfField_of_front_zero h0).1, he, hb, hlen, (prfField_of_front_zero h0).2]
theorem unlockAt_signed (h : prfAsked d 8 = true) (h0 : prfField d 0 1 ≠ 0) : unlockAt d =
    if d.prefect.boot = .error then prfRespond (useNonce d) 7 []
    else if ¬(prfLen d = 776 ∧ prfField d 0 1 ≤ 15 ∧ prfField d 1 3 = 0 ∧ prfField d 5 3 = 0) then prfRespond (useNonce d) 2 []
    else if d.prefect.boot ≠ .active then prfRespond (useNonce d) 3 []
    else if authOk d 8 4 true = true ∧
      prfField d 0 1 &&& mayUnlock (lifeCycle d.fuses) (bit (prfField d 4 1) 7) = prfField d 0 1
    then prfRespond (setScopes (useNonce d) (d.prefect.scopes.toNat ||| prfField d 0 1)) 0 [] else prfRespond (useNonce d) 4 [] := by
  refine (prfAsked_row h _).trans ((prfGate_answer
    (P := ¬(prfLen d = 776 ∧ prfField d 0 1 ≤ 15 ∧ prfField d 1 3 = 0 ∧ prfField d 5 3 = 0)) ?fields not_runtime_iff).trans ?_)
  case fields => simp [h0, authRsv]
  simp [h0]
/-- The scopes that R498 lets a signer unlock, by the life cycle. -/
theorem mayUnlock_eq (life : Nat) (vendor : Bool) : mayUnlock life vendor = match life, vendor with
    | 1, true => 0b0011
    | 2, false => 0b0111
    | 3, true => 0b1111
    | _, _ => 0 := by
  rcases life with _ | _ | _ | _ | life <;> cases vendor <;> rfl

/-! ### ZEROISE (R496) -/

theorem zeroiseAt_volatile (h : prfAsked d 9 = true) (h1 : prfField d 0 1 ≠ 1) : zeroiseAt d =
    if d.prefect.boot = .error then prfRespond d 7 []
    else if ¬(prfLen d = 4 ∧ prfField d 0 1 = 0 ∧ prfField d 1 3 = 0) then prfRespond d 2 [] else prfRespond (zeroCsp d) 0 [] := by
  refine (prfAsked_row h _).trans ((prfGate_answer_always
    (P := ¬(prfLen d = 4 ∧ prfField d 0 1 = 0 ∧ prfField d 1 3 = 0)) ?fields).trans ?_)
  case fields => simp [h1, show prfField d 0 1 ≤ 1 ↔ prfField d 0 1 = 0 by omega]
  simp [h1]
theorem zeroiseAt_permanent (h : prfAsked d 9 = true) (h1 : prfField d 0 1 = 1) : zeroiseAt d =
    if d.prefect.boot = .error then prfRespond (useNonce d) 7 []
    else if ¬(prfLen d = 776 ∧ prfField d 1 3 = 0 ∧ prfField d 5 3 = 0) then prfRespond (useNonce d) 2 []
    else if authOk d 9 4 true = false then prfRespond (useNonce d) 4 []
    else coldReset (prfRespond { zeroCsp (useNonce d) with fuses := { d.fuses with keyKill := true } } 0 []) 8 noSrc := by
  refine (prfAsked_row h _).trans ((prfGate_answer_always
    (P := ¬(prfLen d = 776 ∧ prfField d 1 3 = 0 ∧ prfField d 5 3 = 0)) ?fields).trans ?_)
  case fields => simp [h1, authRsv]
  simp [h1]
  rfl
theorem zeroiseAt_error (h : prfAsked d 9 = true) (he : d.prefect.boot = .error) :
    zeroiseAt d = prfRespond (if prfField d 0 1 = 1 then useNonce d else d) 7 [] := by
  by_cases h1 : prfField d 0 1 = 1
  · rw [zeroiseAt_permanent h h1, if_pos he, if_pos h1]
  · rw [zeroiseAt_volatile h h1, if_pos he, if_neg h1]
theorem zeroiseAt_bad (h : prfAsked d 9 = true) (he : d.prefect.boot ≠ .error) (hbad : 1 < prfField d 0 1 ∨ prfField d 1 3 ≠ 0) :
    zeroiseAt d = prfRespond (if prfField d 0 1 = 1 then useNonce d else d) 2 [] := by
  by_cases h1 : prfField d 0 1 = 1
  · rw [zeroiseAt_permanent h h1, if_neg he, if_pos (by omega), if_pos h1]
  · rw [zeroiseAt_volatile h h1, if_neg he, if_pos (by omega), if_neg h1]
theorem zeroiseAt_front_zero (h : prfAsked d 9 = true) (he : d.prefect.boot ≠ .error) (h0 : prfField d 0 4 = 0) :
    zeroiseAt d = if prfLen d = 4 then prfRespond (zeroCsp d) 0 [] else prfRespond d 2 [] := by
  obtain ⟨h0, hrsv⟩ := prfField_of_front_zero h0
  rw [zeroiseAt_volatile h (by omega), if_neg he]
  simp [h0, hrsv]
theorem zeroiseAt_front_one (h : prfAsked d 9 = true) (he : d.prefect.boot ≠ .error) (h1 : prfField d 0 4 = 1)
    (hlen : prfLen d = 776) (hrsv : prfField d 5 3 = 0) : zeroiseAt d = if authOk d 9 4 true = false then prfRespond (useNonce d) 4 []
      else coldReset (prfRespond { zeroCsp (useNonce d) with fuses := { d.fuses with keyKill := true } } 0 []) 8 noSrc := by
  obtain ⟨h1, hrsv'⟩ := prfField_of_front_one h1
  rw [zeroiseAt_permanent h h1, if_neg he, if_neg (by simp [hlen, hrsv, hrsv'])]

end

end Sys2Proof.Machine
end

section
/-!
O50: the commands of the Prefect.
-/
namespace Sys2Proof.Machine
open Sys2Proof.Safety

/-- A command that the Prefect was not asked for does nothing. -/
theorem prefectCommands_notAsked (s : State) (c : Nat) (h : prfAsked s.dev c = false) :
    (c = 1 → exec .status s = goes s s.dev) ∧ (c = 2 → ∀ pass, exec (.selftest pass) s = goes s s.dev) ∧
      (c = 4 → exec .nonce s = goes s s.dev) ∧ (c = 5 → exec .enrol s = goes s s.dev) ∧ (c = 6 → exec .revoke s = goes s s.dev) ∧
      (c = 7 → exec .commit s = goes s s.dev) ∧ (c = 8 → exec .unlock s = goes s s.dev) ∧ (c = 9 → exec .zeroise s = goes s s.dev) := by
  refine ⟨?_, ?_, ?_, ?_, ?_, ?_, ?_, ?_⟩ <;> rintro rfl
  case refine_2 => exact fun _ => congrArg (goes s) (prfNotAsked h _)
  all_goals exact congrArg (goes s) (prfNotAsked h _)

/-- Settles O50: each command is the gate of the mailbox and then its own effect. -/
theorem prefectCommands : Obligations.PrefectCommands := by
  intro s
  refine ⟨fun h => congrArg (goes s) (prfStatusAt_eq h), fun c h hc hres => ?reserved,
    fun h pass => congrArg (goes s) (selftestAt_eq h pass),
    fun h => congrArg (goes s) (entropyFailAt_none h), fun he hs => congrArg (goes s) (entropyFailAt_fails he hs),
    fun e => ⟨_, rfl, prefectError_effect e⟩, fun h => congrArg (goes s) (nonceAt_eq h), fun h => congrArg (goes s) (enrolAt_eq h),
    fun h => congrArg (goes s) (revokeAt_eq h), fun h => ⟨fun he => ?commitError, fun he hbad => ?commitBad,
      fun he hlen hrsv => ⟨fun hb => ?commitInactive, fun hb ha => ?commitUnsigned, fun m hb ha hm =>
        ⟨_, rfl, commitSvnAt_burns h hlen hrsv hb ha hm⟩⟩⟩,
    fun h hb hrsv => ⟨fun hlen h0 => ?lock, fun hlen h0 hmask hrsv' => ?unlock⟩,
    fun h => ⟨fun he h0 => ?unlockError, fun he hb h0 hlen => ?unlockInactive⟩,
    fun h => ⟨fun he => ?zeroiseError, fun he hbad => ?zeroiseBad, fun he h0 => ?volatile,
      fun he h1 hlen hrsv => ⟨fun ha => ?unsigned, fun ha => ?permanent⟩⟩,
    fun c h => prefectCommands_notAsked s c h⟩
  case reserved =>
    subst hc
    exact congrArg (goes s) (prfReservedAt_eq h hres)
  case commitError => exact congrArg (goes s) ((commitSvnAt_eq h).trans (if_pos he))
  case commitBad =>
    refine congrArg (goes s) ((commitSvnAt_eq h).trans ((if_neg he).trans (if_pos ?_)))
    omega
  case commitInactive => exact congrArg (goes s) (commitSvnAt_inactive h he hlen hrsv hb)
  case commitUnsigned => exact congrArg (goes s) (commitSvnAt_unsigned h hlen hrsv hb ha)
  case lock => exact congrArg (goes s) (unlockAt_locks h hb hrsv hlen h0)
  case unlock =>
    refine congrArg (goes s) ((unlockAt_signed h h0).trans ?_)
    rw [mayUnlock_eq, if_neg (by simp [hb]), if_neg (by simp [hlen, hmask, hrsv, hrsv']), if_neg (by simp [hb])]
    rfl
  case unlockError => exact congrArg (goes s) ((unlockAt_unsigned h h0).trans (if_pos he))
  case unlockInactive => exact congrArg (goes s) (unlockAt_inactive h he hb h0 hlen)
  case zeroiseError => exact congrArg (goes s) (zeroiseAt_error h he)
  case zeroiseBad => exact congrArg (goes s) (zeroiseAt_bad h he hbad)
  case volatile => exact congrArg (goes s) (zeroiseAt_front_zero h he h0)
  case unsigned => exact congrArg (goes s) ((zeroiseAt_front_one h he h1 hlen hrsv).trans (if_pos ha))
  case permanent => exact congrArg (goes s) ((zeroiseAt_front_one h he h1 hlen hrsv).trans (if_neg (by simp [ha])))

end Sys2Proof.Machine
end

section
/-!
The SPDM responder (R491, R492) and the JTAG instructions (R498).
-/
namespace Sys2Proof.Machine
open Sys2Proof.Safety

section
variable {s : State} {d : Dev} {t : SpdmPort} {req : List Byte} {code minLen : Nat} {turn : Bool} {act : Dev}

/-! ### Responses on the wire -/

/-- A response starts with its version, code and parameters. -/
theorem spdmMsg_take (version p1 p2 : Nat) (body : List Byte) :
    (spdmMsg version code p1 p2 body).take 4 = [version, code, p1, p2].flatMap (leBytes 1) := by
  simp [spdmMsg, by1, leBytes]
theorem spdmMsg_append_take (version p1 p2 : Nat) (body sig : List Byte) :
    (spdmMsg version code p1 p2 body ++ sig).take 4 = [version, code, p1, p2].flatMap (leBytes 1) := by
  rw [spdmMsg, List.append_assoc]
  exact spdmMsg_take version p1 p2 (body ++ sig)
/-- The device that sends an ERROR response. -/
def spdmErrorSent (d : Dev) (t : SpdmPort) (code extra : Nat) : Dev :=
  { d with out := .spdm t ([if (spdmConn d t).version then 0x12 else 0x10, 0x7F, code, extra].flatMap (leBytes 1)) :: d.out }
theorem spdmError_eq (d : Dev) (t : SpdmPort) (code extra : Nat) : spdmError d t code extra = spdmErrorSent d t code extra := by
  rw [spdmError, spdmMsg, List.append_nil]
  rfl

/-- Command `i` sends one response on transport `t`, from device `d`, and the connection becomes `next` of it. -/
def Sends (s : State) (t : SpdmPort) (d : Dev) (i : Instr) (v code p1 p2 : Nat) (next : List Byte → SpdmConn) : Prop :=
  ∃ u, exec i s = goes s u ∧
    let r := match u.out.head? with
      | some (.spdm _ bs) => bs
      | _ => []
    r.take 4 = [v, code, p1, p2].flatMap (leBytes 1) ∧
    u = match t with
      | .pcie => { d with prefect := { d.prefect with spdmPcie := next r }, out := .spdm t r :: d.out }
      | .smbus => { d with prefect := { d.prefect with spdmSmb := next r }, out := .spdm t r :: d.out }
theorem spdmReply_sends {i : Instr} {v p1 p2 : Nat} {resp : List Byte} {next : List Byte → SpdmConn}
    (hi : exec i s = goes s (spdmReply d t (next resp) resp)) (hr : resp.take 4 = [v, code, p1, p2].flatMap (leBytes 1)) :
    Sends s t d i v code p1 p2 next := by
  refine ⟨_, hi, ?_⟩
  cases t <;> exact ⟨hr, rfl⟩

/-! ### The order of the checks (R491) -/

theorem spdmServe_other (h : spdmCode req ≠ code) : spdmServe d t req code minLen turn act = d := if_pos (by simp [h])

section
variable (h : spdmCode req = code)
include h
theorem spdmServe_busy (hb : d.prefect.boot ≠ .active) : spdmServe d t req code minLen turn act = spdmErrorSent d t 3 0 := by
  simp [spdmServe, h, spdmReady, runtime, hb, spdmError_eq]

variable (hb : d.prefect.boot = .active)
include hb
theorem spdmServe_unexpected (ht : turn = false) : spdmServe d t req code minLen turn act = spdmErrorSent d t 4 0 := by
  simp [spdmServe, h, spdmReady, runtime, hb, ht, spdmError_eq]

variable (ht : turn = true)
include ht
theorem spdmServe_version (hv : leAt req 0 1 ≠ if code = 0x84 then 0x10 else 0x12) :
    spdmServe d t req code minLen turn act = spdmErrorSent d t 0x41 0 := by
  simp [spdmServe, h, spdmReady, runtime, hb, ht, hv, spdmError_eq]

variable (hv : leAt req 0 1 = if code = 0x84 then 0x10 else 0x12)
include hv
theorem spdmServe_short (hl : req.length < minLen ∨ 4096 < req.length) :
    spdmServe d t req code minLen turn act = spdmErrorSent d t 1 0 := by
  simp [spdmServe, h, spdmReady, runtime, hb, ht, hv, hl, spdmError_eq]
theorem spdmServe_acts (hmin : minLen ≤ req.length) (hmax : req.length ≤ 4096) : spdmServe d t req code minLen turn act = act := by
  simp [spdmServe, h, spdmReady, runtime, hb, ht, hv, hmin, hmax]
end

/-- What every request of the list of R491 answers before it acts. -/
theorem spdmServe_row {i : Instr} (hi : exec i s = goes s (spdmServe s.dev t req code minLen turn act)) :
    (spdmCode req ≠ code → exec i s = goes s s.dev) ∧
    (spdmCode req = code → s.dev.prefect.boot ≠ .active → exec i s = goes s (spdmErrorSent s.dev t 3 0)) ∧
    (spdmCode req = code → s.dev.prefect.boot = .active → turn = false → exec i s = goes s (spdmErrorSent s.dev t 4 0)) ∧
    (spdmCode req = code → s.dev.prefect.boot = .active → turn = true →
      (leAt req 0 1 ≠ (if code = 0x84 then 0x10 else 0x12) → exec i s = goes s (spdmErrorSent s.dev t 0x41 0)) ∧
      (leAt req 0 1 = (if code = 0x84 then 0x10 else 0x12) → req.length < minLen ∨ 4096 < req.length →
        exec i s = goes s (spdmErrorSent s.dev t 1 0))) :=
  ⟨fun h => hi.trans (congrArg _ (spdmServe_other h)), fun h hb => hi.trans (congrArg _ (spdmServe_busy h hb)),
    fun h hb ht => hi.trans (congrArg _ (spdmServe_unexpected h hb ht)), fun h hb ht =>
      ⟨fun hv => hi.trans (congrArg _ (spdmServe_version h hb ht hv)),
        fun hv hl => hi.trans (congrArg _ (spdmServe_short h hb ht hv hl))⟩⟩

/-- A request that passes the checks sends its response. -/
theorem spdmServe_sends {i : Instr} {e : Dev} {c p1 p2 v : Nat} {resp : List Byte} {next : List Byte → SpdmConn}
    (hi : exec i s = goes s (spdmServe s.dev t req code minLen turn act)) (h : spdmCode req = code)
    (hb : s.dev.prefect.boot = .active) (ht : turn = true) (hv : leAt req 0 1 = if code = 0x84 then 0x10 else 0x12)
    (hmin : minLen ≤ req.length) (hmax : req.length ≤ 4096) (hact : act = spdmReply e t (next resp) resp)
    (hr : resp.take 4 = [v, c, p1, p2].flatMap (leBytes 1)) : Sends s t e i v c p1 p2 next :=
  spdmReply_sends (hi.trans (congrArg _ ((spdmServe_acts h hb ht hv hmin hmax).trans hact))) hr
/-- A request that passes the checks, and that its command refuses. -/
theorem spdmServe_refuses {i : Instr} {c extra : Nat} (hi : exec i s = goes s (spdmServe s.dev t req code minLen turn act))
    (h : spdmCode req = code) (hb : s.dev.prefect.boot = .active) (ht : turn = true)
    (hv : leAt req 0 1 = if code = 0x84 then 0x10 else 0x12) (hmin : minLen ≤ req.length) (hmax : req.length ≤ 4096)
    (hact : act = spdmError s.dev t c extra) : exec i s = goes s (spdmErrorSent s.dev t c extra) :=
  hi.trans (congrArg _ ((spdmServe_acts h hb ht hv hmin hmax).trans (hact.trans (spdmError_eq ..))))

theorem spdmUnsupportedAt_listed (h : spdmCode req ∈ spdmCodes) : spdmUnsupportedAt d t req = d := if_pos (by simpa using h)
theorem spdmUnsupportedAt_other (h : spdmCode req ∉ spdmCodes) : spdmUnsupportedAt d t req =
    if d.prefect.boot = .active then spdmErrorSent d t 7 (spdmCode req) else spdmErrorSent d t 3 0 := by
  by_cases hb : d.prefect.boot = .active <;> simp [spdmUnsupportedAt, h, spdmReady, runtime, hb, spdmError_eq]

/-! ### JTAG (R498) -/

theorem jtagAt_eq (d : Dev) (i : JtagInstr) : jtagAt d i = { d with out := .jtag (match jtagScope i with
    | none => i
    | some k => if bit (scopesOpen d) k then i else .bypass) :: d.out } := by
  unfold jtagAt
  cases jtagScope i with
  | none => rfl
  | some k => by_cases h : bit (scopesOpen d) k = true <;> simp [h, emit]

end

end Sys2Proof.Machine
end

section
/-!
O51: the requests of R491 one by one.
-/
namespace Sys2Proof.Machine
open Sys2Proof.Safety

section
variable {s : State} {t : SpdmPort} {req : List Byte}

/-- The checks on every request of R491. -/
theorem spdmRequests_checked (s : State) (t : SpdmPort) (req : List Byte) :
    let c := spdmConn s.dev t
    let err := fun (code : Nat) => goes s (spdmErrorSent s.dev t code 0)
    let rows : List (Nat × Nat × Bool × Instr) :=
      [(0x84, 4, true, .getVersion t req), (0xE1, 20, c.version && !c.caps && !c.algs, .getCapabilities t req),
       (0xE3, 32, c.caps && !c.algs, .negotiateAlgorithms t req), (0x81, 4, c.algs, .getDigests t req),
       (0x82, 8, c.algs, .getCertificate t req), (0x83, 36, c.algs, .challenge t req),
       (0xE0, if bit (leAt req 2 1) 0 then 37 else 4, c.algs, .getMeasurements t req)]
    ∀ r ∈ rows,
      (spdmCode req ≠ r.1 → exec r.2.2.2 s = goes s s.dev) ∧
      (spdmCode req = r.1 → s.dev.prefect.boot ≠ .active → exec r.2.2.2 s = err 3) ∧
      (spdmCode req = r.1 → s.dev.prefect.boot = .active → r.2.2.1 = false → exec r.2.2.2 s = err 4) ∧
      (spdmCode req = r.1 → s.dev.prefect.boot = .active → r.2.2.1 = true →
        (leAt req 0 1 ≠ (if r.1 = 0x84 then 0x10 else 0x12) → exec r.2.2.2 s = err 0x41) ∧
        (leAt req 0 1 = (if r.1 = 0x84 then 0x10 else 0x12) → req.length < r.2.1 ∨ 4096 < req.length → exec r.2.2.2 s = err 1)) := by
  intro c err rows
  iterate 7 refine List.forall_mem_cons.mpr ⟨spdmServe_row rfl, ?_⟩
  exact fun _ hr => absurd hr List.not_mem_nil

variable (hb : s.dev.prefect.boot = .active)
include hb

theorem getVersion_sends (h : spdmCode req = 0x84) (hv : leAt req 0 1 = 0x10) (hmin : 4 ≤ req.length) (hmax : req.length ≤ 4096) :
    Sends s t s.dev (.getVersion t req) 0x10 4 0 0 (fun r => { version := true, vca := req ++ r }) :=
  spdmServe_sends rfl h hb rfl hv hmin hmax rfl (spdmMsg_take ..)

variable (hv : leAt req 0 1 = 0x12) (hmax : req.length ≤ 4096)
include hv hmax

theorem getCapabilities_sends (h : spdmCode req = 0xE1) (hmin : 20 ≤ req.length) (hversion : (spdmConn s.dev t).version = true)
    (hcaps : (spdmConn s.dev t).caps = false) (halgs : (spdmConn s.dev t).algs = false) :
    Sends s t s.dev (.getCapabilities t req) 0x12 0x61 0 0 (fun r =>
      { spdmConn s.dev t with caps := true, vca := (spdmConn s.dev t).vca ++ req ++ r }) :=
  spdmServe_sends rfl h hb (by simp [hversion, hcaps, halgs]) hv hmin hmax rfl (spdmMsg_take ..)
theorem negotiateAlgorithms_sends (h : spdmCode req = 0xE3) (hmin : 32 ≤ req.length) (hcaps : (spdmConn s.dev t).caps = true)
    (halgs : (spdmConn s.dev t).algs = false) : Sends s t s.dev (.negotiateAlgorithms t req) 0x12 0x63 0 0 (fun r =>
      { spdmConn s.dev t with algs := true, vca := (spdmConn s.dev t).vca ++ req ++ r }) :=
  spdmServe_sends rfl h hb (by simp [hcaps, halgs]) hv hmin hmax rfl (spdmMsg_take ..)

variable (halgs : (spdmConn s.dev t).algs = true)
include halgs

theorem getDigests_sends (h : spdmCode req = 0x81) (hmin : 4 ≤ req.length) :
    Sends s t s.dev (.getDigests t req) 0x12 0x01 0 1 (fun r =>
      { spdmConn s.dev t with transcript := (spdmConn s.dev t).transcript ++ req ++ r, measTranscript := [] }) :=
  spdmServe_sends rfl h hb halgs hv hmin hmax rfl (spdmMsg_take ..)

section
variable (h : spdmCode req = 0x82) (hmin : 8 ≤ req.length)
include h hmin
theorem getCertificate_refuses (hbad : leAt req 2 1 % 16 ≠ 0 ∨ (certChain s.dev).length ≤ leAt req 4 2) :
    exec (.getCertificate t req) s = goes s (spdmErrorSent s.dev t 1 0) :=
  spdmServe_refuses rfl h hb halgs hv hmin hmax (if_pos (by simpa using hbad))
theorem getCertificate_sends (hslot : leAt req 2 1 % 16 = 0) (hoff : leAt req 4 2 < (certChain s.dev).length) :
    Sends s t s.dev (.getCertificate t req) 0x12 0x02 0 0 (fun r =>
      { spdmConn s.dev t with transcript := (spdmConn s.dev t).transcript ++ req ++ r, measTranscript := [] }) :=
  spdmServe_sends rfl h hb halgs hv hmin hmax (if_neg (by simp [hslot, hoff])) (spdmMsg_take ..)
end

section
variable (h : spdmCode req = 0x83) (hmin : 36 ≤ req.length)
include h hmin
theorem challenge_retired (hlife : lifeCycle s.dev.fuses = 3) :
    exec (.challenge t req) s = goes s (spdmErrorSent s.dev t 7 0x83) :=
  spdmServe_refuses rfl h hb halgs hv hmin hmax (if_pos (by simp [spdmRetired, hlife]))
theorem challenge_sends (hlife : lifeCycle s.dev.fuses ≠ 3) (hslot : leAt req 2 1 = 0)
    (hwant : leAt req 3 1 = 0 ∨ leAt req 3 1 = 1 ∨ leAt req 3 1 = 0xFF) :
    Sends s t (drbgUsed (drbgUsed (draw s.dev) 32) 32) (.challenge t req) 0x12 0x03 0 1 (fun _ =>
      { spdmConn s.dev t with transcript := [], measTranscript := [] }) :=
  spdmServe_sends rfl h hb halgs hv hmin hmax ((if_neg (by simp [spdmRetired, hlife])).trans (if_neg (by simp [hslot, hwant])))
    (spdmMsg_append_take ..)
end

section
variable (h : spdmCode req = 0xE0)
include h
theorem getMeasurements_retired (hsign : bit (leAt req 2 1) 0 = true) (hmin : 37 ≤ req.length) (hlife : lifeCycle s.dev.fuses = 3) :
    exec (.getMeasurements t req) s = goes s (spdmErrorSent s.dev t 7 0xE0) :=
  spdmServe_refuses rfl h hb halgs hv (by simp [hsign, hmin]) hmax (if_pos (by simp [spdmRetired, hsign, hlife]))

variable (hindex : leAt req 3 1 ≤ 9 ∨ leAt req 3 1 = 0xFF)
include hindex
theorem getMeasurements_sends_signed (hsign : bit (leAt req 2 1) 0 = true) (hmin : 37 ≤ req.length)
    (hlife : lifeCycle s.dev.fuses ≠ 3) (hslot : leAt req 36 1 % 16 = 0) :
    Sends s t (drbgUsed (drbgUsed s.dev 32) 32) (.getMeasurements t req) 0x12 0x60 (if leAt req 3 1 = 0 then 9 else 0) 0 (fun _ =>
      { spdmConn s.dev t with measTranscript := [] }) := by
  refine spdmServe_sends rfl h hb halgs hv (by simp [hsign, hmin]) hmax
    ((if_neg (by simp [spdmRetired, hlife])).trans ((if_neg ?_).trans (if_pos hsign))) (spdmMsg_append_take ..)
  simp [hslot]
  omega
theorem getMeasurements_sends_plain (hsign : bit (leAt req 2 1) 0 = false) (hmin : 4 ≤ req.length) :
    Sends s t (drbgUsed s.dev 32) (.getMeasurements t req) 0x12 0x60 (if leAt req 3 1 = 0 then 9 else 0) 0 (fun r =>
      { spdmConn s.dev t with measTranscript := (spdmConn s.dev t).measTranscript ++ req ++ r }) := by
  refine spdmServe_sends rfl h hb halgs hv (by simp [hsign, hmin]) hmax
    ((if_neg (by simp [hsign])).trans ((if_neg ?_).trans (if_neg (by simp [hsign])))) (spdmMsg_take ..)
  simp [hsign]
  omega
end

end

/-- Settles O51: the order of the checks, then each request's own response. -/
theorem attestationAndJtag : Obligations.AttestationAndJtag := by
  intro s t req
  refine ⟨spdmRequests_checked s t req, fun h => congrArg (goes s) (spdmUnsupportedAt_listed h),
    fun h => (congrArg (goes s) (spdmUnsupportedAt_other h)).trans (apply_ite ..),
    fun hb h hv hmin hmax => getVersion_sends hb h hv hmin hmax,
    fun hb hv hmax => ⟨fun h hmin hversion hcaps halgs => getCapabilities_sends hb hv hmax h hmin hversion hcaps halgs,
      fun h hmin hcaps halgs => negotiateAlgorithms_sends hb hv hmax h hmin hcaps halgs,
      fun halgs => ⟨fun h hmin => getDigests_sends hb hv hmax halgs h hmin,
        fun h hmin => ⟨fun hbad => getCertificate_refuses hb hv hmax halgs h hmin hbad,
          fun hslot hoff => getCertificate_sends hb hv hmax halgs h hmin hslot hoff⟩,
        fun h hmin => ⟨fun hlife => challenge_retired hb hv hmax halgs h hmin hlife,
          fun hlife hslot hwant => challenge_sends hb hv hmax halgs h hmin hlife hslot hwant⟩,
        fun h hmin hindex => ⟨fun hsign => getMeasurements_sends_plain hb hv hmax halgs h hindex hsign hmin,
          fun hsign hmin => ⟨fun hlife => getMeasurements_retired hb hv hmax halgs h hsign hmin hlife,
            fun hlife hslot => getMeasurements_sends_signed hb hv hmax halgs h hindex hsign hmin hlife hslot⟩⟩⟩⟩,
    fun i => congrArg (goes s) (jtagAt_eq s.dev i)⟩

end Sys2Proof.Machine
end
